-- ==== Sys2Proof/Word.lean ====
section
/-! DEFINITION. The plainest data types of the model: bytes and register words. -/
namespace Sys2Proof

/-- One byte, the unit of every address (spec 10, R290). -/
abbrev Byte := BitVec 8

/-- One register: every register is 64 bits wide (spec 00, R4). -/
abbrev Word := BitVec 64

/-- FP32 bits (spec 02, R37). -/
abbrev F32 := BitVec 32

end Sys2Proof
end

