-- ==== Sys2Proof/Syntax.lean ====
section
/-! DEFINITION. The commands of the GZ3200 module: one constructor of `Instr` for each row of spec/opcode_table.json.
The table gives no operands (its `fields` are empty); each row's operands here are what the rule of the row needs from
outside the module: the address and value of an access, a packet, a measured quantity, or the outcome of a physical or
cryptographic check that the module cannot choose (DESIGN CHOICE, log entry 3). -/
namespace Sys2Proof

/-- A die D0 to D7. -/
abbrev Die := Fin 8

/-- A tile Dd.Tnn (spec 00, Names). -/
structure TileId where
  die : Die
  tile : Fin 18
  deriving DecidableEq, Repr

/-- The fixed engines of a die, in the order of R136. -/
inductive FixedEngine where
  | coulter | drill | gleaner | mover
  deriving DecidableEq, Repr

/-- A queue ring: of a compute engine or of a fixed engine (spec 04, R107, R136). -/
inductive RingRef where
  | ce (e : Fin 16) (ring : Fin 8)
  | fixed (die : Die) (engine : FixedEngine) (ring : Fin 4)
  deriving DecidableEq, Repr

/-- What a Drone's watchdog watches (spec 13, R394, R395): the collective of a ring on a context, or with no context a SIGNAL of the
ring. -/
structure Watched where
  ring : RingRef
  context : Option (Fin 32)
  deriving DecidableEq, Repr

/-- An engine: the owner of a set of rings. -/
inductive EngineRef where
  | ce (e : Fin 16)
  | fixed (die : Die) (engine : FixedEngine)
  deriving DecidableEq, Repr

/-- The two requesters of register accesses (spec 17, R486). -/
inductive Requester where
  | firmware | management
  deriving DecidableEq, Repr

/-- A Windrow packet as bytes of its header fields, payload, tag and check code (spec 12, R348). -/
structure Packet where
  typ : BitVec 8
  flags : BitVec 8
  dest : BitVec 16
  src : BitVec 16
  job : BitVec 8
  vc : BitVec 8
  boot : BitVec 16
  route : BitVec 16
  counter : BitVec 64
  arg : BitVec 64
  payload : List Byte
  deriving DecidableEq, Repr

/-- How a packet fares at the receiving interface's two checks (spec 12, R350): the check code, then the GCM tag. -/
inductive PacketCheck where
  | ok | badCode | badTag
  deriving DecidableEq, Repr

/-- What an ECC decoder finds in a word it reads (spec 03, R91; spec 10, R299, R522). -/
inductive EccEvent where
  | clean
  | single (lane : Fin 8)
  | double (lane : Fin 8)
  deriving DecidableEq, Repr

/-- A Seedbed bank: of a tile, of the die-shared Seedbed, or a Harrow buffer (spec 03 R86, spec 10 R294, R522). -/
inductive BankRef where
  | tile (t : TileId) (bank : Fin 64)
  | shared (die : Die) (bank : Fin 64)
  | buffer (stack : Fin 32)
  deriving DecidableEq, Repr

/-- One request to a bank in one cycle (spec 03, R87): a read of a whole word, or a write under a byte-enable mask.
`row` is the bank row, or the 64-byte word index of a Harrow buffer. -/
structure BankReq where
  master : Fin 10
  row : Nat
  write : Bool
  mask : BitVec 64
  data : BitVec 512
  ecc : EccEvent
  deriving DecidableEq, Repr

/-- A Field access (spec 10, R299): the 32-byte granule `granule` of the Field tier is read, or written under a mask. -/
structure FieldReq where
  die : Die
  granule : Nat
  write : Bool
  mask : BitVec 32
  data : BitVec 256
  ecc : EccEvent
  deriving DecidableEq, Repr

/-- One grid pass (spec 03, R70 to R76): operands at local addresses, K-elements of this pass, and the set it writes. -/
structure PassSpec where
  set : Fin 2
  clear : Bool
  rows : Nat
  cols : Nat
  k : Nat
  fmtA : BitVec 3
  fmtW : BitVec 3
  aAddr : Nat
  aPitch : Nat
  wAddr : Nat
  wPitch : Nat
  window : Int
  holds : Nat
  deriving DecidableEq, Repr

/-- One drain of an accumulator set (spec 03, R81; spec 02, R50). -/
structure DrainSpec where
  set : Fin 2
  rows : Nat
  cols : Nat
  outFmt : BitVec 3
  shift : Int
  epilogue : Nat
  outAddr : Nat
  pitch : Nat
  reference : Bool
  window : Int
  deriving DecidableEq, Repr

/-- The Field Plan unit that reports ready (spec 05, R146, R164). -/
inductive PlanUnit where
  | engine (e : Fin 16)
  | fixed (die : Die) (engine : FixedEngine)
  | tile (t : TileId)
  | tileMaster (t : TileId) (m : Fin 10)
  | sharedMaster (die : Die) (m : Fin 8)
  | ring (q : RingRef)
  | piper
  | intake
  | windrow
  | link (l : Fin 36)
  | port (p : Fin 12)
  | drone
  | mover
  | stack (s : Fin 32)
  | bellows
  | fabric
  | stile
  | ethPort (e : Fin 2)
  | pcie (x : Fin 4)
  | other
  deriving DecidableEq, Repr

/-- A slot's result record (spec 06, R187): accepted drafts, the accepted drafts followed by the sample, and the index of
the first stop token. -/
structure SlotResult where
  accepted : Nat
  tokens : List (BitVec 32)
  stop : Option Nat
  deriving DecidableEq, Repr

/-- An Intake message as received (spec 06, R201). The payload is what the AES-256-GCM check opens; `tagOk` is its
verdict (DESIGN CHOICE, log entry 4). -/
structure IntakeMsg where
  srcAddr : BitVec 128
  srcPort : BitVec 16
  version : BitVec 8
  length : BitVec 16
  conn : BitVec 32
  seq : BitVec 64
  ack : BitVec 64
  credit : BitVec 32
  reserved : BitVec 32
  requestId : BitVec 64
  payload : List Byte
  tagOk : Bool
  deriving DecidableEq, Repr

/-- A hand-off request from a decode lead to the pool lead (spec 06, R195). -/
structure Handoff where
  session : BitVec 16
  epoch : BitVec 8
  adapter : BitVec 16
  turnStart : BitVec 32
  promptLen : BitVec 32
  promptAddr : BitVec 64
  sampleSeed : BitVec 64
  pages : List (BitVec 64)
  deriving DecidableEq, Repr

/-- The IDENT record of a link (spec 12, R351). -/
structure IdentRecord where
  genMin : BitVec 8
  genMax : BitVec 8
  coord : BitVec 16
  link : BitVec 8
  dir : BitVec 8
  verdict : BitVec 8
  appliance : BitVec 64
  identity : BitVec 64
  deriving DecidableEq, Repr

/-- A sequenced flit (spec 12, R343, R346). -/
structure Flit where
  fseq : BitVec 12
  ack : BitVec 12
  vc : BitVec 3
  sub : BitVec 1
  first : Bool
  data : List Byte
  deriving DecidableEq, Repr

/-- How a flit came through (spec 12, R341, R343, R346): its codewords clean or corrected and its CRC good, a codeword that could not
be corrected, or a CRC that fails. -/
inductive FlitCheck where
  | good | corrected | uncorrectable | badCrc
  deriving DecidableEq, Repr

/-- Why a link is lost (spec 12, R355). -/
inductive LinkLoss where
  | twoLanes | noValidFlit | retryLimit
  deriving DecidableEq, Repr

/-- What an NVMe command answers (spec 10, R307). -/
inductive NvmeStatus where
  | success | error
  deriving DecidableEq, Repr

/-- What a bulk-job entry ends with (spec 10, R319). -/
inductive EntryOutcome where
  | done | failed
  deriving DecidableEq, Repr

/-- A fault the scrub finds (spec 10, R300): byte offset within the stack, and whether it was corrected. -/
structure ScrubFault where
  offset : Nat
  corrected : Bool
  deriving DecidableEq, Repr

/-- What Bellows measures in one control period (spec 15, R427, R431, R432, R439): powers, the input voltage, and for the
tiles that have any, by tile number, the pace-hold cycles and the periods with ballast. -/
structure Measure where
  inputW : BitVec 16
  throughputW : BitVec 16
  floorW : BitVec 16
  inputCv : BitVec 16
  pace : List (Nat × Nat)
  ballast : List Nat
  deriving DecidableEq, Repr

/-- A device that enumeration meets (spec 10, R303, R306, R307): its port and number, whether it trained at 64 GT/s, whether it
is a CXL Type-3 device or an NVMe controller, whether it reports a volatile write cache, and its namespaces whose LBA size is
not 4,096 bytes or which carry metadata. -/
structure PcieDevice where
  port : Fin 4
  device : Fin 4
  gen6 : Bool
  cxl : Bool
  vwc : Bool
  badNs : List (BitVec 32)
  deriving DecidableEq, Repr

/-- What the boot stages meet from outside (spec 16, R448): the outcome of each check and training. -/
structure BootInputs where
  oscillatorsOk : Bool
  slot0Ok : Bool
  keyPairOk : Bool
  newKey : List Byte
  fwAOk : Bool
  fwBOk : Bool
  place : Option (BitVec 64 × BitVec 64 × BitVec 64)
  stacksUp : BitVec 32
  diesUp : BitVec 8
  edgesUp : BitVec 10
  bridgesUp : BitVec 2
  failedColumns : List (TileId × List Nat × Bool)
  planAOk : Bool
  planBOk : Bool
  devices : List PcieDevice
  unsupportedDevice : Bool
  epochs : List (Fin 8 × BitVec 32)
  deriving DecidableEq, Repr

/-- The source of a stop in order that no other row carries (spec 15, R442). -/
inductive StopSource where
  | firmware | supply | dieTemperature | stackTemperature | coolant | refLoss | bridges
  deriving DecidableEq, Repr

/-- Which reference oscillator stopped (spec 01, R29). -/
inductive Oscillator where
  | mhz156 | mhz100
  deriving DecidableEq, Repr

/-- The PLDM numeric sensors of R492. -/
inductive Sensor where
  | inputPower | inputVoltage | dieMax | hbmMax | coolantInlet | coolantOutlet
  deriving DecidableEq, Repr

/-- The PLDM numeric effecters of R492. -/
inductive Effecter where
  | capW | brakeW
  deriving DecidableEq, Repr

/-- The two neighbour discovery messages of R369. -/
inductive NdKind where
  | solicitation | advertisement
  deriving DecidableEq, Repr

/-- The commands: one constructor per row of spec/opcode_table.json, in the table's order. -/
inductive Instr where
  -- registers, mesh, clocks
  | registerWrite (who : Requester) (offset : Nat) (size : Nat) (value : Word)
  | boundaryWriteApply (t : TileId)
  | edgeDegraded (edge : Fin 10) (modules : Fin 26)
  | edgeDown (edge : Fin 10)
  | bridgeDown (bridge : Fin 2)
  | refDrift
  | refLoss (osc : Oscillator)
  -- Seedbed and Field
  | seedbedAccess (bank : BankRef) (reqs : List BankReq)
  | eccWriteback (bank : BankRef)
  | fieldAccess (req : FieldReq)
  -- grid
  | gridPass (t : TileId) (pass : PassSpec)
  | accDrain (t : TileId) (drain : DrainSpec)
  | gridSelftestStart (t : TileId)
  | gridSelftestDone (t : TileId) (failed : List (Fin 258)) (logic : Bool)
  -- ring commands
  | gemm (q : RingRef)
  | fused (q : RingRef)
  | attend (q : RingRef)
  | norm (q : RingRef)
  | route (q : RingRef)
  | append (q : RingRef)
  | gather (q : RingRef)
  | move (q : RingRef)
  | copyAsync (q : RingRef)
  | wait (q : RingRef)
  | waitComplete (q : RingRef)
  | waitTimeout (q : RingRef)
  | signal (q : RingRef)
  | fence (q : RingRef)
  | fenceComplete (q : RingRef)
  | commit (q : RingRef)
  -- Chanter events
  | groupCommitAct (q : RingRef)
  | atomicCompletion (q : RingRef) (status : BitVec 8) (old : BitVec 64)
  | groupKill (q : RingRef)
  | ringHeadWrite (q : RingRef) (head : BitVec 32)
  | ringResume (q : RingRef)
  | ringDiscard (q : RingRef)
  | ringHaltAction (q : RingRef)
  | preemptWaitExpiry (e : EngineRef)
  | expressPreempt (e : EngineRef)
  | quantumExpiry (e : EngineRef)
  | overlong (q : RingRef)
  | hardLimitExpiry (q : RingRef)
  | arrivalCounterWrite (die : Die) (counter : Fin 4096) (value : BitVec 32) (increment : BitVec 32)
  -- Field Plan
  | fplanLoad
  | fplanLoadDone (signatureOk : Bool)
  | fplanCommit
  | unitReady (unit : PlanUnit)
  | evictionZeroingDone
  | fplanCommitTimeout
  | fplanAbort
  -- steps and sessions
  | stepCommit (results : List SlotResult)
  | manifest (bytes : List Byte)
  | ringRoomFreed
  | commitRecord (bytes : List Byte)
  | stepTimeout
  | request (m : IntakeMsg)
  | promptMore (m : IntakeMsg)
  | cancel (m : IntakeMsg)
  | close (m : IntakeMsg)
  | ack (m : IntakeMsg)
  | intakeRetransmit (conn : Fin 1024)
  | connectionOpen (conn : Fin 1024)
  | connectionClose (conn : Fin 1024)
  | ratioCheck
  | handoffRequest (h : Handoff)
  | handoffRecord (session : BitVec 16) (token : BitVec 32)
  | shipLost (session : BitVec 16)
  | retireDeadline (epoch : Fin 8)
  | pauseAfterExpiry (session : BitVec 16)
  | pauseComplete (session : BitVec 16)
  | restoreComplete (session : BitVec 16)
  | copyTimeout (session : BitVec 16)
  | pauseExpiry (session : BitVec 16)
  | kvShort (group : Fin 4)
  -- experts and embeddings
  | dispatch (p : Packet)
  | routeEndMarker (p : Packet)
  | rowRequest (p : Packet)
  | rowResponse (p : Packet)
  | updateRecord (p : Packet)
  | gleanerApply (die : Die)
  | gleanerSweep (table : Fin 256)
  -- memory tiers
  | pageFault (die : Die) (page : Nat)
  | pageFaultFill (page : Nat) (ok : Bool)
  | noFrameTimeout (page : Nat)
  | nvmeCompletion (id : Nat) (status : NvmeStatus)
  | nvmeTimeout (id : Nat)
  | deviceLost (port : Fin 4) (device : Fin 4)
  | bulkJobSubmit (counter : BitVec 16) (list : BitVec 40)
  | bulkJobStop
  | bulkEntryCommit (outcome : EntryOutcome)
  | scrubPass (stack : Fin 32) (faults : List ScrubFault)
  | linkResendRequest (p : Packet)
  -- Windrow
  | trainingStart (l : Fin 36)
  | trainingDone (l : Fin 36) (lanes : BitVec 4) (peerFec : Bool)
  | ident (l : Fin 36) (rec : IdentRecord)
  | laneLoss (l : Fin 36) (lane : Fin 4)
  | lane (l : Fin 36) (mask : BitVec 4) (step : BitVec 8)
  | linkDown (l : Fin 36) (why : LinkLoss)
  | sequencedFlit (l : Fin 36) (check : FlitCheck) (f : Flit)
  | retry (l : Fin 36) (fseq : BitVec 12)
  | credit (l : Fin 36) (freed : List (BitVec 32))
  | packetRoute (die : Die) (arrival : Option (Fin 36)) (p : Packet)
  | packetDeliver (check : PacketCheck) (p : Packet)
  | nack (p : Packet)
  | linkRetrain (l : Fin 36)
  | linkTakeOut (l : Fin 36)
  | laneRecalibrate (l : Fin 36) (lane : Fin 4)
  | laneRecalDone (l : Fin 36) (ok : Bool) (settings : List Byte)
  | ethLinkDown (e : Fin 2)
  -- Drone
  | collectiveBind (q : RingRef) (lane : Fin 128)
  | chunk (p : Packet) (residueOk : Bool)
  | marker (p : Packet)
  | collectiveComplete (q : RingRef)
  | abort (p : Packet)
  | droneWatchdog (q : Watched)
  | signalReceive (p : Packet)
  -- fabric
  | read (p : Packet)
  | write (p : Packet)
  | atomic (p : Packet)
  | copy (p : Packet)
  | readData (p : Packet)
  | completion (p : Packet)
  | fabricTimeout (die : Die) (tag : BitVec 32)
  | cacheInvalidate
  -- Stile
  | stilePoll
  | stileEntryComplete (ring : Fin 8) (entry : BitVec 32) (data : List Byte)
  | stileQpError (endpoint : Fin 256) (syndrome : BitVec 4)
  | cnp (endpoint : Fin 256)
  | stileRingResume (ring : Fin 8)
  | stileRingDiscard (ring : Fin 8)
  -- Bellows
  | controlPeriod (m : Measure)
  | thermalSample (tileC : List Int) (stackC : List Int)
  | coolantSample (inlet : Int) (outlet : Int)
  | droop (t : TileId)
  | capWrite (capW : BitVec 16) (brakeW : BitVec 16)
  | brakeAssert
  | brakeRelease
  | stop (source : StopSource)
  | stopFallEnd
  | inputLoss
  | calSweepStart (t : TileId)
  | calSweepDone (t : TileId) (passed : Nat)
  -- power and boot
  | powerUp
  | converterStop
  | resetAssert
  | boot (inputs : BootInputs)
  -- NVM
  | store (imageOk : Bool)
  | storeComplete (writeOk : Bool)
  | appendLog
  | logPageWrite
  -- Scarecrow
  | keyInstall (tagOk : Bool) (key : BitVec 256)
  | keyPublic (signatureOk : Bool)
  | keyCommission
  | keyRelease (signatureOk : Bool)
  | keyClear (slot : BitVec 8)
  | trngHealth (failing : Bool)
  | digestStart (signatureOk : Bool)
  | digestStop
  | digestDone
  -- firmware
  | fwSwitch (verified : Bool) (accepted : Bool)
  | confirm
  | revert
  | trialExpiry
  -- interrupts
  | leafClear (block : Fin 50) (high : Bool) (mask : Word) (sets : Word)
  -- I3C
  | entdaa (address : BitVec 7)
  | setdasa (address : BitVec 7)
  | rstdaa
  | getpid
  | getbcr
  | getdcr
  | getstatus
  | getmwl
  | getmrl
  | setmwl (value : BitVec 16)
  | setmrl (value : BitVec 16)
  | enec (events : BitVec 8)
  | disec (events : BitVec 8)
  | rstact (defining : BitVec 8)
  -- MCTP control
  | setEndpointId (inst : BitVec 8) (operation : BitVec 2) (eid : BitVec 8)
  | getEndpointId (inst : BitVec 8)
  | getMctpVersionSupport (inst : BitVec 8) (msgType : BitVec 8)
  | getMessageTypeSupport (inst : BitVec 8)
  -- vendor messages
  | regRead (inst : BitVec 8) (offset : BitVec 32)
  | regWrite (inst : BitVec 8) (offset : BitVec 32) (value : Word)
  | place (inst : BitVec 8) (coord : Word) (appliance : Word) (time : Word)
  | time (inst : BitVec 8) (ns : Word)
  | attest (inst : BitVec 8) (nonce : List Byte)
  | cert (inst : BitVec 8) (certificate : List Byte)
  | imageBegin (inst : BitVec 8) (kind : BitVec 8) (length : BitVec 32)
  | imageData (inst : BitVec 8) (offset : BitVec 32) (data : List Byte)
  | imageEnd (inst : BitVec 8) (verified : Bool)
  -- PLDM
  | getTid (inst : BitVec 8)
  | setTid (inst : BitVec 8) (tid : BitVec 8)
  | getPldmVersion (inst : BitVec 8) (pldmType : BitVec 8)
  | getPldmTypes (inst : BitVec 8)
  | getPldmCommands (inst : BitVec 8) (pldmType : BitVec 8)
  | getPdr (inst : BitVec 8) (handle : BitVec 32)
  | getPdrRepositoryInfo (inst : BitVec 8)
  | getSensorReading (inst : BitVec 8) (sensor : Sensor)
  | setNumericEffecterValue (inst : BitVec 8) (effecter : Effecter) (value : BitVec 16)
  | getNumericEffecterValue (inst : BitVec 8) (effecter : Effecter)
  | pollForPlatformEvent (inst : BitVec 8)
  | queryDeviceIdentifiers (inst : BitVec 8)
  | getFirmwareParameters (inst : BitVec 8)
  | requestUpdate (inst : BitVec 8)
  | passComponentTable (inst : BitVec 8) (component : BitVec 16)
  | updateComponent (inst : BitVec 8) (component : BitVec 16) (size : BitVec 32) (stamp : BitVec 32)
  | activateFirmware (inst : BitVec 8) (verified : Bool) (accepted : Bool)
  | getStatus (inst : BitVec 8)
  | cancelUpdateComponent (inst : BitVec 8)
  | cancelUpdate (inst : BitVec 8)
  -- JTAG
  | extest (cells : BitVec 29)
  | idcode
  | samplePreload (cells : BitVec 29)
  | clamp
  | highz
  | bypass (tdi : Bool)
  | testLogicReset
  -- Ethernet and the rest of the table
  | ethLinkUp (e : Fin 2)
  | icmpv6Echo (e : Fin 2) (srcAddr : BitVec 128) (body : List Byte)
  | neighbourDiscovery (e : Fin 2) (kind : NdKind) (target : BitVec 128) (mac : BitVec 48)
  | priorityFlowControl (e : Fin 2) (priority : BitVec 3) (quanta : BitVec 16)
  | rateRecovery (endpoint : Fin 256)
  | railLeavesRegulation
  | requestFirmwareData (inst : BitVec 8) (offset : BitVec 32) (data : List Byte) (signatureOk : Bool)
  | targetResetPattern
  deriving DecidableEq, Repr

end Sys2Proof
end

