-- ==== Sys2Proof/Config.lean ====
section
/-! DEFINITION. What the spec leaves open: constants with no body. No proof can see their values, so a statement about a
free value holds for every value of it (DESIGN CHOICE, log entries 5 and 6). -/
namespace Sys2Proof

/-- Fresh free values: the spec fixes no value where the model draws one (DESIGN CHOICE, log entry 5). -/
opaque Config.freeValue : Nat → BitVec 64

/-- The Tine's functions whose bits are those of the Ouvura Exact model, which the spec does not give (spec 03, R83;
DESIGN CHOICE, log entry 6). The first argument names the function: 0 reciprocal, 1 reciprocal square root, 2 exp2, 3 log2, 4 exp,
5 log, 6 sigmoid, 7 tanh, 8 SiLU, 9 GELU. Not-a-number operands are handled before it is asked. -/
opaque Config.tineFunction : Nat → F32 → F32

/-- Wiostant's enterprise number (spec 17, R487): named by the spec, its value not given (DESIGN CHOICE, log entry 7). -/
opaque Config.enterpriseNumber : BitVec 32

/-- The I3C provisioned ID, bus and device characteristics (spec 17, R488): values not given (DESIGN CHOICE, log entry 7). -/
opaque Config.provisionedId : BitVec 48
opaque Config.busCharacteristics : BitVec 8
opaque Config.deviceCharacteristics : BitVec 8

/-- A Falcon-1024 signature by the identity key over a 64-byte digest (spec 16, R473): the algorithm is named, not given
(DESIGN CHOICE, log entry 4). -/
opaque Config.falconSign : List Byte → List Byte

/-- The body of a response that a published standard of R489 and R492 fixes and the spec does not give: by the command's
number of the model and its argument (PRESUMED, log entry 8). -/
opaque Config.standardBody : Nat → Nat → List Byte

/-- The fixed hash of (SRC, DEST, header VC) by which a packet takes a link of its port (spec 12, R357): the spec names it
and does not give it (DESIGN CHOICE, log entry 23). -/
opaque Config.linkHash : BitVec 16 → BitVec 16 → BitVec 8 → Nat

/-- An output element of a NORM (spec 04, R117; spec 03, R84): the spec gives the command, its operands and the order of the
sums of squares and of values, and no formula of the layer's output. Arguments: KIND, WIDTH, the sum of squares, the sum of
values, EPS, the element and its GAMMA (PRESUMED, log entry 20). -/
opaque Config.normElement : Nat → Nat → F32 → F32 → F32 → F32 → F32 → F32

/-- The Tine's conversion of a value outside the range of 32-bit integers, or of a NaN, to an integer: the spec states no
result (spec 03, R82; DESIGN CHOICE, log entry 6). -/
opaque Config.intOutOfRange : F32 → BitVec 32

/-- The exit test of a step program built with early exit (spec 07, R232): the spec gives what it reads, a row's hidden state after a
layer, and not the test. Arguments: the layer and the row's elements (DESIGN CHOICE, log entry 109). -/
opaque Config.exitTest : Nat → List F32 → Bool

/-- Whether the input and router rows of a ROUTE are GI4 and not GF4 (spec 08, R241): the spec allows both and gives the
command no field that says which (DESIGN CHOICE, log entry 33). -/
opaque Config.routeGi4 : Bool

end Sys2Proof
end

