-- ==== Sys2Proof/Machine/Causes.lean ====
section
/-! DEFINITION. The causes of R482: every path, as the block's summary bit and the leaf index of R483. -/
namespace Sys2Proof.Machine

/-- A cause: the summary bit of its block (R482) and its leaf index, 8 × group + leaf bit (R483). -/
structure Cause where
  block : Nat
  leaf : Nat
  deriving DecidableEq, Repr

def cHEADLAND_REGACC_ALIGN : Cause := ⟨0, 0⟩
def cHEADLAND_REGACC_UNMAPPED : Cause := ⟨0, 1⟩
def cHEADLAND_BRIDGE_DOWN : Cause := ⟨0, 8⟩
def cHEADLAND_CLOCK_REF_DRIFT : Cause := ⟨0, 16⟩
def cHEADLAND_CLOCK_REF_LOSS : Cause := ⟨0, 17⟩
def cHEADLAND_IDENTITY_RECORD_BAD : Cause := ⟨0, 24⟩
def cHEADLAND_BOOT_RECOVERY : Cause := ⟨0, 32⟩
def cHEADLAND_BOOT_NO_PLAN : Cause := ⟨0, 33⟩
def cHEADLAND_BOOT_FW_FALLBACK : Cause := ⟨0, 34⟩
def cHEADLAND_BOOT_PLAN_FALLBACK : Cause := ⟨0, 35⟩
def cHEADLAND_NVM_STORE_FAIL : Cause := ⟨0, 40⟩
def cHEADLAND_FW_HANDOFF_REFUSED : Cause := ⟨0, 48⟩
def cHEADLAND_FW_REVERTED : Cause := ⟨0, 49⟩
def cHEADLAND_MGMT_QUEUE_FULL : Cause := ⟨0, 56⟩
def cHEADLAND_MGMT_BAD_MESSAGE : Cause := ⟨0, 57⟩
def cSCARECROW_IDENTITY_KEY_BAD : Cause := ⟨1, 0⟩
def cSCARECROW_TRNG_HEALTH : Cause := ⟨1, 8⟩
def cSCARECROW_KEY_REFUSED : Cause := ⟨1, 16⟩
def cSCARECROW_VERIFY_FAIL : Cause := ⟨1, 24⟩
def cSCARECROW_MODEL_MISMATCH : Cause := ⟨1, 32⟩
def cSCARECROW_MODEL_UNVERIFIED : Cause := ⟨1, 33⟩
def cBELLOWS_CAL_RANGE : Cause := ⟨2, 0⟩
def cBELLOWS_CAL_FAIL : Cause := ⟨2, 1⟩
def cBELLOWS_CAP_OVERCAP : Cause := ⟨2, 8⟩
def cBELLOWS_CAP_BELOW_FLOOR : Cause := ⟨2, 9⟩
def cBELLOWS_BRAKE_ASSERTED : Cause := ⟨2, 16⟩
def cBELLOWS_THERM_TILE_LIMIT : Cause := ⟨2, 24⟩
def cBELLOWS_THERM_HBM_HOT : Cause := ⟨2, 25⟩
def cBELLOWS_THERM_CRITICAL : Cause := ⟨2, 26⟩
def cBELLOWS_COOLANT_INLET_HIGH : Cause := ⟨2, 32⟩
def cBELLOWS_COOLANT_OUTLET_HIGH : Cause := ⟨2, 33⟩
def cBELLOWS_COOLANT_OUTLET_CRIT : Cause := ⟨2, 34⟩
def cBELLOWS_SUPPLY_HIGH : Cause := ⟨2, 40⟩
def cBELLOWS_SUPPLY_LOW : Cause := ⟨2, 41⟩
def cBELLOWS_SUPPLY_SHED : Cause := ⟨2, 42⟩
def cBELLOWS_SUPPLY_NVM_DEFER : Cause := ⟨2, 43⟩
def cBELLOWS_SUPPLY_STOP : Cause := ⟨2, 44⟩
def cFPLAN_LOAD_SIGNATURE : Cause := ⟨3, 0⟩
def cFPLAN_LOAD_FORMAT : Cause := ⟨3, 1⟩
def cFPLAN_LOAD_KIND : Cause := ⟨3, 2⟩
def cFPLAN_LOAD_BASE_MISMATCH : Cause := ⟨3, 3⟩
def cFPLAN_LOAD_TARGET : Cause := ⟨3, 4⟩
def cFPLAN_LOAD_FIELD_NOT_SHADOWED : Cause := ⟨3, 5⟩
def cFPLAN_SHADOW_DIRECT_REFUSED : Cause := ⟨3, 8⟩
def cFPLAN_SHADOW_WRITE_BUSY : Cause := ⟨3, 9⟩
def cFPLAN_COMMIT_BUSY : Cause := ⟨3, 16⟩
def cFPLAN_COMMIT_GROUP_INCOMPLETE : Cause := ⟨3, 17⟩
def cFPLAN_COMMIT_GROUP_INCONSISTENT : Cause := ⟨3, 18⟩
def cFPLAN_COMMIT_NOT_OFFLINE : Cause := ⟨3, 19⟩
def cFPLAN_COMMIT_TIMEOUT : Cause := ⟨3, 20⟩
def cFPLAN_COMMIT_BLOCK_LOST : Cause := ⟨3, 21⟩
def cPIPER_SHAPE_CLAMPED : Cause := ⟨4, 0⟩
def cPIPER_SESSION_TABLE_FULL : Cause := ⟨4, 8⟩
def cPIPER_STEP_TIMEOUT : Cause := ⟨4, 16⟩
def cPIPER_STEP_RERUN_LIMIT : Cause := ⟨4, 17⟩
def cPIPER_RATIO_OFF_LADDER : Cause := ⟨4, 24⟩
def cPIPER_RATIO_COMMIT_FAIL : Cause := ⟨4, 25⟩
def cPIPER_SHIP_LOST : Cause := ⟨4, 32⟩
def cPIPER_EPOCH_DRAINED : Cause := ⟨4, 40⟩
def cPIPER_EPOCH_FORCED_SUMMARY : Cause := ⟨4, 41⟩
def cPIPER_EPOCH_PINNED : Cause := ⟨4, 42⟩
def cPIPER_KV_MISMATCH : Cause := ⟨4, 48⟩
def cPIPER_KV_SHORT : Cause := ⟨4, 49⟩
def cPIPER_KV_RECORD_BAD : Cause := ⟨4, 50⟩
def cPIPER_KV_FALLBACK : Cause := ⟨4, 51⟩
def cPIPER_KV_COPY_TIMEOUT : Cause := ⟨4, 52⟩
def cPIPER_ADAPTER_INVALID : Cause := ⟨4, 56⟩
def cWINDROW_LINK_TRAIN_FAIL : Cause := ⟨5, 0⟩
def cWINDROW_LINK_LANE_DEGRADED : Cause := ⟨5, 1⟩
def cWINDROW_LINK_RETRY_LIMIT : Cause := ⟨5, 2⟩
def cWINDROW_LINK_NEIGHBOUR_MISMATCH : Cause := ⟨5, 3⟩
def cWINDROW_LINK_GEN_INCOMPATIBLE : Cause := ⟨5, 4⟩
def cWINDROW_LINK_DOWN : Cause := ⟨5, 5⟩
def cWINDROW_PORT_DOWN : Cause := ⟨5, 8⟩
def cWINDROW_PKT_MALFORMED : Cause := ⟨5, 16⟩
def cWINDROW_PKT_CHECK_FAIL : Cause := ⟨5, 17⟩
def cWINDROW_ROUTE_UNREACHABLE : Cause := ⟨5, 24⟩
def cWINDROW_JOB_NO_KEY : Cause := ⟨5, 32⟩
def cWINDROW_JOB_PLAIN_PROTECTED : Cause := ⟨5, 33⟩
def cWINDROW_JOB_NOT_MEMBER : Cause := ⟨5, 34⟩
def cWINDROW_JOB_TAG_FAIL : Cause := ⟨5, 35⟩
def cWINDROW_COORD_INVALID : Cause := ⟨5, 40⟩
def cDRONE_GROUP_INVALID : Cause := ⟨6, 0⟩
def cDRONE_COLL_MISMATCH : Cause := ⟨6, 8⟩
def cDRONE_COLL_CONTEXT_CLASH : Cause := ⟨6, 9⟩
def cDRONE_COLL_WATCHDOG : Cause := ⟨6, 10⟩
def cDRONE_COLL_NACKED : Cause := ⟨6, 11⟩
def cDRONE_COLL_NOT_IN_GROUP : Cause := ⟨6, 12⟩
def cDRONE_COLL_ABORTED : Cause := ⟨6, 13⟩
def cDRONE_RESIDUE_ERROR : Cause := ⟨6, 16⟩
def cDRONE_SIGNAL_UNDELIVERED : Cause := ⟨6, 24⟩
def cSTILE_XFER_REFUSED : Cause := ⟨7, 0⟩
def cSTILE_XFER_PROTECTED : Cause := ⟨7, 1⟩
def cSTILE_QP_ERROR : Cause := ⟨7, 8⟩
def cSTILE_RING_HALT : Cause := ⟨7, 16⟩
def cINTAKE_FRAME_MALFORMED : Cause := ⟨8, 0⟩
def cINTAKE_AUTH_TAG_FAIL : Cause := ⟨8, 8⟩
def cINTAKE_FLOW_QUEUE_FULL : Cause := ⟨8, 16⟩
def cINTAKE_PORT_LINK_DOWN : Cause := ⟨8, 24⟩
def cTIER_ENUM_UNSUPPORTED : Cause := ⟨9, 0⟩
def cTIER_CXL_DEVICE_LOST : Cause := ⟨9, 8⟩
def cTIER_NVME_CMD_ERROR : Cause := ⟨9, 16⟩
def cTIER_NVME_TIMEOUT : Cause := ⟨9, 17⟩
def cTIER_JOB_QUEUE_FULL : Cause := ⟨9, 24⟩
def cTIER_JOB_FAULT : Cause := ⟨9, 25⟩
def cDIE_FABRIC_EDGE_DEGRADED (d : Nat) : Cause := ⟨10 + d, 0⟩
def cDIE_FABRIC_EDGE_DOWN (d : Nat) : Cause := ⟨10 + d, 1⟩
def cDIE_FABRIC_UNMAPPED (d : Nat) : Cause := ⟨10 + d, 2⟩
def cDIE_FABRIC_ACCESS (d : Nat) : Cause := ⟨10 + d, 3⟩
def cDIE_FABRIC_TIMEOUT (d : Nat) : Cause := ⟨10 + d, 4⟩
def cDIE_FABRIC_STALE (d : Nat) : Cause := ⟨10 + d, 5⟩
def cDIE_FABRIC_COPY_SRC (d : Nat) : Cause := ⟨10 + d, 6⟩
def cDIE_GRID_ACC_OVERFLOW (d : Nat) : Cause := ⟨10 + d, 8⟩
def cDIE_GRID_NAN_OPERAND (d : Nat) : Cause := ⟨10 + d, 9⟩
def cDIE_GRID_COLMAP_INVALID (d : Nat) : Cause := ⟨10 + d, 10⟩
def cDIE_GRID_SELFTEST_FAIL (d : Nat) : Cause := ⟨10 + d, 11⟩
def cDIE_NORMWATCH_JUMP (d : Nat) : Cause := ⟨10 + d, 16⟩
def cDIE_TINE_QUANT_NAN (d : Nat) : Cause := ⟨10 + d, 24⟩
def cDIE_TINE_QUANT_CLAMP (d : Nat) : Cause := ⟨10 + d, 25⟩
def cDIE_SEEDBED_ECC_UNCORR (d : Nat) : Cause := ⟨10 + d, 32⟩
def cDIE_SEEDBED_REGION_FAULT (d : Nat) : Cause := ⟨10 + d, 33⟩
def cDIE_SEEDBED_REGION_INVALID (d : Nat) : Cause := ⟨10 + d, 34⟩
def cDIE_SEEDBED_EVICTED (d : Nat) : Cause := ⟨10 + d, 35⟩
def cDIE_CHANTER_RING_HALT (d : Nat) : Cause := ⟨10 + d, 40⟩
def cDIE_CHANTER_OVERLONG (d : Nat) : Cause := ⟨10 + d, 41⟩
def cDIE_CHANTER_UCODE_REJECT (d : Nat) : Cause := ⟨10 + d, 42⟩
def cDIE_DRILL_POSITION (d : Nat) : Cause := ⟨10 + d, 48⟩
def cDIE_DRILL_NO_PAGE (d : Nat) : Cause := ⟨10 + d, 49⟩
def cDIE_COULTER_SCORE_NAN (d : Nat) : Cause := ⟨10 + d, 56⟩
def cDIE_COULTER_MAP_GEN (d : Nat) : Cause := ⟨10 + d, 57⟩
def cDIE_COULTER_NOT_HOSTED (d : Nat) : Cause := ⟨10 + d, 58⟩
def cDIE_COULTER_OVERFLOW (d : Nat) : Cause := ⟨10 + d, 59⟩
def cDIE_COULTER_OVERFLOW_FULL (d : Nat) : Cause := ⟨10 + d, 60⟩
def cDIE_PICCOLO_ADAPTER_INVALID (d : Nat) : Cause := ⟨10 + d, 64⟩
def cDIE_GLEANER_NOT_HOME (d : Nat) : Cause := ⟨10 + d, 72⟩
def cDIE_GLEANER_BAGS_BAD (d : Nat) : Cause := ⟨10 + d, 73⟩
def cDIE_GLEANER_INDEX_RANGE (d : Nat) : Cause := ⟨10 + d, 74⟩
def cDIE_GLEANER_NAN_ROW (d : Nat) : Cause := ⟨10 + d, 75⟩
def cDIE_GLEANER_STAGE_FULL (d : Nat) : Cause := ⟨10 + d, 76⟩
def cDIE_GLEANER_ABSENT_ROW (d : Nat) : Cause := ⟨10 + d, 77⟩
def cDIE_GLEANER_SLOTS_SHORT (d : Nat) : Cause := ⟨10 + d, 78⟩
def cDIE_MOVER_FLIP_REFUSED (d : Nat) : Cause := ⟨10 + d, 80⟩
def cDIE_MOVER_NO_FRAME (d : Nat) : Cause := ⟨10 + d, 81⟩
def cDIE_MOVER_PROTECTED (d : Nat) : Cause := ⟨10 + d, 82⟩
def cDIE_WINNOW_TABLE_MISMATCH (d : Nat) : Cause := ⟨10 + d, 88⟩
def cDIE_WINNOW_SIZE_MISMATCH (d : Nat) : Cause := ⟨10 + d, 89⟩
def cDIE_WINNOW_CODE_INVALID (d : Nat) : Cause := ⟨10 + d, 90⟩
def cDIE_WINNOW_RETRY_FAIL (d : Nat) : Cause := ⟨10 + d, 91⟩
def cDIE_WINNOW_CRC (d : Nat) : Cause := ⟨10 + d, 92⟩
def cSTACK_ECC_UNCORR (s : Nat) : Cause := ⟨18 + s, 0⟩
def cSTACK_ECC_PAGE_WEAK (s : Nat) : Cause := ⟨18 + s, 1⟩

end Sys2Proof.Machine
end

