-- ==== Sys2Proof/Machine/Regs.lean ====
section
/-! DEFINITION. The register map: every register of the spec with its offset, its access codes, its field classes and its
reset value, from the register tables of the chapters (R7, R147, R485 and the table of each chapter). Masks are 64-bit
numbers; an offset is counted from the start of register space. -/
namespace Sys2Proof.Machine

/-- A field of a register: its lowest bit and its width. -/
structure Fld where
  lo : Nat
  w : Nat
  deriving DecidableEq, Repr

/-- The registers of the module, by name. -/
inductive RegName where
  | INT_SUMMARY
  | INT_RAW
  | INT_SUMMARY_MASK
  | HEADLAND_PEND_SEL
  | HEADLAND_PEND_DATA
  | HEADLAND_PEND_DIFF
  | HEADLAND_MGMT_STATUS
  | HEADLAND_LOCAL_TIME
  | HEADLAND_RESOURCE_SUMMARY
  | HEADLAND_BOOT
  | HEADLAND_ID_DIGEST
  | HEADLAND_MEASURE
  | HEADLAND_NVM_SRC
  | HEADLAND_NVM_CTRL
  | HEADLAND_NVM_STATUS
  | HEADLAND_NVM_GEN
  | HEADLAND_FW_CTRL
  | HEADLAND_FW_STATUS
  | INT_BLOCK
  | INT_BLOCK_MASK
  | INT_LEAF
  | INT_LEAF_MASK
  | SCARE_KEY_CTRL
  | SCARE_KEY_STATUS
  | SCARE_PUBSLOT
  | SCARE_DIGEST_CTRL
  | SCARE_DIGEST_BASE
  | SCARE_DIGEST_STATUS
  | SCARE_EPOCH
  | BELLOWS_CAP
  | BELLOWS_POWER
  | BELLOWS_STATE
  | BELLOWS_OVERCAP
  | BELLOWS_THERM
  | BELLOWS_TEMP
  | BELLOWS_STOP
  | BELLOWS_SLOPE
  | BELLOWS_CLASS
  | BELLOWS_THROUGHPUT
  | BELLOWS_HBM_RATE
  | FPLAN_SOURCE
  | FPLAN_CTRL
  | FPLAN_STATUS
  | FPLAN_ACTIVE
  | FPLAN_ACTIVE_ID
  | FPLAN_COMMIT_WAIT
  | FPLAN_FAULT
  | FPLAN_MEMBER
  | PIPER_CTRL
  | PIPER_SHAPE
  | PIPER_SESSION_BASE
  | PIPER_BUCKET_BASE
  | PIPER_STEP_AREA
  | PIPER_STEP
  | PIPER_STEP_LIMIT
  | PIPER_RATIO
  | PIPER_LADDER
  | PIPER_EPOCH0
  | PIPER_EPOCH1
  | WINDROW_COORD
  | WINDROW_APPLIANCE
  | WINDROW_GEN
  | WINDROW_FAULT
  | WINDROW_PORT
  | WINDROW_VC_WEIGHT
  | WINDROW_LINK_CTRL
  | WINDROW_LINK_STATUS
  | WINDROW_LINK_PEER
  | WINDROW_LINK_STATS
  | WINDROW_JOB
  | DRONE_CTRL
  | DRONE_WATCHDOG
  | DRONE_AREA
  | DRONE_STATS
  | DRONE_FAULT
  | DRONE_FAULT_FP
  | DRONE_CTX_STATUS
  | DRONE_ATTEMPT
  | FABRIC_CTRL
  | FABRIC_REPLAY
  | FABRIC_CACHE_CTRL
  | FABRIC_STATS
  | FABRIC_FAULT
  | FABRIC_CACHE_RANGE
  | STILE_ENDPOINT
  | STILE_FAULT
  | STILE_RING
  | STILE_RING_HEAD
  | STILE_RING_PTR
  | ETH_PORT
  | INTAKE_CTRL
  | INTAKE_CONN_BASE
  | INTAKE_STATS
  | TIER_FALLOW_DECODE
  | TIER_FALLOW_WAYS
  | TIER_MAP_FALLOW
  | TIER_MAP_GRANARY
  | TIER_POOL
  | TIER_FAULT_LIMIT
  | TIER_STATS
  | TIER_FAULT
  | TIER_JOB
  | TIER_JOB_STATUS
  | TIER_NS0
  | TIER_NS1
  | TIER_EPOCH_REC
  | TIER_PROTECT
  | TIER_PEER
  | PCIE_PORT
  | TIER_CLASS
  | TILE_ID
  | TILE_GRID_COLMAP
  | TILE_GRID_STATS
  | TILE_GRID_SELFTEST
  | TILE_ACC_STATUS
  | TILE_REF_DIVERT
  | TILE_NORMWATCH_CTRL
  | TILE_NORMWATCH_LAST
  | TILE_NORMWATCH_TABLE
  | TILE_SEEDBED_REGION
  | TILE_SEEDBED_STATS
  | TILE_SEEDBED_FAULT
  | CHANTER_ENGINE
  | CHANTER_STATUS
  | CHANTER_BUDGET
  | CHANTER_UCODE
  | CHANTER_STATS
  | CHANTER_FAULT
  | RING_BASE
  | RING_CTRL
  | RING_HEAD
  | RING_PTR
  | CHANTER_COLL_SEQ
  | BELLOWS_TILE_CLOCK
  | BELLOWS_TILE_CAL
  | BELLOWS_TILE_STATS
  | PICCOLO_TABLE
  | PICCOLO_STATS
  | PICCOLO_FAULT
  | FIX_RING_BASE
  | FIX_RING_CTRL
  | FIX_RING_HEAD
  | FIX_RING_PTR
  | COULTER_HOST
  | COULTER_BAY
  | COULTER_OVERFLOW
  | COULTER_RUNS
  | COULTER_STATS
  | COULTER_FAULT
  | DRILL_KV_DIR
  | DRILL_STATS
  | DRILL_FAULT
  | GLEANER_CTRL
  | GLEANER_REFRESH
  | GLEANER_APPLY
  | GLEANER_STATS
  | GLEANER_CLASS_STATS
  | GLEANER_FAULT
  | DIE_SHARED_REGION
  | DIE_SHARED_FAULT
  | WINNOW_CTRL
  | WINNOW_STATS
  | WINNOW_ERR_STATS
  | WINNOW_FAULT
  | WINNOW_SLOT0
  | WINNOW_SLOT1
  | DIE_ARRIVAL
  | HARROW_CTRL
  | HARROW_ECC_STATS
  | HARROW_FAULT
  deriving DecidableEq, Repr

/-- What the spec says of one register: masks of its access codes (R7) and of its field classes (R147); a bit in no class
mask is live or not configurable. -/
structure RegInfo where
  rw : Nat
  rws : Nat
  wo : Nat
  w1c : Nat
  roh : Nat
  boundary : Nat
  drain : Nat
  offline : Nat
  reset : Nat
  deriving DecidableEq, Repr

/-- The access codes, classes and reset value of each register as its table gives them; the reset bits that differ from
one index to the next are in `resetAt`. INT_LEAF_MASK and INT_BLOCK_MASK are RW whole, as R484 gives them: a mask bit of a leaf or
group that R482 does not define is held and read back (DESIGN CHOICE, log entry 115). -/
def RegName.info : RegName → RegInfo
  | .INT_SUMMARY => ⟨0x0, 0x0, 0x0, 0x0, 0x3FFFFFFFFFFFF, 0x0, 0x0, 0x0, 0x0⟩
  | .INT_RAW => ⟨0x0, 0x0, 0x0, 0x0, 0x3FFFFFFFFFFFF, 0x0, 0x0, 0x0, 0x0⟩
  | .INT_SUMMARY_MASK => ⟨0x3FFFFFFFFFFFF, 0x0, 0x0, 0x0, 0x0, 0x0, 0x0, 0x0, 0x0⟩
  | .HEADLAND_PEND_SEL => ⟨0xFFFFFF, 0x0, 0x0, 0x0, 0x8000000000000000, 0x0, 0x0, 0x0, 0x0⟩
  | .HEADLAND_PEND_DATA => ⟨0x0, 0x0, 0x0, 0x0, 0xFFFFFFFFFFFFFFFF, 0x0, 0x0, 0x0, 0x0⟩
  | .HEADLAND_PEND_DIFF => ⟨0x0, 0x0, 0x0, 0x0, 0xFFFFFFFFFFFFFFFF, 0x0, 0x0, 0x0, 0x0⟩
  | .HEADLAND_MGMT_STATUS => ⟨0x0, 0x0, 0x0, 0x0, 0xFF01FC1F, 0x0, 0x0, 0x0, 0x0⟩
  | .HEADLAND_LOCAL_TIME => ⟨0x0, 0x0, 0x0, 0x0, 0xFFFFFFFFFFFFFFFF, 0x0, 0x0, 0x0, 0x0⟩
  | .HEADLAND_RESOURCE_SUMMARY => ⟨0x0, 0x0, 0x0, 0x0, 0xFFFFFFFFFFFFFFF0, 0x0, 0x0, 0x0, 0x0⟩
  | .HEADLAND_BOOT => ⟨0x0, 0x0, 0x0, 0x0, 0xFFFFFFFF00000FFF, 0x0, 0x0, 0x0, 0x0⟩
  | .HEADLAND_ID_DIGEST => ⟨0x0, 0x0, 0x0, 0x0, 0xFFFFFFFFFFFFFFFF, 0x0, 0x0, 0x0, 0x0⟩
  | .HEADLAND_MEASURE => ⟨0x0, 0x0, 0x0, 0x0, 0xFFFFFFFFFFFFFFFF, 0x0, 0x0, 0x0, 0x0⟩
  | .HEADLAND_NVM_SRC => ⟨0xFFFFFFFFFFFFFFFF, 0x0, 0x0, 0x0, 0x0, 0x0, 0x0, 0x0, 0x0⟩
  | .HEADLAND_NVM_CTRL => ⟨0xFFFFFFFF00000F00, 0x0, 0x3, 0x0, 0x0, 0x0, 0x0, 0x0, 0x0⟩
  | .HEADLAND_NVM_STATUS => ⟨0x0, 0x0, 0x0, 0x0, 0xFFFFFF00000000F3, 0x0, 0x0, 0x0, 0x0⟩
  | .HEADLAND_NVM_GEN => ⟨0x0, 0x0, 0x0, 0x0, 0xFFFFFFFFFFFFFFFF, 0x0, 0x0, 0x0, 0x0⟩
  | .HEADLAND_FW_CTRL => ⟨0xFFFF3FFFFFFFFFC0, 0x0, 0xC00000000000, 0x0, 0x0, 0x0, 0x0, 0x0, 0x3C000000000000⟩
  | .HEADLAND_FW_STATUS => ⟨0x0, 0x0, 0x0, 0x0, 0xFFFFFFFFFFFF01E0, 0x0, 0x0, 0x0, 0x0⟩
  | .INT_BLOCK => ⟨0x0, 0x0, 0x0, 0x0, 0xFFFF, 0x0, 0x0, 0x0, 0x0⟩
  | .INT_BLOCK_MASK => ⟨0xFFFF, 0x0, 0x0, 0x0, 0x0, 0x0, 0x0, 0x0, 0x0⟩
  | .INT_LEAF => ⟨0x0, 0x0, 0x0, 0xFFFFFFFFFFFFFFFF, 0x0, 0x0, 0x0, 0x0, 0x0⟩
  | .INT_LEAF_MASK => ⟨0xFFFFFFFFFFFFFFFF, 0x0, 0x0, 0x0, 0x0, 0x0, 0x0, 0x0, 0x0⟩
  | .SCARE_KEY_CTRL => ⟨0x3FFFFFFFFFC0, 0x0, 0xFF00000000000007, 0x0, 0x0, 0x0, 0x0, 0x0, 0x0⟩
  | .SCARE_KEY_STATUS => ⟨0x0, 0x0, 0x0, 0x0, 0x80FF0000000000FF, 0x0, 0x0, 0x0, 0x0⟩
  | .SCARE_PUBSLOT => ⟨0x0, 0x0, 0x0, 0x0, 0xFE000000FFFFFFFF, 0x0, 0x0, 0x0, 0x0⟩
  | .SCARE_DIGEST_CTRL => ⟨0xE0003FFFFFFFFFC0, 0x0, 0xC00000000000, 0x0, 0x0, 0x0, 0x0, 0x0, 0x0⟩
  | .SCARE_DIGEST_BASE => ⟨0x3FFFFFFF0000, 0x0, 0x0, 0x0, 0x0, 0x0, 0x0, 0x0, 0x0⟩
  | .SCARE_DIGEST_STATUS => ⟨0x0, 0x0, 0x0, 0x0, 0xCFFFFFFFFFFFFFFF, 0x0, 0x0, 0x0, 0x0⟩
  | .SCARE_EPOCH => ⟨0x0, 0x0, 0x0, 0x0, 0x80000000FFFFFFFF, 0x0, 0x0, 0x0, 0x0⟩
  | .BELLOWS_CAP => ⟨0xFFFFFFFF00000000, 0x0, 0x0, 0x0, 0x0, 0x0, 0x0, 0x0, 0xD48096000000000⟩
  | .BELLOWS_POWER => ⟨0x0, 0x0, 0x0, 0x0, 0xFFFFFFFFFFFFFFFF, 0x0, 0x0, 0x0, 0x0⟩
  | .BELLOWS_STATE => ⟨0x0, 0x0, 0x0, 0x0, 0xFFFF000000000000, 0x0, 0x0, 0x0, 0x8000000000000000⟩
  | .BELLOWS_OVERCAP => ⟨0xFFFFFFFFFFFFFFFF, 0x0, 0x0, 0x0, 0x0, 0x0, 0x0, 0x0, 0x0⟩
  | .BELLOWS_THERM => ⟨0x0, 0xFFFFFFFFFFFFFFFF, 0x0, 0x0, 0x0, 0x0, 0x0, 0x0, 0x5F6E555F69283C46⟩
  | .BELLOWS_TEMP => ⟨0x0, 0x0, 0x0, 0x0, 0xFFE0FFF80000FFFF, 0x0, 0x0, 0x0, 0x0⟩
  | .BELLOWS_STOP => ⟨0x0, 0x0, 0x1, 0x0, 0xFC00000000000000, 0x0, 0x0, 0x0, 0x0⟩
  | .BELLOWS_SLOPE => ⟨0x0, 0xFF, 0x0, 0x0, 0x0, 0x0, 0x0, 0x0, 0x50⟩
  | .BELLOWS_CLASS => ⟨0x0, 0xF, 0x0, 0x0, 0x0, 0x0, 0x0, 0x0, 0x3⟩
  | .BELLOWS_THROUGHPUT => ⟨0x0, 0xFFF, 0x0, 0x0, 0x0, 0x0, 0x0, 0x0, 0x6D6⟩
  | .BELLOWS_HBM_RATE => ⟨0x0, 0xFFFFFFFFFFFFFFFF, 0x0, 0x0, 0x0, 0x0, 0x0, 0xFFFFFFFFFFFFFFFF, 0x0⟩
  | .FPLAN_SOURCE => ⟨0xFFFFFFFFFFFFFFFF, 0x0, 0x0, 0x0, 0x0, 0x0, 0x0, 0x0, 0x0⟩
  | .FPLAN_CTRL => ⟨0x0, 0x0, 0x3, 0x0, 0x0, 0x0, 0x0, 0x0, 0x0⟩
  | .FPLAN_STATUS => ⟨0x0, 0x0, 0x0, 0x0, 0xFFFFFFFF000000F7, 0x0, 0x0, 0x0, 0x0⟩
  | .FPLAN_ACTIVE => ⟨0x0, 0x0, 0x0, 0x0, 0xFFFFFFFFFFFFFFFF, 0x0, 0x0, 0x0, 0x0⟩
  | .FPLAN_ACTIVE_ID => ⟨0x0, 0x0, 0x0, 0x0, 0xFFFFFFFFFFFFFFFF, 0x0, 0x0, 0x0, 0x0⟩
  | .FPLAN_COMMIT_WAIT => ⟨0xFFFFFFFF, 0x0, 0x0, 0x0, 0x0, 0x0, 0x0, 0x0, 0x4C4B4⟩
  | .FPLAN_FAULT => ⟨0x0, 0x0, 0x0, 0x8000000000000000, 0x7FFFFFFFF0FFFFFF, 0x0, 0x0, 0x0, 0x0⟩
  | .FPLAN_MEMBER => ⟨0x0, 0xFF00000000000F7F, 0x0, 0x0, 0x0, 0x0, 0x8000000000000F7F, 0x7F00000000000000, 0x0⟩
  | .PIPER_CTRL => ⟨0x0, 0xF9FFFF807F000007, 0x0, 0x0, 0x0, 0xF9FFFF807F000007, 0x0, 0x0, 0x1000000⟩
  | .PIPER_SHAPE => ⟨0x0, 0xFFF8FFFFFFFF0000, 0x0, 0x0, 0x0, 0xFFF8FFFFFFFF0000, 0x0, 0x0, 0x2018040008000000⟩
  | .PIPER_SESSION_BASE => ⟨0x0, 0x3FFFFFFF0000, 0x0, 0x0, 0x0, 0x0, 0x3FFFFFFF0000, 0x0, 0x0⟩
  | .PIPER_BUCKET_BASE => ⟨0x0, 0x3FFFFFFF0000, 0x0, 0x0, 0x0, 0x0, 0x3FFFFFFF0000, 0x0, 0x0⟩
  | .PIPER_STEP_AREA => ⟨0x0, 0xFFFF000001FFFFFF, 0x0, 0x0, 0x0, 0x0, 0xFFFF000001FFFFFF, 0x0, 0x0⟩
  | .PIPER_STEP => ⟨0x0, 0x0, 0x0, 0x0, 0xFFFFFFFFFFFFFFF3, 0x0, 0x0, 0x0, 0x0⟩
  | .PIPER_STEP_LIMIT => ⟨0xF0000000FFFFFFFF, 0x0, 0x0, 0x0, 0x0, 0x0, 0x0, 0x0, 0x30000000000BEBC2⟩
  | .PIPER_RATIO => ⟨0x8FFFFFFFFFFFFFFF, 0x0, 0x0, 0x0, 0x0, 0x0, 0x0, 0x0, 0x400004000008⟩
  | .PIPER_LADDER => ⟨0xFFFFFFFFFFFFFFFF, 0x0, 0x0, 0x0, 0x0, 0x0, 0x0, 0x0, 0x0⟩
  | .PIPER_EPOCH0 => ⟨0x0, 0xC0000000FFFFFFFF, 0x0, 0x0, 0x2000FFFF00000000, 0xC0000000FFFFFFFF, 0x0, 0x0, 0x0⟩
  | .PIPER_EPOCH1 => ⟨0x0, 0xFFFFFFFFFFFFFFFF, 0x0, 0x0, 0x0, 0xFFFFFFFFFFFFFFFF, 0x0, 0x0, 0x0⟩
  | .WINDROW_COORD => ⟨0x0, 0x800000000FF801FF, 0x0, 0x0, 0x0, 0x0, 0x0, 0x800000000FF801FF, 0x2480000⟩
  | .WINDROW_APPLIANCE => ⟨0x0, 0xFFFFFFFFFFFFFFFF, 0x0, 0x0, 0x0, 0x0, 0x0, 0xFFFFFFFFFFFFFFFF, 0x0⟩
  | .WINDROW_GEN => ⟨0xFF, 0x0, 0x0, 0x0, 0xFFFF00, 0x0, 0x0, 0x0, 0x20402⟩
  | .WINDROW_FAULT => ⟨0x0, 0x0, 0x0, 0x8000000000000000, 0x7FFFFFF000000000, 0x0, 0x0, 0x0, 0x0⟩
  | .WINDROW_PORT => ⟨0x0, 0x8700000000000000, 0x0, 0x0, 0x0, 0x0, 0x8700000000000000, 0x0, 0x0⟩
  | .WINDROW_VC_WEIGHT => ⟨0x0, 0xFFFFFFFFFFFF, 0x0, 0x0, 0x0, 0x0, 0x0, 0x0, 0x201010202040⟩
  | .WINDROW_LINK_CTRL => ⟨0xFF0000000000, 0xFC0000F000000000, 0x3C0000000000000, 0x0, 0x0, 0x0, 0xF000000000, 0xFC00000000000000, 0x3C00080000000000⟩
  | .WINDROW_LINK_STATUS => ⟨0x0, 0x0, 0x0, 0x0, 0xFEFFFF0000000000, 0x0, 0x0, 0x0, 0xF00000000000⟩
  | .WINDROW_LINK_PEER => ⟨0x0, 0x0, 0x0, 0x0, 0xFFFFFFFFFFFFFDFF, 0x0, 0x0, 0x0, 0x0⟩
  | .WINDROW_LINK_STATS => ⟨0xFFFFFFFFFFFFFFFF, 0x0, 0x0, 0x0, 0x0, 0x0, 0x0, 0x0, 0x0⟩
  | .WINDROW_JOB => ⟨0x0, 0xE00000000000FFFF, 0x0, 0x0, 0x0, 0xE00000000000FFFF, 0x0, 0x0, 0x0⟩
  | .DRONE_CTRL => ⟨0x0, 0x8000000000000000, 0x0, 0x0, 0x0, 0x0, 0x8000000000000000, 0x0, 0x0⟩
  | .DRONE_WATCHDOG => ⟨0xFFFFFFFF, 0x0, 0x0, 0x0, 0x0, 0x0, 0x0, 0x0, 0x7A12⟩
  | .DRONE_AREA => ⟨0x0, 0x3FFFFFFE1FFFFFF, 0x0, 0x0, 0x0, 0x0, 0x3FFFFFFE1FFFFFF, 0x0, 0x380000000000000⟩
  | .DRONE_STATS => ⟨0xFFFFFFFFFFFFFFFF, 0x0, 0x0, 0x0, 0x0, 0x0, 0x0, 0x0, 0x0⟩
  | .DRONE_FAULT => ⟨0x0, 0x0, 0x0, 0x8000000000000000, 0x7FFFFFFFFFFFFFFF, 0x0, 0x0, 0x0, 0x0⟩
  | .DRONE_FAULT_FP => ⟨0x0, 0x0, 0x0, 0x0, 0xFFFFFFFFFFFFFFFF, 0x0, 0x0, 0x0, 0x0⟩
  | .DRONE_CTX_STATUS => ⟨0x0, 0x0, 0x0, 0x0, 0xFFFFFFFFFFFFFFFF, 0x0, 0x0, 0x0, 0x0⟩
  | .DRONE_ATTEMPT => ⟨0x0, 0x0, 0x0, 0x0, 0xFFFFFFFFFFFFFFFF, 0x0, 0x0, 0x0, 0x0⟩
  | .FABRIC_CTRL => ⟨0xF0000000FFFFFFFF, 0x0, 0x0, 0x0, 0x0, 0x0, 0x0, 0x0, 0x300000000000061B⟩
  | .FABRIC_REPLAY => ⟨0x0, 0x80003FFFFFFF0000, 0x0, 0x0, 0x0, 0x0, 0x80003FFFFFFF0000, 0x0, 0x0⟩
  | .FABRIC_CACHE_CTRL => ⟨0x6000000000000000, 0x0, 0x8000000000000000, 0x0, 0x0, 0x0, 0x0, 0x0, 0x4000000000000000⟩
  | .FABRIC_STATS => ⟨0xFFFFFFFFFFFFFFFF, 0x0, 0x0, 0x0, 0x0, 0x0, 0x0, 0x0, 0x0⟩
  | .FABRIC_FAULT => ⟨0x0, 0x0, 0x0, 0x8000000000000000, 0x7FFFFFFFFFFFFFFF, 0x0, 0x0, 0x0, 0x0⟩
  | .FABRIC_CACHE_RANGE => ⟨0x0, 0xFFC00FFFFFFFFFFF, 0x0, 0x0, 0x0, 0xFFC00FFFFFFFFFFF, 0x0, 0x0, 0x0⟩
  | .STILE_ENDPOINT => ⟨0x0, 0x80003FFFFFFFC000, 0x0, 0x0, 0x0, 0x0, 0x80003FFFFFFFC000, 0x0, 0x0⟩
  | .STILE_FAULT => ⟨0x0, 0x0, 0x0, 0x8000000000000000, 0x7FFFE000FFFFFFFF, 0x0, 0x0, 0x0, 0x0⟩
  | .STILE_RING => ⟨0x0, 0x8F003FFFFFFFFFC0, 0x0, 0x0, 0x0, 0x0, 0x8F003FFFFFFFFFC0, 0x0, 0x600000000000000⟩
  | .STILE_RING_HEAD => ⟨0x3FFFFFFFFFF8, 0x0, 0x3000000000000, 0x0, 0x8000000000000000, 0x0, 0x0, 0x0, 0x0⟩
  | .STILE_RING_PTR => ⟨0x0, 0x0, 0x0, 0x0, 0xFFFFFFFFFFFFFFFF, 0x0, 0x0, 0x0, 0x0⟩
  | .ETH_PORT => ⟨0x0, 0xFC00FFFFFFFFFFFF, 0x0, 0x0, 0x200000000000000, 0x0, 0xFC00FFFFFFFFFFFF, 0x0, 0x1800000000000000⟩
  | .INTAKE_CTRL => ⟨0x0, 0x8000FFFFFFFFFFFF, 0x0, 0x0, 0x0, 0x0, 0x8000FFFFFFFFFFFF, 0x0, 0x439420001E85⟩
  | .INTAKE_CONN_BASE => ⟨0x0, 0x3FFFFFFF0000, 0x0, 0x0, 0x0, 0x0, 0x3FFFFFFF0000, 0x0, 0x0⟩
  | .INTAKE_STATS => ⟨0xFFFFFFFFFFFFFFFF, 0x0, 0x0, 0x0, 0x0, 0x0, 0x0, 0x0, 0x0⟩
  | .TIER_FALLOW_DECODE => ⟨0x0, 0x870000000FFFFFFF, 0x0, 0x0, 0x0, 0x0, 0x870000000FFFFFFF, 0x0, 0x0⟩
  | .TIER_FALLOW_WAYS => ⟨0x0, 0xFFFFFFFFFFFFFFFF, 0x0, 0x0, 0x0, 0x0, 0xFFFFFFFFFFFFFFFF, 0x0, 0x0⟩
  | .TIER_MAP_FALLOW => ⟨0x0, 0x8000000003FFFFFF, 0x0, 0x0, 0x0, 0x0, 0x8000000003FFFFFF, 0x0, 0x0⟩
  | .TIER_MAP_GRANARY => ⟨0x0, 0xFFFFFFFE03FFFFFF, 0x0, 0x0, 0x0, 0x0, 0xFFFFFFFE03FFFFFF, 0x0, 0x0⟩
  | .TIER_POOL => ⟨0x0, 0x807FFFFFFBFFFFFF, 0x0, 0x0, 0x0, 0x0, 0x807FFFFFFBFFFFFF, 0x0, 0x0⟩
  | .TIER_FAULT_LIMIT => ⟨0xFFFFFFFF, 0x0, 0x0, 0x0, 0x0, 0x0, 0x0, 0x0, 0x2625A⟩
  | .TIER_STATS => ⟨0xFFFFFFFFFFFFFFFF, 0x0, 0x0, 0x0, 0x0, 0x0, 0x0, 0x0, 0x0⟩
  | .TIER_FAULT => ⟨0x0, 0x0, 0x0, 0x8000000000000000, 0x7F0000001FFFFFFF, 0x0, 0x0, 0x0, 0x0⟩
  | .TIER_JOB => ⟨0xFFFF3FFFFFFFFFC0, 0x0, 0xC00000000000, 0x0, 0x0, 0x0, 0x0, 0x0, 0x0⟩
  | .TIER_JOB_STATUS => ⟨0x0, 0x0, 0x0, 0x0, 0xF8000000FFFFFFFF, 0x0, 0x0, 0x0, 0x0⟩
  | .TIER_NS0 => ⟨0x0, 0xBC000000FFFFFFFF, 0x0, 0x0, 0x0, 0x0, 0xBC000000FFFFFFFF, 0x0, 0x0⟩
  | .TIER_NS1 => ⟨0x0, 0xFFFFFFFFFFFFFFFF, 0x0, 0x0, 0x0, 0x0, 0xFFFFFFFFFFFFFFFF, 0x0, 0x0⟩
  | .TIER_EPOCH_REC => ⟨0x0, 0x3FFFFFFFFFC0, 0x0, 0x0, 0x0, 0x3FFFFFFFFFC0, 0x0, 0x0, 0x0⟩
  | .TIER_PROTECT => ⟨0x0, 0x800FFFFFFFFFFFFF, 0x0, 0x0, 0x0, 0x800FFFFFFFFFFFFF, 0x0, 0x0, 0x0⟩
  | .TIER_PEER => ⟨0x0, 0x80000000000001FF, 0x0, 0x0, 0x0, 0x0, 0x80000000000001FF, 0x0, 0x0⟩
  | .PCIE_PORT => ⟨0x0, 0xC000000000000000, 0x0, 0x0, 0xFFFF, 0x0, 0x0, 0xC000000000000000, 0x0⟩
  | .TIER_CLASS => ⟨0x0, 0xFC00000000000000, 0x0, 0x0, 0x0, 0xFC00000000000000, 0x0, 0x0, 0xC00000000000000⟩
  | .TILE_ID => ⟨0x0, 0x0, 0x0, 0x0, 0xFFFC00000000, 0x0, 0x0, 0x0, 0x6D6000000000⟩
  | .TILE_GRID_COLMAP => ⟨0x0, 0x3FF03FF, 0x0, 0x0, 0x0, 0x0, 0x0, 0x3FF03FF, 0x0⟩
  | .TILE_GRID_STATS => ⟨0xFFFFFFFFFFFFFFFF, 0x0, 0x0, 0x0, 0x0, 0x0, 0x0, 0x0, 0x0⟩
  | .TILE_GRID_SELFTEST => ⟨0x0, 0x0, 0x8000000000000000, 0x0, 0x60FF000001FF01FF, 0x0, 0x0, 0x0, 0x0⟩
  | .TILE_ACC_STATUS => ⟨0x0, 0x0, 0x0, 0x7, 0xF0, 0x0, 0x0, 0x0, 0x0⟩
  | .TILE_REF_DIVERT => ⟨0x0, 0x0, 0x0, 0x0, 0xFFFFFFFFFFFFFFFF, 0x0, 0x0, 0x0, 0x0⟩
  | .TILE_NORMWATCH_CTRL => ⟨0x0, 0xFFFFFFF000000001, 0x0, 0x0, 0x0, 0xFFFFFFF000000001, 0x0, 0x0, 0x400104000000000⟩
  | .TILE_NORMWATCH_LAST => ⟨0x0, 0x0, 0x0, 0x0, 0xFFFFFFFF03FFFF00, 0x0, 0x0, 0x0, 0x0⟩
  | .TILE_NORMWATCH_TABLE => ⟨0xFFFFFFFFFFFFFFFF, 0x0, 0x0, 0x0, 0x0, 0xFFFFFFFFFFFFFFFF, 0x0, 0x0, 0x0⟩
  | .TILE_SEEDBED_REGION => ⟨0x0, 0xF0001FFF00001FFF, 0x0, 0x0, 0x0, 0x0, 0xF0001FFF00001FFF, 0x0, 0x0⟩
  | .TILE_SEEDBED_STATS => ⟨0xFFFFFFFFFFFFFFFF, 0x0, 0x0, 0x0, 0x0, 0x0, 0x0, 0x0, 0x0⟩
  | .TILE_SEEDBED_FAULT => ⟨0x0, 0x0, 0x0, 0x8000000000000000, 0x7FFFFFE000000000, 0x0, 0x0, 0x0, 0x0⟩
  | .CHANTER_ENGINE => ⟨0x0, 0x0, 0x0, 0x0, 0x8000000000FFFF0F, 0x0, 0x0, 0x0, 0x0⟩
  | .CHANTER_STATUS => ⟨0x0, 0x0, 0x0, 0x0, 0xFFFFF7, 0x0, 0x0, 0x0, 0x0⟩
  | .CHANTER_BUDGET => ⟨0x0, 0xFFFFFFFFFF0FFFFF, 0x0, 0x0, 0x0, 0xFFFFFFFFFF0FFFFF, 0x0, 0x0, 0x30E02625A001E85⟩
  | .CHANTER_UCODE => ⟨0x0, 0x1, 0x0, 0x0, 0xFFFFFFFF00000006, 0x1, 0x0, 0x0, 0x0⟩
  | .CHANTER_STATS => ⟨0xFFFFFFFFFFFFFFFF, 0x0, 0x0, 0x0, 0x0, 0x0, 0x0, 0x0, 0x0⟩
  | .CHANTER_FAULT => ⟨0x0, 0x0, 0x0, 0x8000000000000000, 0x7FFFFFFFFFFFFFFF, 0x0, 0x0, 0x0, 0x0⟩
  | .RING_BASE => ⟨0x0, 0x3FFFFFFFFFC0, 0x0, 0x0, 0x0, 0x0, 0x3FFFFFFFFFC0, 0x0, 0x0⟩
  | .RING_CTRL => ⟨0x0, 0x831FFFFF00000000, 0x0, 0x0, 0x0, 0x0, 0x831FFFFF00000000, 0x0, 0x6001400000000⟩
  | .RING_HEAD => ⟨0xFFFFFFFF, 0x0, 0x3000000000000, 0x0, 0x8F00000000000000, 0x0, 0x0, 0x0, 0x0⟩
  | .RING_PTR => ⟨0x0, 0x0, 0x0, 0x0, 0xFFFFFFFFFFFFFFFF, 0x0, 0x0, 0x0, 0x0⟩
  | .CHANTER_COLL_SEQ => ⟨0x0, 0x0, 0x0, 0x0, 0xFFFFFFFF, 0x0, 0x0, 0x0, 0x0⟩
  | .BELLOWS_TILE_CLOCK => ⟨0x0, 0xFFF0000000000000, 0x0, 0x0, 0xFFFF000000000, 0x0, 0x0, 0xFFF0000000000000, 0x6D60000000000000⟩
  | .BELLOWS_TILE_CAL => ⟨0x0, 0xFF00000000, 0x8000000000000000, 0x0, 0x400FFF0000000000, 0x0, 0x0, 0xFF00000000, 0x3200000000⟩
  | .BELLOWS_TILE_STATS => ⟨0xFFFFFFFFFFFFFFFF, 0x0, 0x0, 0x0, 0x0, 0x0, 0x0, 0x0, 0x0⟩
  | .PICCOLO_TABLE => ⟨0x0, 0x80003FFFFFFFFFC0, 0x0, 0x0, 0x0, 0x0, 0x80003FFFFFFFFFC0, 0x0, 0x0⟩
  | .PICCOLO_STATS => ⟨0xFFFFFFFFFFFFFFFF, 0x0, 0x0, 0x0, 0x0, 0x0, 0x0, 0x0, 0x0⟩
  | .PICCOLO_FAULT => ⟨0x0, 0x0, 0x0, 0x8000000000000000, 0x7000FFFFFFFF03FF, 0x0, 0x0, 0x0, 0x0⟩
  | .FIX_RING_BASE => ⟨0x0, 0x3FFFFFFFFFC0, 0x0, 0x0, 0x0, 0x0, 0x3FFFFFFFFFC0, 0x0, 0x0⟩
  | .FIX_RING_CTRL => ⟨0x0, 0x831FFFFF00000000, 0x0, 0x0, 0x0, 0x0, 0x831FFFFF00000000, 0x0, 0x6001400000000⟩
  | .FIX_RING_HEAD => ⟨0xFFFFFFFF, 0x0, 0x3000000000000, 0x0, 0x8F00000000000000, 0x0, 0x0, 0x0, 0x0⟩
  | .FIX_RING_PTR => ⟨0x0, 0x0, 0x0, 0x0, 0xFFFFFFFFFFFFFFFF, 0x0, 0x0, 0x0, 0x0⟩
  | .COULTER_HOST => ⟨0x0, 0xFFFF3FFFFFFFFFDF, 0x0, 0x0, 0x0, 0x0, 0xFFFF3FFFFFFFFFDF, 0x0, 0x8⟩
  | .COULTER_BAY => ⟨0x0, 0x3FFFFFFFFFC0, 0x0, 0x0, 0x0, 0x0, 0x3FFFFFFFFFC0, 0x0, 0x0⟩
  | .COULTER_OVERFLOW => ⟨0x0, 0x3FFFFFFFFFC0, 0x0, 0x0, 0x0, 0x0, 0x3FFFFFFFFFC0, 0x0, 0x0⟩
  | .COULTER_RUNS => ⟨0x0, 0x1FFFFFF, 0x0, 0x0, 0x0, 0x0, 0x1FFFFFF, 0x0, 0x0⟩
  | .COULTER_STATS => ⟨0xFFFFFFFFFFFFFFFF, 0x0, 0x0, 0x0, 0x0, 0x0, 0x0, 0x0, 0x0⟩
  | .COULTER_FAULT => ⟨0x0, 0x0, 0x0, 0x8000000000000000, 0x7000FFFFFFFF01FF, 0x0, 0x0, 0x0, 0x0⟩
  | .DRILL_KV_DIR => ⟨0x0, 0x3FFFFFFF0001, 0x0, 0x0, 0x0, 0x0, 0x3FFFFFFF0001, 0x0, 0x0⟩
  | .DRILL_STATS => ⟨0xFFFFFFFFFFFFFFFF, 0x0, 0x0, 0x0, 0x0, 0x0, 0x0, 0x0, 0x0⟩
  | .DRILL_FAULT => ⟨0x0, 0x0, 0x0, 0x8000000000000000, 0x7000FFFFFFFFFFFF, 0x0, 0x0, 0x0, 0x0⟩
  | .GLEANER_CTRL => ⟨0x0, 0x80003FFFFFFFFFC0, 0x0, 0x0, 0x0, 0x0, 0x80003FFFFFFFFFC0, 0x0, 0x0⟩
  | .GLEANER_REFRESH => ⟨0x8FFFFFFFFFFFFFFF, 0x0, 0x0, 0x0, 0x0, 0x0, 0x0, 0x0, 0x110000009502F90⟩
  | .GLEANER_APPLY => ⟨0x0, 0x0, 0x8000000000000000, 0x0, 0x0, 0x0, 0x0, 0x0, 0x0⟩
  | .GLEANER_STATS => ⟨0xFFFFFFFFFFFFFFFF, 0x0, 0x0, 0x0, 0x0, 0x0, 0x0, 0x0, 0x0⟩
  | .GLEANER_CLASS_STATS => ⟨0xFFFFFFFFFFFFFFFF, 0x0, 0x0, 0x0, 0x0, 0x0, 0x0, 0x0, 0x0⟩
  | .GLEANER_FAULT => ⟨0x0, 0x0, 0x0, 0x8000000000000000, 0x7000FFFFFFFFFFFF, 0x0, 0x0, 0x0, 0x0⟩
  | .DIE_SHARED_REGION => ⟨0x0, 0xFF801FFF00001FFF, 0x0, 0x0, 0x0, 0x0, 0xFF801FFF00001FFF, 0x0, 0x0⟩
  | .DIE_SHARED_FAULT => ⟨0x0, 0x0, 0x0, 0x8000000000000000, 0x7FFFFFFF00000000, 0x0, 0x0, 0x0, 0x0⟩
  | .WINNOW_CTRL => ⟨0xFF0F3F, 0x0, 0x0, 0x0, 0x0, 0x0, 0x0, 0x0, 0x100000⟩
  | .WINNOW_STATS => ⟨0xFFFFFFFFFFFFFFFF, 0x0, 0x0, 0x0, 0x0, 0x0, 0x0, 0x0, 0x0⟩
  | .WINNOW_ERR_STATS => ⟨0xFFFFFFFFFFFFFFFF, 0x0, 0x0, 0x0, 0x0, 0x0, 0x0, 0x0, 0x0⟩
  | .WINNOW_FAULT => ⟨0x0, 0x0, 0x0, 0x8000000000000000, 0x7FFFFF001FFFFFFF, 0x0, 0x0, 0x0, 0x0⟩
  | .WINNOW_SLOT0 => ⟨0x0, 0x0, 0x0, 0x0, 0x80000000FFFFFFFF, 0x0, 0x0, 0x0, 0x0⟩
  | .WINNOW_SLOT1 => ⟨0x0, 0x0, 0x0, 0x0, 0xFFFFFFFFFFFFFFFF, 0x0, 0x0, 0x0, 0x0⟩
  | .DIE_ARRIVAL => ⟨0xFFFFFFFF, 0x0, 0x0, 0x0, 0x0, 0x0, 0x0, 0x0, 0x0⟩
  | .HARROW_CTRL => ⟨0x40FFFF0000000000, 0x8000001F00000000, 0x0, 0x0, 0x0, 0x0, 0x1F00000000, 0x8000000000000000, 0x18100200000000⟩
  | .HARROW_ECC_STATS => ⟨0xFFFFFFFFFFFFFFFF, 0x0, 0x0, 0x0, 0x0, 0x0, 0x0, 0x0, 0x0⟩
  | .HARROW_FAULT => ⟨0x0, 0x0, 0x0, 0x8000000000000000, 0x7800000FFFFFFFFF, 0x0, 0x0, 0x0, 0x0⟩

/-! Addresses: the offset of each register in register space (R485 and the offset tables of the chapters). -/

def aINT_SUMMARY : Nat := 0x0
def aINT_RAW : Nat := 0x8
def aINT_SUMMARY_MASK : Nat := 0x10
def aHEADLAND_PEND_SEL : Nat := 0x100
def aHEADLAND_PEND_DATA : Nat := 0x108
def aHEADLAND_PEND_DIFF : Nat := 0x110
def aHEADLAND_MGMT_STATUS : Nat := 0x118
def aHEADLAND_LOCAL_TIME : Nat := 0x200
def aHEADLAND_RESOURCE_SUMMARY : Nat := 0x208
def aHEADLAND_BOOT : Nat := 0x300
def aHEADLAND_ID_DIGEST (i : Nat) : Nat := 0x310 + 0x8 * i
def aHEADLAND_MEASURE (i : Nat) : Nat := 0x330 + 0x8 * i
def aHEADLAND_NVM_SRC : Nat := 0x400
def aHEADLAND_NVM_CTRL : Nat := 0x408
def aHEADLAND_NVM_STATUS : Nat := 0x410
def aHEADLAND_NVM_GEN (i : Nat) : Nat := 0x418 + 0x8 * i
def aHEADLAND_FW_CTRL : Nat := 0x500
def aHEADLAND_FW_STATUS : Nat := 0x508
def aINT_BLOCK (i : Nat) : Nat := 0x1000 + 0x40 * i
def aINT_BLOCK_MASK (i : Nat) : Nat := 0x1008 + 0x40 * i
def aINT_LEAF (i j : Nat) : Nat := 0x1010 + 0x40 * i + 0x10 * j
def aINT_LEAF_MASK (i j : Nat) : Nat := 0x1018 + 0x40 * i + 0x10 * j
def aSCARE_KEY_CTRL : Nat := 0x10000
def aSCARE_KEY_STATUS : Nat := 0x10008
def aSCARE_PUBSLOT (i : Nat) : Nat := 0x10010 + 0x8 * i
def aSCARE_DIGEST_CTRL : Nat := 0x10100
def aSCARE_DIGEST_BASE : Nat := 0x10108
def aSCARE_DIGEST_STATUS : Nat := 0x10110
def aSCARE_EPOCH (i : Nat) : Nat := 0x10200 + 0x8 * i
def aBELLOWS_CAP : Nat := 0x20000
def aBELLOWS_POWER : Nat := 0x20008
def aBELLOWS_STATE : Nat := 0x20010
def aBELLOWS_OVERCAP : Nat := 0x20018
def aBELLOWS_THERM : Nat := 0x20020
def aBELLOWS_TEMP : Nat := 0x20028
def aBELLOWS_STOP : Nat := 0x20030
def aBELLOWS_SLOPE : Nat := 0x20038
def aBELLOWS_CLASS : Nat := 0x20040
def aBELLOWS_THROUGHPUT : Nat := 0x20048
def aBELLOWS_HBM_RATE : Nat := 0x20050
def aFPLAN_SOURCE : Nat := 0x30000
def aFPLAN_CTRL : Nat := 0x30008
def aFPLAN_STATUS : Nat := 0x30010
def aFPLAN_ACTIVE : Nat := 0x30018
def aFPLAN_ACTIVE_ID : Nat := 0x30020
def aFPLAN_COMMIT_WAIT : Nat := 0x30028
def aFPLAN_FAULT : Nat := 0x30030
def aFPLAN_MEMBER (i : Nat) : Nat := 0x31000 + 0x8 * i
def aPIPER_CTRL : Nat := 0x40000
def aPIPER_SHAPE : Nat := 0x40008
def aPIPER_SESSION_BASE : Nat := 0x40010
def aPIPER_BUCKET_BASE : Nat := 0x40018
def aPIPER_STEP_AREA : Nat := 0x40020
def aPIPER_STEP : Nat := 0x40028
def aPIPER_STEP_LIMIT : Nat := 0x40030
def aPIPER_RATIO : Nat := 0x40038
def aPIPER_LADDER (i j : Nat) : Nat := 0x40100 + 0x10 * i + 0x8 * j
def aPIPER_EPOCH0 (i : Nat) : Nat := 0x40200 + 0x10 * i
def aPIPER_EPOCH1 (i : Nat) : Nat := 0x40208 + 0x10 * i
def aWINDROW_COORD : Nat := 0x50000
def aWINDROW_APPLIANCE : Nat := 0x50008
def aWINDROW_GEN : Nat := 0x50010
def aWINDROW_FAULT : Nat := 0x50020
def aWINDROW_PORT (i : Nat) : Nat := 0x50100 + 0x8 * i
def aWINDROW_VC_WEIGHT (i : Nat) : Nat := 0x50180 + 0x8 * i
def aWINDROW_LINK_CTRL (i : Nat) : Nat := 0x50200 + 0x20 * i
def aWINDROW_LINK_STATUS (i : Nat) : Nat := 0x50208 + 0x20 * i
def aWINDROW_LINK_PEER (i : Nat) : Nat := 0x50210 + 0x20 * i
def aWINDROW_LINK_STATS (i : Nat) : Nat := 0x50218 + 0x20 * i
def aWINDROW_JOB (i : Nat) : Nat := 0x51000 + 0x8 * i
def aDRONE_CTRL : Nat := 0x60000
def aDRONE_WATCHDOG : Nat := 0x60008
def aDRONE_AREA : Nat := 0x60010
def aDRONE_STATS : Nat := 0x60018
def aDRONE_FAULT : Nat := 0x60020
def aDRONE_FAULT_FP : Nat := 0x60028
def aDRONE_CTX_STATUS (i : Nat) : Nat := 0x60100 + 0x8 * i
def aDRONE_ATTEMPT (i : Nat) : Nat := 0x60200 + 0x8 * i
def aFABRIC_CTRL : Nat := 0x70000
def aFABRIC_REPLAY : Nat := 0x70008
def aFABRIC_CACHE_CTRL : Nat := 0x70010
def aFABRIC_STATS : Nat := 0x70018
def aFABRIC_FAULT : Nat := 0x70020
def aFABRIC_CACHE_RANGE (i : Nat) : Nat := 0x70040 + 0x8 * i
def aSTILE_ENDPOINT : Nat := 0x71000
def aSTILE_FAULT : Nat := 0x71008
def aSTILE_RING (i : Nat) : Nat := 0x71100 + 0x20 * i
def aSTILE_RING_HEAD (i : Nat) : Nat := 0x71108 + 0x20 * i
def aSTILE_RING_PTR (i : Nat) : Nat := 0x71110 + 0x20 * i
def aETH_PORT (i : Nat) : Nat := 0x80000 + 0x8 * i
def aINTAKE_CTRL : Nat := 0x80100
def aINTAKE_CONN_BASE : Nat := 0x80108
def aINTAKE_STATS : Nat := 0x80110
def aTIER_FALLOW_DECODE : Nat := 0x90000
def aTIER_FALLOW_WAYS : Nat := 0x90008
def aTIER_MAP_FALLOW : Nat := 0x90010
def aTIER_MAP_GRANARY : Nat := 0x90018
def aTIER_POOL (i : Nat) : Nat := 0x90020 + 0x8 * i
def aTIER_FAULT_LIMIT : Nat := 0x90038
def aTIER_STATS : Nat := 0x90040
def aTIER_FAULT : Nat := 0x90048
def aTIER_JOB : Nat := 0x90050
def aTIER_JOB_STATUS : Nat := 0x90058
def aTIER_NS0 (i : Nat) : Nat := 0x90100 + 0x10 * i
def aTIER_NS1 (i : Nat) : Nat := 0x90108 + 0x10 * i
def aTIER_EPOCH_REC (i : Nat) : Nat := 0x90200 + 0x8 * i
def aTIER_PROTECT (i : Nat) : Nat := 0x90300 + 0x8 * i
def aTIER_PEER (i : Nat) : Nat := 0x90380 + 0x8 * i
def aPCIE_PORT (i : Nat) : Nat := 0x90400 + 0x8 * i
def aTIER_CLASS (i : Nat) : Nat := 0x92000 + 0x8 * i
def aTILE_ID (d t : Nat) : Nat := 0x100000 + 0x100000 * d + 0x8000 * t + 0x0
def aTILE_GRID_COLMAP (d t : Nat) : Nat := 0x100000 + 0x100000 * d + 0x8000 * t + 0x100
def aTILE_GRID_STATS (d t : Nat) : Nat := 0x100000 + 0x100000 * d + 0x8000 * t + 0x108
def aTILE_GRID_SELFTEST (d t : Nat) : Nat := 0x100000 + 0x100000 * d + 0x8000 * t + 0x110
def aTILE_ACC_STATUS (d t : Nat) : Nat := 0x100000 + 0x100000 * d + 0x8000 * t + 0x700
def aTILE_REF_DIVERT (d t : Nat) : Nat := 0x100000 + 0x100000 * d + 0x8000 * t + 0x708
def aTILE_NORMWATCH_CTRL (d t : Nat) : Nat := 0x100000 + 0x100000 * d + 0x8000 * t + 0x800
def aTILE_NORMWATCH_LAST (d t : Nat) : Nat := 0x100000 + 0x100000 * d + 0x8000 * t + 0x808
def aTILE_NORMWATCH_TABLE (d t : Nat) (i : Nat) : Nat := 0x100000 + 0x100000 * d + 0x8000 * t + 0x1000 + 0x8 * i
def aTILE_SEEDBED_REGION (d t : Nat) (i j : Nat) : Nat := 0x100000 + 0x100000 * d + 0x8000 * t + 0x2000 + 0x40 * i + 0x8 * j
def aTILE_SEEDBED_STATS (d t : Nat) : Nat := 0x100000 + 0x100000 * d + 0x8000 * t + 0x2400
def aTILE_SEEDBED_FAULT (d t : Nat) : Nat := 0x100000 + 0x100000 * d + 0x8000 * t + 0x2408
def aCHANTER_ENGINE (d t : Nat) : Nat := 0x100000 + 0x100000 * d + 0x8000 * t + 0x3000
def aCHANTER_STATUS (d t : Nat) : Nat := 0x100000 + 0x100000 * d + 0x8000 * t + 0x3008
def aCHANTER_BUDGET (d t : Nat) : Nat := 0x100000 + 0x100000 * d + 0x8000 * t + 0x3010
def aCHANTER_UCODE (d t : Nat) : Nat := 0x100000 + 0x100000 * d + 0x8000 * t + 0x3018
def aCHANTER_STATS (d t : Nat) : Nat := 0x100000 + 0x100000 * d + 0x8000 * t + 0x3020
def aCHANTER_FAULT (d t : Nat) : Nat := 0x100000 + 0x100000 * d + 0x8000 * t + 0x3028
def aRING_BASE (d t : Nat) (i : Nat) : Nat := 0x100000 + 0x100000 * d + 0x8000 * t + 0x3100 + 0x20 * i
def aRING_CTRL (d t : Nat) (i : Nat) : Nat := 0x100000 + 0x100000 * d + 0x8000 * t + 0x3108 + 0x20 * i
def aRING_HEAD (d t : Nat) (i : Nat) : Nat := 0x100000 + 0x100000 * d + 0x8000 * t + 0x3110 + 0x20 * i
def aRING_PTR (d t : Nat) (i : Nat) : Nat := 0x100000 + 0x100000 * d + 0x8000 * t + 0x3118 + 0x20 * i
def aCHANTER_COLL_SEQ (d t : Nat) (i : Nat) : Nat := 0x100000 + 0x100000 * d + 0x8000 * t + 0x3800 + 0x8 * i
def aBELLOWS_TILE_CLOCK (d t : Nat) : Nat := 0x100000 + 0x100000 * d + 0x8000 * t + 0x4000
def aBELLOWS_TILE_CAL (d t : Nat) : Nat := 0x100000 + 0x100000 * d + 0x8000 * t + 0x4008
def aBELLOWS_TILE_STATS (d t : Nat) : Nat := 0x100000 + 0x100000 * d + 0x8000 * t + 0x4010
def aPICCOLO_TABLE (d t : Nat) : Nat := 0x100000 + 0x100000 * d + 0x8000 * t + 0x5000
def aPICCOLO_STATS (d t : Nat) : Nat := 0x100000 + 0x100000 * d + 0x8000 * t + 0x5008
def aPICCOLO_FAULT (d t : Nat) : Nat := 0x100000 + 0x100000 * d + 0x8000 * t + 0x5010
def aFIX_RING_BASE (d : Nat) (i j : Nat) : Nat := 0x1F0000 + 0x100000 * d + 0x1000 + 0x100 * i + 0x20 * j
def aFIX_RING_CTRL (d : Nat) (i j : Nat) : Nat := 0x1F0000 + 0x100000 * d + 0x1008 + 0x100 * i + 0x20 * j
def aFIX_RING_HEAD (d : Nat) (i j : Nat) : Nat := 0x1F0000 + 0x100000 * d + 0x1010 + 0x100 * i + 0x20 * j
def aFIX_RING_PTR (d : Nat) (i j : Nat) : Nat := 0x1F0000 + 0x100000 * d + 0x1018 + 0x100 * i + 0x20 * j
def aCOULTER_HOST (d : Nat) : Nat := 0x1F0000 + 0x100000 * d + 0x3000
def aCOULTER_BAY (d : Nat) : Nat := 0x1F0000 + 0x100000 * d + 0x3008
def aCOULTER_OVERFLOW (d : Nat) : Nat := 0x1F0000 + 0x100000 * d + 0x3010
def aCOULTER_RUNS (d : Nat) : Nat := 0x1F0000 + 0x100000 * d + 0x3018
def aCOULTER_STATS (d : Nat) : Nat := 0x1F0000 + 0x100000 * d + 0x3020
def aCOULTER_FAULT (d : Nat) : Nat := 0x1F0000 + 0x100000 * d + 0x3028
def aDRILL_KV_DIR (d : Nat) : Nat := 0x1F0000 + 0x100000 * d + 0x4000
def aDRILL_STATS (d : Nat) : Nat := 0x1F0000 + 0x100000 * d + 0x4008
def aDRILL_FAULT (d : Nat) : Nat := 0x1F0000 + 0x100000 * d + 0x4010
def aGLEANER_CTRL (d : Nat) : Nat := 0x1F0000 + 0x100000 * d + 0x5000
def aGLEANER_REFRESH (d : Nat) : Nat := 0x1F0000 + 0x100000 * d + 0x5008
def aGLEANER_APPLY (d : Nat) : Nat := 0x1F0000 + 0x100000 * d + 0x5010
def aGLEANER_STATS (d : Nat) : Nat := 0x1F0000 + 0x100000 * d + 0x5018
def aGLEANER_CLASS_STATS (d : Nat) : Nat := 0x1F0000 + 0x100000 * d + 0x5020
def aGLEANER_FAULT (d : Nat) : Nat := 0x1F0000 + 0x100000 * d + 0x5028
def aDIE_SHARED_REGION (d : Nat) (i j : Nat) : Nat := 0x1F0000 + 0x100000 * d + 0x6000 + 0x40 * i + 0x8 * j
def aDIE_SHARED_FAULT (d : Nat) : Nat := 0x1F0000 + 0x100000 * d + 0x6200
def aWINNOW_CTRL (d : Nat) : Nat := 0x1F0000 + 0x100000 * d + 0x7000
def aWINNOW_STATS (d : Nat) : Nat := 0x1F0000 + 0x100000 * d + 0x7008
def aWINNOW_ERR_STATS (d : Nat) : Nat := 0x1F0000 + 0x100000 * d + 0x7010
def aWINNOW_FAULT (d : Nat) : Nat := 0x1F0000 + 0x100000 * d + 0x7018
def aWINNOW_SLOT0 (d : Nat) (i : Nat) : Nat := 0x1F0000 + 0x100000 * d + 0x7110 + 0x10 * i
def aWINNOW_SLOT1 (d : Nat) (i : Nat) : Nat := 0x1F0000 + 0x100000 * d + 0x7118 + 0x10 * i
def aDIE_ARRIVAL (d : Nat) (i : Nat) : Nat := 0x1F0000 + 0x100000 * d + 0x8000 + 0x8 * i
def aHARROW_CTRL (k : Nat) : Nat := 0x900000 + 0x10000 * k + 0x0
def aHARROW_ECC_STATS (k : Nat) : Nat := 0x900000 + 0x10000 * k + 0x8
def aHARROW_FAULT (k : Nat) : Nat := 0x900000 + 0x10000 * k + 0x10

/-! Fields, by the bit ranges of the register tables. -/

def fINT_SUMMARY_BLOCK : Fld := ⟨0, 50⟩
def fINT_RAW_BLOCK : Fld := ⟨0, 50⟩
def fINT_SUMMARY_MASK_MASK : Fld := ⟨0, 50⟩
def fHEADLAND_PEND_SEL_IN_SET : Fld := ⟨63, 1⟩
def fHEADLAND_PEND_SEL_OFFSET : Fld := ⟨0, 24⟩
def fHEADLAND_PEND_DATA_DATA : Fld := ⟨0, 64⟩
def fHEADLAND_PEND_DIFF_DIFF : Fld := ⟨0, 64⟩
def fHEADLAND_MGMT_STATUS_IANA : Fld := ⟨32, 32⟩
def fHEADLAND_MGMT_STATUS_EID : Fld := ⟨24, 8⟩
def fHEADLAND_MGMT_STATUS_DYN_ADDR : Fld := ⟨10, 7⟩
def fHEADLAND_MGMT_STATUS_QUEUED : Fld := ⟨0, 5⟩
def fHEADLAND_LOCAL_TIME_COUNT : Fld := ⟨0, 64⟩
def fHEADLAND_RESOURCE_SUMMARY_STACK_MAP : Fld := ⟨32, 32⟩
def fHEADLAND_RESOURCE_SUMMARY_DIE_MAP : Fld := ⟨24, 8⟩
def fHEADLAND_RESOURCE_SUMMARY_ACTIVE_TILES : Fld := ⟨16, 8⟩
def fHEADLAND_RESOURCE_SUMMARY_LINKS_UP : Fld := ⟨10, 6⟩
def fHEADLAND_RESOURCE_SUMMARY_EDGES_DOWN : Fld := ⟨6, 4⟩
def fHEADLAND_RESOURCE_SUMMARY_BRIDGES_UP : Fld := ⟨4, 2⟩
def fHEADLAND_BOOT_BOOT_COUNT : Fld := ⟨32, 32⟩
def fHEADLAND_BOOT_RECOVERY : Fld := ⟨11, 1⟩
def fHEADLAND_BOOT_OWNED : Fld := ⟨10, 1⟩
def fHEADLAND_BOOT_CERTIFIED : Fld := ⟨9, 1⟩
def fHEADLAND_BOOT_FIRST_BOOT : Fld := ⟨8, 1⟩
def fHEADLAND_BOOT_PLAN_FALLBACK : Fld := ⟨7, 1⟩
def fHEADLAND_BOOT_FW_FALLBACK : Fld := ⟨6, 1⟩
def fHEADLAND_BOOT_PLAN_COPY : Fld := ⟨5, 1⟩
def fHEADLAND_BOOT_FW_COPY : Fld := ⟨4, 1⟩
def fHEADLAND_BOOT_STAGE : Fld := ⟨0, 4⟩
def fHEADLAND_ID_DIGEST_BYTES : Fld := ⟨0, 64⟩
def fHEADLAND_MEASURE_BYTES : Fld := ⟨0, 64⟩
def fHEADLAND_NVM_SRC_LENGTH : Fld := ⟨40, 24⟩
def fHEADLAND_NVM_SRC_ADDR : Fld := ⟨0, 40⟩
def fHEADLAND_NVM_CTRL_GENERATION : Fld := ⟨32, 32⟩
def fHEADLAND_NVM_CTRL_PARTITION : Fld := ⟨8, 4⟩
def fHEADLAND_NVM_CTRL_ACTION : Fld := ⟨0, 2⟩
def fHEADLAND_NVM_STATUS_PAGES : Fld := ⟨40, 24⟩
def fHEADLAND_NVM_STATUS_RESULT : Fld := ⟨4, 4⟩
def fHEADLAND_NVM_STATUS_STATE : Fld := ⟨0, 2⟩
def fHEADLAND_NVM_GEN_GEN1 : Fld := ⟨32, 32⟩
def fHEADLAND_NVM_GEN_GEN0 : Fld := ⟨0, 32⟩
def fHEADLAND_FW_CTRL_CONFIRM_S : Fld := ⟨48, 16⟩
def fHEADLAND_FW_CTRL_ACTION : Fld := ⟨46, 2⟩
def fHEADLAND_FW_CTRL_HANDOFF : Fld := ⟨6, 40⟩
def fHEADLAND_FW_STATUS_RUNNING_GEN : Fld := ⟨32, 32⟩
def fHEADLAND_FW_STATUS_SEC_FLOOR : Fld := ⟨16, 16⟩
def fHEADLAND_FW_STATUS_BUSY : Fld := ⟨8, 1⟩
def fHEADLAND_FW_STATUS_STATE : Fld := ⟨6, 2⟩
def fHEADLAND_FW_STATUS_RUNNING : Fld := ⟨5, 1⟩
def fINT_BLOCK_GROUP : Fld := ⟨0, 16⟩
def fINT_BLOCK_MASK_MASK : Fld := ⟨0, 16⟩
def fINT_LEAF_LEAVES : Fld := ⟨0, 64⟩
def fINT_LEAF_MASK_MASK : Fld := ⟨0, 64⟩
def fSCARE_KEY_CTRL_SLOT : Fld := ⟨56, 8⟩
def fSCARE_KEY_CTRL_ADDR : Fld := ⟨6, 40⟩
def fSCARE_KEY_CTRL_ACTION : Fld := ⟨0, 3⟩
def fSCARE_KEY_STATUS_BUSY : Fld := ⟨63, 1⟩
def fSCARE_KEY_STATUS_SLOT : Fld := ⟨48, 8⟩
def fSCARE_KEY_STATUS_RESULT : Fld := ⟨0, 8⟩
def fSCARE_PUBSLOT_VALID : Fld := ⟨63, 1⟩
def fSCARE_PUBSLOT_ROLE : Fld := ⟨60, 3⟩
def fSCARE_PUBSLOT_AUTHORITY : Fld := ⟨57, 3⟩
def fSCARE_PUBSLOT_KEY_ID : Fld := ⟨0, 32⟩
def fSCARE_DIGEST_CTRL_EPOCH : Fld := ⟨61, 3⟩
def fSCARE_DIGEST_CTRL_ACTION : Fld := ⟨46, 2⟩
def fSCARE_DIGEST_CTRL_MANIFEST : Fld := ⟨6, 40⟩
def fSCARE_DIGEST_BASE_BASE : Fld := ⟨16, 30⟩
def fSCARE_DIGEST_STATUS_STATE : Fld := ⟨62, 2⟩
def fSCARE_DIGEST_STATUS_FAIL : Fld := ⟨56, 4⟩
def fSCARE_DIGEST_STATUS_PIECE : Fld := ⟨32, 24⟩
def fSCARE_DIGEST_STATUS_DONE : Fld := ⟨0, 32⟩
def fSCARE_EPOCH_VERIFIED : Fld := ⟨63, 1⟩
def fSCARE_EPOCH_MODEL_ID : Fld := ⟨0, 32⟩
def fBELLOWS_CAP_CAP_W : Fld := ⟨48, 16⟩
def fBELLOWS_CAP_BRAKE_W : Fld := ⟨32, 16⟩
def fBELLOWS_POWER_INPUT_W : Fld := ⟨48, 16⟩
def fBELLOWS_POWER_FLOOR_W : Fld := ⟨32, 16⟩
def fBELLOWS_POWER_THROUGHPUT_W : Fld := ⟨16, 16⟩
def fBELLOWS_POWER_INPUT_CV : Fld := ⟨0, 16⟩
def fBELLOWS_STATE_D : Fld := ⟨55, 9⟩
def fBELLOWS_STATE_OVERCAP : Fld := ⟨54, 1⟩
def fBELLOWS_STATE_BRAKE : Fld := ⟨53, 1⟩
def fBELLOWS_STATE_SAG : Fld := ⟨50, 3⟩
def fBELLOWS_STATE_FLOOR : Fld := ⟨49, 1⟩
def fBELLOWS_STATE_THERMAL : Fld := ⟨48, 1⟩
def fBELLOWS_OVERCAP_TOTAL_MJ : Fld := ⟨32, 32⟩
def fBELLOWS_OVERCAP_LAST_MJ : Fld := ⟨16, 16⟩
def fBELLOWS_OVERCAP_EVENTS : Fld := ⟨0, 16⟩
def fBELLOWS_THERM_TILE_THROTTLE_C : Fld := ⟨56, 8⟩
def fBELLOWS_THERM_TILE_CRIT_C : Fld := ⟨48, 8⟩
def fBELLOWS_THERM_HBM_HOT_C : Fld := ⟨40, 8⟩
def fBELLOWS_THERM_HBM_THROTTLE_C : Fld := ⟨32, 8⟩
def fBELLOWS_THERM_HBM_CRIT_C : Fld := ⟨24, 8⟩
def fBELLOWS_THERM_INLET_MAX_C : Fld := ⟨16, 8⟩
def fBELLOWS_THERM_OUTLET_MAX_C : Fld := ⟨8, 8⟩
def fBELLOWS_THERM_OUTLET_CRIT_C : Fld := ⟨0, 8⟩
def fBELLOWS_TEMP_DIE_MAX : Fld := ⟨56, 8⟩
def fBELLOWS_TEMP_DIE : Fld := ⟨53, 3⟩
def fBELLOWS_TEMP_HBM_MAX : Fld := ⟨40, 8⟩
def fBELLOWS_TEMP_STACK : Fld := ⟨35, 5⟩
def fBELLOWS_TEMP_INLET : Fld := ⟨8, 8⟩
def fBELLOWS_TEMP_OUTLET : Fld := ⟨0, 8⟩
def fBELLOWS_STOP_STOPPED : Fld := ⟨63, 1⟩
def fBELLOWS_STOP_STOPPING : Fld := ⟨62, 1⟩
def fBELLOWS_STOP_REASON : Fld := ⟨58, 4⟩
def fBELLOWS_STOP_STOP : Fld := ⟨0, 1⟩
def fBELLOWS_SLOPE_LIMIT : Fld := ⟨0, 8⟩
def fBELLOWS_CLASS_INTERACTIVE : Fld := ⟨0, 4⟩
def fBELLOWS_THROUGHPUT_MHZ : Fld := ⟨0, 12⟩
def fBELLOWS_HBM_RATE_RATES : Fld := ⟨0, 64⟩
def fFPLAN_SOURCE_LENGTH : Fld := ⟨40, 24⟩
def fFPLAN_SOURCE_ADDR : Fld := ⟨0, 40⟩
def fFPLAN_CTRL_ACTION : Fld := ⟨0, 2⟩
def fFPLAN_STATUS_WAITING : Fld := ⟨56, 8⟩
def fFPLAN_STATUS_STAGED : Fld := ⟨32, 24⟩
def fFPLAN_STATUS_RESULT : Fld := ⟨4, 4⟩
def fFPLAN_STATUS_STATE : Fld := ⟨0, 3⟩
def fFPLAN_ACTIVE_PLAN_GENERATION : Fld := ⟨32, 32⟩
def fFPLAN_ACTIVE_COMMITS : Fld := ⟨1, 31⟩
def fFPLAN_ACTIVE_DIRECT_ALLOWED : Fld := ⟨0, 1⟩
def fFPLAN_ACTIVE_ID_PLAN_ID : Fld := ⟨0, 64⟩
def fFPLAN_COMMIT_WAIT_LIMIT : Fld := ⟨0, 32⟩
def fFPLAN_FAULT_VALID : Fld := ⟨63, 1⟩
def fFPLAN_FAULT_PHASE : Fld := ⟨61, 2⟩
def fFPLAN_FAULT_CAUSE : Fld := ⟨57, 4⟩
def fFPLAN_FAULT_STRIP : Fld := ⟨44, 13⟩
def fFPLAN_FAULT_GROUP : Fld := ⟨28, 16⟩
def fFPLAN_FAULT_TARGET : Fld := ⟨16, 8⟩
def fFPLAN_FAULT_OFFSET : Fld := ⟨0, 16⟩
def fFPLAN_MEMBER_VALID : Fld := ⟨63, 1⟩
def fFPLAN_MEMBER_ROLE : Fld := ⟨61, 2⟩
def fFPLAN_MEMBER_REPLACES : Fld := ⟨56, 5⟩
def fFPLAN_MEMBER_ENGINE : Fld := ⟨8, 4⟩
def fFPLAN_MEMBER_RANK : Fld := ⟨0, 7⟩
def fPIPER_CTRL_ENABLE : Fld := ⟨63, 1⟩
def fPIPER_CTRL_ROLE : Fld := ⟨60, 3⟩
def fPIPER_CTRL_PREFILL_POOL : Fld := ⟨59, 1⟩
def fPIPER_CTRL_LEAD : Fld := ⟨48, 9⟩
def fPIPER_CTRL_POOL_LEAD : Fld := ⟨39, 9⟩
def fPIPER_CTRL_MEMBERS : Fld := ⟨24, 7⟩
def fPIPER_CTRL_DEFAULT_EPOCH : Fld := ⟨0, 3⟩
def fPIPER_SHAPE_SLOTS : Fld := ⟨53, 11⟩
def fPIPER_SHAPE_DRAFT : Fld := ⟨51, 2⟩
def fPIPER_SHAPE_CHUNK_MAX : Fld := ⟨32, 16⟩
def fPIPER_SHAPE_POOL_MIN : Fld := ⟨16, 16⟩
def fPIPER_SESSION_BASE_BASE : Fld := ⟨16, 30⟩
def fPIPER_BUCKET_BASE_BASE : Fld := ⟨16, 30⟩
def fPIPER_STEP_AREA_DONE : Fld := ⟨48, 16⟩
def fPIPER_STEP_AREA_TILE_OFFSET : Fld := ⟨0, 25⟩
def fPIPER_STEP_STEP_SEQ : Fld := ⟨24, 40⟩
def fPIPER_STEP_RING_WAITS : Fld := ⟨12, 12⟩
def fPIPER_STEP_RERUNS : Fld := ⟨4, 8⟩
def fPIPER_STEP_STATE : Fld := ⟨0, 2⟩
def fPIPER_STEP_LIMIT_RERUN_MAX : Fld := ⟨60, 4⟩
def fPIPER_STEP_LIMIT_TIMEOUT : Fld := ⟨0, 32⟩
def fPIPER_RATIO_ENABLE : Fld := ⟨63, 1⟩
def fPIPER_RATIO_RUNG : Fld := ⟨56, 4⟩
def fPIPER_RATIO_TOP : Fld := ⟨52, 4⟩
def fPIPER_RATIO_INTERVAL : Fld := ⟨40, 12⟩
def fPIPER_RATIO_HIGH : Fld := ⟨20, 20⟩
def fPIPER_RATIO_LOW : Fld := ⟨0, 20⟩
def fPIPER_LADDER_LENGTH : Fld := ⟨40, 24⟩
def fPIPER_LADDER_ADDR : Fld := ⟨0, 40⟩
def fPIPER_EPOCH0_VALID : Fld := ⟨63, 1⟩
def fPIPER_EPOCH0_RETIRING : Fld := ⟨62, 1⟩
def fPIPER_EPOCH0_DRAINED : Fld := ⟨61, 1⟩
def fPIPER_EPOCH0_FORCED : Fld := ⟨32, 16⟩
def fPIPER_EPOCH0_MODEL_ID : Fld := ⟨0, 32⟩
def fPIPER_EPOCH1_RETIRE_DEADLINE : Fld := ⟨0, 64⟩
def fWINDROW_COORD_VALID : Fld := ⟨63, 1⟩
def fWINDROW_COORD_DIM_X : Fld := ⟨25, 3⟩
def fWINDROW_COORD_DIM_Y : Fld := ⟨22, 3⟩
def fWINDROW_COORD_DIM_Z : Fld := ⟨19, 3⟩
def fWINDROW_COORD_COORD : Fld := ⟨0, 9⟩
def fWINDROW_APPLIANCE_APPLIANCE : Fld := ⟨0, 64⟩
def fWINDROW_GEN_GEN_LOW : Fld := ⟨16, 8⟩
def fWINDROW_GEN_GEN_MAX : Fld := ⟨8, 8⟩
def fWINDROW_GEN_GEN_MIN : Fld := ⟨0, 8⟩
def fWINDROW_FAULT_VALID : Fld := ⟨63, 1⟩
def fWINDROW_FAULT_KIND : Fld := ⟨59, 4⟩
def fWINDROW_FAULT_LINK : Fld := ⟨53, 6⟩
def fWINDROW_FAULT_COORD : Fld := ⟨44, 9⟩
def fWINDROW_FAULT_JOB : Fld := ⟨36, 8⟩
def fWINDROW_PORT_VALID : Fld := ⟨63, 1⟩
def fWINDROW_PORT_DIR : Fld := ⟨56, 3⟩
def fWINDROW_VC_WEIGHT_W6 : Fld := ⟨40, 8⟩
def fWINDROW_VC_WEIGHT_W5 : Fld := ⟨32, 8⟩
def fWINDROW_VC_WEIGHT_W4 : Fld := ⟨24, 8⟩
def fWINDROW_VC_WEIGHT_W3 : Fld := ⟨16, 8⟩
def fWINDROW_VC_WEIGHT_W2 : Fld := ⟨8, 8⟩
def fWINDROW_VC_WEIGHT_W1 : Fld := ⟨0, 8⟩
def fWINDROW_LINK_CTRL_ENABLE : Fld := ⟨63, 1⟩
def fWINDROW_LINK_CTRL_FEC_MODE : Fld := ⟨62, 1⟩
def fWINDROW_LINK_CTRL_LANE_EN : Fld := ⟨58, 4⟩
def fWINDROW_LINK_CTRL_ACTION : Fld := ⟨56, 2⟩
def fWINDROW_LINK_CTRL_LANE : Fld := ⟨54, 2⟩
def fWINDROW_LINK_CTRL_RETRY_LIMIT : Fld := ⟨40, 8⟩
def fWINDROW_LINK_CTRL_PORT : Fld := ⟨36, 4⟩
def fWINDROW_LINK_STATUS_STATE : Fld := ⟨61, 3⟩
def fWINDROW_LINK_STATUS_LANES_UP : Fld := ⟨57, 4⟩
def fWINDROW_LINK_STATUS_GEN : Fld := ⟨48, 8⟩
def fWINDROW_LINK_STATUS_PORT : Fld := ⟨44, 4⟩
def fWINDROW_LINK_STATUS_QUAR_REASON : Fld := ⟨40, 4⟩
def fWINDROW_LINK_PEER_MODULE_ID : Fld := ⟨32, 32⟩
def fWINDROW_LINK_PEER_PEER_LINK : Fld := ⟨26, 6⟩
def fWINDROW_LINK_PEER_PEER_GEN_MAX : Fld := ⟨18, 8⟩
def fWINDROW_LINK_PEER_PEER_GEN_MIN : Fld := ⟨10, 8⟩
def fWINDROW_LINK_PEER_PEER_COORD : Fld := ⟨0, 9⟩
def fWINDROW_LINK_STATS_UNCORRECTED : Fld := ⟨48, 16⟩
def fWINDROW_LINK_STATS_RETRIES : Fld := ⟨32, 16⟩
def fWINDROW_LINK_STATS_CORRECTED : Fld := ⟨0, 32⟩
def fWINDROW_JOB_MEMBER : Fld := ⟨63, 1⟩
def fWINDROW_JOB_ENCRYPT : Fld := ⟨62, 1⟩
def fWINDROW_JOB_TX_GEN : Fld := ⟨61, 1⟩
def fWINDROW_JOB_KEY_SLOT1 : Fld := ⟨8, 8⟩
def fWINDROW_JOB_KEY_SLOT0 : Fld := ⟨0, 8⟩
def fDRONE_CTRL_ENABLE : Fld := ⟨63, 1⟩
def fDRONE_WATCHDOG_LIMIT : Fld := ⟨0, 32⟩
def fDRONE_AREA_WORK_LOG2 : Fld := ⟨54, 4⟩
def fDRONE_AREA_WORK : Fld := ⟨29, 25⟩
def fDRONE_AREA_SLOTS : Fld := ⟨0, 25⟩
def fDRONE_STATS_COMPLETED : Fld := ⟨32, 32⟩
def fDRONE_STATS_ABORTED : Fld := ⟨20, 12⟩
def fDRONE_STATS_RESIDUE : Fld := ⟨8, 12⟩
def fDRONE_STATS_TOMB_DROPPED : Fld := ⟨0, 8⟩
def fDRONE_FAULT_VALID : Fld := ⟨63, 1⟩
def fDRONE_FAULT_KIND : Fld := ⟨59, 4⟩
def fDRONE_FAULT_DIE : Fld := ⟨56, 3⟩
def fDRONE_FAULT_CONTEXT : Fld := ⟨51, 5⟩
def fDRONE_FAULT_GROUP : Fld := ⟨43, 8⟩
def fDRONE_FAULT_JOB : Fld := ⟨35, 8⟩
def fDRONE_FAULT_PEER : Fld := ⟨26, 9⟩
def fDRONE_FAULT_SEQ : Fld := ⟨0, 26⟩
def fDRONE_FAULT_FP_LOCAL : Fld := ⟨32, 32⟩
def fDRONE_FAULT_FP_REMOTE : Fld := ⟨0, 32⟩
def fDRONE_CTX_STATUS_STATE : Fld := ⟨62, 2⟩
def fDRONE_CTX_STATUS_JOB : Fld := ⟨54, 8⟩
def fDRONE_CTX_STATUS_GROUP : Fld := ⟨46, 8⟩
def fDRONE_CTX_STATUS_HELD : Fld := ⟨40, 6⟩
def fDRONE_CTX_STATUS_LANES : Fld := ⟨32, 8⟩
def fDRONE_CTX_STATUS_SEQ : Fld := ⟨0, 32⟩
def fDRONE_ATTEMPT_ATTEMPTS : Fld := ⟨0, 64⟩
def fFABRIC_CTRL_RETRIES : Fld := ⟨60, 4⟩
def fFABRIC_CTRL_TIMEOUT : Fld := ⟨0, 32⟩
def fFABRIC_REPLAY_ENABLE : Fld := ⟨63, 1⟩
def fFABRIC_REPLAY_BASE : Fld := ⟨16, 30⟩
def fFABRIC_CACHE_CTRL_INVALIDATE : Fld := ⟨63, 1⟩
def fFABRIC_CACHE_CTRL_INVAL_AT_STEP : Fld := ⟨62, 1⟩
def fFABRIC_CACHE_CTRL_ENABLE : Fld := ⟨61, 1⟩
def fFABRIC_STATS_REPLAYED : Fld := ⟨48, 16⟩
def fFABRIC_STATS_STALE : Fld := ⟨32, 16⟩
def fFABRIC_STATS_RESENDS : Fld := ⟨0, 32⟩
def fFABRIC_FAULT_VALID : Fld := ⟨63, 1⟩
def fFABRIC_FAULT_KIND : Fld := ⟨60, 3⟩
def fFABRIC_FAULT_DIE : Fld := ⟨57, 3⟩
def fFABRIC_FAULT_PEER : Fld := ⟨48, 9⟩
def fFABRIC_FAULT_STATUS : Fld := ⟨40, 8⟩
def fFABRIC_FAULT_TYPE : Fld := ⟨32, 8⟩
def fFABRIC_FAULT_REQ_ID : Fld := ⟨0, 32⟩
def fFABRIC_CACHE_RANGE_VALID : Fld := ⟨63, 1⟩
def fFABRIC_CACHE_RANGE_COORD : Fld := ⟨54, 9⟩
def fFABRIC_CACHE_RANGE_LIMIT : Fld := ⟨22, 22⟩
def fFABRIC_CACHE_RANGE_BASE : Fld := ⟨0, 22⟩
def fSTILE_ENDPOINT_ENABLE : Fld := ⟨63, 1⟩
def fSTILE_ENDPOINT_BASE : Fld := ⟨14, 32⟩
def fSTILE_FAULT_VALID : Fld := ⟨63, 1⟩
def fSTILE_FAULT_KIND : Fld := ⟨60, 3⟩
def fSTILE_FAULT_RING : Fld := ⟨57, 3⟩
def fSTILE_FAULT_ENDPOINT : Fld := ⟨49, 8⟩
def fSTILE_FAULT_SYNDROME : Fld := ⟨45, 4⟩
def fSTILE_FAULT_TAG : Fld := ⟨0, 32⟩
def fSTILE_RING_ENABLE : Fld := ⟨63, 1⟩
def fSTILE_RING_SIZE_LOG2 : Fld := ⟨56, 4⟩
def fSTILE_RING_BASE : Fld := ⟨6, 40⟩
def fSTILE_RING_HEAD_HALTED : Fld := ⟨63, 1⟩
def fSTILE_RING_HEAD_ACTION : Fld := ⟨48, 2⟩
def fSTILE_RING_HEAD_HEAD_ADDR : Fld := ⟨3, 43⟩
def fSTILE_RING_PTR_RERUN : Fld := ⟨32, 32⟩
def fSTILE_RING_PTR_FETCH : Fld := ⟨0, 32⟩
def fETH_PORT_ENABLE : Fld := ⟨63, 1⟩
def fETH_PORT_PFC : Fld := ⟨62, 1⟩
def fETH_PORT_PFC_PRIORITY : Fld := ⟨59, 3⟩
def fETH_PORT_KR : Fld := ⟨58, 1⟩
def fETH_PORT_UP : Fld := ⟨57, 1⟩
def fETH_PORT_MAC : Fld := ⟨0, 48⟩
def fINTAKE_CTRL_ENABLE : Fld := ⟨63, 1⟩
def fINTAKE_CTRL_PORT : Fld := ⟨32, 16⟩
def fINTAKE_CTRL_MAX_PAYLOAD : Fld := ⟨16, 16⟩
def fINTAKE_CTRL_RETX : Fld := ⟨0, 16⟩
def fINTAKE_CONN_BASE_BASE : Fld := ⟨16, 30⟩
def fINTAKE_STATS_TAG_FAIL : Fld := ⟨32, 32⟩
def fINTAKE_STATS_MALFORMED : Fld := ⟨0, 32⟩
def fTIER_FALLOW_DECODE_ENABLE : Fld := ⟨63, 1⟩
def fTIER_FALLOW_DECODE_WAYS_LOG2 : Fld := ⟨56, 3⟩
def fTIER_FALLOW_DECODE_WAY_PAGES : Fld := ⟨0, 28⟩
def fTIER_FALLOW_WAYS_WAYS : Fld := ⟨0, 64⟩
def fTIER_MAP_FALLOW_ENABLE : Fld := ⟨63, 1⟩
def fTIER_MAP_FALLOW_BASE : Fld := ⟨0, 26⟩
def fTIER_MAP_GRANARY_ENABLE : Fld := ⟨63, 1⟩
def fTIER_MAP_GRANARY_PAGES : Fld := ⟨33, 30⟩
def fTIER_MAP_GRANARY_BASE : Fld := ⟨0, 26⟩
def fTIER_POOL_ENABLE : Fld := ⟨63, 1⟩
def fTIER_POOL_SIZE : Fld := ⟨27, 28⟩
def fTIER_POOL_BASE : Fld := ⟨0, 26⟩
def fTIER_FAULT_LIMIT_LIMIT : Fld := ⟨0, 32⟩
def fTIER_STATS_FAULTS : Fld := ⟨32, 32⟩
def fTIER_STATS_EVICTIONS : Fld := ⟨0, 32⟩
def fTIER_FAULT_VALID : Fld := ⟨63, 1⟩
def fTIER_FAULT_KIND : Fld := ⟨60, 3⟩
def fTIER_FAULT_DIE : Fld := ⟨57, 3⟩
def fTIER_FAULT_RANGE : Fld := ⟨56, 1⟩
def fTIER_FAULT_PAGE : Fld := ⟨0, 29⟩
def fTIER_JOB_COUNTER : Fld := ⟨48, 16⟩
def fTIER_JOB_ACTION : Fld := ⟨46, 2⟩
def fTIER_JOB_LIST : Fld := ⟨6, 40⟩
def fTIER_JOB_STATUS_STATE : Fld := ⟨62, 2⟩
def fTIER_JOB_STATUS_QUEUED : Fld := ⟨59, 3⟩
def fTIER_JOB_STATUS_ENTRY : Fld := ⟨0, 32⟩
def fTIER_NS0_VALID : Fld := ⟨63, 1⟩
def fTIER_NS0_PORT : Fld := ⟨60, 2⟩
def fTIER_NS0_DEVICE : Fld := ⟨58, 2⟩
def fTIER_NS0_NSID : Fld := ⟨0, 32⟩
def fTIER_NS1_BASE_LBA : Fld := ⟨0, 64⟩
def fTIER_EPOCH_REC_ADDR : Fld := ⟨6, 40⟩
def fTIER_PROTECT_VALID : Fld := ⟨63, 1⟩
def fTIER_PROTECT_LIMIT : Fld := ⟨26, 26⟩
def fTIER_PROTECT_BASE : Fld := ⟨0, 26⟩
def fTIER_PEER_VALID : Fld := ⟨63, 1⟩
def fTIER_PEER_COORD : Fld := ⟨0, 9⟩
def fPCIE_PORT_BIFURCATION : Fld := ⟨62, 2⟩
def fPCIE_PORT_NVME : Fld := ⟨12, 4⟩
def fPCIE_PORT_CXL : Fld := ⟨8, 4⟩
def fPCIE_PORT_GEN6 : Fld := ⟨4, 4⟩
def fPCIE_PORT_UP : Fld := ⟨0, 4⟩
def fTIER_CLASS_VALID : Fld := ⟨63, 1⟩
def fTIER_CLASS_EVICTABLE : Fld := ⟨62, 1⟩
def fTIER_CLASS_REMOTE_OK : Fld := ⟨61, 1⟩
def fTIER_CLASS_COMPRESS_OK : Fld := ⟨60, 1⟩
def fTIER_CLASS_FAULT_POOL : Fld := ⟨58, 2⟩
def fTILE_ID_FMAX_MHZ : Fld := ⟨36, 12⟩
def fTILE_ID_ROLE : Fld := ⟨34, 2⟩
def fTILE_ID_DIE : Fld := ⟨8, 3⟩
def fTILE_ID_TILE : Fld := ⟨0, 5⟩
def fTILE_GRID_COLMAP_FAIL1_VALID : Fld := ⟨25, 1⟩
def fTILE_GRID_COLMAP_FAIL1 : Fld := ⟨16, 9⟩
def fTILE_GRID_COLMAP_FAIL0_VALID : Fld := ⟨9, 1⟩
def fTILE_GRID_COLMAP_FAIL0 : Fld := ⟨0, 9⟩
def fTILE_GRID_STATS_STRETCH : Fld := ⟨32, 32⟩
def fTILE_GRID_STATS_HOLD : Fld := ⟨0, 32⟩
def fTILE_GRID_SELFTEST_START : Fld := ⟨63, 1⟩
def fTILE_GRID_SELFTEST_DONE : Fld := ⟨62, 1⟩
def fTILE_GRID_SELFTEST_LOGIC_FAIL : Fld := ⟨61, 1⟩
def fTILE_GRID_SELFTEST_FAIL_COUNT : Fld := ⟨48, 8⟩
def fTILE_GRID_SELFTEST_FAIL_B : Fld := ⟨16, 9⟩
def fTILE_GRID_SELFTEST_FAIL_A : Fld := ⟨0, 9⟩
def fTILE_ACC_STATUS_FIRST_CE : Fld := ⟨4, 4⟩
def fTILE_ACC_STATUS_REF_SCALAR : Fld := ⟨2, 1⟩
def fTILE_ACC_STATUS_NAN : Fld := ⟨1, 1⟩
def fTILE_ACC_STATUS_OVF : Fld := ⟨0, 1⟩
def fTILE_REF_DIVERT_COUNT : Fld := ⟨0, 64⟩
def fTILE_NORMWATCH_CTRL_RATIO : Fld := ⟨48, 16⟩
def fTILE_NORMWATCH_CTRL_WARMUP : Fld := ⟨40, 8⟩
def fTILE_NORMWATCH_CTRL_ALPHA_SHIFT : Fld := ⟨36, 4⟩
def fTILE_NORMWATCH_CTRL_ENABLE : Fld := ⟨0, 1⟩
def fTILE_NORMWATCH_LAST_OBSERVED : Fld := ⟨32, 32⟩
def fTILE_NORMWATCH_LAST_SLOT : Fld := ⟨16, 10⟩
def fTILE_NORMWATCH_LAST_LAYER : Fld := ⟨8, 8⟩
def fTILE_NORMWATCH_TABLE_REF : Fld := ⟨32, 32⟩
def fTILE_NORMWATCH_TABLE_SAMPLES : Fld := ⟨16, 16⟩
def fTILE_NORMWATCH_TABLE_JUMPS : Fld := ⟨0, 16⟩
def fTILE_SEEDBED_REGION_VALID : Fld := ⟨63, 1⟩
def fTILE_SEEDBED_REGION_READ : Fld := ⟨62, 1⟩
def fTILE_SEEDBED_REGION_WRITE : Fld := ⟨61, 1⟩
def fTILE_SEEDBED_REGION_EVICTABLE : Fld := ⟨60, 1⟩
def fTILE_SEEDBED_REGION_LIMIT : Fld := ⟨32, 13⟩
def fTILE_SEEDBED_REGION_BASE : Fld := ⟨0, 13⟩
def fTILE_SEEDBED_STATS_CORRECTED : Fld := ⟨32, 32⟩
def fTILE_SEEDBED_STATS_STARVE : Fld := ⟨0, 32⟩
def fTILE_SEEDBED_FAULT_VALID : Fld := ⟨63, 1⟩
def fTILE_SEEDBED_FAULT_MASTER : Fld := ⟨59, 4⟩
def fTILE_SEEDBED_FAULT_WRITE : Fld := ⟨58, 1⟩
def fTILE_SEEDBED_FAULT_KIND : Fld := ⟨56, 2⟩
def fTILE_SEEDBED_FAULT_BANK : Fld := ⟨50, 6⟩
def fTILE_SEEDBED_FAULT_ROW : Fld := ⟨37, 13⟩
def fCHANTER_ENGINE_MEMBER : Fld := ⟨63, 1⟩
def fCHANTER_ENGINE_RANKS : Fld := ⟨16, 8⟩
def fCHANTER_ENGINE_RANK : Fld := ⟨8, 8⟩
def fCHANTER_ENGINE_ENGINE : Fld := ⟨0, 4⟩
def fCHANTER_STATUS_UCODE_VERSION : Fld := ⟨8, 16⟩
def fCHANTER_STATUS_UCODE_BANK : Fld := ⟨7, 1⟩
def fCHANTER_STATUS_OPEN : Fld := ⟨6, 1⟩
def fCHANTER_STATUS_STATE : Fld := ⟨4, 2⟩
def fCHANTER_STATUS_RING : Fld := ⟨0, 3⟩
def fCHANTER_BUDGET_PREEMPT_WAIT : Fld := ⟨48, 16⟩
def fCHANTER_BUDGET_HARD_LIMIT : Fld := ⟨24, 24⟩
def fCHANTER_BUDGET_LIMIT : Fld := ⟨0, 20⟩
def fCHANTER_UCODE_VERSION_B : Fld := ⟨48, 16⟩
def fCHANTER_UCODE_VERSION_A : Fld := ⟨32, 16⟩
def fCHANTER_UCODE_B_VALID : Fld := ⟨2, 1⟩
def fCHANTER_UCODE_A_VALID : Fld := ⟨1, 1⟩
def fCHANTER_UCODE_SELECT : Fld := ⟨0, 1⟩
def fCHANTER_STATS_KILLS : Fld := ⟨48, 16⟩
def fCHANTER_STATS_OVERLONG : Fld := ⟨32, 16⟩
def fCHANTER_STATS_EMPTY : Fld := ⟨16, 16⟩
def fCHANTER_STATS_HALTS : Fld := ⟨0, 16⟩
def fCHANTER_FAULT_VALID : Fld := ⟨63, 1⟩
def fCHANTER_FAULT_RING : Fld := ⟨60, 3⟩
def fCHANTER_FAULT_REASON : Fld := ⟨56, 4⟩
def fCHANTER_FAULT_OPCODE : Fld := ⟨48, 8⟩
def fCHANTER_FAULT_TAG : Fld := ⟨32, 16⟩
def fCHANTER_FAULT_ENTRY : Fld := ⟨0, 32⟩
def fRING_BASE_BASE : Fld := ⟨6, 40⟩
def fRING_CTRL_ENABLE : Fld := ⟨63, 1⟩
def fRING_CTRL_CLASS : Fld := ⟨56, 2⟩
def fRING_CTRL_SIZE_LOG2 : Fld := ⟨48, 5⟩
def fRING_CTRL_JOB : Fld := ⟨40, 8⟩
def fRING_CTRL_QUANTUM : Fld := ⟨32, 8⟩
def fRING_HEAD_HALTED : Fld := ⟨63, 1⟩
def fRING_HEAD_REASON : Fld := ⟨56, 4⟩
def fRING_HEAD_ACTION : Fld := ⟨48, 2⟩
def fRING_HEAD_HEAD : Fld := ⟨0, 32⟩
def fRING_PTR_RERUN : Fld := ⟨32, 32⟩
def fRING_PTR_FETCH : Fld := ⟨0, 32⟩
def fCHANTER_COLL_SEQ_SEQ : Fld := ⟨0, 32⟩
def fBELLOWS_TILE_CLOCK_FMAX_MHZ : Fld := ⟨52, 12⟩
def fBELLOWS_TILE_CLOCK_CUR_MHZ : Fld := ⟨40, 12⟩
def fBELLOWS_TILE_CLOCK_CLASS : Fld := ⟨39, 1⟩
def fBELLOWS_TILE_CLOCK_LIMIT : Fld := ⟨36, 3⟩
def fBELLOWS_TILE_CAL_START : Fld := ⟨63, 1⟩
def fBELLOWS_TILE_CAL_DONE : Fld := ⟨62, 1⟩
def fBELLOWS_TILE_CAL_FOUND_MHZ : Fld := ⟨40, 12⟩
def fBELLOWS_TILE_CAL_GUARD_MHZ : Fld := ⟨32, 8⟩
def fBELLOWS_TILE_STATS_PACE : Fld := ⟨32, 32⟩
def fBELLOWS_TILE_STATS_BALLAST : Fld := ⟨16, 16⟩
def fBELLOWS_TILE_STATS_DROOP : Fld := ⟨0, 16⟩
def fPICCOLO_TABLE_ENABLE : Fld := ⟨63, 1⟩
def fPICCOLO_TABLE_BASE : Fld := ⟨6, 40⟩
def fPICCOLO_STATS_ADAPTED_ROWS : Fld := ⟨32, 32⟩
def fPICCOLO_STATS_PASSES : Fld := ⟨0, 32⟩
def fPICCOLO_FAULT_VALID : Fld := ⟨63, 1⟩
def fPICCOLO_FAULT_KIND : Fld := ⟨60, 3⟩
def fPICCOLO_FAULT_ADAPTER : Fld := ⟨32, 16⟩
def fPICCOLO_FAULT_SITE : Fld := ⟨16, 16⟩
def fPICCOLO_FAULT_ROW : Fld := ⟨0, 10⟩
def fCOULTER_HOST_ENABLE : Fld := ⟨63, 1⟩
def fCOULTER_HOST_ENGINE : Fld := ⟨59, 4⟩
def fCOULTER_HOST_BAY_ROWS : Fld := ⟨48, 11⟩
def fCOULTER_HOST_TABLE : Fld := ⟨6, 40⟩
def fCOULTER_HOST_WINDOWS : Fld := ⟨0, 5⟩
def fCOULTER_BAY_BASE : Fld := ⟨6, 40⟩
def fCOULTER_OVERFLOW_BASE : Fld := ⟨6, 40⟩
def fCOULTER_RUNS_OFFSET : Fld := ⟨0, 25⟩
def fCOULTER_STATS_SPILLED : Fld := ⟨32, 32⟩
def fCOULTER_STATS_ROUTED : Fld := ⟨0, 32⟩
def fCOULTER_FAULT_VALID : Fld := ⟨63, 1⟩
def fCOULTER_FAULT_KIND : Fld := ⟨60, 3⟩
def fCOULTER_FAULT_LAYER : Fld := ⟨32, 16⟩
def fCOULTER_FAULT_EXPERT : Fld := ⟨16, 16⟩
def fCOULTER_FAULT_SOURCE : Fld := ⟨0, 9⟩
def fDRILL_KV_DIR_BASE : Fld := ⟨16, 30⟩
def fDRILL_KV_DIR_ENABLE : Fld := ⟨0, 1⟩
def fDRILL_STATS_ROWS_WRITTEN : Fld := ⟨32, 32⟩
def fDRILL_STATS_ROWS_SKIPPED : Fld := ⟨0, 32⟩
def fDRILL_FAULT_VALID : Fld := ⟨63, 1⟩
def fDRILL_FAULT_KIND : Fld := ⟨60, 3⟩
def fDRILL_FAULT_SESSION : Fld := ⟨32, 16⟩
def fDRILL_FAULT_POSITION : Fld := ⟨0, 32⟩
def fGLEANER_CTRL_HOME : Fld := ⟨63, 1⟩
def fGLEANER_CTRL_REGISTRY : Fld := ⟨6, 40⟩
def fGLEANER_REFRESH_ENABLE : Fld := ⟨63, 1⟩
def fGLEANER_REFRESH_DECAY : Fld := ⟨56, 4⟩
def fGLEANER_REFRESH_BATCH : Fld := ⟨40, 16⟩
def fGLEANER_REFRESH_INTERVAL : Fld := ⟨0, 40⟩
def fGLEANER_APPLY_APPLY : Fld := ⟨63, 1⟩
def fGLEANER_STATS_READS : Fld := ⟨32, 32⟩
def fGLEANER_STATS_COALESCED : Fld := ⟨0, 32⟩
def fGLEANER_CLASS_STATS_MOVED : Fld := ⟨32, 32⟩
def fGLEANER_CLASS_STATS_DENIED : Fld := ⟨0, 32⟩
def fGLEANER_FAULT_VALID : Fld := ⟨63, 1⟩
def fGLEANER_FAULT_KIND : Fld := ⟨60, 3⟩
def fGLEANER_FAULT_TABLE_ID : Fld := ⟨40, 8⟩
def fGLEANER_FAULT_ROW : Fld := ⟨0, 40⟩
def fDIE_SHARED_REGION_VALID : Fld := ⟨63, 1⟩
def fDIE_SHARED_REGION_READ : Fld := ⟨62, 1⟩
def fDIE_SHARED_REGION_WRITE : Fld := ⟨61, 1⟩
def fDIE_SHARED_REGION_EVICTABLE : Fld := ⟨60, 1⟩
def fDIE_SHARED_REGION_LIMIT : Fld := ⟨32, 13⟩
def fDIE_SHARED_REGION_BASE : Fld := ⟨0, 13⟩
def fDIE_SHARED_REGION_TILE : Fld := ⟨55, 5⟩
def fDIE_SHARED_FAULT_VALID : Fld := ⟨63, 1⟩
def fDIE_SHARED_FAULT_MASTER : Fld := ⟨59, 4⟩
def fDIE_SHARED_FAULT_WRITE : Fld := ⟨58, 1⟩
def fDIE_SHARED_FAULT_KIND : Fld := ⟨56, 2⟩
def fDIE_SHARED_FAULT_BANK : Fld := ⟨50, 6⟩
def fDIE_SHARED_FAULT_ROW : Fld := ⟨37, 13⟩
def fDIE_SHARED_FAULT_TILE : Fld := ⟨32, 5⟩
def fWINNOW_CTRL_MIN_SAVING : Fld := ⟨16, 8⟩
def fWINNOW_CTRL_MIGRATE_SLOT : Fld := ⟨8, 4⟩
def fWINNOW_CTRL_LINK_ENABLE : Fld := ⟨0, 6⟩
def fWINNOW_STATS_COMPRESSED : Fld := ⟨32, 32⟩
def fWINNOW_STATS_RAW : Fld := ⟨0, 32⟩
def fWINNOW_ERR_STATS_SIZE : Fld := ⟨48, 16⟩
def fWINNOW_ERR_STATS_CODE : Fld := ⟨32, 16⟩
def fWINNOW_ERR_STATS_TABLE : Fld := ⟨16, 16⟩
def fWINNOW_ERR_STATS_RECOVERED : Fld := ⟨0, 16⟩
def fWINNOW_FAULT_VALID : Fld := ⟨63, 1⟩
def fWINNOW_FAULT_KIND : Fld := ⟨60, 3⟩
def fWINNOW_FAULT_UNIT : Fld := ⟨59, 1⟩
def fWINNOW_FAULT_LINK : Fld := ⟨53, 6⟩
def fWINNOW_FAULT_SLOT : Fld := ⟨49, 4⟩
def fWINNOW_FAULT_SOURCE : Fld := ⟨40, 9⟩
def fWINNOW_FAULT_PAGE : Fld := ⟨0, 29⟩
def fWINNOW_SLOT0_VALID : Fld := ⟨63, 1⟩
def fWINNOW_SLOT0_GENERATION : Fld := ⟨0, 32⟩
def fWINNOW_SLOT1_TABLE_ID : Fld := ⟨0, 64⟩
def fDIE_ARRIVAL_COUNT : Fld := ⟨0, 32⟩
def fHARROW_CTRL_IN_SERVICE : Fld := ⟨63, 1⟩
def fHARROW_CTRL_RETIRING : Fld := ⟨62, 1⟩
def fHARROW_CTRL_SCRUB_HOURS : Fld := ⟨48, 8⟩
def fHARROW_CTRL_WEAK_LIMIT : Fld := ⟨40, 8⟩
def fHARROW_CTRL_ENGINE_MIB : Fld := ⟨32, 5⟩
def fHARROW_ECC_STATS_CORRECTED : Fld := ⟨32, 32⟩
def fHARROW_ECC_STATS_UNCORRECTED : Fld := ⟨0, 32⟩
def fHARROW_FAULT_VALID : Fld := ⟨63, 1⟩
def fHARROW_FAULT_KIND : Fld := ⟨61, 2⟩
def fHARROW_FAULT_SCRUB : Fld := ⟨60, 1⟩
def fHARROW_FAULT_BUFFER : Fld := ⟨59, 1⟩
def fHARROW_FAULT_OFFSET : Fld := ⟨0, 36⟩

/-- An offset inside an array of registers: its index when it falls on one. -/
def arrayIdx (off base count stride : Nat) : Option Nat :=
  if base ≤ off ∧ (off - base) % stride = 0 ∧ (off - base) / stride < count then some ((off - base) / stride) else none

/-- An offset inside a two-dimensional array of registers. -/
def arrayIdx2 (off base c1 s1 c2 s2 : Nat) : Option (Nat × Nat) :=
  if base ≤ off ∧ (off - base) / s1 < c1 ∧ ((off - base) % s1) % s2 = 0 ∧ ((off - base) % s1) / s2 < c2 then
    some ((off - base) / s1, ((off - base) % s1) / s2) else none

/-- A place in the register map: the register, the unit that holds it (18 × die + tile, die or stack; 0 in a Headland-side
block) and its index within an array. -/
structure RegPlace where
  name : RegName
  unit : Nat
  i : Nat
  j : Nat
  deriving DecidableEq, Repr

/-- The headland block: rows (register, offset, count and stride of the first index, count and stride of the second). -/
def headlandMap : List (RegName × Nat × Nat × Nat × Nat × Nat) :=
  [(.INT_SUMMARY, 0x0, 1, 0x10, 1, 0x8),
   (.INT_RAW, 0x8, 1, 0x10, 1, 0x8),
   (.INT_SUMMARY_MASK, 0x10, 1, 0x10, 1, 0x8),
   (.HEADLAND_PEND_SEL, 0x100, 1, 0x10, 1, 0x8),
   (.HEADLAND_PEND_DATA, 0x108, 1, 0x10, 1, 0x8),
   (.HEADLAND_PEND_DIFF, 0x110, 1, 0x10, 1, 0x8),
   (.HEADLAND_MGMT_STATUS, 0x118, 1, 0x10, 1, 0x8),
   (.HEADLAND_LOCAL_TIME, 0x200, 1, 0x10, 1, 0x8),
   (.HEADLAND_RESOURCE_SUMMARY, 0x208, 1, 0x10, 1, 0x8),
   (.HEADLAND_BOOT, 0x300, 1, 0x10, 1, 0x8),
   (.HEADLAND_ID_DIGEST, 0x310, 4, 0x8, 1, 0x8),
   (.HEADLAND_MEASURE, 0x330, 4, 0x8, 1, 0x8),
   (.HEADLAND_NVM_SRC, 0x400, 1, 0x10, 1, 0x8),
   (.HEADLAND_NVM_CTRL, 0x408, 1, 0x10, 1, 0x8),
   (.HEADLAND_NVM_STATUS, 0x410, 1, 0x10, 1, 0x8),
   (.HEADLAND_NVM_GEN, 0x418, 4, 0x8, 1, 0x8),
   (.HEADLAND_FW_CTRL, 0x500, 1, 0x10, 1, 0x8),
   (.HEADLAND_FW_STATUS, 0x508, 1, 0x10, 1, 0x8),
   (.INT_BLOCK, 0x1000, 50, 0x40, 1, 0x8),
   (.INT_BLOCK_MASK, 0x1008, 50, 0x40, 1, 0x8),
   (.INT_LEAF, 0x1010, 50, 0x40, 2, 0x10),
   (.INT_LEAF_MASK, 0x1018, 50, 0x40, 2, 0x10)]

/-- The scarecrow block: rows (register, offset, count and stride of the first index, count and stride of the second). -/
def scarecrowMap : List (RegName × Nat × Nat × Nat × Nat × Nat) :=
  [(.SCARE_KEY_CTRL, 0x10000, 1, 0x10, 1, 0x8),
   (.SCARE_KEY_STATUS, 0x10008, 1, 0x10, 1, 0x8),
   (.SCARE_PUBSLOT, 0x10010, 6, 0x8, 1, 0x8),
   (.SCARE_DIGEST_CTRL, 0x10100, 1, 0x10, 1, 0x8),
   (.SCARE_DIGEST_BASE, 0x10108, 1, 0x10, 1, 0x8),
   (.SCARE_DIGEST_STATUS, 0x10110, 1, 0x10, 1, 0x8),
   (.SCARE_EPOCH, 0x10200, 8, 0x8, 1, 0x8)]

/-- The bellows block: rows (register, offset, count and stride of the first index, count and stride of the second). -/
def bellowsMap : List (RegName × Nat × Nat × Nat × Nat × Nat) :=
  [(.BELLOWS_CAP, 0x20000, 1, 0x10, 1, 0x8),
   (.BELLOWS_POWER, 0x20008, 1, 0x10, 1, 0x8),
   (.BELLOWS_STATE, 0x20010, 1, 0x10, 1, 0x8),
   (.BELLOWS_OVERCAP, 0x20018, 1, 0x10, 1, 0x8),
   (.BELLOWS_THERM, 0x20020, 1, 0x10, 1, 0x8),
   (.BELLOWS_TEMP, 0x20028, 1, 0x10, 1, 0x8),
   (.BELLOWS_STOP, 0x20030, 1, 0x10, 1, 0x8),
   (.BELLOWS_SLOPE, 0x20038, 1, 0x10, 1, 0x8),
   (.BELLOWS_CLASS, 0x20040, 1, 0x10, 1, 0x8),
   (.BELLOWS_THROUGHPUT, 0x20048, 1, 0x10, 1, 0x8),
   (.BELLOWS_HBM_RATE, 0x20050, 1, 0x10, 1, 0x8)]

/-- The fplan block: rows (register, offset, count and stride of the first index, count and stride of the second). -/
def fplanMap : List (RegName × Nat × Nat × Nat × Nat × Nat) :=
  [(.FPLAN_SOURCE, 0x30000, 1, 0x10, 1, 0x8),
   (.FPLAN_CTRL, 0x30008, 1, 0x10, 1, 0x8),
   (.FPLAN_STATUS, 0x30010, 1, 0x10, 1, 0x8),
   (.FPLAN_ACTIVE, 0x30018, 1, 0x10, 1, 0x8),
   (.FPLAN_ACTIVE_ID, 0x30020, 1, 0x10, 1, 0x8),
   (.FPLAN_COMMIT_WAIT, 0x30028, 1, 0x10, 1, 0x8),
   (.FPLAN_FAULT, 0x30030, 1, 0x10, 1, 0x8),
   (.FPLAN_MEMBER, 0x31000, 144, 0x8, 1, 0x8)]

/-- The piper block: rows (register, offset, count and stride of the first index, count and stride of the second). -/
def piperMap : List (RegName × Nat × Nat × Nat × Nat × Nat) :=
  [(.PIPER_CTRL, 0x40000, 1, 0x10, 1, 0x8),
   (.PIPER_SHAPE, 0x40008, 1, 0x10, 1, 0x8),
   (.PIPER_SESSION_BASE, 0x40010, 1, 0x10, 1, 0x8),
   (.PIPER_BUCKET_BASE, 0x40018, 1, 0x10, 1, 0x8),
   (.PIPER_STEP_AREA, 0x40020, 1, 0x10, 1, 0x8),
   (.PIPER_STEP, 0x40028, 1, 0x10, 1, 0x8),
   (.PIPER_STEP_LIMIT, 0x40030, 1, 0x10, 1, 0x8),
   (.PIPER_RATIO, 0x40038, 1, 0x10, 1, 0x8),
   (.PIPER_LADDER, 0x40100, 16, 0x10, 2, 0x8),
   (.PIPER_EPOCH0, 0x40200, 8, 0x10, 1, 0x8),
   (.PIPER_EPOCH1, 0x40208, 8, 0x10, 1, 0x8)]

/-- The windrow block: rows (register, offset, count and stride of the first index, count and stride of the second). -/
def windrowMap : List (RegName × Nat × Nat × Nat × Nat × Nat) :=
  [(.WINDROW_COORD, 0x50000, 1, 0x10, 1, 0x8),
   (.WINDROW_APPLIANCE, 0x50008, 1, 0x10, 1, 0x8),
   (.WINDROW_GEN, 0x50010, 1, 0x10, 1, 0x8),
   (.WINDROW_FAULT, 0x50020, 1, 0x10, 1, 0x8),
   (.WINDROW_PORT, 0x50100, 12, 0x8, 1, 0x8),
   (.WINDROW_VC_WEIGHT, 0x50180, 12, 0x8, 1, 0x8),
   (.WINDROW_LINK_CTRL, 0x50200, 36, 0x20, 1, 0x8),
   (.WINDROW_LINK_STATUS, 0x50208, 36, 0x20, 1, 0x8),
   (.WINDROW_LINK_PEER, 0x50210, 36, 0x20, 1, 0x8),
   (.WINDROW_LINK_STATS, 0x50218, 36, 0x20, 1, 0x8),
   (.WINDROW_JOB, 0x51000, 256, 0x8, 1, 0x8)]

/-- The drone block: rows (register, offset, count and stride of the first index, count and stride of the second). -/
def droneMap : List (RegName × Nat × Nat × Nat × Nat × Nat) :=
  [(.DRONE_CTRL, 0x60000, 1, 0x10, 1, 0x8),
   (.DRONE_WATCHDOG, 0x60008, 1, 0x10, 1, 0x8),
   (.DRONE_AREA, 0x60010, 1, 0x10, 1, 0x8),
   (.DRONE_STATS, 0x60018, 1, 0x10, 1, 0x8),
   (.DRONE_FAULT, 0x60020, 1, 0x10, 1, 0x8),
   (.DRONE_FAULT_FP, 0x60028, 1, 0x10, 1, 0x8),
   (.DRONE_CTX_STATUS, 0x60100, 32, 0x8, 1, 0x8),
   (.DRONE_ATTEMPT, 0x60200, 16, 0x8, 1, 0x8)]

/-- The stile block: rows (register, offset, count and stride of the first index, count and stride of the second). -/
def stileMap : List (RegName × Nat × Nat × Nat × Nat × Nat) :=
  [(.FABRIC_CTRL, 0x70000, 1, 0x10, 1, 0x8),
   (.FABRIC_REPLAY, 0x70008, 1, 0x10, 1, 0x8),
   (.FABRIC_CACHE_CTRL, 0x70010, 1, 0x10, 1, 0x8),
   (.FABRIC_STATS, 0x70018, 1, 0x10, 1, 0x8),
   (.FABRIC_FAULT, 0x70020, 1, 0x10, 1, 0x8),
   (.FABRIC_CACHE_RANGE, 0x70040, 8, 0x8, 1, 0x8),
   (.STILE_ENDPOINT, 0x71000, 1, 0x10, 1, 0x8),
   (.STILE_FAULT, 0x71008, 1, 0x10, 1, 0x8),
   (.STILE_RING, 0x71100, 8, 0x20, 1, 0x8),
   (.STILE_RING_HEAD, 0x71108, 8, 0x20, 1, 0x8),
   (.STILE_RING_PTR, 0x71110, 8, 0x20, 1, 0x8)]

/-- The ethernet block: rows (register, offset, count and stride of the first index, count and stride of the second). -/
def ethernetMap : List (RegName × Nat × Nat × Nat × Nat × Nat) :=
  [(.ETH_PORT, 0x80000, 2, 0x8, 1, 0x8),
   (.INTAKE_CTRL, 0x80100, 1, 0x10, 1, 0x8),
   (.INTAKE_CONN_BASE, 0x80108, 1, 0x10, 1, 0x8),
   (.INTAKE_STATS, 0x80110, 1, 0x10, 1, 0x8)]

/-- The tier block: rows (register, offset, count and stride of the first index, count and stride of the second). -/
def tierMap : List (RegName × Nat × Nat × Nat × Nat × Nat) :=
  [(.TIER_FALLOW_DECODE, 0x90000, 1, 0x10, 1, 0x8),
   (.TIER_FALLOW_WAYS, 0x90008, 1, 0x10, 1, 0x8),
   (.TIER_MAP_FALLOW, 0x90010, 1, 0x10, 1, 0x8),
   (.TIER_MAP_GRANARY, 0x90018, 1, 0x10, 1, 0x8),
   (.TIER_POOL, 0x90020, 3, 0x8, 1, 0x8),
   (.TIER_FAULT_LIMIT, 0x90038, 1, 0x10, 1, 0x8),
   (.TIER_STATS, 0x90040, 1, 0x10, 1, 0x8),
   (.TIER_FAULT, 0x90048, 1, 0x10, 1, 0x8),
   (.TIER_JOB, 0x90050, 1, 0x10, 1, 0x8),
   (.TIER_JOB_STATUS, 0x90058, 1, 0x10, 1, 0x8),
   (.TIER_NS0, 0x90100, 8, 0x10, 1, 0x8),
   (.TIER_NS1, 0x90108, 8, 0x10, 1, 0x8),
   (.TIER_EPOCH_REC, 0x90200, 8, 0x8, 1, 0x8),
   (.TIER_PROTECT, 0x90300, 16, 0x8, 1, 0x8),
   (.TIER_PEER, 0x90380, 8, 0x8, 1, 0x8),
   (.PCIE_PORT, 0x90400, 4, 0x8, 1, 0x8),
   (.TIER_CLASS, 0x92000, 256, 0x8, 1, 0x8)]

/-- A tile block: rows (register, offset, count and stride of the first index, count and stride of the second). -/
def tileMap : List (RegName × Nat × Nat × Nat × Nat × Nat) :=
  [(.TILE_ID, 0x0, 1, 0x10, 1, 0x8),
   (.TILE_GRID_COLMAP, 0x100, 1, 0x10, 1, 0x8),
   (.TILE_GRID_STATS, 0x108, 1, 0x10, 1, 0x8),
   (.TILE_GRID_SELFTEST, 0x110, 1, 0x10, 1, 0x8),
   (.TILE_ACC_STATUS, 0x700, 1, 0x10, 1, 0x8),
   (.TILE_REF_DIVERT, 0x708, 1, 0x10, 1, 0x8),
   (.TILE_NORMWATCH_CTRL, 0x800, 1, 0x10, 1, 0x8),
   (.TILE_NORMWATCH_LAST, 0x808, 1, 0x10, 1, 0x8),
   (.TILE_NORMWATCH_TABLE, 0x1000, 256, 0x8, 1, 0x8),
   (.TILE_SEEDBED_REGION, 0x2000, 10, 0x40, 8, 0x8),
   (.TILE_SEEDBED_STATS, 0x2400, 1, 0x10, 1, 0x8),
   (.TILE_SEEDBED_FAULT, 0x2408, 1, 0x10, 1, 0x8),
   (.CHANTER_ENGINE, 0x3000, 1, 0x10, 1, 0x8),
   (.CHANTER_STATUS, 0x3008, 1, 0x10, 1, 0x8),
   (.CHANTER_BUDGET, 0x3010, 1, 0x10, 1, 0x8),
   (.CHANTER_UCODE, 0x3018, 1, 0x10, 1, 0x8),
   (.CHANTER_STATS, 0x3020, 1, 0x10, 1, 0x8),
   (.CHANTER_FAULT, 0x3028, 1, 0x10, 1, 0x8),
   (.RING_BASE, 0x3100, 8, 0x20, 1, 0x8),
   (.RING_CTRL, 0x3108, 8, 0x20, 1, 0x8),
   (.RING_HEAD, 0x3110, 8, 0x20, 1, 0x8),
   (.RING_PTR, 0x3118, 8, 0x20, 1, 0x8),
   (.CHANTER_COLL_SEQ, 0x3800, 256, 0x8, 1, 0x8),
   (.BELLOWS_TILE_CLOCK, 0x4000, 1, 0x10, 1, 0x8),
   (.BELLOWS_TILE_CAL, 0x4008, 1, 0x10, 1, 0x8),
   (.BELLOWS_TILE_STATS, 0x4010, 1, 0x10, 1, 0x8),
   (.PICCOLO_TABLE, 0x5000, 1, 0x10, 1, 0x8),
   (.PICCOLO_STATS, 0x5008, 1, 0x10, 1, 0x8),
   (.PICCOLO_FAULT, 0x5010, 1, 0x10, 1, 0x8)]

/-- A die fabric block: rows (register, offset, count and stride of the first index, count and stride of the second). -/
def dieMap : List (RegName × Nat × Nat × Nat × Nat × Nat) :=
  [(.FIX_RING_BASE, 0x1000, 4, 0x100, 4, 0x20),
   (.FIX_RING_CTRL, 0x1008, 4, 0x100, 4, 0x20),
   (.FIX_RING_HEAD, 0x1010, 4, 0x100, 4, 0x20),
   (.FIX_RING_PTR, 0x1018, 4, 0x100, 4, 0x20),
   (.COULTER_HOST, 0x3000, 1, 0x10, 1, 0x8),
   (.COULTER_BAY, 0x3008, 1, 0x10, 1, 0x8),
   (.COULTER_OVERFLOW, 0x3010, 1, 0x10, 1, 0x8),
   (.COULTER_RUNS, 0x3018, 1, 0x10, 1, 0x8),
   (.COULTER_STATS, 0x3020, 1, 0x10, 1, 0x8),
   (.COULTER_FAULT, 0x3028, 1, 0x10, 1, 0x8),
   (.DRILL_KV_DIR, 0x4000, 1, 0x10, 1, 0x8),
   (.DRILL_STATS, 0x4008, 1, 0x10, 1, 0x8),
   (.DRILL_FAULT, 0x4010, 1, 0x10, 1, 0x8),
   (.GLEANER_CTRL, 0x5000, 1, 0x10, 1, 0x8),
   (.GLEANER_REFRESH, 0x5008, 1, 0x10, 1, 0x8),
   (.GLEANER_APPLY, 0x5010, 1, 0x10, 1, 0x8),
   (.GLEANER_STATS, 0x5018, 1, 0x10, 1, 0x8),
   (.GLEANER_CLASS_STATS, 0x5020, 1, 0x10, 1, 0x8),
   (.GLEANER_FAULT, 0x5028, 1, 0x10, 1, 0x8),
   (.DIE_SHARED_REGION, 0x6000, 8, 0x40, 8, 0x8),
   (.DIE_SHARED_FAULT, 0x6200, 1, 0x10, 1, 0x8),
   (.WINNOW_CTRL, 0x7000, 1, 0x10, 1, 0x8),
   (.WINNOW_STATS, 0x7008, 1, 0x10, 1, 0x8),
   (.WINNOW_ERR_STATS, 0x7010, 1, 0x10, 1, 0x8),
   (.WINNOW_FAULT, 0x7018, 1, 0x10, 1, 0x8),
   (.WINNOW_SLOT0, 0x7110, 15, 0x10, 1, 0x8),
   (.WINNOW_SLOT1, 0x7118, 15, 0x10, 1, 0x8),
   (.DIE_ARRIVAL, 0x8000, 4096, 0x8, 1, 0x8)]

/-- A stack block: rows (register, offset, count and stride of the first index, count and stride of the second). -/
def stackMap : List (RegName × Nat × Nat × Nat × Nat × Nat) :=
  [(.HARROW_CTRL, 0x0, 1, 0x10, 1, 0x8),
   (.HARROW_ECC_STATS, 0x8, 1, 0x10, 1, 0x8),
   (.HARROW_FAULT, 0x10, 1, 0x10, 1, 0x8)]

/-- The row of a block's map that an offset falls on. -/
def findReg (unit off : Nat) : List (RegName × Nat × Nat × Nat × Nat × Nat) → Option RegPlace
  | [] => none
  | (n, base, c1, s1, c2, s2) :: rest =>
    match arrayIdx2 off base c1 s1 c2 s2 with
    | some (i, j) => some ⟨n, unit, i, j⟩
    | none => findReg unit off rest

/-- The register at an offset in register space (R485); none where no register is defined (R5). -/
def locate (off : Nat) : Option RegPlace :=
  if off % 8 ≠ 0 then none
  else if off < 0x100000 then
    let m := match off / 0x10000 with
      | 0 => headlandMap | 1 => scarecrowMap | 2 => bellowsMap | 3 => fplanMap | 4 => piperMap
      | 5 => windrowMap | 6 => droneMap | 7 => stileMap | 8 => ethernetMap | 9 => tierMap | _ => []
    findReg 0 off m
  else if off < 0x900000 then
    let d := off / 0x100000 - 1
    let o := off % 0x100000
    if o < 0x90000 then findReg (18 * d + o / 0x8000) (o % 0x8000) tileMap
    else if o < 0xF0000 then none
    else findReg d (o - 0xF0000) dieMap
  else if off < 0xB00000 then findReg ((off - 0x900000) / 0x10000) (off % 0x10000) stackMap
  else none

/-- The reset value of a register, with the bits that depend on its place: a tile's own number (R98), the ports P0 to P5
(R371) and the reset map of links to ports (R356, R373), and job 0 (R373). -/
def resetAt (p : RegPlace) : Nat :=
  match p.name with
  | .TILE_ID => p.name.info.reset + (p.unit / 18) * 2 ^ 8 + p.unit % 18
  | .WINDROW_PORT => if p.i < 6 then 2 ^ 63 + p.i * 2 ^ 56 else 0
  | .WINDROW_LINK_CTRL => p.name.info.reset + (p.i % 6) * 2 ^ 36
  | .WINDROW_JOB => if p.i = 0 then 2 ^ 63 else 0
  | n => n.info.reset

/-- The reset value of the register at an offset; 0 where there is none. -/
def resetWord (off : Nat) : Word :=
  match locate off with
  | some p => BitVec.ofNat 64 (resetAt p)
  | none => 0

end Sys2Proof.Machine
end

