-- ==== Sys2Proof/Machine/Sparse.lean ====
section
/-! DEFINITION. Sparse maps from numbers to data, in one canonical form: keys strictly rising and no entry equal to what an
unlisted key reads as. Memory, registers and the per-unit tables of the state are held so, and equal maps are equal data. -/
namespace Sys2Proof.Machine

/-- A sparse map: (key, value) pairs. -/
abbrev Sparse (α : Type) := List (Nat × α)

/-- What a key reads as; `d` gives the value of an unlisted key. -/
def Sparse.getD {α : Type} (d : Nat → α) : Sparse α → Nat → α
  | [], k => d k
  | (j, v) :: rest, k => if k = j then v else if k < j then d k else Sparse.getD d rest k

/-- Remove a key. -/
def Sparse.drop {α : Type} : Sparse α → Nat → Sparse α
  | [], _ => []
  | (j, v) :: rest, k => if k = j then rest else if k < j then (j, v) :: rest else (j, v) :: Sparse.drop rest k

/-- Insert or replace a key, keeping the keys rising. -/
def Sparse.put {α : Type} : Sparse α → Nat → α → Sparse α
  | [], k, x => [(k, x)]
  | (j, v) :: rest, k, x =>
    if k = j then (k, x) :: rest else if k < j then (k, x) :: (j, v) :: rest else (j, v) :: Sparse.put rest k x

/-- Write a key: a value equal to what an unlisted key reads as removes the entry. -/
def Sparse.setD {α : Type} [DecidableEq α] (d : Nat → α) (m : Sparse α) (k : Nat) (x : α) : Sparse α :=
  if x = d k then m.drop k else m.put k x

/-- The canonical form. -/
def Sparse.wfD {α : Type} [DecidableEq α] (d : Nat → α) : Sparse α → Bool
  | [] => true
  | [(j, v)] => decide (v ≠ d j)
  | (j, v) :: (k, w) :: rest => decide (v ≠ d j) && decide (j < k) && Sparse.wfD d ((k, w) :: rest)

/-- Read with one value for every unlisted key. -/
def Sparse.get {α : Type} (d : α) (m : Sparse α) (k : Nat) : α := m.getD (fun _ => d) k

/-- Write with one value for every unlisted key. -/
def Sparse.upd {α : Type} [DecidableEq α] (d : α) (m : Sparse α) (k : Nat) (x : α) : Sparse α := m.setD (fun _ => d) k x

/-- The keys listed. -/
def Sparse.keys {α : Type} (m : Sparse α) : List Nat := m.map Prod.fst

end Sys2Proof.Machine
end

