-- ==== Sys2Proof/Machine/State.lean ====
section
/-! DEFINITION. The state of the GZ3200 module as plain data: what the spec gives the module (`Dev`), and the queue of the
commands that wait. Registers, memory and tables are sparse maps in canonical form; each sub-structure holds one chapter's
state. Reset values are those of the register tables (`resetWord`) and empty tables elsewhere. -/
namespace Sys2Proof.Machine

/-- Why a step stops with a fault. No meaning of this model faults: every fault the spec describes is state of the module
(a cause leaf, a fault register, a halted ring). -/
inductive Fault where
  /-- Raised by nothing: kept so that the type names that no command of the spec stops the module. Safe. -/
  | noSuchFault
  deriving DecidableEq, Repr

/-- Why a command has no meaning. -/
inductive Refusal where
  /-- The command of this mnemonic is not modelled yet: raised by its arm in Dispatch. Safe. -/
  | notModelled (mnemonic : String)
  deriving DecidableEq, Repr

/-! ### Tile arithmetic (chapters 02, 03) -/

/-- One long accumulator (R40) with its flags (R44, R45), and beside it the wide accumulator of reference mode with the
special operands its products met (R56). -/
structure Acc where
  val : BitVec 80
  ovf : Bool
  nan : Bool
  wide : BitVec 640
  posInf : Bool
  negInf : Bool
  invalid : Bool
  deriving DecidableEq, Repr

/-- A cleared accumulator. -/
def Acc.zero : Acc := ⟨0, false, false, 0, false, false, false⟩

/-! ### Rings (chapter 04) -/

/-- One norm-watch check staged by a NORM until its group commits (R62, R63). -/
structure WatchItem where
  tile : Nat
  layer : Nat
  slot : Nat
  rms : F32
  deriving DecidableEq, Repr

/-- What a ring's sequencer holds beside its registers: the open group's parts (R119 to R129). `ended` holds the commit word
that ends the group and the tile that performs the act. -/
structure RingDyn where
  ended : Option (Word × Nat)
  open_ : Bool
  wait : Option (BitVec 16 × BitVec 32 × BitVec 32)
  fence : Option Nat
  colls : List Nat
  zero : Bool
  other : Bool
  bound : Bool
  watch : List WatchItem
  moving : List (Nat × Nat)
  popped : List (Nat × Nat)
  overlong : Bool
  deriving DecidableEq, Repr

/-- A ring with no open group. -/
def RingDyn.idle : RingDyn :=
  ⟨none, false, none, none, [], false, false, false, [], [], [], false⟩

/-- What an engine's Chanter or sequencer holds: the ring it serves and whether that ring's quantum has run; and for each class
the ring + 1 that it served last in the class, and whether that ring's quantum has run (R109, R133). -/
structure EngineDyn where
  served : Option Nat
  expired : Bool
  turns : Sparse (Nat × Bool)
  deriving DecidableEq, Repr

/-- An engine that has served no ring. -/
def EngineDyn.idle : EngineDyn := ⟨none, false, []⟩

/-! ### The Field Plan loader (chapter 05) -/

/-- The loader: the container being loaded, the container that the change set took part of, table images staged in load
order, microcode images by 2 × tile + bank, the frozen change set (its masks, its images and how many writes it counts),
the units not yet ready, those parked, and the zeroing of R295; `tables` holds the active tables of R159, `staged` counts
shadow writes, `wasActive` says which tiles have stood active since reset, `restart` that PIPER_CTRL.ENABLE has committed
to 1 and no step has been formed since (R517). A byte of a table is keyed by (TARGET × 32 + TABLE) × 2^24 + offset. -/
structure Plan where
  loading : Option (Nat × Nat)
  container : Option (BitVec 64 × BitVec 32 × Bool)
  stagedTables : List (Nat × List Byte)
  ucode : Sparse (List Byte)
  frozen : Bool
  frozenMask : Sparse Word
  frozenTables : List (Nat × List Byte)
  frozenStaged : Nat
  waiting : List PlanUnit
  zeroing : Bool
  booted : Bool
  parked : List PlanUnit
  tables : Sparse Byte
  staged : Nat
  wasActive : Sparse Bool
  restart : Bool
  deriving DecidableEq, Repr

/-! ### Seedbed and Harrow (chapters 03, 10) -/

/-- A write of port B that lands in the next cycle (R89): its row + 1, its byte enables and data, and the word that a port-A read
of that row still returns in that cycle, with its poison. -/
structure PutOff where
  row : Nat
  mask : BitVec 64
  data : BitVec 512
  word : BitVec 512
  bad : Bool
  deriving DecidableEq, Repr

/-- No write is put off. -/
def PutOff.none : PutOff := ⟨0, 0, 0, 0, false⟩

/-- What the banks hold beside their data: requests that wait, oldest first, with the cycles that each has stalled (R88, R90), the
write of port B put off by a cycle (R89), and corrected words that wait for both ports to be free (R91). -/
structure Banks where
  stalls : Sparse (List (BankReq × Nat))
  putOff : Sparse PutOff
  writeBack : Sparse (List Nat)
  weak : Sparse Nat
  weakRaised : Sparse Bool
  deriving DecidableEq, Repr

/-- One queued bulk job: the arrival counter and the list address (R318). -/
structure Job where
  counter : BitVec 16
  list : Nat
  deriving DecidableEq, Repr

/-- Who waits for the response of a fabric request (R404), or for an NVMe command of a migration. -/
inductive Waiter where
  /-- A COPY_ASYNC of a ring (R416), or a write of one of its commands to a page that a peer lends (R309). -/
  | copy (q : Nat)
  /-- The KIND 5 act of a ring: the tile and offset that take the old value, and its bytes (R414). -/
  | act (q tile result size : Nat)
  /-- A row of a GATHER of a ring: the GATHER's number and the row's number in its index list (R278). -/
  | row (q g k : Nat)
  /-- A staged update record of a GATHER of a ring (R282). -/
  | update (q : Nat)
  /-- A migration of a ring (R315). -/
  | migrate (q : Nat)
  /-- The migration of a bulk-job entry (R319). -/
  | bulk
  /-- The home of a faulting page on its way into a remote frame (R311). -/
  | fill (page : Nat)
  /-- Bytes of a page that a peer lends, read for a die: the address and the number of bytes (R309). -/
  | page (die a n : Nat)
  /-- The page table of a turn's destination that a pool member reads: the session, the destination and the part (R223). -/
  | table (session member part : Nat)
  /-- An increment that a member reports to its lead (R196, R233, R234). -/
  | report
  deriving DecidableEq, Repr

/-- What an NVMe command is for (R307, R311, R313, R315): filling a page's frame, writing an evicted page home, or a migration's
read or write of a home. -/
inductive NvmeUse where
  | fill
  | evict
  | move (w : Waiter)
  deriving DecidableEq, Repr

/-- An NVMe command not yet completed (R306, R307): a page read or a write-back, or the Flush that follows one; whether it has
been retried; what it is for, the die of its Mover, and whether a queue of its controller has taken it. -/
structure NvmeCmd where
  id : Nat
  write : Bool
  flush : Bool
  page : Nat
  retried : Bool
  use : NvmeUse
  die : Nat
  sent : Bool
  deriving DecidableEq, Repr

/-- Bytes of a page that a peer lends (R309): wanted by a die, or written by one. -/
structure PeerPiece where
  die : Nat
  a : Nat
  n : Nat
  data : List Byte
  status : Nat
  deriving DecidableEq, Repr

/-- A MIGRATE that waits for a frame (R313): its ring, its page and its pool. -/
structure WaitMove where
  q : Nat
  range : Nat
  page : Nat
  pool : Nat
  die : Nat
  deriving DecidableEq, Repr

/-- The Mover and the tiers (chapter 10): pages being filled with their frames, faults that wait for a frame with the die of
each, evictions whose page is still being read from a peer, rings that wait for a page, migrations that wait for a frame, bulk
jobs, what the entry under way holds and the pages that entries without a flip have left staged, NVMe commands, volatile write caches by 4 × port + device, namespaces that are not used,
and the bytes of lent pages that are wanted, have been read, and are to be written. -/
structure Tiers where
  filling : List (Nat × Nat)
  waitFrame : List (Nat × Nat)
  evicting : List (Nat × Nat)
  pageWaits : List (Nat × Nat)
  waitMove : List WaitMove
  jobs : List Job
  running : Option Job
  stopAsked : Bool
  bulk : Option (List (Nat × Nat) × List (Nat × Nat))
  kept : List (Nat × Nat)
  bulkFailed : Bool
  nvme : List NvmeCmd
  nvmeNext : Nat
  vwc : Sparse Bool
  badNs : List (Nat × Nat × Nat)
  peerWant : List PeerPiece
  peerGot : List PeerPiece
  peerOut : List PeerPiece
  fallowLost : Bool
  deriving DecidableEq, Repr

/-! ### Windrow links and packets (chapters 11, 12) -/

/-- A packet that waits at a link, with the ROUTE it arrived with, should it have to go another way (R355). -/
structure QueuedPkt where
  p : Packet
  was : BitVec 16
  deriving DecidableEq, Repr

/-- A link's ends beside its registers (R342 to R355): sequence counts, the retry buffer, flits sent and freed by receive
part (number 2 × VC + SUB, R344), packets that wait at it, the packet being received in each part, RETRYs received in a row that
name one FSEQ and RETRYs sent in a row, the verdict it has sent, the actions under way, and for R347 the local times and flits of
the VC0 packets last started, the deficits of VC1 to VC6 in flits and the VC whose turn it is, counted from 0 for VC1. -/
structure LinkDyn where
  sendSeq : BitVec 12
  recvSeq : BitVec 12
  retryBuf : List Flit
  sent : Sparse Nat
  freed : Sparse Nat
  freedHere : Sparse Nat
  queue : List QueuedPkt
  assembling : Sparse (List Flit)
  discarding : Bool
  retrySeq : BitVec 12
  retryRun : Nat
  askRun : Nat
  mine : Nat
  taking : Bool
  recal : Option Nat
  vc0 : List (Nat × Nat)
  deficit : Sparse Nat
  turn : Nat
  deriving DecidableEq, Repr

/-- A link that has sent and received nothing. -/
def LinkDyn.idle : LinkDyn :=
  ⟨0, 0, [], [], [], [], [], [], false, 0, 0, 0, 0, false, none, [], [], 0⟩

/-- A fabric request without its response yet (R405, R408): the packet as formed, so that it can be sent again, and for
the data of a copy its prefix and its source, so that it can be read again (R334). -/
structure Request where
  die : Nat
  p : Packet
  waiter : Waiter
  resends : Nat
  pre : List Byte
  src : Option Nat
  deriving DecidableEq, Repr

/-- A COPY chunk being received (R416): byte ranges written, the LAST packet's answer to come, and whether a packet of it
was poisoned or refused; `asked` when its uncompressed resend has been asked for (R334). -/
structure ChunkRx where
  got : List (Nat × Nat)
  last : Option Packet
  status : Nat
  asked : Bool
  deriving DecidableEq, Repr

/-- A chunk of which nothing has arrived. -/
def ChunkRx.none : ChunkRx := ⟨[], Option.none, 0, false⟩

/-- A COPY or WRITE packet that waits to be sent (R407, R412): its type, its ring, its way, its prefix and data, the source they were read from,
the table slot for link compression, whether the source is protected, and the chunk it belongs to. -/
structure Later where
  typ : Nat
  q : Nat
  die : Nat
  dest : BitVec 16
  job : Nat
  vc : Nat
  pre : List Byte
  data : List Byte
  src : Nat
  poison : Bool
  slot : Nat
  prot : Bool
  chunk : Nat
  waiter : Waiter
  deriving DecidableEq, Repr

/-- The network side of the module: GCM counters (R365) by (die × 256 + job) × 2 + generation, packets delivered and not
yet taken by their unit, fabric requests, KIND 5 acts that failed and are kept (R414), tags, request sequences by
die × 512 + coordinate (R412), chunks being received,
the read caches by (die × 256 + job) × 2^64 + global address of the line (R409), tags whose READ_DATA fills no line
(R410), packets for which a resend was asked (R334), COPY packets that wait to be sent, the number of the chunk last begun,
the REQ_ID + 1 of each chunk whose packets are being sent (R416), and the links on which packets for this module came in (R339). -/
structure Net where
  gcm : Sparse (BitVec 64)
  inbox : List Packet
  reqs : List Request
  failed : List Request
  nextTag : Nat
  reqSeq : Sparse Nat
  chunks : Sparse ChunkRx
  cache : Sparse (List Byte)
  noFill : List Nat
  retried : List Packet
  later : List Later
  nextChunk : Nat
  chunkSeq : Sparse Nat
  arrivals : List (Packet × Nat)
  deriving DecidableEq, Repr

/-! ### Collectives (chapter 13) -/

/-- The descriptor of a collective as the issuing command gave it (R116, R117, R390). `op` 6 is ROUTE. -/
structure CollDesc where
  op : Nat
  ctype : Nat
  root : Nat
  count : Nat
  n : Nat
  outFmt : Nat
  shift : Int
  epilogue : Nat
  recvAddr : Nat
  counter : Nat
  express : Bool
  deriving DecidableEq, Repr

/-- What a lane has yet to send: the member, the axis whose credit it takes (3 for a direct exchange), the phase, the
fields of the prefix, the packet type, whether an answer is owed, and the data. -/
structure Outgoing where
  member : Nat
  axis : Nat
  phase : Nat
  off : Nat
  elems : Nat
  mkind : Nat
  typ : Nat
  owed : Bool
  data : List Byte
  deriving DecidableEq, Repr

/-- One lane of a collective at this member: its tile; whether it has bound; the phase reached; the element values it
holds; chunks and markers that wait for their phase; what each position has sent in this phase; FIN markers received;
chunks that wait for a credit; counter increments made; end markers by source with the chunks they announce, and chunks
received by source, for the operations that complete by markers; and whether it is complete. -/
structure LaneSt where
  lane : Nat
  tile : Nat
  bound : Bool
  step : Nat
  begun : Bool
  vals : Sparse Nat
  early : List Packet
  got : List (Nat × Nat × List Nat)
  empties : List Nat
  fins : List (Nat × Nat)
  queue : List Outgoing
  counted : Nat
  marks : Sparse Nat
  froms : Sparse Nat
  done : Bool
  deriving DecidableEq, Repr

/-- A collective started at this member (R385): its context and name, its attempt, the ring that issued it, its
descriptor, whether bytes that it sends come from protected memory (R366), and its lanes. -/
structure Coll where
  ctx : Nat
  job : Nat
  group : Nat
  seq : Nat
  attempt : Nat
  ring : Nat
  desc : CollDesc
  prot : Bool
  fp : Nat
  lanes : List LaneSt
  deriving DecidableEq, Repr

/-- A chunk or marker that waits at the receiver for the binding of its context (R385). -/
structure HeldPkt where
  ctx : Nat
  p : Packet
  deriving DecidableEq, Repr

/-- A chunk sent whose credit or ACK has not come back (R384, R388): the receiving coordinate and axis (3 for a direct
exchange), and the chunk's ARG. -/
structure Spent where
  coord : Nat
  axis : Nat
  arg : BitVec 64
  deriving DecidableEq, Repr

/-- A SIGNAL that has been sent (R395): its ring, the die that sent it, its GROUP, its DEST, and the members that have not answered with their
tags. -/
structure SignalSt where
  ring : Nat
  die : Nat
  group : Nat
  dest : Nat
  left : List (Nat × Nat)
  deriving DecidableEq, Repr

/-- The Drones of the module. `stags` counts the SIGNALs that a die has sent a member, by die × 512 + coordinate. -/
structure Drones where
  colls : List Coll
  held : List HeldPkt
  spent : List Spent
  tombs : List (Nat × Nat × Nat)
  signals : List SignalSt
  stags : Sparse Nat
  deriving DecidableEq, Repr

/-! ### Coulter (chapter 8) -/

/-- Row groups of ROUTEs being received by the host Coulter (R251 to R254): the collective's name and attempt, the route
records placed by bay row, the pieces of a chunk not yet whole by source, and the rows spilled. -/
structure RouteRx where
  job : Nat
  group : Nat
  seq : Nat
  attempt : Nat
  records : List (List Byte)
  parts : Sparse (List Byte)
  spilled : Nat
  deriving DecidableEq, Repr

/-- What a Coulter keeps beside its registers: ROUTEs being received, and the return table of the rows last placed with the
bytes of a row (R253). -/
structure CoulterSt where
  rx : List RouteRx
  returns : List (List Byte)
  rowBytes : Nat
  deriving DecidableEq, Repr

/-- Scarecrow's own memory: key slots 16 to 255 (R466), usage 0 empty, 1 Intake, 2 job. -/
structure KeySlot where
  usage : Nat
  key : BitVec 256
  deriving DecidableEq, Repr

/-- An empty slot. -/
def KeySlot.empty : KeySlot := ⟨0, 0⟩

/-- An entry of a GATHER's index list as scanned (R277): its bag, the number of the request that brings its row, and its
weight. -/
structure GatherItem where
  bag : Nat
  req : Nat
  weight : F32
  deriving DecidableEq, Repr

/-- A GATHER whose rows are coming in (R277, R278): its number, its ring, the tile of its rank, its command, the elements of a row, how
many rows it requests, its entries, and the rows that have arrived: class + 1 and stored bytes by request number. -/
structure GatherSt where
  id : Nat
  ring : Nat
  tile : Nat
  cmd : List Byte
  width : Nat
  asks : Nat
  items : List GatherItem
  rows : Sparse (Nat × List Byte)
  deriving DecidableEq, Repr

/-- A staged update record at its home (R282): its table, its key, its local row, whether it writes, its weight and its
FP32 data. -/
structure StagedRec where
  table : Nat
  stamp : Nat
  coord : Nat
  die : Nat
  tag : Nat
  pos : Nat
  row : Nat
  write : Bool
  weight : F32
  data : List Byte
  deriving DecidableEq, Repr

/-- An entry of a sweep's reclassification list (R285): the local row, its new class and slot. -/
structure Reclass where
  row : Nat
  cls : Nat
  slot : Nat
  deriving DecidableEq, Repr

/-- The home side of the Gleaner: staged records, reclassification lists by table, the last step applied, and the tables whose
sweep has come due while their list is still being applied (R285). -/
structure GleanerSt where
  staged : List StagedRec
  moves : Sparse (List Reclass)
  applied : Nat
  due : List Nat
  late : List Nat
  deriving DecidableEq, Repr

/-- One slot-table entry of a manifest (R180). -/
structure Slot where
  session : Nat
  kind : Nat
  pageLog2 : Nat
  rowBase : Nat
  rows : Nat
  position : Nat
  adapter : Nat
  customer : Nat
  seed : Nat
  deriving DecidableEq, Repr

/-- The step in flight at its lead (R178): its sequence, its epoch, its slots by number, the sessions that hold an empty
slot for a cancel (R189), and the address of its program. -/
structure StepSt where
  seq : Nat
  epoch : Nat
  slots : List Slot
  cancels : List Nat
  program : Nat
  deriving DecidableEq, Repr

/-- An outgoing reliable message that waits for credit: its type, REQUEST_ID and payload (R206). -/
structure OutMsg where
  typ : Nat
  request : Nat
  payload : List Byte
  deriving DecidableEq, Repr

/-- What the module keeps of a connection beside its record (R202, R206): messages that wait for credit, messages sent and
not acknowledged with their SEQ, the SEQ space of ACKs, and whether its queue has been full. -/
structure ConnSt where
  queue : List OutMsg
  unacked : List (Nat × OutMsg)
  ackSeq : Nat
  full : Bool
  deriving DecidableEq, Repr

/-- A connection that has sent nothing. -/
def ConnSt.idle : ConnSt := ⟨[], [], 0, false⟩

/-- A turn sent to the pool (R195, R196): its session, and the first token once the hand-off record has arrived. -/
structure Shipment where
  session : Nat
  token : Option Nat
  deriving DecidableEq, Repr

/-- A move of ratio control (R194): up or down, the rung it leaves, and whether the loads are done. -/
structure RatioMove where
  up : Bool
  rung : Nat
  loaded : Bool
  deriving DecidableEq, Repr

/-- What Piper holds beside its tables in memory (chapters 6, 7): the lead's step in flight and the sequence of the last
step formed, the epoch of the last step, commit-record entries that wait for the next record, the step program's runs that
a member has still to copy, the rings of its step, the STEP_SEQ of the manifest in force, the job of the step, key-value
copies in progress at the member by session, counters of the lead in use by session, messages that wait for a restore with
their session and type, the prompt tokens of a session that have arrived and how many of them are summary tokens, sessions
to close at their commit act, turns sent to the pool, prompts taken by the pool with the tokens committed, acts put off to
the next step boundary (1 and an epoch, 2 and a group), steps since the last ratio check, the move in progress,
connections, steps in a row that a group has lacked pages, what a pool member has read of the page tables of a turn's
destinations (R223), by (session × 64 + member) × 64 + part, the payload of the last END of a session, which a cancel has sent
again (R189), and PAUSE_AFTER, TTL and SHORT_STEPS as they stood at the last step boundary (R213). -/
structure PiperSt where
  step : Option StepSt
  formed : Nat
  lastEpoch : Nat
  entries : List (List Byte)
  runs : List (List Byte)
  rings : List Nat
  taken : Nat
  job : Nat
  copies : Sparse (List Nat)
  counters : List (Nat × Nat)
  waiting : List (Nat × Nat × IntakeMsg)
  arrived : Sparse (Nat × Nat)
  closing : List Nat
  ships : List Shipment
  pool : List (Handoff × Nat)
  due : List (Nat × Nat)
  sinceRatio : Nat
  move : Option RatioMove
  conns : Sparse ConnSt
  short : Sparse Nat
  tables : Sparse (List Byte)
  ends : Sparse (List Byte)
  limits : List Nat
  deriving DecidableEq, Repr

/-- What the module sends to the world outside it. -/
inductive Out where
  /-- A Windrow packet handed to the router of a die, or by it to a link. -/
  | packet (die : Nat) (link : Option Nat) (p : Packet)
  /-- A packet that its router hands to the receiving interface of a die (R360). -/
  | arrived (die : Nat) (p : Packet)
  /-- A datagram of the Intake to a connection (R201). -/
  | intake (conn : Nat) (bytes : List Byte)
  /-- An MCTP message (R489, R490, R492). -/
  | mctp (bytes : List Byte)
  /-- The answer of an I3C common command code (R488). -/
  | i3c (bytes : List Byte)
  /-- The I3C in-band interrupt (R488). -/
  | ibi
  /-- A frame on an Ethernet port (R369). -/
  | eth (port : Nat) (bytes : List Byte)
  /-- A control flit of a link: CREDIT, RETRY, IDENT or LANE (R342 to R351). -/
  | link (l : Nat) (flit : List Byte)
  /-- A sequenced flit that a link replays (R346). -/
  | flit (l : Nat) (bytes : List Byte)
  /-- An I/O command to an NVMe controller: its opcode (0 Flush, 1 Write, 2 Read), the port and device, the namespace and the LBA
  of a page's 16 blocks (R305, R306). -/
  | nvme (op port device nsid lba : Nat)
  /-- An admin command to an NVMe controller, by its opcode (R306). -/
  | nvmeAdmin (op port device : Nat)
  /-- HDM decoder 0 of a CXL device: a single-way range of `size` bytes from device address 0 (R302). -/
  | hdm (port device size : Nat)
  /-- A word that a bank returned to a master (R87, R89): bank number, row, word, poisoned. -/
  | bankWord (bank row : Nat) (word : BitVec 512) (bad : Bool)
  /-- Bytes that a Field access returned, and whether they are poisoned (R299). -/
  | fieldWord (granule : Nat) (bytes : List Byte) (bad : Bool)
  /-- What Piper sends, with its job (R363): 1 a commit record and 2 a manifest to every member, 3 a hand-off request, 4 a
  hand-off record (an express SIGNAL), 5 the load, 7 the commit and 8 the abort of a ratio move to every module of the slice, 6 the
  kill of an abandoned step (R178, R194, R195, R196, R516). -/
  | piper (kind job : Nat) (bytes : List Byte)
  /-- A RoCEv2 message of Stile (R417, R420): the endpoint, 1 WRITE, 2 READ, 3 Fetch-and-Add, 4 Compare-and-Swap, 5 SEND of
  a record, the remote address, and what it carries. -/
  | stile (endpoint op remote : Nat) (bytes : List Byte)
  /-- A JTAG scan-out (R507). -/
  | jtag (bits : List Bool)
  deriving DecidableEq, Repr

/-! ### Stile (chapter 14) -/

/-- A Stile entry started and not completed (R420): its ring, its count and its 64 bytes. -/
structure StileEntry where
  ring : Nat
  count : Nat
  entry : List Byte
  deriving DecidableEq, Repr

/-- What Stile keeps beside its registers and endpoint records: entries started, entries completed beyond RERUN by (ring,
count), records sent by endpoint (R421), and the rate of a queue pair as 65,536 less its cut (R417). -/
structure StileSt where
  started : List StileEntry
  done : List (Nat × Nat)
  records : Sparse Nat
  cut : Sparse Nat
  deriving DecidableEq, Repr

/-! ### Bellows, power and the port (chapters 15, 18) -/

/-- What Bellows keeps beside its registers (chapter 15): the last input voltages, newest first (R439); which supply
thresholds are in force, by row of R439 from 0; the shed level (R441); whether inlet and outlet hold D at 0; steps of 25 MHz
that heat takes from a tile's clock and cool samples in a row (R436); stacks hot and stacks throttled; what the cap leaves
the clock of a tile, where it cuts it (R433); energy above the target in the event in progress, in W × periods (R434); the
last tile temperatures (R433); tiles whose clock is being swept (R429). -/
structure BellowsSt where
  volts : List Nat
  supply : List Nat
  shed : Option Nat
  inletHot : Bool
  outletHot : Bool
  heat : Sparse Nat
  cool : Sparse Nat
  hot : Sparse Bool
  throttled : Sparse Bool
  cut : Sparse Nat
  excess : Nat
  tileC : List Int
  sweeping : Sparse Bool
  deriving DecidableEq, Repr

/-- Power and reset pins (chapter 18): the converter runs, PWR_OK is released, RESET_N is asserted, a reset that waits for the end
of a fall (R503), and BRAKE_N is held asserted (R504). -/
structure Power where
  converter : Bool
  pwrOk : Bool
  resetLow : Bool
  resetDue : Bool
  brakeLow : Bool
  deriving DecidableEq, Repr

/-- The test access port (R507): the instruction register, the boundary cells last preloaded and the bypass bit. -/
structure Jtag where
  code : BitVec 8
  cells : BitVec 29
  bypass : Bool
  deriving DecidableEq, Repr

/-- The mesh (R13 to R16): UCIe modules that an edge has lost, edges and bridges out of service; and whether the 156.25 MHz
oscillator, which counts local time, has stopped (R29). -/
structure Mesh where
  lost : Sparse Nat
  edgeDown : Sparse Bool
  bridgeDown : Sparse Bool
  clockStopped : Bool
  deriving DecidableEq, Repr

/-- The PCIe device positions of block H (R496), position 4 × port + device: which REFCLK outputs run, and which PERST_N are released. -/
structure Slots where
  refclk : BitVec 16
  perstN : BitVec 16
  deriving DecidableEq, Repr

/-- The Ethernet ports (R369): neighbours learnt, as port, address and MAC, and the pause that PFC_PRIORITY asks for, in
quanta. -/
structure EthSt where
  neighbours : List (Nat × BitVec 128 × BitVec 48)
  paused : Sparse Nat
  deriving DecidableEq, Repr

/-! ### Management, NVM and Scarecrow (chapters 16, 17) -/

/-- The staged image of the IMAGE commands or of a PLDM update (R490, R492): its kind, its length, its
bytes, and whether it has been verified. -/
structure Image where
  kind : Nat
  length : Nat
  bytes : Sparse Byte
  ok : Bool
  deriving DecidableEq, Repr

/-- The PLDM firmware update (R492): 0 idle, 1 in update mode, 2 components known, 3 downloading, 4 verifying, 5 applying,
6 ready to activate; the component, its size and comparison stamp, and the bytes received. -/
structure Update where
  state : Nat
  component : Nat
  size : Nat
  stamp : Nat
  received : Nat
  deriving DecidableEq, Repr

/-- The management channel: wall-clock time and when it was given, INT_SUMMARY events for PLDM (R492), the PLDM terminus, the
I3C limits and in-band interrupt enable (R488), the reset action that RSTACT set up, the staged image, the update, and the
place that PLACE gave, as WINDROW_COORD and WINDROW_APPLIANCE (R490). -/
structure Mgmt where
  wallNs : BitVec 64
  wallAt : BitVec 64
  events : List Word
  tid : Nat
  mwl : Nat
  mrl : Nat
  ibi : Bool
  rstact : Nat
  image : Option Image
  update : Update
  place : Option (Word × Word)
  deriving DecidableEq, Repr

/-- A STORE in progress (R454): the partition code, the copy or half it writes, its generation, its length and the copy's new
contents. -/
structure StoreJob where
  partition : Nat
  copy : Nat
  gen : Nat
  length : Nat
  data : List Byte
  deriving DecidableEq, Repr

/-- The NVM: its contents, log records made and not yet written, the log's next slot (R458) and the STORE in progress. -/
structure Nvm where
  bytes : Sparse Byte
  gathered : List (List Byte)
  logNext : Nat
  store : Option StoreJob
  deriving DecidableEq, Repr

/-- A digest job (R471): its epoch, its manifest as read, and the digest base. -/
structure DigestJob where
  epoch : Nat
  manifest : List Byte
  base : Nat
  deriving DecidableEq, Repr

/-- Scarecrow and the firmware (chapter 16): whether a health test fails (R464), the digest job, the manifest digest of each
epoch (R473), the SECURITY_VERSION of the running image, whether the management cores run an image from
memory (R450), and whether the boot has stopped at stage 2 for a bad key (R463). -/
structure Scare where
  trngFault : Bool
  job : Option DigestJob
  manifests : Sparse (List Byte)
  running : Nat
  fromMemory : Bool
  keyBad : Bool
  deriving DecidableEq, Repr


/-! ### The module -/

/-- Everything the spec gives the module. Registers are keyed by their offset in register space; memory by local address,
Fallow device bytes from 0x1000_0000_0000 and Granary homes from 0x2000_0000_0000. -/
structure Dev where
  /-- Local time in counts of 6.4 ns (R27). -/
  time : BitVec 64
  /-- Active register values (R7). -/
  regs : Sparse Word
  /-- Shadows of RWS fields: the shadow bits written and the mask of bits written since the last commit (R149). -/
  shadow : Sparse (Word × Word)
  /-- Boundary-class RW writes that wait: the value and the mask (R150). -/
  waitingWrite : Sparse (Word × Word)
  /-- The management channel's HEADLAND_PEND_SEL.OFFSET; the firmware's is in `regs` (R487). -/
  pendSelMgmt : BitVec 24
  /-- Bytes of every tier; an unlisted byte reads 0 (DESIGN CHOICE, log entry 2). -/
  mem : List Host.Cell
  /-- Poisoned 8-byte lanes of the Seedbed window, by address / 8 (R91, R522). -/
  poisonLane : Sparse Bool
  /-- Poisoned 32-byte granules of the Field tier, by address / 32 (R299). -/
  poisonField : Sparse Bool
  /-- Grid accumulators, by ((tile × 2 + set) × 256 + entry) × 256 + column (R76). -/
  acc : Sparse Acc
  /-- Rings, by ring number: 8 × engine + ring, or 128 + 16 × die + 4 × fixed engine + ring. -/
  rings : Sparse RingDyn
  /-- Engines: 0 to 15 compute engines, 16 + 4 × die + engine the fixed engines. -/
  engines : Sparse EngineDyn
  plan : Plan
  banks : Banks
  tiers : Tiers
  /-- Grid weights: what physical column p of a tile holds in its ACTIVE registers, by 258 × tile + p: 256 codes of 4 bits and
  16 scale bytes, laid out as a sheaf line (R70, R73). -/
  weights : Sparse (List Byte)
  /-- The same for the NEXT registers of the cells and of the column foot (R73). -/
  nextWeights : Sparse (List Byte)
  /-- Tine vector registers: register r, lane l of a tile holds the free value numbered this plus 512 r + l; no command
  leaves a defined value in one (R82, R101, R130). -/
  tineSeed : Sparse Nat
  /-- Tiles whose grid self-test runs (R101). -/
  selfTest : Sparse Bool
  /-- Links, by number. -/
  links : Sparse LinkDyn
  net : Net
  drone : Drones
  coulter : CoulterSt
  /-- Key slots 16 to 255, by number. -/
  keys : Sparse KeySlot
  /-- The slot-group header offset that the most recent GEMM with ADAPT of a ring named, plus 1 (R261). -/
  lastAdapt : Sparse Nat
  /-- The committed sequence of a group at a fixed engine's sequencer, by 256 × engine + group (R127, R136). -/
  fixSeq : Sparse Nat
  gathers : List GatherSt
  gleaner : GleanerSt
  piper : PiperSt
  stile : StileSt
  bellows : BellowsSt
  power : Power
  jtag : Jtag
  mesh : Mesh
  slots : Slots
  eth : EthSt
  mgmt : Mgmt
  nvm : Nvm
  scare : Scare
  /-- What the module has sent out, oldest first (DESIGN CHOICE, log entry 9). -/
  out : List Out
  /-- How many free values have been drawn (the model's own, DESIGN CHOICE, log entry 5). -/
  free : Nat
  deriving DecidableEq, Repr

/-- The state of the machine: the module and the commands that wait, first in, first out. -/
structure State where
  dev : Dev
  pending : List Instr
  deriving DecidableEq, Repr

/-- The module right after power-on reset: registers at their reset values, everything else empty (DESIGN CHOICE, log entries 1, 2). -/
def Dev.reset : Dev where
  time := 0
  regs := []
  shadow := []
  waitingWrite := []
  pendSelMgmt := 0
  mem := []
  poisonLane := []
  poisonField := []
  acc := []
  rings := []
  engines := []
  plan := ⟨none, none, [], [], false, [], [], 0, [], false, false, [], [], 0, [], false⟩
  banks := ⟨[], [], [], [], []⟩
  tiers := ⟨[], [], [], [], [], [], none, false, none, [], false, [], 0, [], [], [], [], [], false⟩
  weights := []
  nextWeights := []
  tineSeed := []
  selfTest := []
  links := []
  net := ⟨[], [], [], [], 0, [], [], [], [], [], [], 0, [], []⟩
  drone := ⟨[], [], [], [], [], []⟩
  coulter := ⟨[], [], 0⟩
  keys := []
  lastAdapt := []
  fixSeq := []
  gathers := []
  gleaner := ⟨[], [], 0, [], []⟩
  piper := ⟨none, 0, 7, [], [], [], 0, 0, [], [], [], [], [], [], [], [], 0, none, [], [], [], [], []⟩
  stile := ⟨[], [], [], []⟩
  bellows := ⟨[], [], none, false, false, [], [], [], [], [], 0, [], []⟩
  power := ⟨true, true, false, false, false⟩
  jtag := ⟨1, 0, false⟩
  mesh := ⟨[], [], [], false⟩
  slots := ⟨0x1111, 0⟩
  eth := ⟨[], []⟩
  mgmt := ⟨0, 0, [], 0, 64, 64, false, 0, none, ⟨0, 0, 0, 0, 0⟩, none⟩
  nvm := ⟨[], [], 0, none⟩
  scare := ⟨false, none, [], 0, false, false⟩
  out := []
  free := 0

/-- The machine right after reset: the module at reset and no command waiting. -/
def State.reset : State := ⟨Dev.reset, []⟩

end Sys2Proof.Machine
end

