-- ==== Sys2Proof/Machine/Ops.lean ====
section
/-! DEFINITION. The named operations every meaning is written over: bit fields and little-endian bytes, registers and their
fields, causes and their leaves, raw memory, poison marks, free values. -/
namespace Sys2Proof.Machine

/-! ### Folding a list of effects -/

/-- Perform `f` for each item, in order. -/
def forEach {α : Type} (xs : List α) (f : α → Dev → Dev) (m : Dev) : Dev := xs.foldl (fun m x => f x m) m

/-- Perform `f` when the condition holds. -/
def when (c : Bool) (f : Dev → Dev) (m : Dev) : Dev := if c then f m else m

/-- Perform `f` on the value that is there. -/
def withSome {α : Type} (o : Option α) (f : α → Dev → Dev) (m : Dev) : Dev :=
  match o with
  | some x => f x m
  | none => m

/-! ### Bits and bytes -/

/-- Bits [lo + w − 1 : lo] of a number. -/
def bitsAt (n lo w : Nat) : Nat := n / 2 ^ lo % 2 ^ w

/-- Bit i of a number. -/
def bitAt (n i : Nat) : Bool := n / 2 ^ i % 2 = 1

/-- The value of a field in a register word. -/
def Fld.get (f : Fld) (v : Word) : Nat := bitsAt v.toNat f.lo f.w

/-- The mask of a field. -/
def Fld.mask (f : Fld) : Word := BitVec.ofNat 64 ((2 ^ f.w - 1) * 2 ^ f.lo)

/-- A register word with a field replaced. -/
def Fld.put (f : Fld) (v : Word) (n : Nat) : Word :=
  (v &&& ~~~ f.mask) ||| BitVec.ofNat 64 (n % 2 ^ f.w * 2 ^ f.lo)

/-- A field's value in an empty word. -/
def Fld.of (f : Fld) (n : Nat) : Word := BitVec.ofNat 64 (n % 2 ^ f.w * 2 ^ f.lo)

/-- The value of little-endian bytes. -/
def leNat : List Byte → Nat
  | [] => 0
  | b :: rest => b.toNat + 256 * leNat rest

/-- `n` little-endian bytes of a number. -/
def toLe : Nat → Nat → List Byte
  | 0, _ => []
  | n + 1, v => BitVec.ofNat 8 v :: toLe n (v / 256)

/-- `n` bytes of a list from offset `o`, 0 beyond its end. -/
def slice (bs : List Byte) (o n : Nat) : List Byte :=
  let part := (bs.drop o).take n
  part ++ List.replicate (n - part.length) 0

/-- A little-endian field of `n` bytes at offset `o`. -/
def field (bs : List Byte) (o n : Nat) : Nat := leNat (slice bs o n)

/-- A number of `w` bits read as two's complement. -/
def signed (w n : Nat) : Int := if n % 2 ^ w ≥ 2 ^ (w - 1) then (n % 2 ^ w : Int) - 2 ^ w else (n % 2 ^ w : Int)

/-- The larger count that does not pass `top`. -/
def satAdd (top n k : Nat) : Nat := min top (n + k)

/-- The numbers of the set bits below `n`. -/
def setBits (n v : Nat) : List Nat := (List.range n).filter (fun i => bitAt v i)

/-! ### Registers (R4 to R8) -/

/-- The active value of the register at an offset. -/
def rd (off : Nat) (m : Dev) : Word := Sparse.getD resetWord m.regs off

/-- Set the active value of the register at an offset. -/
def wr (off : Nat) (v : Word) (m : Dev) : Dev := { m with regs := m.regs.setD resetWord off v }

/-- Read a field of an active value. -/
def rdF (off : Nat) (f : Fld) (m : Dev) : Nat := f.get (rd off m)

/-- Set a field of an active value. -/
def wrF (off : Nat) (f : Fld) (n : Nat) (m : Dev) : Dev := wr off (f.put (rd off m) n) m

/-- Is a one-bit field 1? -/
def isSet (off : Nat) (f : Fld) (m : Dev) : Bool := rdF off f m = 1

/-- Add to a counting field that saturates at its largest value. -/
def countSat (off : Nat) (f : Fld) (k : Nat) (m : Dev) : Dev := wrF off f (satAdd (2 ^ f.w - 1) (rdF off f m) k) m

/-- Add to a counting field that wraps. -/
def countWrap (off : Nat) (f : Fld) (k : Nat) (m : Dev) : Dev := wrF off f (rdF off f m + k) m

/-- Record into a fault register unless its VALID bit, bit 63, holds an earlier record (R104, R142, R175 and the like). -/
def recordFirst (off : Nat) (v : Word) (m : Dev) : Dev :=
  if (rd off m).getLsbD 63 then m else wr off (v ||| 0x8000000000000000#64) m

/-! ### Free values (DESIGN CHOICE, log entry 5) -/

/-- Draw one free value of 64 bits. -/
def drawFree (m : Dev) : BitVec 64 := Config.freeValue m.free

/-- The n-th free value from here on. -/
def freeAt (m : Dev) (n : Nat) : BitVec 64 := Config.freeValue (m.free + n)

/-- `n` free bytes. -/
def freeBytes (n : Nat) (m : Dev) : List Byte := (List.range n).map (fun i => (freeAt m i).setWidth 8)

/-- Pass over `n` free values that have been drawn. -/
def useFree (n : Nat) (m : Dev) : Dev := { m with free := m.free + n }

/-! ### The cause tree (R478 to R483) -/

/-- The leaf register word of a cause: INT_LEAF0 or INT_LEAF1 of its block (R484). -/
def Cause.reg (c : Cause) : Nat := aINT_LEAF c.block (c.leaf / 64)

/-- Group bit g of INT_BLOCK of block b: any unmasked leaf of group g (R479). -/
def groupBit (b g : Nat) (m : Dev) : Bool :=
  bitsAt (rd (aINT_LEAF b (g / 8)) m &&& ~~~ rd (aINT_LEAF_MASK b (g / 8)) m).toNat (8 * (g % 8)) 8 ≠ 0

/-- INT_BLOCK of block b (R479). -/
def intBlock (b : Nat) (m : Dev) : Word :=
  BitVec.ofNat 64 (((List.range 16).map (fun g => if groupBit b g m then 2 ^ g else 0)).sum)

/-- INT_RAW bit b (R479). -/
def rawBit (b : Nat) (m : Dev) : Bool :=
  (intBlock b m &&& ~~~ rd (aINT_BLOCK_MASK b) m) ≠ 0

/-- INT_RAW (R479). -/
def intRaw (m : Dev) : Word :=
  BitVec.ofNat 64 (((List.range 50).map (fun b => if rawBit b m then 2 ^ b else 0)).sum)

/-- INT_SUMMARY bit b (R479). -/
def summaryBit (b : Nat) (m : Dev) : Bool := rawBit b m && !(rd aINT_SUMMARY_MASK m).getLsbD b

/-- INT_SUMMARY (R479). -/
def intSummary (m : Dev) : Word :=
  BitVec.ofNat 64 (((List.range 50).map (fun b => if summaryBit b m then 2 ^ b else 0)).sum)

/-- INT_N is pulled low while INT_SUMMARY is not 0 and RESET_N is not asserted (R478). -/
def intLow (m : Dev) : Bool := intSummary m ≠ 0 && !m.power.resetLow

/-- Queue one PLDM event for a change of INT_SUMMARY (R492). -/
def summaryEvent (m : Dev) : Dev :=
  { m with mgmt := { m.mgmt with events := m.mgmt.events ++ [intSummary m] } }

/-- Do `f` and queue a PLDM event when INT_SUMMARY changed in block b. -/
def watchSummary (b : Nat) (f : Dev → Dev) (m : Dev) : Dev :=
  if summaryBit b (f m) = summaryBit b m then f m else summaryEvent (f m)

/-- The wall-clock time that stamps log records: the last time given, advanced by local time (R3, R458). -/
def wallClock (m : Dev) : BitVec 64 :=
  m.mgmt.wallNs + BitVec.ofNat 64 (((m.time - m.mgmt.wallAt).toNat * 64) / 10)

/-- The module's own log record of a cause: wall-clock time, local time, the leaf index in byte 16; the spec does not say
what the other bytes hold, so they are free (R458, DESIGN CHOICE, log entry 5). -/
def causeRecord (c : Cause) (m : Dev) : List Byte :=
  toLe 8 (wallClock m).toNat ++ toLe 8 m.time.toNat ++ [BitVec.ofNat 8 c.leaf] ++ freeBytes 47 m

/-- Make a log record: it waits to be gathered into a page (R458). -/
def addLog (r : List Byte) (m : Dev) : Dev := { m with nvm := { m.nvm with gathered := m.nvm.gathered ++ [r] } }

/-- Log a cause of HEADLAND or SCARECROW (R458). -/
def logCause (c : Cause) (m : Dev) : Dev := useFree 47 (addLog (causeRecord c m) m)

/-- Set the leaf of a cause (R480). -/
def setLeaf (c : Cause) (m : Dev) : Dev :=
  wr c.reg (rd c.reg m ||| BitVec.ofNat 64 (2 ^ (c.leaf % 64))) m

/-- Raise a cause: its leaf is set, INT_SUMMARY follows, and a HEADLAND or SCARECROW cause is logged. -/
def raise (c : Cause) (m : Dev) : Dev :=
  let m := watchSummary c.block (setLeaf c) m
  if c.block ≤ 1 then logCause c m else m

/-- Is a cause's leaf set? -/
def leafSet (c : Cause) (m : Dev) : Bool := (rd c.reg m).getLsbD (c.leaf % 64)

/-! ### Raw memory -/

/-- One byte of memory; 0 where nothing has been written (DESIGN CHOICE, log entry 2). -/
def ldByte (a : Nat) (m : Dev) : Byte := Sparse.get (0 : Byte) m.mem a

/-- Write bytes into a memory from `a` on. -/
def memPut : List Host.Cell → Nat → List Byte → List Host.Cell
  | mem, _, [] => mem
  | mem, a, b :: rest => memPut (Sparse.upd (0 : Byte) mem a b) (a + 1) rest

/-- `n` bytes from `a`. -/
def ldBytes (a n : Nat) (m : Dev) : List Byte := (List.range n).map (fun i => ldByte (a + i) m)

/-- Write bytes from `a` on. -/
def stBytes (a : Nat) (bs : List Byte) (m : Dev) : Dev := { m with mem := memPut m.mem a bs }

/-- A little-endian number of `n` bytes. -/
def ldN (n a : Nat) (m : Dev) : Nat := leNat (ldBytes a n m)

/-- Write a little-endian number of `n` bytes. -/
def stN (n a v : Nat) (m : Dev) : Dev := stBytes a (toLe n v) m

/-- An 8-byte word. -/
def ld8 (a : Nat) (m : Dev) : Word := BitVec.ofNat 64 (ldN 8 a m)

/-- Write an 8-byte word. -/
def st8 (a : Nat) (v : Word) (m : Dev) : Dev := stN 8 a v.toNat m

/-- `n` zero bytes from `a`. -/
def stZeros (a n : Nat) (m : Dev) : Dev := stBytes a (List.replicate n 0) m

/-- Free bytes over a range whose contents the spec leaves undefined. -/
def stFree (a n : Nat) (m : Dev) : Dev := useFree n (stBytes a (freeBytes n m) m)

/-! ### Poison marks (R91, R299, R522) -/

/-- The poison unit numbers that a range touches. -/
def unitsOf (g a n : Nat) : List Nat := (List.range ((a + n - 1) / g - a / g + 1)).map (fun i => a / g + i)

/-- Is a key of memory in the Field range? -/
def inField (a : Nat) : Bool := 0x0200_0000_0000 ≤ a && a < 0x0400_0000_0000

/-- Is a key of memory one whose 32-byte granules carry poison marks: in the Field tier (R299), or in a Fallow device, whose data
poison is treated alike (R303)? -/
def inMarked (a : Nat) : Bool := inField a || (0x1000_0000_0000 ≤ a && a < 0x1800_0000_0000)

/-- Is a key of memory in the Seedbed window? -/
def inWindow (a : Nat) : Bool := a < 0x1_0000_0000

/-- Is any byte of a range poisoned? -/
def poisoned (a n : Nat) (m : Dev) : Bool :=
  if n = 0 then false
  else if inMarked a then (unitsOf 32 a n).any (fun u => Sparse.get false m.poisonField u)
  else if inWindow a then (unitsOf 8 a n).any (fun u => Sparse.get false m.poisonLane u)
  else false

/-- Set or clear the marks of units. -/
def marksPut (marks : Sparse Bool) (us : List Nat) (p : Bool) : Sparse Bool :=
  us.foldl (fun ms u => ms.upd false u p) marks

/-- The units of size g that lie whole within a range. -/
def wholeUnits (g a n : Nat) : List Nat :=
  if n = 0 then [] else (unitsOf g a n).filter (fun u => a ≤ u * g && u * g + g ≤ a + n)

/-- A write clears the mark of every unit it covers whole; a partial write leaves it set (R91, R299, R522). -/
def clearWhole (a n : Nat) (m : Dev) : Dev :=
  { m with
    poisonField := if inMarked a then marksPut m.poisonField (wholeUnits 32 a n) false else m.poisonField
    poisonLane := if inWindow a then marksPut m.poisonLane (wholeUnits 8 a n) false else m.poisonLane }

/-- Mark every unit that a range touches as poisoned. -/
def poisonRange (a n : Nat) (m : Dev) : Dev :=
  { m with
    poisonField := if inMarked a && n ≠ 0 then marksPut m.poisonField (unitsOf 32 a n) true else m.poisonField
    poisonLane := if inWindow a && n ≠ 0 then marksPut m.poisonLane (unitsOf 8 a n) true else m.poisonLane }

/-- Write bytes as memory takes them: the bytes, then the marks they clear. -/
def stData (a : Nat) (bs : List Byte) (m : Dev) : Dev := clearWhole a bs.length (stBytes a bs m)

/-! ### Arrival counters (R145) -/

/-- The value of an arrival counter. -/
def arrival (d c : Nat) (m : Dev) : Nat := rdF (aDIE_ARRIVAL d c) fDIE_ARRIVAL_COUNT m

/-- Increment an arrival counter, modulo 2^32. -/
def addArrival (d c k : Nat) (m : Dev) : Dev := countWrap (aDIE_ARRIVAL d c) fDIE_ARRIVAL_COUNT k m

/-- A counter reference: DIE in [14:12], COUNTER in [11:0] (R113). -/
def refDie (r : Nat) : Nat := bitsAt r 12 3
def refCounter (r : Nat) : Nat := bitsAt r 0 12

/-- Increment the counter that a reference names. -/
def addRef (r k : Nat) (m : Dev) : Dev := addArrival (refDie r) (refCounter r) k m

/-! ### Tiles and dies -/

/-- The index of a tile, 18 × die + number. -/
def tileIdx (t : TileId) : Nat := 18 * t.die.val + t.tile.val

/-- The die of a tile index, and its number on the die. -/
def dieOf (t : Nat) : Nat := t / 18
def numOf (t : Nat) : Nat := t % 18

/-- A register of a tile: its address function applied to the tile's index. -/
def onTile (a : Nat → Nat → Nat) (t : Nat) : Nat := a (dieOf t) (numOf t)

/-- TILE_ID.ROLE (R98): 0 out of service, 1 active, 2 spare standing spare, 3 spare standing in. -/
def roleOf (t : Nat) (m : Dev) : Nat := rdF (onTile aTILE_ID t) fTILE_ID_ROLE m

/-- The local address of a tile-local offset (R293). -/
def tileAddr (t a : Nat) : Nat := dieOf t * 0x2000_0000 + numOf t * 0x140_0000 + a

/-- The local address of a die-shared offset (R293). -/
def sharedAddr (d a : Nat) : Nat := d * 0x2000_0000 + 0x1800_0000 + a

/-- The tiles of an engine that are its VALID members, in rank order (R105, R176). -/
def memberAt (e r : Nat) (m : Dev) : Option Nat :=
  (List.range 144).find? (fun t =>
    let v := rd (aFPLAN_MEMBER t) m
    fFPLAN_MEMBER_VALID.get v = 1 && fFPLAN_MEMBER_ENGINE.get v = e && fFPLAN_MEMBER_RANK.get v = r)

/-- How many tiles are VALID members of an engine. -/
def memberCount (e : Nat) (m : Dev) : Nat :=
  ((List.range 144).filter (fun t =>
    let v := rd (aFPLAN_MEMBER t) m
    fFPLAN_MEMBER_VALID.get v = 1 && fFPLAN_MEMBER_ENGINE.get v = e)).length

/-- The member tiles of an engine in rank order. -/
def members (e : Nat) (m : Dev) : List Nat :=
  (List.range (memberCount e m)).filterMap (fun r => memberAt e r m)

/-- The engine's lead, the Chanter of rank 0 (R105). -/
def leadOf (e : Nat) (m : Dev) : Option Nat := memberAt e 0 m

/-- A stop in order is in progress or has ended (R442): Chanters start no command, Piper commits no step, Intake, Stile,
tensor links and Ethernet are off. -/
def stopNow (m : Dev) : Bool := isSet aBELLOWS_STOP fBELLOWS_STOP_STOPPING m || isSet aBELLOWS_STOP fBELLOWS_STOP_STOPPED m

/-- D = 0 stops all new throughput work; work already started runs on (R426). -/
def throughputHeld (m : Dev) : Bool := rdF aBELLOWS_STATE fBELLOWS_STATE_D m = 0

/-- What the module sends out, newest last. -/
def emit (o : Out) (m : Dev) : Dev := { m with out := m.out ++ [o] }

/-! ### Parked units (R164) -/

/-- Does a change set hold a unit parked? It starts no new work until the apply. -/
def isParked (u : PlanUnit) (m : Dev) : Bool := m.plan.parked.contains u

/-- Is a master of a tile's Seedbed, or of a die's shared Seedbed, parked? -/
def tileMasterParked (t k : Nat) (m : Dev) : Bool :=
  m.plan.parked.any (fun u => match u with
    | .tileMaster x j => tileIdx x = t && j.val = k
    | _ => false)
def sharedMasterParked (d k : Nat) (m : Dev) : Bool :=
  m.plan.parked.any (fun u => match u with
    | .sharedMaster x j => x.val = d && j.val = k
    | _ => false)

end Sys2Proof.Machine
end

