-- ==== Sys2Proof/Machine/TierOps.lean ====
section
/-! DEFINITION. The address map and the page map (chapter 10): what a local address names (R290, R293, R296), map entries
(R308), frame pools (R312), eviction (R313), the page-map flip (R310) and filling a fault (R311). -/
namespace Sys2Proof.Machine

/-! ### The local address map (R290, R293) -/

/-- What a local address names. -/
inductive Place where
  | tile (t off : Nat)
  | shared (d off : Nat)
  | buffer (s off : Nat)
  | regs (off : Nat)
  | fld (f : Nat)
  | page (range p off : Nat)
  | hole
  deriving DecidableEq, Repr

/-- Base addresses of the tiers. -/
def fieldBase : Nat := 0x0200_0000_0000
def fallowBase : Nat := 0x1000_0000_0000
def granaryBase : Nat := 0x2000_0000_0000

/-- Tile-local operands are carried as numbers above every local address, so that an offset that runs past the tile's
20 MiB stays an offset of that tile and meets no region (R86). -/
def tileSpace : Nat := 2 ^ 50

/-- A tile-local offset of tile t as an operand; one past every tile's Seedbed is carried as 2^32. -/
def tl (t off : Nat) : Nat := tileSpace + t * 2 ^ 33 + min off (2 ^ 32)

/-- A local address as an operand; one past every region of R290 is carried as 2^46. -/
def loc (a : Nat) : Nat := min a (2 ^ 46)

/-- Decode a local address (R290, R293). Range 0 is Fallow, range 1 Granary. -/
def placeOf (a : Nat) : Place :=
  if a < 0x1_0000_0000 then
    let d := a / 0x2000_0000
    let o := a % 0x2000_0000
    if o < 0x1680_0000 then .tile (18 * d + o / 0x140_0000) (o % 0x140_0000)
    else if o < 0x1800_0000 then .hole
    else if o < 0x1980_0000 then .shared d (o - 0x1800_0000)
    else if o < 0x1C00_0000 then .hole
    else .buffer (4 * d + (o - 0x1C00_0000) / 0x100_0000) ((o - 0x1C00_0000) % 0x100_0000)
  else if a < 0x1_0100_0000 then .regs (a - 0x1_0000_0000)
  else if a < fieldBase then .hole
  else if a < 0x0400_0000_0000 then .fld (a - fieldBase)
  else if a < fallowBase then .hole
  else if a < 0x1800_0000_0000 then .page 0 ((a - fallowBase) / 65536) (a % 65536)
  else if a < granaryBase then .hole
  else if a < 0x4000_0000_0000 then .page 1 ((a - granaryBase) / 65536) (a % 65536)
  else if a < tileSpace then .hole
  else if (a - tileSpace) / 2 ^ 33 < 144 then .tile ((a - tileSpace) / 2 ^ 33) ((a - tileSpace) % 2 ^ 33)
  else .hole

/-- The die of a Field offset, its stack, and the byte within the stack (R296). -/
def fieldDie (f : Nat) : Nat := bitsAt f 38 3
def fieldStack (f : Nat) : Nat := 4 * fieldDie f + bitsAt f 16 2
def fieldByte (f : Nat) : Nat := bitsAt f 18 20 * 65536 + f % 65536

/-- Is a stack in service (R291, R321)? -/
def stackUp (s : Nat) (m : Dev) : Bool := isSet (aHARROW_CTRL s) fHARROW_CTRL_IN_SERVICE m

/-- The first byte of a Harrow buffer that serves the engines, a hole under R298. -/
def bufferTop (s : Nat) (m : Dev) : Nat :=
  (16 - min 16 (rdF (aHARROW_CTRL s) fHARROW_CTRL_ENGINE_MIB m)) * 0x10_0000

/-! ### Map entries (R308) -/

def mVALID : Fld := ⟨63, 1⟩
def mWHERE : Fld := ⟨61, 2⟩
def mDIRTY : Fld := ⟨60, 1⟩
def mPINNED : Fld := ⟨59, 1⟩
def mBUSY : Fld := ⟨58, 1⟩
def mMOVING : Fld := ⟨57, 1⟩
def mPOISON : Fld := ⟨56, 1⟩
def mRUN : Fld := ⟨40, 16⟩
def mCLASS : Fld := ⟨32, 8⟩
def mFRAME : Fld := ⟨0, 32⟩

/-- Is the map of a range enabled? -/
def mapOn (range : Nat) (m : Dev) : Bool :=
  if range = 0 then isSet aTIER_MAP_FALLOW fTIER_MAP_FALLOW_ENABLE m
  else isSet aTIER_MAP_GRANARY fTIER_MAP_GRANARY_ENABLE m

/-- The configured pages of a range (R302, R305). -/
def rangePages (range : Nat) (m : Dev) : Nat :=
  if range = 0 then
    if isSet aTIER_FALLOW_DECODE fTIER_FALLOW_DECODE_ENABLE m then
      2 ^ min 4 (rdF aTIER_FALLOW_DECODE fTIER_FALLOW_DECODE_WAYS_LOG2 m) *
        rdF aTIER_FALLOW_DECODE fTIER_FALLOW_DECODE_WAY_PAGES m
    else 0
  else rdF aTIER_MAP_GRANARY fTIER_MAP_GRANARY_PAGES m

/-- The way of a byte of the Fallow range, and its offset on the way's device (R302). -/
def fallowWays (m : Dev) : Nat := 2 ^ min 4 (rdF aTIER_FALLOW_DECODE fTIER_FALLOW_DECODE_WAYS_LOG2 m)
def fallowWay (a : Nat) (m : Dev) : Nat := (a - fallowBase) / 4096 % fallowWays m
def fallowOffset (a : Nat) (m : Dev) : Nat := (a - fallowBase) / 4096 / fallowWays m * 4096 + (a - fallowBase) % 4096

/-- Does the bifurcation of a port use a device position (R303, R496)? -/
def slotUsed (port device : Nat) (m : Dev) : Bool :=
  match rdF (aPCIE_PORT port) fPCIE_PORT_BIFURCATION m with
  | 1 => device < 2
  | 2 => device < 4
  | _ => device = 0

/-- The device positions in use, by 4 × port + device. -/
def slotsUsed (m : Dev) : BitVec 16 :=
  BitVec.ofNat 16 (((List.range 16).map (fun i => if slotUsed (i / 4) (i % 4) m then 2 ^ i else 0)).sum)

/-- Unused positions have REFCLK and PERST_N held low; the REFCLK of the others runs while the 100 MHz oscillator does (R496). A
position that a commit takes into use keeps PERST_N low until the next boot (DESIGN CHOICE, log entry 114). -/
def slotsJudged (m : Dev) : Dev :=
  { m with slots := ⟨if m.slots.refclk = 0 then 0 else slotsUsed m, m.slots.perstN &&& slotsUsed m⟩ }

/-- The device of a way, as 4 × port + device (TIER_FALLOW_WAYS). -/
def wayDevice (w : Nat) (m : Dev) : Nat := bitsAt (rd aTIER_FALLOW_WAYS m).toNat (4 * w) 4

/-- How many namespaces the Granary window stripes over (R305): the VALID entries of TIER_NS from entry 0 up to the first that is
not VALID or names a namespace that is not used (R306); at least one, as R305 counts from 1 (DESIGN CHOICE, log entry 98). -/
def nsUsable (i : Nat) (m : Dev) : Bool :=
  let v := rd (aTIER_NS0 i) m
  fTIER_NS0_VALID.get v = 1 &&
    !m.tiers.badNs.contains (fTIER_NS0_PORT.get v, fTIER_NS0_DEVICE.get v, fTIER_NS0_NSID.get v)
def nsCount (m : Dev) : Nat := max 1 (((List.range 8).takeWhile (fun i => nsUsable i m)).length)

/-- The entry of TIER_NS that holds the home of page p, and the LBA at which its 16 blocks start (R305). -/
def nsOf (p : Nat) (m : Dev) : Nat := p % nsCount m
def lbaOf (p : Nat) (m : Dev) : Nat := (rd (aTIER_NS1 (nsOf p m)) m).toNat + 16 * (p / nsCount m)

/-- The controller that holds the home of page p, as 4 × port + device. -/
def controllerOf (p : Nat) (m : Dev) : Nat :=
  let v := rd (aTIER_NS0 (nsOf p m)) m
  4 * fTIER_NS0_PORT.get v + fTIER_NS0_DEVICE.get v

/-- The address of a page's map entry (R308): word 0 MAP, word 1 STAGED. -/
def entryAddr (range p : Nat) (m : Dev) : Nat :=
  (if range = 0 then rdF aTIER_MAP_FALLOW fTIER_MAP_FALLOW_BASE m
   else rdF aTIER_MAP_GRANARY fTIER_MAP_GRANARY_BASE m) * 65536 + 16 * p

def mapOf (range p : Nat) (m : Dev) : Word := ld8 (entryAddr range p m) m
def setMap (range p : Nat) (v : Word) (m : Dev) : Dev := st8 (entryAddr range p m) v m
def stagedOf (range p : Nat) (m : Dev) : Word := ld8 (entryAddr range p m + 8) m
def setStaged (range p : Nat) (v : Word) (m : Dev) : Dev := st8 (entryAddr range p m + 8) v m

/-- Set a field of a page's MAP. -/
def setMapF (range p : Nat) (f : Fld) (n : Nat) (m : Dev) : Dev := setMap range p (f.put (mapOf range p m) n) m

/-- Where the bytes of a page lie: none for a page lent by a peer (WHERE 3). -/
def pageKey (range p : Nat) (e : Word) : Option Nat :=
  match mWHERE.get e with
  | 0 => some ((if range = 0 then fallowBase else granaryBase) + 65536 * p)
  | 1 => some (fieldBase + 65536 * mFRAME.get e)
  | 2 => some (fallowBase + 65536 * mFRAME.get e)
  | _ => none

/-- The key of memory that holds the byte at a local address now: a page's bytes lie where its entry says. -/
def keyAt (a : Nat) (m : Dev) : Nat :=
  match placeOf a with
  | .page range p off => if mapOn range m then ((pageKey range p (mapOf range p m)).map (fun k => k + off)).getD a else a
  | _ => a

/-- A little-endian number of `n` bytes at a local address of firmware's tables and words, as it stands. -/
def peekN (n a : Nat) (m : Dev) : Nat := ldN n (keyAt a m) m

/-- Record a Mover or device fault in TIER_FAULT. -/
def tierFault (kind d range p : Nat) (m : Dev) : Dev :=
  recordFirst aTIER_FAULT (fTIER_FAULT_KIND.of kind ||| fTIER_FAULT_DIE.of d ||| fTIER_FAULT_RANGE.of range |||
    fTIER_FAULT_PAGE.of p) m

/-! ### Frame pools (R312): 0 Field, 1 local Fallow, 2 remote Fallow -/

def poolOn (k : Nat) (m : Dev) : Bool := isSet (aTIER_POOL k) fTIER_POOL_ENABLE m
def poolBase (k : Nat) (m : Dev) : Nat := rdF (aTIER_POOL k) fTIER_POOL_BASE m * 65536
def poolSize (k : Nat) (m : Dev) : Nat := rdF (aTIER_POOL k) fTIER_POOL_SIZE m
def poolFree (k : Nat) (m : Dev) : Nat := ldN 4 (poolBase k m) m
def descAddr (k i : Nat) (m : Dev) : Nat := poolBase k m + 64 + 16 * i
def stackAddr (k j : Nat) (m : Dev) : Nat := poolBase k m + 64 + 16 * poolSize k m + 4 * j

/-- The word of a frame descriptor that holds WHERE and FRAME. -/
def descFrame (k i : Nat) (m : Dev) : Word := ld8 (descAddr k i m) m

/-- OWNER of a descriptor: [63] IN_USE, [62] RANGE, [28:0] the page. -/
def descOwner (k i : Nat) (m : Dev) : Word := ld8 (descAddr k i m + 8) m
def setOwner (k i : Nat) (v : Word) (m : Dev) : Dev := st8 (descAddr k i m + 8) v m

def ownerWord (range p : Nat) : Word := BitVec.ofNat 64 (2 ^ 63 + range * 2 ^ 62 + p % 2 ^ 29)

/-- May the Mover pop this frame? Not one in a stack that is retiring or out of service (R321), nor a local Fallow frame
while Fallow is lost (R304). -/
def frameUsable (w : Word) (m : Dev) : Bool :=
  match mWHERE.get w with
  | 1 =>
    let s := fieldStack (65536 * mFRAME.get w)
    stackUp s m && !isSet (aHARROW_CTRL s) fHARROW_CTRL_RETIRING m
  | 2 => !m.tiers.fallowLost
  | _ => true

/-- The position on the free stack nearest its top whose frame may be popped. -/
def popIndex (k : Nat) (m : Dev) : Option Nat :=
  ((List.range (poolFree k m)).reverse).find? (fun j => frameUsable (descFrame k (ldN 4 (stackAddr k j m) m) m) m)

/-- Pop a frame for a page: the descriptor's index; the entry above takes its place on the stack. -/
def popFrame (k range p : Nat) (m : Dev) : Option (Nat × Dev) :=
  if !poolOn k m then none
  else
    match popIndex k m with
    | none => none
    | some j =>
      let i := ldN 4 (stackAddr k j m) m
      let top := poolFree k m - 1
      let m1 := stN 4 (stackAddr k j m) (ldN 4 (stackAddr k top m) m) m
      some (i, setOwner k i (ownerWord range p) (stN 4 (poolBase k m1) top m1))

/-- Has a frame left its pool with its stack, which is out of service (R321)? -/
def frameGone (w : Word) (m : Dev) : Bool :=
  decide (mWHERE.get w = 1) && !stackUp (fieldStack (65536 * mFRAME.get w)) m

/-- Push a descriptor back on its pool's stack. A frame that has left its pool does not come back. -/
def pushFrame (k i : Nat) (m : Dev) : Dev :=
  let f := poolFree k m
  let m1 := setOwner k i 0 m
  if frameGone (descFrame k i m) m then m1 else stN 4 (poolBase k m1) (f + 1) (stN 4 (stackAddr k f m1) i m1)

/-- The frames whose stack is out of service leave a pool's free stack (R321, step 4). -/
def dropGone (k : Nat) (m : Dev) : Dev :=
  if !poolOn k m then m
  else
    let all := (List.range (poolFree k m)).map (fun j => ldN 4 (stackAddr k j m) m)
    let kept := all.filter (fun i => !frameGone (descFrame k i m) m)
    stN 4 (poolBase k m) kept.length (stBytes (stackAddr k 0 m) ((kept.map (toLe 4)).flatten) m)

/-- The pool and descriptor of a frame in use, if a pool holds it. -/
def findFrame (w : Word) (m : Dev) : Option (Nat × Nat) :=
  let k := mWHERE.get w - 1
  if mWHERE.get w = 0 || !poolOn k m then none
  else
    ((List.range (poolSize k m)).find? (fun i =>
      let f := descFrame k i m
      mWHERE.get f = mWHERE.get w && mFRAME.get f = mFRAME.get w && (descOwner k i m).getLsbD 63)).map (fun i => (k, i))

/-- Free the frame that an entry left behind. -/
def freeFrame (w : Word) (m : Dev) : Dev := withSome (findFrame w m) (fun ki => pushFrame ki.1 ki.2) m

/-! ### Copying pages -/

/-- Copy the bytes and the poison of one 64 KiB page between two keys of memory. -/
def copyRaw (src dst n : Nat) (m : Dev) : Dev :=
  let bad := (unitsOf 32 src n).filter (fun u => poisoned (u * 32) 32 m)
  let m := stData dst (ldBytes src n m) m
  forEach bad (fun u => poisonRange (dst + (u * 32 - src)) 32) m

/-- The class entry of a page (R316). Every access is translated afresh through MAP, so no translation cache is held (R309). -/
def classOf (e : Word) (m : Dev) : Word := rd (aTIER_CLASS (mCLASS.get e)) m

/-! ### Eviction (R313) -/

/-- May the page of a descriptor be evicted? -/
def evictable (k i : Nat) (m : Dev) : Bool :=
  let o := descOwner k i m
  let e := mapOf (bitsAt o.toNat 62 1) (bitsAt o.toNat 0 29) m
  o.getLsbD 63 && !frameGone (descFrame k i m) m && mPINNED.get e = 0 && mBUSY.get e = 0 && mMOVING.get e = 0 &&
    fTIER_CLASS_EVICTABLE.get (classOf e m) = 1

/-- The first descriptor from HAND on, wrapping at SIZE, whose page may be evicted (DESIGN CHOICE, log entry 17). -/
def victim (k : Nat) (m : Dev) : Option Nat :=
  let n := poolSize k m
  let h := ldN 4 (poolBase k m + 4) m
  ((List.range n).map (fun j => (h + j) % n)).find? (fun i => evictable k i m)

/-- The end of an eviction: the page flips to WHERE 0, the frame is freed, EVICTIONS counts. -/
def evictEnd (k i : Nat) (m : Dev) : Dev :=
  let o := descOwner k i m
  let r := bitsAt o.toNat 62 1
  let p := bitsAt o.toNat 0 29
  let e := mapOf r p m
  let e' := mMOVING.put (mDIRTY.put (mFRAME.put (mWHERE.put e 0) 0) 0) 0
  countSat aTIER_STATS fTIER_STATS_EVICTIONS 1 (pushFrame k i (setMap r p e' m))

/-- Write a page back to its home (R313, R307). -/
def writeHome (range p : Nat) (e : Word) (m : Dev) : Dev :=
  match pageKey range p e with
  | some src => copyRaw src ((if range = 0 then fallowBase else granaryBase) + 65536 * p) 65536 m
  | none => m

/-- Choose a victim: HAND passes it and MOVING is set; answers the descriptor and whether it must be written back. -/
def evictStart (k : Nat) (m : Dev) : Option (Nat × Bool × Dev) :=
  match victim k m with
  | none => none
  | some i =>
    let o := descOwner k i m
    let r := bitsAt o.toNat 62 1
    let p := bitsAt o.toNat 0 29
    let dirty := mDIRTY.get (mapOf r p m) = 1
    some (i, dirty, setMapF r p mMOVING 1 (stN 4 (poolBase k m + 4) ((i + 1) % poolSize k m) m))

/-! ### The page-map flip (R310) -/

/-- Does a MIGRATE of a ring or of a bulk job hold a page? One of a bulk entry without a flip holds it until a flip comes. -/
def migrating (range p : Nat) (m : Dev) : Bool :=
  m.rings.any (fun x => x.2.moving.contains (range, p)) ||
    (((m.tiers.bulk.map (fun b => b.1)).getD []) ++ m.tiers.kept).contains (range, p)

/-- May the run from a page flip? Every STAGED is VALID, and one that no MIGRATE wrote changes only CLASS and PINNED. -/
def flipOk (range p n : Nat) (m : Dev) : Bool :=
  (List.range n).all (fun i =>
    let st := stagedOf range (p + i) m
    let mp := mapOf range (p + i) m
    mVALID.get st = 1 &&
      (migrating range (p + i) m || (mWHERE.get st = mWHERE.get mp && mFRAME.get st = mFRAME.get mp)))

/-- Flip one entry: MAP takes STAGED with RUN 0, STAGED.VALID and MOVING are cleared, the frame left behind is freed. -/
def flipOne (range p : Nat) (m : Dev) : Dev :=
  let old := mapOf range p m
  let st := stagedOf range p m
  let moved := mWHERE.get st ≠ mWHERE.get old || mFRAME.get st ≠ mFRAME.get old
  let new := mPOISON.put (mMOVING.put (mBUSY.put (mRUN.put st 0) 0) 0) (mPOISON.get old)
  let new := if moved then new else mDIRTY.put new (mDIRTY.get old)
  let m1 := { m with tiers := { m.tiers with kept := m.tiers.kept.filter (fun x => x ≠ (range, p)) } }
  when moved (freeFrame old) (setStaged range p (mVALID.put st 0) (setMap range p new m1))

/-- The range and page of the map entry at a local address, if it is one. -/
def entryPage (a : Nat) (m : Dev) : Option (Nat × Nat) :=
  let try_ := fun range =>
    if mapOn range m && entryAddr range 0 m ≤ a && (a - entryAddr range 0 m) % 16 = 0 &&
      (a - entryAddr range 0 m) / 16 < rangePages range m then some (range, (a - entryAddr range 0 m) / 16) else none
  match try_ 0 with
  | some x => some x
  | none => try_ 1

/-- The flip of the run whose first entry lies at `a`; none when it is refused. The frames are freed, every access of the
model is translated through MAP, so no cache is left to drop. -/
def flipRun (a : Nat) (m : Dev) : Option Dev :=
  match entryPage a m with
  | none => none
  | some (range, p) =>
    let n := mRUN.get (stagedOf range p m) + 1
    if flipOk range p n m then some (forEach (List.range n) (fun i => flipOne range (p + i)) m) else none

/-- A refused flip: its cause and its record (R310). -/
def flipRefused (d : Nat) (a : Nat) (m : Dev) : Dev :=
  let rp := (entryPage a m).getD (0, 0)
  tierFault 2 d rp.1 rp.2 (raise (cDIE_MOVER_FLIP_REFUSED d) m)

/-! ### Filling a fault (R311) -/

/-- The pool that a page's class names for its faults; none when the class gives none, or names the remote pool and does not
admit its pages to it (R311, R316). -/
def faultPool (e : Word) (m : Dev) : Option Nat :=
  let c := classOf e m
  if fTIER_CLASS_VALID.get c = 0 || fTIER_CLASS_FAULT_POOL.get c = 3 then none
  else if fTIER_CLASS_FAULT_POOL.get c = 2 && fTIER_CLASS_REMOTE_OK.get c = 0 then none
  else some (fTIER_CLASS_FAULT_POOL.get c)

/-- The frame of a descriptor as the WHERE and FRAME of an entry. -/
def entryAt (e w : Word) : Word := mFRAME.put (mWHERE.put e (mWHERE.get w)) (mFRAME.get w)

/-- The home has been read into the frame: the entry flips to it. -/
def fillEnd (p k i : Nat) (ok : Bool) (m : Dev) : Dev :=
  let e := entryAt (mapOf 1 p m) (descFrame k i m)
  let e := mPOISON.put (mDIRTY.put (mBUSY.put e 0) 0) (if ok then mPOISON.get e else 1)
  let m1 := match pageKey 1 p e with
    | some dst => if ok then copyRaw (granaryBase + 65536 * p) dst 65536 m else m
    | none => m
  setMap 1 p e m1

/-- An access of a die meets a Granary page at its home: BUSY is set, the fault counts, and it waits for its frame (R311). -/
def beginFault (die p : Nat) (m : Dev) : Dev :=
  let m1 := countSat aTIER_STATS fTIER_STATS_FAULTS 1 (setMapF 1 p mBUSY 1 m)
  { m1 with tiers := { m1.tiers with waitFrame := m1.tiers.waitFrame ++ [(p, die)] } }

end Sys2Proof.Machine
end

