-- ==== Sys2Proof/Machine/Access.lean ====
section
/-! DEFINITION. Accesses to the local address space by the units of the module (R92 to R95, R291, R294, R295): who asks,
which master that makes it at the banks it reaches, the region check, what a refused or poisoned access does. -/
namespace Sys2Proof.Machine

/-- Who makes an access: a master of a tile, a die engine (with its tile master and its die-shared master), a requester
from another module entering at a die, the Headland firmware and its kin, or Piper's writes of R93. -/
inductive Agent where
  | tile (t master : Nat)
  | unit (d tm sm : Nat)
  | remote (d : Nat)
  | headland
  | piper
  deriving DecidableEq, Repr

/-- The die engines as agents (R92, R294). -/
def agentDrone (d : Nat) : Agent := .unit d 2 1
def agentCoulter (d : Nat) : Agent := .unit d 8 2
def agentDrill (d : Nat) : Agent := .unit d 5 3
def agentGleaner (d : Nat) : Agent := .unit d 6 4
def agentMover (d : Nat) : Agent := .unit d 7 5

/-- The die that the causes of an agent's refusals name (R291). -/
def Agent.die : Agent → Nat
  | .tile t _ => dieOf t
  | .unit d _ _ => d
  | .remote d => d
  | .headland => 0
  | .piper => 0

/-- The master of tile `t` through which an agent enters (R92, R93). -/
def Agent.tileMaster (ag : Agent) (t : Nat) : Nat :=
  match ag with
  | .tile u k => if u = t then k else 8
  | .unit d tm _ => if dieOf t = d then tm else 8
  | .remote _ => 8
  | .headland => 8
  | .piper => 9

/-- The die-shared master of die `d` through which an agent enters (R294). -/
def Agent.sharedMaster (ag : Agent) (d : Nat) : Nat :=
  match ag with
  | .tile u _ => if dieOf u = d then 0 else 6
  | .unit e _ sm => if e = d then sm else 6
  | .remote _ => 6
  | .headland => 7
  | .piper => 7

/-! ### Regions (R94 to R96, R295) -/

/-- Is a tile region valid? LIMIT up to 5,119 and BASE not above it (R96). -/
def tileRegionValid (v : Word) : Bool :=
  fTILE_SEEDBED_REGION_VALID.get v = 1 && fTILE_SEEDBED_REGION_LIMIT.get v ≤ 5119 &&
    fTILE_SEEDBED_REGION_BASE.get v ≤ fTILE_SEEDBED_REGION_LIMIT.get v

/-- Is a die-shared region of die d valid? For the banks LIMIT up to 6,143; for a tile it must be a spare standing spare
and the region evictable (R294, R295). -/
def sharedRegionValid (d : Nat) (v : Word) (m : Dev) : Bool :=
  let t := fDIE_SHARED_REGION_TILE.get v
  fDIE_SHARED_REGION_VALID.get v = 1 && fDIE_SHARED_REGION_BASE.get v ≤ fDIE_SHARED_REGION_LIMIT.get v &&
    (if t = 31 then fDIE_SHARED_REGION_LIMIT.get v ≤ 6143
     else t < 18 && fDIE_SHARED_REGION_LIMIT.get v ≤ 5119 && roleOf (18 * d + t) m = 2 &&
       fDIE_SHARED_REGION_EVICTABLE.get v = 1)

/-- Does a region hold rows lo to hi whole? -/
def regionHolds (v : Word) (lo hi : Nat) : Bool :=
  fTILE_SEEDBED_REGION_BASE.get v ≤ lo && hi ≤ fTILE_SEEDBED_REGION_LIMIT.get v

/-- The permission of the union of the regions given (R94). -/
def regionsAllow (vs : List Word) (lo hi : Nat) (write : Bool) : Bool :=
  vs.any (fun v => regionHolds v lo hi &&
    (if write then fTILE_SEEDBED_REGION_WRITE.get v else fTILE_SEEDBED_REGION_READ.get v) = 1)

/-- The valid regions of a master of a tile. -/
def tileRegions (t k : Nat) (m : Dev) : List Word :=
  ((List.range 8).map (fun r => rd (aTILE_SEEDBED_REGION (dieOf t) (numOf t) k r) m)).filter tileRegionValid

/-- The valid die-shared regions of a master whose TILE field is `tl`. -/
def sharedRegions (d k tl : Nat) (m : Dev) : List Word :=
  ((List.range 8).map (fun r => rd (aDIE_SHARED_REGION d k r) m)).filter
    (fun v => sharedRegionValid d v m && fDIE_SHARED_REGION_TILE.get v = tl)

/-- Which fault register an access is judged and recorded by: a tile's own master, or a die-shared master. -/
inductive Gate where
  | tile (t master : Nat)
  | shared (d master tl : Nat)
  | none
  deriving DecidableEq, Repr

/-- Is the Seedbed of a tile being zeroed by an eviction (R295)? Its commit gives it ROLE 3. -/
def beingEvicted (t : Nat) (m : Dev) : Bool :=
  let o := aFPLAN_MEMBER t
  let mask : Word := Sparse.get 0 m.plan.frozenMask o
  let shadow : Word × Word := Sparse.get (0, 0) m.shadow o
  m.plan.zeroing && roleOf t m ≠ 3 && fFPLAN_MEMBER_ROLE.get ((rd o m &&& ~~~ mask) ||| (shadow.1 &&& mask)) = 3

/-- The gate of an access to a tile's Seedbed: a die-shared master whose valid region names the tile comes through that
region (R295), every other access through the tile's regions. -/
def tileGate (ag : Agent) (t : Nat) (m : Dev) : Gate :=
  let d := dieOf t
  let own := match ag with | .tile u _ => u = t | _ => false
  let sm := ag.sharedMaster d
  if !own && (sharedRegions d sm (numOf t) m).length ≠ 0 then .shared d sm (numOf t) else .tile t (ag.tileMaster t)

/-- Does a gate allow rows lo to hi? -/
def Gate.allows (g : Gate) (lo hi : Nat) (write : Bool) (m : Dev) : Bool :=
  match g with
  | .tile t k => regionsAllow (tileRegions t k m) lo hi write
  | .shared d k tl => regionsAllow (sharedRegions d k tl m) lo hi write
  | .none => true

/-- Does an access at a gate wait for an apply: that of a master that is parked (R164), or one through a region whose tile is
being zeroed, which the apply then refuses (R295)? -/
def Gate.waits (g : Gate) (m : Dev) : Bool :=
  match g with
  | .tile t k => tileMasterParked t k m
  | .shared d k tl => sharedMasterParked d k m || (decide (tl < 18) && beingEvicted (18 * d + tl) m)
  | .none => false

/-- Record a Seedbed fault at a gate: KIND 1 refusal, 2 uncorrectable; bank and row of the offset (R104, R295). -/
def gateFault (g : Gate) (kind off : Nat) (write : Bool) (m : Dev) : Dev :=
  let w := if write then 1 else 0
  let common := fTILE_SEEDBED_FAULT_WRITE.of w ||| fTILE_SEEDBED_FAULT_KIND.of kind |||
    fTILE_SEEDBED_FAULT_BANK.of (bitsAt off 6 6) ||| fTILE_SEEDBED_FAULT_ROW.of (off / 4096)
  match g with
  | .tile t k => recordFirst (onTile aTILE_SEEDBED_FAULT t) (fTILE_SEEDBED_FAULT_MASTER.of k ||| common) m
  | .shared d k tl => recordFirst (aDIE_SHARED_FAULT d)
      (fTILE_SEEDBED_FAULT_MASTER.of k ||| common ||| fDIE_SHARED_FAULT_TILE.of tl) m
  | .none => m

/-- The die whose SEEDBED causes a gate raises. -/
def Gate.die : Gate → Nat
  | .tile t _ => dieOf t
  | .shared d _ _ => d
  | .none => 0

/-! ### Outcomes -/

/-- How an access fares: performed, refused by a region (R95), refused by the address map (R291), poisoned data (R91,
R299), no frame for its page (R313), or held back: it waits for its page, for a peer's bytes or for an apply (R295, R309, R311,
R314), and its command is performed once it no longer waits. -/
inductive AStat where
  | ok | region | unmapped | poison | noFrame | held
  deriving DecidableEq, Repr

/-- The worse of two outcomes: the first that is not ok. -/
def AStat.join (a b : AStat) : AStat := if a = .ok then b else a

/-- Where an access is served, once it is judged. -/
inductive Served where
  /-- Bytes of memory from this key, guarded by this gate. -/
  | at (key : Nat) (g : Gate) (off : Nat)
  /-- A page lent by a peer, or a page marked as poisoned. -/
  | peer
  | poisonPage
  /-- Refused. -/
  | refuseRegion (g : Gate) (off : Nat)
  | refuseMap
  /-- A Granary page at its home: the access faults (R311). -/
  | fault (p pool : Nat)
  /-- The access waits: a page being filled, a write to a page in motion (R314), a tile being zeroed (R295). -/
  | busy
  deriving DecidableEq, Repr

/-- Judge an access to one page of the Fallow or Granary range (R291, R304, R309, R311, R314, R321). -/
def judgePage (range p off : Nat) (write : Bool) (m : Dev) : Served :=
  let e := mapOf range p m
  if !mapOn range m || rangePages range m ≤ p || mVALID.get e = 0 || frameGone e m then .refuseMap
  else if mBUSY.get e = 1 || (write && mMOVING.get e = 1) then .busy
  else if range = 1 && mWHERE.get e = 0 then
    match faultPool e m with
    | none => .refuseMap
    | some k => if k = 1 && m.tiers.fallowLost then .refuseMap else .fault p k
  else if mPOISON.get e = 1 then .poisonPage
  else
    match pageKey range p e with
    | some key => .at (key + off) .none off
    | none => if isSet (aTIER_PEER (bitsAt (mFRAME.get e) 29 3)) fTIER_PEER_VALID m then .peer else .refuseMap

/-- Judge an access of `n` bytes that stays within the Seedbed of one tile, the banks of one die or one 4 KiB row elsewhere:
one region must hold every byte of it (R94, R291). A refusal names the first byte of the range, wherever in it the refused row
lies (R104; DESIGN CHOICE, log entry 99). The Seedbed of a tile whose ROLE is 0 is served through the tile's own regions as they
stand (R21; DESIGN CHOICE, log entry 100). -/
def judge (ag : Agent) (a n : Nat) (write : Bool) (m : Dev) : Served :=
  match placeOf a with
  | .tile t off =>
    let g := tileGate ag t m
    if g.waits m then .busy
    else if g.allows (off / 4096) ((off + n - 1) / 4096) write m then .at (tileAddr t off) g off else .refuseRegion g off
  | .shared d off =>
    let g := Gate.shared d (ag.sharedMaster d) 31
    if g.waits m then .busy
    else if g.allows (off / 4096) ((off + n - 1) / 4096) write m then .at a g off else .refuseRegion g off
  | .buffer s off => if stackUp s m && off < bufferTop s m then .at a .none off else .refuseMap
  | .regs _ => .refuseMap
  | .fld f => if stackUp (fieldStack f) m then .at a .none f else .refuseMap
  | .page range p off => judgePage range p off write m
  | .hole => .refuseMap

/-- Is an access refused? -/
def Served.refused (sv : Served) : Bool :=
  match sv with
  | .refuseRegion _ _ => true
  | .refuseMap => true
  | _ => false

/-- The causes and records of a refused access (R95, R291). -/
def refuseRegion (g : Gate) (off : Nat) (write : Bool) (m : Dev) : Dev :=
  gateFault g 1 off write (raise (cDIE_SEEDBED_REGION_FAULT g.die) m)
def refuseMap (ag : Agent) (m : Dev) : Dev := raise (cDIE_FABRIC_UNMAPPED ag.die) m

/-- The causes and records of an access that meets an uncorrectable Seedbed lane, `bad` bytes past `off`; Field marks were
reported when they were set (R91, R104, R522). -/
def poisonMet (write : Bool) (a : Nat) (g : Gate) (bad off : Nat) (m : Dev) : Dev :=
  match placeOf a with
  | .tile t _ => gateFault g 2 (off + bad) write (raise (cDIE_SEEDBED_ECC_UNCORR (dieOf t)) m)
  | .shared d _ => gateFault g 2 (off + bad) write (raise (cDIE_SEEDBED_ECC_UNCORR d) m)
  | .buffer s boff =>
    recordFirst (aHARROW_FAULT s) (fHARROW_FAULT_KIND.of 1 ||| fHARROW_FAULT_BUFFER.of 1 |||
      fHARROW_FAULT_OFFSET.of ((boff + bad) / 8 * 8))
      (countSat (aHARROW_ECC_STATS s) fHARROW_ECC_STATS_UNCORRECTED 1 (raise (cSTACK_ECC_UNCORR s) m))
  | _ => m

/-- A read that meets one. -/
def poisonSeen (a : Nat) (g : Gate) (bad off : Nat) (m : Dev) : Dev := poisonMet false a g bad off m

/-- The first poisoned unit's offset shift within a range, for the record. -/
def firstBad (key n : Nat) (m : Dev) : Nat :=
  ((List.range n).find? (fun i => poisoned (key + i) 1 m)).getD 0

/-- How many bytes from an address on are judged together: the rest of the tile's Seedbed or of the die-shared banks, and the
rest of a 4 KiB row elsewhere. -/
def judgedRest (a : Nat) : Nat :=
  match placeOf a with
  | .tile _ off => (if inWindow a then 0x140_0000 else 2 ^ 33) - off
  | .shared _ off => 0x180_0000 - off
  | _ => 4096 - a % 4096

/-- The pieces of a range, each judged whole. -/
def pieces : Nat → Nat → Nat → List (Nat × Nat)
  | 0, _, _ => []
  | fuel + 1, a, n =>
    if n = 0 then []
    else
      let k := min n (judgedRest a)
      (a, k) :: pieces fuel (a + k) (n - k)

/-- A range in pieces. -/
def piecesOf (a n : Nat) : List (Nat × Nat) := pieces (n / 4096 + 2) a n

/-- What a read answers: the module after it, the outcome, and the bytes (zeros where refused). -/
structure ReadRes where
  m : Dev
  st : AStat
  data : List Byte
  deriving DecidableEq, Repr

/-- Bytes of a lent page in READs and WRITEs of at most 4,080 bytes (R405). -/
def peerCuts (a n : Nat) : List (Nat × Nat) := if n ≤ 4080 then [(a, n)] else [(a, 4080), (a + 4080, n - 4080)]

/-- What a peer has answered for bytes of a page it lends to a die. -/
def peerAnswer (die a n : Nat) (m : Dev) : Option PeerPiece :=
  m.tiers.peerGot.find? (fun x => x.die = die && x.a = a && x.n = n)

/-- Ask for bytes of a lent page, once. -/
def peerAsk (die a n : Nat) (m : Dev) : Dev :=
  if m.tiers.peerWant.any (fun x => x.die = die && x.a = a && x.n = n) then m
  else { m with tiers := { m.tiers with peerWant := m.tiers.peerWant ++ [⟨die, a, n, [], 0⟩] } }

/-- The outcome that a STATUS stands for (R406). -/
def statOf (status : Nat) : AStat :=
  match status with
  | 0 => .ok
  | 2 => .poison
  | 4 => .unmapped
  | _ => .region

/-- A read of a page that a peer lends (R309): the peer's answer once it is there; until then the access is held. -/
def peerRead (die a n : Nat) (m : Dev) : ReadRes :=
  let xs := (peerCuts a n).map (fun c => peerAnswer die c.1 c.2 m)
  if xs.any (fun x => x.isNone) then
    ⟨(peerCuts a n).foldl (fun m c => if (peerAnswer die c.1 c.2 m).isNone then peerAsk die c.1 c.2 m else m) m, .held,
      List.replicate n 0⟩
  else
    let ys := xs.filterMap id
    ⟨m, (ys.map (fun y => statOf y.status)).foldl AStat.join .ok, slice ((ys.map (fun y => y.data)).flatten) 0 n⟩

/-- A write of a page that a peer lends waits to be sent (R309). -/
def peerWrite (die a : Nat) (bs : List Byte) (m : Dev) : Dev :=
  { m with tiers := { m.tiers with
    peerOut := m.tiers.peerOut ++ (peerCuts a bs.length).map (fun c => ⟨die, c.1, c.2, slice bs (c.1 - a) c.2, 0⟩) } }

/-- Read one piece once it is judged. A fault begins, and holds the access (R311). -/
def readServed (ag : Agent) (a n : Nat) (sv : Served) (m : Dev) : ReadRes :=
  match sv with
  | .at key g off =>
    if poisoned key n m then ⟨poisonSeen a g (firstBad key n m) off m, .poison, ldBytes key n m⟩
    else ⟨m, .ok, ldBytes key n m⟩
  | .peer => peerRead ag.die a n m
  | .poisonPage => ⟨m, .poison, List.replicate n 0⟩
  | .refuseRegion g off => ⟨refuseRegion g off false m, .region, List.replicate n 0⟩
  | .refuseMap => ⟨refuseMap ag m, .unmapped, List.replicate n 0⟩
  | .fault p _ => ⟨beginFault ag.die p m, .held, List.replicate n 0⟩
  | .busy => ⟨m, .held, List.replicate n 0⟩

/-- Read one piece. -/
def readPiece (ag : Agent) (a n : Nat) (m : Dev) : ReadRes := readServed ag a n (judge ag a n false m) m

/-- Read `n` bytes at a local address as an agent (R94, R95, R291). -/
def readVia (ag : Agent) (a n : Nat) (m : Dev) : ReadRes :=
  (piecesOf a n).foldl (fun (r : ReadRes) (p : Nat × Nat) =>
    let q := readPiece ag p.1 p.2 r.m
    ⟨q.m, r.st.join q.st, r.data ++ q.data⟩) ⟨m, .ok, []⟩

/-- After a write lands in a page: DIRTY when the page is in a frame (R308). -/
def pageWritten (a : Nat) (m : Dev) : Dev :=
  match placeOf a with
  | .page range p _ => when (mWHERE.get (mapOf range p m) ≠ 0) (setMapF range p mDIRTY 1) m
  | _ => m

/-- What a write answers. -/
structure WriteRes where
  m : Dev
  st : AStat
  deriving DecidableEq, Repr

/-- Write one piece once it is judged. A poisoned page takes the bytes and stays poisoned until one write covers it whole
(R308; DESIGN CHOICE, log entry 19). -/
def writeServed (ag : Agent) (a : Nat) (bs : List Byte) (sv : Served) (m : Dev) : WriteRes :=
  match sv with
  | .at key _ _ => ⟨pageWritten a (stData key bs m), .ok⟩
  | .peer => ⟨pageWritten a (peerWrite ag.die a bs m), .ok⟩
  | .poisonPage =>
    match placeOf a with
    | .page range p off =>
      match pageKey range p (mapOf range p m) with
      | some key => ⟨pageWritten a (stData (key + off) bs m), .ok⟩
      | none => ⟨pageWritten a (peerWrite ag.die a bs m), .ok⟩
    | _ => ⟨m, .ok⟩
  | .refuseRegion g off => ⟨refuseRegion g off true m, .region⟩
  | .refuseMap => ⟨refuseMap ag m, .unmapped⟩
  | .fault p _ => ⟨beginFault ag.die p m, .held⟩
  | .busy => ⟨m, .held⟩

/-- Write one piece. -/
def writePiece (ag : Agent) (a : Nat) (bs : List Byte) (m : Dev) : WriteRes :=
  writeServed ag a bs (judge ag a bs.length true m) m

/-- The pages of Fallow or Granary that a write of `n` bytes covers whole are no longer poisoned (R308). -/
def coverPages (a n : Nat) (m : Dev) : Dev :=
  forEach (wholeUnits 65536 a n) (fun u m =>
    match placeOf (65536 * u) with
    | .page range p _ => setMapF range p mPOISON 0 m
    | _ => m) m

/-- Write bytes at a local address as an agent. -/
def writeVia (ag : Agent) (a : Nat) (bs : List Byte) (m : Dev) : WriteRes :=
  let w := (piecesOf a bs.length).foldl (fun (r : WriteRes) (p : Nat × Nat) =>
    let q := writePiece ag p.1 ((bs.drop (p.1 - a)).take p.2) r.m
    ⟨q.m, r.st.join q.st⟩) ⟨m, .ok⟩
  ⟨when (w.st = .ok) (coverPages a bs.length) w.m, w.st⟩

/-- A little-endian number read as an agent; the outcome beside it. -/
def readN (ag : Agent) (a n : Nat) (m : Dev) : Dev × AStat × Nat :=
  let r := readVia ag a n m
  (r.m, r.st, leNat r.data)

/-- Would an access be allowed and unpoisoned, without performing it? -/
def canRead (ag : Agent) (a n : Nat) (m : Dev) : Bool := (readVia ag a n m).st = .ok
def canWrite (ag : Agent) (a n : Nat) (m : Dev) : Bool :=
  (piecesOf a n).all (fun p => !(judge ag p.1 p.2 true m).refused)

/-- A write that is refused whole because a piece of it is: nothing is written, the first refused piece has its causes. -/
def refuseWrite (ag : Agent) (a n : Nat) (m : Dev) : WriteRes :=
  match ((piecesOf a n).map (fun p => judge ag p.1 p.2 true m)).find? Served.refused with
  | some (.refuseRegion g off) => ⟨refuseRegion g off true m, .region⟩
  | some _ => ⟨refuseMap ag m, .unmapped⟩
  | none => ⟨m, .ok⟩

/-! ### A running result -/

/-- A computation under way: the module and the worst outcome of its accesses so far. A command whose outcome is not ok
does not commit (R91, R95, R121). -/
structure Run where
  m : Dev
  st : AStat
  deriving DecidableEq, Repr

/-- Start. -/
def Run.start (m : Dev) : Run := ⟨m, .ok⟩

/-- Apply an effect. -/
def Run.eff (f : Dev → Dev) (r : Run) : Run := ⟨f r.m, r.st⟩

/-- Read bytes. -/
def Run.read (ag : Agent) (a n : Nat) (r : Run) : Run × List Byte :=
  let q := readVia ag a n r.m
  (⟨q.m, r.st.join q.st⟩, q.data)

/-- Write bytes. -/
def Run.write (ag : Agent) (a : Nat) (bs : List Byte) (r : Run) : Run :=
  let q := writeVia ag a bs r.m
  ⟨q.m, r.st.join q.st⟩

/-- Do `f` for each item. -/
def Run.each {α : Type} (xs : List α) (f : α → Run → Run) (r : Run) : Run := xs.foldl (fun r x => f x r) r

end Sys2Proof.Machine
end

