-- ==== Sys2Proof/Machine/Pages.lean ====
section
/-! DEFINITION. The Mover's work on pages (chapter 10): NVMe commands to the controllers of the Granary window (R305 to R307), faults
that take a frame (R311), evictions that make room for them (R313), and what waits for a frame. -/
namespace Sys2Proof.Machine

/-! ### NVMe commands (R305 to R307) -/

/-- How many commands the I/O queues of one controller hold: eight pairs of depth 1,024 (R306). Queues and PRP lists lie in
die-shared Seedbed at a place the spec does not give, so memory does not show them (DESIGN CHOICE, log entry 98). -/
def nvmeDepth : Nat := 8 * 1024

/-- Has a controller room for one more command? -/
def nvmeRoom (c : Nat) (m : Dev) : Bool :=
  decide ((m.tiers.nvme.filter (fun x => x.sent && controllerOf x.page m = c)).length < nvmeDepth)

/-- A command as its controller receives it: the 16 blocks of the page's home, or a Flush of its namespace. -/
def nvmeOut (x : NvmeCmd) (m : Dev) : Out :=
  let v := rd (aTIER_NS0 (nsOf x.page m)) m
  .nvme (if x.flush then 0 else if x.write then 1 else 2) (fTIER_NS0_PORT.get v) (fTIER_NS0_DEVICE.get v)
    (fTIER_NS0_NSID.get v) (if x.flush then 0 else lbaOf x.page m)

/-- Add a command: it is sent at once when its controller has room. -/
def nvmePut (x : NvmeCmd) (m : Dev) : Dev :=
  let go := nvmeRoom (controllerOf x.page m) m
  let m1 := { m with tiers := { m.tiers with nvme := m.tiers.nvme ++ [{ x with sent := go }], nvmeNext := m.tiers.nvmeNext + 1 } }
  when go (emit (nvmeOut x m)) m1

/-- Send a page's command. -/
def nvmeSend (write flush : Bool) (page : Nat) (u : NvmeUse) (die : Nat) (m : Dev) : Dev :=
  nvmePut ⟨m.tiers.nvmeNext, write, flush, page, false, u, die, false⟩ m

/-- A command has left its queue: the next that waits for its controller goes. -/
def nvmeTakeOut (x : NvmeCmd) (m : Dev) : Dev :=
  let m1 := { m with tiers := { m.tiers with nvme := m.tiers.nvme.erase x } }
  match m1.tiers.nvme.find? (fun y => !y.sent && controllerOf y.page m1 = controllerOf x.page m1) with
  | none => m1
  | some y => emit (nvmeOut y m1) { m1 with tiers := { m1.tiers with
      nvme := m1.tiers.nvme.map (fun z => if z = y then { z with sent := true } else z) } }

/-- Does the device that holds a page's home report a volatile write cache? -/
def homeVwc (page : Nat) (m : Dev) : Bool := Sparse.get false m.tiers.vwc (controllerOf page m)

/-! ### Evictions (R313) -/

/-- The Mover's refusal for want of a frame: its cause and its record (R313). -/
def noFrame (d range p : Nat) (m : Dev) : Dev := tierFault 1 d range p (raise (cDIE_MOVER_NO_FRAME d) m)

/-- The bytes of a lent page, once all of them have been read for a die. -/
def lentBytes (die page : Nat) (m : Dev) : Option (List Byte) :=
  let a := granaryBase + 65536 * page
  let xs := (List.range 16).map (fun i => (peerCuts (a + 4096 * i) 4096).map (fun c => peerAnswer die c.1 c.2 m))
  if xs.any (fun ys => ys.any (fun y => y.isNone)) then none
  else some ((((xs.flatten).filterMap id).map (fun y => y.data)).flatten)

/-- Ask the peer for all of a page it lends. -/
def askPage (die page : Nat) (m : Dev) : Dev :=
  forEach (List.range 16) (fun i m =>
    forEach (peerCuts (granaryBase + 65536 * page + 4096 * i) 4096) (fun c m =>
      if (peerAnswer die c.1 c.2 m).isNone then peerAsk die c.1 c.2 m else m) m) m

/-- Forget what has been read of a lent page. -/
def dropLent (page : Nat) (m : Dev) : Dev :=
  let mine := fun x : PeerPiece => (x.a - granaryBase) / 65536 = page
  { m with tiers := { m.tiers with
    peerGot := m.tiers.peerGot.filter (fun x => !mine x)
    peerWant := m.tiers.peerWant.filter (fun x => !mine x) } }

/-- A DIRTY Granary page is written home: from a local frame by NVMe, from a peer's frame once its bytes have been read. -/
def evictWrite (die page : Nat) (m : Dev) : Dev :=
  if mWHERE.get (mapOf 1 page m) ≠ 3 || (lentBytes die page m).isSome then
    nvmeSend true false page .evict die { m with tiers := { m.tiers with
      evicting := m.tiers.evicting.filter (fun x => x.1 ≠ page) } }
  else askPage die page { m with tiers := { m.tiers with
    evicting := m.tiers.evicting.filter (fun x => x.1 ≠ page) ++ [(page, die)] } }

/-- The write-backs under way that will free a frame of a pool. -/
def evictionsOf (k : Nat) (m : Dev) : Nat :=
  ((m.tiers.nvme.filter (fun c => decide (c.use = .evict) && mWHERE.get (mapOf 1 c.page m) = k + 1)).length) +
    ((m.tiers.evicting.filter (fun x => mWHERE.get (mapOf 1 x.1 m) = k + 1)).length)

/-- The faults and migrations that wait for a frame of a pool. -/
def waitersOf (k : Nat) (m : Dev) : Nat :=
  (m.tiers.waitFrame.filter (fun w => faultPool (mapOf 1 w.1 m) m = some k)).length +
    (m.tiers.waitMove.filter (fun w => w.pool = k)).length

/-- Evict one page of a pool, if one may be: at once, or by a write-back home that begins (R313). -/
def evictOne (die k : Nat) (m : Dev) : Dev :=
  match evictStart k m with
  | none => m
  | some (v, dirty, m1) =>
    let o := (descOwner k v m1).toNat
    let p := bitsAt o 0 29
    if !dirty then evictEnd k v m1
    else if bitsAt o 62 1 = 0 then evictEnd k v (writeHome 0 p (mapOf 0 p m1) m1)
    else evictWrite die p m1

/-- A pool whose FREE is 0 evicts for those that wait, one page for each (R313). The frames that are free count as taken by the
migrations that wait for more. -/
def makeRoom (die k : Nat) (m : Dev) : Dev :=
  if !poolOn k m || (poolFree k m ≠ 0 && m.tiers.waitMove.all (fun w => w.pool ≠ k)) ||
    waitersOf k m ≤ evictionsOf k m + poolFree k m then m
  else evictOne die k m

/-! ### Faults (R311) -/

/-- A frame has been popped for a faulting page: its home is being read. -/
def beginFill (die page k i : Nat) (m : Dev) : Dev :=
  nvmeSend false false page .fill die { m with tiers := { m.tiers with
    filling := m.tiers.filling ++ [(page, k * 2 ^ 28 + i)]
    waitFrame := m.tiers.waitFrame.filter (fun w => w.1 ≠ page) } }

/-- Give a waiting fault a frame of its pool, evicting when the pool has none. -/
def seekFrame (die page k : Nat) (m : Dev) : Dev :=
  match popFrame k 1 page m with
  | some (i, m1) => beginFill die page k i m1
  | none =>
    let m2 := makeRoom die k m
    match popFrame k 1 page m2 with
    | some (i, m3) => beginFill die page k i m3
    | none => m2

/-- A fault that waits for its frame: it takes one, evicts for one, or goes on waiting. -/
def serveFault (w : Nat × Nat) (m : Dev) : Dev :=
  match faultPool (mapOf 1 w.1 m) m with
  | some k => seekFrame w.2 w.1 k m
  | none => m

/-- Faults and migrations that wait for a frame try again when one has been freed (R313). A migration is performed again with its
command; here room is made for it. -/
def retryWaiting (m : Dev) : Dev :=
  forEach m.tiers.waitMove (fun w => makeRoom w.die w.pool) (forEach m.tiers.waitFrame serveFault m)

/-- PAGE_FAULT: an access of a die meets a Granary page at its home. A page already being filled waits with it; one that waits
for a frame tries again. -/
def pageFault (die page : Nat) (m : Dev) : Dev :=
  let e := mapOf 1 page m
  if !mapOn 1 m || rangePages 1 m ≤ page || mVALID.get e = 0 || mWHERE.get e ≠ 0 then m
  else
    match faultPool e m with
    | none => refuseMap (agentMover die) m
    | some k =>
      if k = 1 && m.tiers.fallowLost then refuseMap (agentMover die) m
      else if m.tiers.filling.any (fun f => f.1 = page) then m
      else if m.tiers.waitFrame.any (fun w => w.1 = page) then seekFrame die page k m
      else if mBUSY.get e = 1 || mMOVING.get e = 1 then m
      else seekFrame die page k (beginFault die page m)

/-- The home of a page has been read into its frame: the entry flips to it and the accesses that wait go on; a failed read poisons
the page (R307, R311). -/
def fillDone (page : Nat) (ok : Bool) (m : Dev) : Dev :=
  match m.tiers.filling.find? (fun f => f.1 = page) with
  | none => m
  | some f =>
    retryWaiting (fillEnd page (f.2 / 2 ^ 28) (f.2 % 2 ^ 28) ok { m with tiers := { m.tiers with
      filling := m.tiers.filling.filter (fun x => x.1 ≠ page)
      pageWaits := m.tiers.pageWaits.filter (fun x => x.2 ≠ page)
      nvme := m.tiers.nvme.filter (fun c => !(c.page = page && c.use = .fill)) } })

end Sys2Proof.Machine
end

