-- ==== Sys2Proof/Machine/Cipher.lean ====
section
/-! DEFINITION. AES-256-GCM, which seals packets (R365) and messages of the Intake (R201). The spec names the published cipher and
does not repeat it (PRESUMED, log entry 116): AES with a 256-bit key, and its Galois/counter mode with a 96-bit IV. -/
namespace Sys2Proof.Machine

/-! ### The field of 256 elements and the byte substitution -/

/-- Twice a byte in the field. -/
def gfDouble (a : Byte) : Byte := (a <<< 1) ^^^ (if a.getLsbD 7 then 0x1B else 0)

/-- The product of two bytes in the field. -/
def gfMul (a b : Byte) : Byte :=
  ((List.range 8).foldl (fun (x : Byte × Byte) i => (if b.getLsbD i then x.1 ^^^ x.2 else x.1, gfDouble x.2)) (0, a)).1

/-- The inverse of a byte, its 254th power; 0 for 0. -/
def gfInverse (a : Byte) : Byte :=
  ((List.range 6).foldl (fun (x : Byte × Byte) _ => let s := gfMul x.2 x.2; (gfMul x.1 s, s)) (gfMul a a, gfMul a a)).1

/-- The substitution of a byte: its inverse through the affine map. -/
def subByteOf (a : Byte) : Byte :=
  let b := gfInverse a
  b ^^^ b.rotateLeft 1 ^^^ b.rotateLeft 2 ^^^ b.rotateLeft 3 ^^^ b.rotateLeft 4 ^^^ 0x63

/-- The substitution as a table. -/
def subTable : List Byte := (List.range 256).map (fun n => subByteOf (BitVec.ofNat 8 n))
def subByte (a : Byte) : Byte := subTable.getD a.toNat 0

/-- Two lists of bytes added in the field. -/
def xorBytes (a b : List Byte) : List Byte := List.zipWith (fun x y => x ^^^ y) a b

/-! ### AES with a 256-bit key -/

/-- The next word of the key schedule: `ws` holds those before it, the latest first. -/
def nextKeyWord (ws : List (List Byte)) : List Byte :=
  let i := ws.length
  let last := ws.getD 0 []
  let rcon := ((List.range (i / 8 - 1)).foldl (fun (r : Byte) _ => gfDouble r) 1)
  let t := if i % 8 = 0 then xorBytes ((last.drop 1 ++ last.take 1).map subByte) [rcon, 0, 0, 0]
    else if i % 8 = 4 then last.map subByte else last
  xorBytes (ws.getD 7 []) t

/-- The fifteen round keys of a 32-byte key. -/
def roundKeys (key : List Byte) : List (List Byte) :=
  let first := ((List.range 8).map (fun i => slice key (4 * i) 4)).reverse
  let ws := ((List.range 52).foldl (fun ws _ => nextKeyWord ws :: ws) first).reverse
  (List.range 15).map (fun r => ((ws.drop (4 * r)).take 4).flatten)

/-- Byte 4c + r of the state comes from column c + r. -/
def shiftRows (s : List Byte) : List Byte := (List.range 16).map (fun i => s.getD ((i + 4 * (i % 4)) % 16) 0)

/-- Each column times the fixed polynomial. -/
def mixColumns (s : List Byte) : List Byte :=
  (List.range 16).map (fun i =>
    let a := fun k => s.getD (i / 4 * 4 + (i + k) % 4) 0
    gfDouble (a 0) ^^^ gfDouble (a 1) ^^^ a 1 ^^^ a 2 ^^^ a 3)

/-- Encrypt a block of 16 bytes under round keys: thirteen full rounds between the first key and the last round. -/
def aesBlock (keys : List (List Byte)) (block : List Byte) : List Byte :=
  let s := ((keys.drop 1).take 13).foldl (fun s k => xorBytes (mixColumns (shiftRows (s.map subByte))) k)
    (xorBytes block (keys.getD 0 []))
  xorBytes (shiftRows (s.map subByte)) (keys.getD 14 [])

/-! ### Galois/counter mode -/

/-- A block as a number, its first byte the most significant, and back. -/
def blockNum (b : List Byte) : BitVec 128 := BitVec.ofNat 128 (b.foldl (fun n x => 256 * n + x.toNat) 0)
def numBlock (x : BitVec 128) : List Byte := (toLe 16 x.toNat).reverse

/-- The product in the field of 2^128 elements, whose bit 0 is the most significant. -/
def ghashMul (x y : BitVec 128) : BitVec 128 :=
  ((List.range 128).foldl (fun (z : BitVec 128 × BitVec 128) i =>
    (if x.getMsbD i then z.1 ^^^ z.2 else z.1,
      (z.2 >>> 1) ^^^ (if z.2.getLsbD 0 then 0xE1000000000000000000000000000000#128 else 0))) (0, y)).1

/-- Bytes in blocks of 16, the last filled with zeros. -/
def gcmBlocks (b : List Byte) : List (List Byte) :=
  (List.range ((b.length + 15) / 16)).map (fun i => slice b (16 * i) 16)

/-- The hash of blocks under a key. -/
def ghash (h : BitVec 128) (blocks : List (List Byte)) : BitVec 128 :=
  blocks.foldl (fun y b => ghashMul (y ^^^ blockNum b) h) 0

/-- Seal a text: the cipher text and the 16-byte tag over it and the additional authenticated data. -/
def gcmSeal (key iv aad text : List Byte) : List Byte :=
  let ks := roundKeys key
  let counter := fun (n : Nat) => aesBlock ks (iv ++ (toLe 4 n).reverse)
  let cipher := xorBytes text (((List.range ((text.length + 15) / 16)).map (fun i => counter (i + 2))).flatten)
  let lens := (toLe 8 (8 * aad.length)).reverse ++ ((toLe 8 (8 * cipher.length)).reverse)
  let tag := ghash (blockNum (aesBlock ks (List.replicate 16 0))) (gcmBlocks aad ++ gcmBlocks cipher ++ [lens])
  cipher ++ xorBytes (numBlock tag) (counter 1)

end Sys2Proof.Machine
end

