-- ==== Sys2Proof/Machine/Hash.lean ====
section
/-! DEFINITION. The digest and check codes the spec names: SHAKE256 (R161, R390, R453, R462, R470), CRC-64 (R335) and
CRC-32 (R343). SHAKE256 is the published extendable-output function; the spec names it and does not repeat it (PRESUMED, log entry
22). -/
namespace Sys2Proof.Machine

/-- Rotate a 64-bit lane left. -/
def rotl (x : Word) (n : Nat) : Word := x.rotateLeft n

/-- A lane of the state. -/
def lane25 (s : List Word) (i : Nat) : Word := s.getD i 0

/-- Round constants, from the published function's linear feedback register. -/
def keccakConst : List Word :=
  [0x0000000000000001#64, 0x0000000000008082#64, 0x800000000000808A#64, 0x8000000080008000#64,
   0x000000000000808B#64, 0x0000000080000001#64, 0x8000000080008081#64, 0x8000000000008009#64,
   0x000000000000008A#64, 0x0000000000000088#64, 0x0000000080008009#64, 0x000000008000000A#64,
   0x000000008000808B#64, 0x800000000000008B#64, 0x8000000000008089#64, 0x8000000000008003#64,
   0x8000000000008002#64, 0x8000000000000080#64, 0x000000000000800A#64, 0x800000008000000A#64,
   0x8000000080008081#64, 0x8000000000008080#64, 0x0000000080000001#64, 0x8000000080008008#64]

/-- Rotation offsets of lane x + 5y. -/
def keccakRot : List Nat :=
  [0, 1, 62, 28, 27, 36, 44, 6, 55, 20, 3, 10, 43, 25, 39, 41, 45, 15, 21, 8, 18, 2, 61, 56, 14]

/-- One round of the permutation. -/
def keccakRound (s : List Word) (rc : Word) : List Word :=
  let c := (List.range 5).map (fun x =>
    lane25 s x ^^^ lane25 s (x + 5) ^^^ lane25 s (x + 10) ^^^ lane25 s (x + 15) ^^^ lane25 s (x + 20))
  let d := (List.range 5).map (fun x => lane25 c ((x + 4) % 5) ^^^ rotl (lane25 c ((x + 1) % 5)) 1)
  let a := (List.range 25).map (fun i => lane25 s i ^^^ lane25 d (i % 5))
  -- lane (x, y) of b is lane (x + 3y mod 5, x) of a, rotated
  let b := (List.range 25).map (fun i =>
    let x := i % 5
    let y := i / 5
    let j := (x + 3 * y) % 5 + 5 * x
    rotl (lane25 a j) (keccakRot.getD j 0))
  (List.range 25).map (fun i =>
    let x := i % 5
    let y := i / 5
    let v := lane25 b i ^^^ (~~~ lane25 b ((x + 1) % 5 + 5 * y) &&& lane25 b ((x + 2) % 5 + 5 * y))
    if i = 0 then v ^^^ rc else v)

/-- The permutation of 24 rounds. -/
def keccakF (s : List Word) : List Word := keccakConst.foldl keccakRound s

/-- Absorb one block of 136 bytes. -/
def absorb (s : List Word) (block : List Byte) : List Word :=
  keccakF ((List.range 25).map (fun i =>
    if i < 17 then lane25 s i ^^^ BitVec.ofNat 64 (field block (8 * i) 8) else lane25 s i))

/-- The padded message: the domain bits and first pad bit 0x1F, zeros, and 0x80 in the last byte of the block. -/
def shakePad (bs : List Byte) : List Byte :=
  let q := 136 - bs.length % 136
  if q = 1 then bs ++ [0x9F#8] else bs ++ [0x1F#8] ++ List.replicate (q - 2) 0 ++ [0x80#8]

/-- Absorb every block. -/
def absorbAll : Nat → List Byte → List Word → List Word
  | 0, _, s => s
  | n + 1, bs, s => absorbAll n (bs.drop 136) (absorb s (bs.take 136))

/-- Squeeze `n` blocks. -/
def squeeze : Nat → List Word → List Byte
  | 0, _ => []
  | n + 1, s => ((s.take 17).map (fun w => toLe 8 w.toNat)).flatten ++ squeeze n (keccakF s)

/-- SHAKE256 of `n` output bytes. -/
def shake256 (n : Nat) (bs : List Byte) : List Byte :=
  let p := shakePad bs
  (squeeze ((n + 135) / 136) (absorbAll (p.length / 136) p (List.replicate 25 0))).take n

/-- A reflected CRC, one byte. -/
def crcByte (poly : Nat) (crc : Nat) (b : Byte) : Nat :=
  (List.range 8).foldl (fun c _ => if c % 2 = 1 then (c / 2) ^^^ poly else c / 2) (crc ^^^ b.toNat)

/-- CRC-64 (R335): the ECMA-182 polynomial reflected, initial value and final XOR all ones. -/
def crc64 (bs : List Byte) : Nat :=
  (bs.foldl (crcByte 0xC96C5795D7870F42) (2 ^ 64 - 1)) ^^^ (2 ^ 64 - 1)

/-- CRC-32 of IEEE 802.3 (R343). -/
def crc32 (bs : List Byte) : Nat :=
  (bs.foldl (crcByte 0xEDB88320) (2 ^ 32 - 1)) ^^^ (2 ^ 32 - 1)

end Sys2Proof.Machine
end

