-- ==== Sys2Proof/Machine/Formats.lean ====
section
/-! DEFINITION. Number formats (chapter 02): element codes, exact values m × 2^k, the one rounding of R51 and R52, the Tine's
FP32 operations (R82 to R84), L80 words (R46, R47) and output quantisation (R85). -/
namespace Sys2Proof.Machine

/-! ### Exact values -/

/-- A decoded element: a finite value ±m × 2^k, an infinity or a not-a-number (R35, R37). -/
inductive Num where
  | fin (neg : Bool) (m : Nat) (k : Int)
  | inf (neg : Bool)
  | nan
  deriving DecidableEq, Repr

/-- A format the module rounds into (R51): significand bits with the hidden bit, least normal exponent, bias, exponent
bits, whether it has infinities, and its canonical NaN (R37). -/
structure FloatFmt where
  p : Nat
  emin : Int
  bias : Int
  ebits : Nat
  hasInf : Bool
  nanCode : Nat
  deriving DecidableEq, Repr

def fmtFP32 : FloatFmt := ⟨24, -126, 127, 8, true, 0x7FC00000⟩
def fmtBF16 : FloatFmt := ⟨8, -126, 127, 8, true, 0x7FC0⟩
def fmtE5M2 : FloatFmt := ⟨3, -14, 15, 5, true, 0x7F⟩
def fmtE4M3 : FloatFmt := ⟨4, -6, 7, 4, false, 0x7F⟩

/-- Decode a code of a format (R35, R37). -/
def decodeFloat (f : FloatFmt) (c : Nat) : Num :=
  let mb := f.p - 1
  let frac := c % 2 ^ mb
  let e := c / 2 ^ mb % 2 ^ f.ebits
  let neg := c / 2 ^ (mb + f.ebits) % 2 = 1
  let top := 2 ^ f.ebits - 1
  if f.hasInf && e = top then (if frac = 0 then .inf neg else .nan)
  else if !f.hasInf && e = top && frac = 2 ^ mb - 1 then .nan
  else if e = 0 then .fin neg frac (f.emin - (mb : Int))
  else .fin neg (2 ^ mb + frac) ((e : Int) - f.bias - (mb : Int))

/-- The half-unit integer of a GF4 code (R33). -/
def gf4Half (c : Nat) : Int :=
  let mag : Int := match c % 8 with
    | 0 => 0 | 1 => 1 | 2 => 2 | 3 => 3 | 4 => 4 | 5 => 6 | 6 => 8 | _ => 12
  if c % 16 ≥ 8 then -mag else mag

/-- The value of a GI4 code (R34). -/
def gi4Val (c : Nat) : Int := signed 4 c

/-- Bits needed to write a number. -/
def bitLen (n : Nat) : Nat := if n = 0 then 0 else Nat.log2 n + 1

/-! ### The one rounding (R51, R52) -/

/-- The code of ±m × 2^e, which fits the format exactly. -/
def encodeFloat (f : FloatFmt) (neg : Bool) (m : Nat) (e : Int) : Nat :=
  let mb := f.p - 1
  let s := if neg then 2 ^ (mb + f.ebits) else 0
  if m = 0 then s
  else
    let top := e + (bitLen m : Int) - 1
    if top < f.emin then s + m * 2 ^ (e - (f.emin - (mb : Int))).toNat
    else
      let frac := if bitLen m ≤ f.p then m * 2 ^ (f.p - bitLen m) else m / 2 ^ (bitLen m - f.p)
      s + (top + f.bias).toNat * 2 ^ mb + frac % 2 ^ mb

/-- A rounded result above the largest finite value (R52). -/
def overflowCode (f : FloatFmt) (neg : Bool) : Nat :=
  let s := if neg then 2 ^ (f.p - 1 + f.ebits) else 0
  if f.hasInf then s + (2 ^ f.ebits - 1) * 2 ^ (f.p - 1) else s + 0x7E

/-- Is m × 2^e above the format's largest finite value? -/
def aboveMax (f : FloatFmt) (m : Nat) (e : Int) : Bool :=
  let top := e + (bitLen m : Int) - 1
  let emax : Int := if f.hasInf then (2 ^ f.ebits : Int) - 2 - f.bias else (2 ^ f.ebits : Int) - 1 - f.bias
  if m = 0 then false
  else if top > emax then true
  else if f.hasInf then false
  else top = emax && (if bitLen m ≤ f.p then m * 2 ^ (f.p - bitLen m) else m / 2 ^ (bitLen m - f.p)) ≥ 2 ^ f.p - 1

/-- Round ±m × 2^e to nearest, ties to even (R51). -/
def roundTo (f : FloatFmt) (neg : Bool) (m : Nat) (e : Int) : Nat :=
  if m = 0 then encodeFloat f neg 0 0
  else
    let top := e + (bitLen m : Int) - 1
    let lsb := max (top - ((f.p : Int) - 1)) (f.emin - ((f.p : Int) - 1))
    let r : Nat × Int :=
      if lsb > e then
        let q := (lsb - e).toNat
        let keep := m / 2 ^ q
        let rem := m % 2 ^ q
        let half := 2 ^ (q - 1)
        (if rem > half || (rem = half && keep % 2 = 1) then keep + 1 else keep, lsb)
      else (m, e)
    if aboveMax f r.1 r.2 then overflowCode f neg else encodeFloat f neg r.1 r.2

/-- Round an exact signed value v × 2^e; an exact zero is +0 (R51). -/
def roundInt (f : FloatFmt) (v : Int) (e : Int) : Nat :=
  if v = 0 then 0 else roundTo f (v < 0) v.natAbs e

/-- Round a decoded number into a format. -/
def roundNum (f : FloatFmt) : Num → Nat
  | .nan => f.nanCode
  | .inf neg => overflowCode f neg
  | .fin neg m k => roundTo f neg m k

/-! ### FP32 arithmetic of the Tine (R82, R83) -/

/-- The canonical NaN of FP32. -/
def f32NaN : F32 := 0x7FC00000#32

/-- Decode FP32. -/
def f32Num (x : F32) : Num := decodeFloat fmtFP32 x.toNat

/-- Encode the rounding of a number to FP32. -/
def f32Of (n : Num) : F32 := BitVec.ofNat 32 (roundNum fmtFP32 n)

/-- The signed integer of a finite number at exponent e ≤ k. -/
def atExp (neg : Bool) (m : Nat) (k e : Int) : Int :=
  let v : Int := (m * 2 ^ (k - e).toNat : Nat)
  if neg then -v else v

/-- The exact sum of two numbers, rounded once: the sign of an exact zero sum is + unless both are −0 (IEEE 754). -/
def addNum (a b : Num) : F32 :=
  match a, b with
  | .nan, _ => f32NaN
  | _, .nan => f32NaN
  | .inf s, .inf t => if s = t then f32Of (.inf s) else f32NaN
  | .inf s, _ => f32Of (.inf s)
  | _, .inf t => f32Of (.inf t)
  | .fin s m k, .fin t n j =>
    let e := min k j
    let v := atExp s m k e + atExp t n j e
    if v = 0 then (if s && t && m = 0 && n = 0 then 0x80000000#32 else 0#32)
    else BitVec.ofNat 32 (roundTo fmtFP32 (v < 0) v.natAbs e)

/-- The exact product of two numbers. -/
def mulNum (a b : Num) : Num :=
  match a, b with
  | .nan, _ => .nan
  | _, .nan => .nan
  | .inf s, .inf t => .inf (s ≠ t)
  | .inf s, .fin t n _ => if n = 0 then .nan else .inf (s ≠ t)
  | .fin s m _, .inf t => if m = 0 then .nan else .inf (s ≠ t)
  | .fin s m k, .fin t n j => .fin (s ≠ t) (m * n) (k + j)

def f32Add (x y : F32) : F32 := addNum (f32Num x) (f32Num y)
def f32Neg (x : F32) : F32 := if f32Num x = .nan then f32NaN else x ^^^ 0x80000000#32
def f32Abs (x : F32) : F32 := if f32Num x = .nan then f32NaN else x &&& 0x7FFFFFFF#32
def f32Sub (x y : F32) : F32 := f32Add x (f32Neg y)
def f32Mul (x y : F32) : F32 := f32Of (mulNum (f32Num x) (f32Num y))
/-- Fused multiply-add: one rounding. -/
def f32Fma (x y z : F32) : F32 := addNum (mulNum (f32Num x) (f32Num y)) (f32Num z)

/-- Correctly rounded divide. -/
def f32Div (x y : F32) : F32 :=
  match f32Num x, f32Num y with
  | .nan, _ => f32NaN
  | _, .nan => f32NaN
  | .inf _, .inf _ => f32NaN
  | .inf s, .fin t _ _ => f32Of (.inf (s ≠ t))
  | .fin s _ _, .inf t => f32Of (.fin (s ≠ t) 0 0)
  | .fin s m k, .fin t n j =>
    if n = 0 then (if m = 0 then f32NaN else f32Of (.inf (s ≠ t)))
    else
      let q := m * 2 ^ 64 / n
      let sticky := if m * 2 ^ 64 % n = 0 then 0 else 1
      f32Of (.fin (s ≠ t) (2 * q + sticky) (k - j - 65))

/-- The integer square root, bit by bit from `b`. -/
def isqrtFrom : Nat → Nat → Nat → Nat
  | 0, _, r => r
  | b + 1, n, r => let c := r + 2 ^ b; isqrtFrom b n (if c * c ≤ n then c else r)

/-- Correctly rounded square root. -/
def f32Sqrt (x : F32) : F32 :=
  match f32Num x with
  | .nan => f32NaN
  | .inf s => if s then f32NaN else f32Of (.inf false)
  | .fin s m k =>
    if m = 0 then x
    else if s then f32NaN
    else
      let odd := k % 2 ≠ 0
      let m' := if odd then 2 * m else m
      let k' := if odd then k - 1 else k
      let n := m' * 2 ^ 64
      let r := isqrtFrom 64 n 0
      f32Of (.fin false (2 * r + (if r * r = n then 0 else 1)) (k' / 2 - 33))

/-- Strictly less, of two numbers that are not NaN; −0 ranks below +0 (R82). -/
def f32Less (x y : F32) : Bool :=
  let sx := x.getLsbD 31
  let sy := y.getLsbD 31
  let mx := (x &&& 0x7FFFFFFF#32).toNat
  let my := (y &&& 0x7FFFFFFF#32).toNat
  if sx && !sy then true
  else if !sx && sy then false
  else if sx then my < mx
  else mx < my

def f32IsNaN (x : F32) : Bool := f32Num x = .nan
def f32Finite (x : F32) : Bool := match f32Num x with | .fin _ _ _ => true | _ => false
def f32Max (x y : F32) : F32 := if f32IsNaN x || f32IsNaN y then f32NaN else if f32Less x y then y else x
def f32Min (x y : F32) : F32 := if f32IsNaN x || f32IsNaN y then f32NaN else if f32Less y x then y else x

/-- Ordered greater-than of values: false with a NaN, and zeros are equal (R62). -/
def f32Gt (x y : F32) : Bool :=
  match f32Num x, f32Num y with
  | .nan, _ => false
  | _, .nan => false
  | .inf s, .inf t => !s && t
  | .inf s, _ => !s
  | _, .inf t => t
  | .fin s m k, .fin t n j => let e := min k j; atExp s m k e > atExp t n j e

/-- An exact dyadic v × 2^e as FP32. -/
def f32Dyadic (v e : Int) : F32 := BitVec.ofNat 32 (roundInt fmtFP32 v e)

/-- A count as FP32. -/
def f32Nat (n : Nat) : F32 := f32Dyadic n 0

/-- Select (R82). -/
def f32Select (c : Bool) (x y : F32) : F32 := if c then x else y

/-- A 32-bit integer as FP32 (R82, R51). -/
def f32OfInt (v : BitVec 32) : F32 := f32Dyadic v.toInt 0

/-- m × 2^e to the nearest integer, ties to even (R51). -/
def roundNat (m : Nat) (e : Int) : Nat :=
  if 0 ≤ e then m * 2 ^ e.toNat
  else
    let q := (-e).toNat
    let keep := m / 2 ^ q
    let half := 2 ^ (q - 1)
    if m % 2 ^ q > half || (m % 2 ^ q = half && keep % 2 = 1) then keep + 1 else keep

/-- FP32 as a 32-bit integer, to nearest even (R82, R51); the spec states no result for a value out of range. -/
def intOfF32 (x : F32) : BitVec 32 :=
  match f32Num x with
  | .fin s m k =>
    let v : Int := if s then -(roundNat m k : Int) else (roundNat m k : Int)
    if -(2 ^ 31 : Int) ≤ v && v < (2 ^ 31 : Int) then BitVec.ofInt 32 v else Config.intOutOfRange x
  | _ => Config.intOutOfRange x

/-! ### The bound of R82 on the functions of Ouvura Exact

Their exact values to more than 100 bits: fixed-point numbers have 320 fraction bits. -/

/-- ±m × 2^e. -/
structure Approx where
  neg : Bool
  m : Nat
  e : Int
  deriving DecidableEq, Repr

/-- ln 2 and the square root of 2/π in fixed point. -/
def fxLn2 : Int := 0xb17217f7d1cf79abc9e3b39803f2f6af40f343267298b62d8a0d175b8baafa2be7b876206debac98
def fxRoot2Pi : Int := 0xcc42299ea1b284687e59e2805d5c717fa7053e60a24e0db1808e369004c73a5d3bf158aa88fa7b6e

/-- One in fixed point. -/
def fxOne : Int := 2 ^ 320

/-- The product of two fixed-point numbers. -/
def fxMul (x y : Int) : Int := x * y / fxOne

/-- A finite FP32 magnitude in fixed point. -/
def fxOf (s : Bool) (m : Nat) (k : Int) : Int := atExp s m k (-320)

/-- exp r of a small r: 64 terms of its series. -/
def fxExp (r : Int) : Int :=
  ((List.range 64).foldl (fun (p : Int × Int) (i : Nat) => let t := fxMul p.2 r / ((i : Int) + 1); (p.1 + t, t)) (fxOne, fxOne)).1

/-- exp of a fixed-point number: r = x − n ln 2, exp x = exp r × 2^n. Outside ±512 only the size matters. -/
def expApprox (x : Int) : Approx :=
  if x > 512 * fxOne then ⟨false, 1, 2000⟩
  else if x < -512 * fxOne then ⟨false, 1, -2000⟩
  else let n := (2 * x + fxLn2) / (2 * fxLn2); ⟨false, (fxExp (x - n * fxLn2)).toNat, n - 320⟩

/-- ln (m × 2^k) in fixed point: the series of 2 artanh ((t − 1) / (t + 1)) for t within √2 of 1, plus n ln 2. -/
def fxLn (m : Nat) (k : Int) : Int :=
  let b := bitLen m - 1
  let t0 : Int := ((m * 2 ^ 320 / 2 ^ b : Nat) : Int)
  let low := t0 * t0 ≤ 2 * fxOne * fxOne
  let t := if low then t0 else t0 / 2
  let n : Int := k + (b : Int) + (if low then 0 else 1)
  let y := (t - fxOne) * fxOne / (t + fxOne)
  let y2 := fxMul y y
  let s := (List.range 66).foldl (fun (p : Int × Int) (i : Nat) => (p.1 + p.2 / (2 * (i : Int) + 1), fxMul p.2 y2)) (0, y)
  2 * s.1 + n * fxLn2

/-- A fixed-point number. -/
def fxApprox (x : Int) : Approx := ⟨decide (x < 0), x.natAbs, -320⟩

/-- 1 / (1 + exp (−x)). -/
def sigmoidApprox (x : Int) : Approx :=
  if x > 512 * fxOne then ⟨false, 1, 0⟩
  else
    let y := expApprox (-x)
    if 1000 < y.e then ⟨false, 1, -2000⟩
    else
      let s := (-y.e).toNat
      ⟨false, 2 ^ s * 2 ^ 1200 / (y.m * 2 ^ (y.e + (s : Int)).toNat + 2 ^ s), -1200⟩

/-- tanh of ±x, as (1 − exp (−2x)) / (1 + exp (−2x)). -/
def tanhApprox (s : Bool) (x : Int) : Approx :=
  if x > 512 * fxOne then ⟨s, 1, 0⟩
  else
    let y := expApprox (-2 * x)
    let t : Int := if -2000 < y.e then ((y.m / 2 ^ (-320 - y.e).toNat : Nat) : Int) else 0
    ⟨s, ((fxOne - t) * fxOne / (fxOne + t)).toNat, -320⟩

/-- A value times an approximation. -/
def Approx.times (a : Approx) (s : Bool) (m : Nat) (k : Int) : Approx := ⟨a.neg ≠ s, a.m * m, a.e + k⟩

/-- The argument of the sigmoid of GELU's tanh form: 2 √(2/π) (x + 0.044715 x³). -/
def geluArg (x : Int) : Int := 2 * fxMul fxRoot2Pi (x + 44715 * fxMul (fxMul x x) x / 1000000)

/-- The real function's value at ±m × 2^k, in the numbering of `tine`. -/
def tineExact (fn : Nat) (s : Bool) (m : Nat) (k : Int) : Approx :=
  let x := fxOf s m k
  match fn with
  | 0 => ⟨s, 2 ^ 400 / m, -400 - k⟩
  | 1 =>
    let odd := k % 2 ≠ 0
    ⟨false, isqrtFrom 202 (2 ^ 400 / (if odd then 2 * m else m)) 0, -200 - (if odd then k - 1 else k) / 2⟩
  | 2 => expApprox (fxMul x fxLn2)
  | 3 => fxApprox (fxLn m k * fxOne / fxLn2)
  | 4 => expApprox x
  | 5 => fxApprox (fxLn m k)
  | 6 => sigmoidApprox x
  | 7 => tanhApprox s (fxOf false m k)
  | 8 => (sigmoidApprox x).times s m k
  | _ => (sigmoidApprox (geluArg x)).times s m k

/-- The bound in ulp (R82). -/
def tineUlps (fn : Nat) : Nat := if fn ≤ 1 then 1 else if fn ≤ 3 then 2 else 4

/-- Does FP32 value v lie within n ulp of a, an ulp being one unit in the last place of a rounded to FP32? Infinity stands
at 2^128, and a zero has the sign of a. -/
def withinUlps (n : Nat) (a : Approx) (v : F32) : Bool :=
  let ulp : Int := match decodeFloat fmtFP32 (roundTo fmtFP32 a.neg a.m a.e) with
    | .fin _ _ k => k
    | _ => 104
  let near := fun (s : Bool) (m : Nat) (k : Int) =>
    let e := min (min a.e k) ulp
    decide ((atExp s m k e - atExp a.neg a.m a.e e).natAbs ≤ n * 2 ^ (ulp - e).toNat)
  match f32Num v with
  | .nan => false
  | .inf s => if 128 < a.e + (bitLen a.m : Int) then decide (s = a.neg) else near s 1 128
  | .fin s m k => (m ≠ 0 || s = a.neg) && near s m k

/-- A function of Ouvura Exact held to its bound: its value always lies within it (R83), so the other branch is never
taken. -/
def tineHeld (fn : Nat) (a : Approx) (x : F32) : F32 :=
  let v := Config.tineFunction fn x
  if withinUlps (tineUlps fn) a v then v else BitVec.ofNat 32 (roundTo fmtFP32 a.neg a.m a.e)

/-- The Tine's functions defined by Ouvura Exact (R83): a NaN gives the canonical NaN, the limits of the domain give zeros
and infinities as IEEE 754 defines, and every other result is the unknown function's, within the bound of R82. 0 reciprocal,
1 reciprocal square root, 2 exp2, 3 log2, 4 exp, 5 log, 6 sigmoid, 7 tanh, 8 SiLU, 9 GELU. -/
def tine (fn : Nat) (x : F32) : F32 :=
  match f32Num x with
  | .nan => f32NaN
  | .inf s =>
    match fn with
    | 0 => f32Of (.fin s 0 0)
    | 1 => if s then f32NaN else 0
    | 2 | 4 => if s then 0 else f32Of (.inf false)
    | 3 | 5 => if s then f32NaN else f32Of (.inf false)
    | 6 => if s then 0 else tineHeld fn ⟨false, 1, 0⟩ x
    | 8 | 9 => if s then 0x80000000#32 else f32Of (.inf false)
    | _ => tineHeld fn ⟨s, 1, 0⟩ x
  | .fin s m k =>
    if m = 0 && (fn = 0 || fn = 1) then f32Of (.inf s)
    else if m = 0 && (fn = 3 || fn = 5) then f32Of (.inf true)
    else if m = 0 && 7 ≤ fn then tineHeld fn ⟨s, 0, 0⟩ x
    else if s && (fn = 1 || fn = 3 || fn = 5) then f32NaN
    else tineHeld fn (tineExact fn s m k) x

/-! ### Fixed-order reductions (R84) -/

/-- One level of the tree: result 2i with result 2i + 1. -/
def treeLevel (op : F32 → F32 → F32) : List F32 → List F32
  | a :: b :: rest => op a b :: treeLevel op rest
  | rest => rest

/-- Nine levels give one value from 512 lanes. -/
def tree512 (op : F32 → F32 → F32) (ident : F32) (xs : List F32) : F32 :=
  let lanes := xs ++ List.replicate (512 - xs.length) ident
  ((List.range 9).foldl (fun ys _ => treeLevel op ys) lanes).headD ident

/-- Vectors of 512, the last one short. -/
def vectors512 : Nat → List F32 → List (List F32)
  | 0, _ => []
  | n + 1, xs => if xs.isEmpty then [] else xs.take 512 :: vectors512 n (xs.drop 512)

/-- A lane reduction: each vector of 512 by the tree, then the vector results in ascending order (R84). -/
def laneReduce (op : F32 → F32 → F32) (ident : F32) (xs : List F32) : F32 :=
  match (vectors512 (xs.length / 512 + 1) xs).map (tree512 op ident) with
  | [] => ident
  | r :: rest => rest.foldl op r

def laneSum (xs : List F32) : F32 := laneReduce f32Add 0 xs
def laneMax (xs : List F32) : F32 := laneReduce f32Max 0xFF800000#32 xs

/-- Softmax (R84): the maximum, the sum of exp(x − m), and the divide of each. -/
def softmax (xs : List F32) : List F32 :=
  let mx := laneMax xs
  let es := xs.map (fun x => tine 4 (f32Sub x mx))
  let s := laneSum es
  es.map (fun e => f32Div e s)

/-! ### Operand elements -/

/-- The format of an operand code that is a float (R113). -/
def floatOf : Nat → FloatFmt
  | 0 => fmtFP32 | 1 => fmtBF16 | 2 => fmtE4M3 | _ => fmtE5M2

/-- A BF16 or FP8 code as FP32 (exact). -/
def toF32 (f : FloatFmt) (c : Nat) : F32 := f32Of (decodeFloat f c)

/-- An FP32 value converted to a float output format (R82, R51, R52). -/
def fromF32 (f : FloatFmt) (x : F32) : Nat := roundNum f (f32Num x)

/-- Bytes of one element of a float output format: FP32, BF16, E4M3, E5M2. -/
def fmtBytes : Nat → Nat
  | 0 => 4 | 1 => 2 | _ => 1

/-! ### L80 words (R46, R47) -/

/-- One L80 word. -/
structure L80 where
  val : BitVec 80
  ovf : Bool
  nan : Bool
  deriving DecidableEq, Repr

/-- The 16 bytes of an L80 word; reserved bits are written 0. -/
def l80Bytes (x : L80) : List Byte :=
  toLe 16 (x.val.toNat + (if x.ovf then 2 ^ 80 else 0) + (if x.nan then 2 ^ 81 else 0))

/-- Read an L80 word; reserved bits are ignored. -/
def l80Of (bs : List Byte) : L80 :=
  let n := field bs 0 16
  ⟨BitVec.ofNat 80 n, bitAt n 80, bitAt n 81⟩

/-- Does the two's-complement sum of two 80-bit values overflow? -/
def ovf80 (a b : BitVec 80) : Bool :=
  let s := a.toInt + b.toInt
  decide (s < -(2 ^ 79 : Int)) || decide (s ≥ (2 ^ 79 : Int))

/-- The sum of two L80 words (R47). -/
def l80Add (a b : L80) : L80 := ⟨a.val + b.val, a.ovf || b.ovf || ovf80 a.val b.val, a.nan || b.nan⟩

/-- An L80 word drained to a float format (R51). -/
def l80Drain (f : FloatFmt) (shift : Int) (x : L80) : Nat :=
  if x.nan || x.ovf then f.nanCode else roundInt f x.val.toInt (shift - 24)

/-! ### Output quantisation (R85) -/

/-- What a quantised block is: the scale code, 16 element codes, and the causes it raises. -/
structure QuantBlock where
  scale : Nat
  codes : List Nat
  nan : Bool
  clamp : Bool
  deriving DecidableEq, Repr

/-- Finite magnitude of an FP32 value as m × 2^−149. -/
def mag149 (x : F32) : Nat :=
  match f32Num x with
  | .fin _ m k => m * 2 ^ (k + 149).toNat
  | _ => 0

/-- An E4M3 magnitude code as m × 2^−u; no code has a bit below 2^−9. -/
def e4m3Mag (u c : Nat) : Nat :=
  match decodeFloat fmtE4M3 c with
  | .fin _ m k => m * 2 ^ (k + (u : Int)).toNat
  | _ => 0

/-- The index among `cands` (pairs of doubled magnitude and code) nearest to the magnitude x / s; a tie goes to the even
code. Distances are compared exactly as multiples of s. -/
def nearestCode (x2 s : Nat) (cands : List (Nat × Nat)) : Nat :=
  let dist := fun h : Nat => if x2 ≥ h * s then x2 - h * s else h * s - x2
  (cands.foldl (fun (best : Nat × Nat) (c : Nat × Nat) =>
    if dist c.1 < dist best.1 || (dist c.1 = dist best.1 && c.2 % 2 = 0) then c else best) (0, 0)).2

/-- The doubled magnitudes of GF4 codes and of GI4 codes 0 to 7. -/
def gf4Cands : List (Nat × Nat) := [(0, 0), (1, 1), (2, 2), (3, 3), (4, 4), (6, 5), (8, 6), (12, 7)]
def gi4Cands : List (Nat × Nat) := [(0, 0), (2, 1), (4, 2), (6, 3), (8, 4), (10, 5), (12, 6), (14, 7)]

/-- The block that a NaN or an infinity gives (R85). -/
def quantNan : QuantBlock := ⟨0x7F, List.replicate 16 0, true, false⟩

/-- Quantise 16 finite values given by sign and magnitude, the magnitudes in units of 2^−u (R85). -/
def quantCore (gi4 : Bool) (u : Nat) (xs : List (Bool × Nat)) : QuantBlock :=
  let amax := (xs.map Prod.snd).foldl max 0
  let top := if gi4 then 7 else 6
  if amax = 0 then ⟨0, List.replicate 16 0, false, false⟩
  else
    let clamp := amax > e4m3Mag u 0x7E * top
    let sc := if clamp then 0x7E
      else ((List.range 0x7F).find? (fun c => e4m3Mag u c * top ≥ amax)).getD 0x7E
    let s := e4m3Mag u sc
    let codes := xs.map (fun x =>
      let c := nearestCode (2 * x.2) s (if gi4 then gi4Cands else gf4Cands)
      if c = 0 then 0 else if x.1 then (if gi4 then 16 - c else 8 + c) else c)
    ⟨sc, codes, false, clamp⟩

/-- Quantise 16 FP32 values (R85). -/
def quantBlock (gi4 : Bool) (xs : List F32) : QuantBlock :=
  if xs.any (fun x => !f32Finite x) then quantNan
  else quantCore gi4 149 (xs.map (fun x => (x.getLsbD 31, mag149 x)))

/-- The 144 bytes of a sheaf line from its 16 blocks (R38). -/
def sheafBytes (blocks : List QuantBlock) : List Byte :=
  let codes := (blocks.map (fun b => b.codes)).flatten
  let nib := fun i => (codes.getD i 0) % 16
  (List.range 128).map (fun i => BitVec.ofNat 8 (nib (2 * i) + 16 * nib (2 * i + 1))) ++
    (List.range 16).map (fun j => BitVec.ofNat 8 ((blocks.getD j ⟨0, [], false, false⟩).scale))

/-- The code of element i of a sheaf line, and the scale code of block j (R38). -/
def lineCode (line : List Byte) (i : Nat) : Nat := ((line.getD (i / 2) 0).toNat / (if i % 2 = 0 then 1 else 16)) % 16
def lineScale (line : List Byte) (j : Nat) : Nat := (line.getD (128 + j) 0).toNat

end Sys2Proof.Machine
end

