-- ==== Sys2Proof/Machine/Flags.lean ====
section
/-! DEFINITION. Status bits and counts that commands set: the tile's accumulation flags (R44, R45, R64), the norm watch
(R62 to R68), quantisation causes (R85), and the Chanter's counts and fault record (R141, R142). -/
namespace Sys2Proof.Machine

/-- FIRST_CE takes the engine whose command sets the first of OVF and NAN since both were last 0 (R64). -/
def firstCe (t ce : Nat) (m : Dev) : Dev :=
  when (!isSet (onTile aTILE_ACC_STATUS t) fTILE_ACC_STATUS_OVF m && !isSet (onTile aTILE_ACC_STATUS t) fTILE_ACC_STATUS_NAN m)
    (wrF (onTile aTILE_ACC_STATUS t) fTILE_ACC_STATUS_FIRST_CE ce) m

/-- An accumulator or L80 addition of a tile overflowed (R44). -/
def accOverflow (t ce : Nat) (m : Dev) : Dev :=
  raise (cDIE_GRID_ACC_OVERFLOW (dieOf t))
    (wrF (onTile aTILE_ACC_STATUS t) fTILE_ACC_STATUS_OVF 1 (firstCe t ce m))

/-- TILE_ACC_STATUS.NAN of a tile (R45, R64). -/
def accNan (t ce : Nat) (m : Dev) : Dev :=
  wrF (onTile aTILE_ACC_STATUS t) fTILE_ACC_STATUS_NAN 1 (firstCe t ce m)

/-- A NaN or infinite operand, or a NaN scale, poisoned an accumulator (R45). -/
def nanOperand (t ce : Nat) (m : Dev) : Dev := raise (cDIE_GRID_NAN_OPERAND (dieOf t)) (accNan t ce m)

/-- A reference-mode block went to the scalar path (R54, R64). -/
def refScalar (t : Nat) (m : Dev) : Dev := wrF (onTile aTILE_ACC_STATUS t) fTILE_ACC_STATUS_REF_SCALAR 1 m

/-- Block pairs handled by the exact scalar path (R65). -/
def refDivert (t k : Nat) (m : Dev) : Dev := countWrap (onTile aTILE_REF_DIVERT t) fTILE_REF_DIVERT_COUNT k m

/-- The causes that quantised blocks raise (R85). -/
def quantCauses (t : Nat) (bs : List QuantBlock) (m : Dev) : Dev :=
  when (bs.any (fun b => b.clamp)) (raise (cDIE_TINE_QUANT_CLAMP (dieOf t)))
    (when (bs.any (fun b => b.nan)) (raise (cDIE_TINE_QUANT_NAN (dieOf t))) m)

/-! ### Norm watch (R62, R63, R66 to R68) -/

/-- RATIO of unsigned 8.8 fixed point as FP32; a committed RATIO below 0x0100 acts as 0x0100 (R66). -/
def watchRatio (t : Nat) (m : Dev) : F32 :=
  f32Dyadic (max 0x100 (rdF (onTile aTILE_NORMWATCH_CTRL t) fTILE_NORMWATCH_CTRL_RATIO m) : Nat) (-8)

/-- 2^−ALPHA_SHIFT as FP32. -/
def watchAlpha (t : Nat) (m : Dev) : F32 :=
  f32Dyadic 1 (-(rdF (onTile aTILE_NORMWATCH_CTRL t) fTILE_NORMWATCH_CTRL_ALPHA_SHIFT m : Int))

/-- The entry of a layer. -/
def watchEntry (t l : Nat) : Nat := aTILE_NORMWATCH_TABLE (dieOf t) (numOf t) l

/-- Is the sample a jump (R62)? -/
def watchJump (t l : Nat) (r : F32) (m : Dev) : Bool :=
  let ref : F32 := BitVec.ofNat 32 (rdF (watchEntry t l) fTILE_NORMWATCH_TABLE_REF m)
  let ratio := watchRatio t m
  decide (rdF (watchEntry t l) fTILE_NORMWATCH_TABLE_SAMPLES m ≥
      rdF (onTile aTILE_NORMWATCH_CTRL t) fTILE_NORMWATCH_CTRL_WARMUP m) &&
    (!f32Finite r || f32Gt r (f32Mul ref ratio) || f32Gt ref (f32Mul r ratio))

/-- The reference after an accepted sample: the sample itself for the first, else ref + (r − ref) × 2^−ALPHA_SHIFT. -/
def watchRef (t l : Nat) (r : F32) (m : Dev) : F32 :=
  let ref : F32 := BitVec.ofNat 32 (rdF (watchEntry t l) fTILE_NORMWATCH_TABLE_REF m)
  if rdF (watchEntry t l) fTILE_NORMWATCH_TABLE_SAMPLES m = 0 then r
  else f32Add ref (f32Mul (f32Sub r ref) (watchAlpha t m))

/-- One check of the norm watch (R62). -/
def watchCheck (w : WatchItem) (m : Dev) : Dev :=
  let e := watchEntry w.tile w.layer
  if watchJump w.tile w.layer w.rms m then
    raise (cDIE_NORMWATCH_JUMP (dieOf w.tile))
      (wr (onTile aTILE_NORMWATCH_LAST w.tile)
        (fTILE_NORMWATCH_LAST_OBSERVED.of w.rms.toNat ||| fTILE_NORMWATCH_LAST_SLOT.of w.slot |||
          fTILE_NORMWATCH_LAST_LAYER.of w.layer)
        (countSat e fTILE_NORMWATCH_TABLE_JUMPS 1 m))
  else
    countSat e fTILE_NORMWATCH_TABLE_SAMPLES 1
      (wrF e fTILE_NORMWATCH_TABLE_REF (watchRef w.tile w.layer w.rms m).toNat m)

end Sys2Proof.Machine
end

