-- ==== Sys2Proof/Machine/Grid.lean ====
section
/-! DEFINITION. The grid of a tile (chapters 02, 03): exact contributions of block pairs (R41, R48, R49, R53 to R56), the
accumulator file (R40, R44, R45, R76), a pass, a drain (R50, R51, R81), and the self-test (R101). -/
namespace Sys2Proof.Machine

/-! ### Contributions -/

/-- Is an operand code native, FP8 or BF16? -/
def isNative (f : Nat) : Bool := f ≤ 1
def isFp8 (f : Nat) : Bool := f = 2 || f = 3
def isBf16 (f : Nat) : Bool := f = 4

/-- The operand pairs of R32. -/
def pairOk (fa fw : Nat) : Bool :=
  (isNative fa && isNative fw) || (isFp8 fa && isFp8 fw) || (isBf16 fa && isBf16 fw)

/-- Grid passes that one stretch of 256 K-elements takes (R32). -/
def passesOf (fa : Nat) : Nat := if isNative fa then 1 else if isFp8 fa then 4 else 64

/-- Bytes of an operand row of K elements: whole sheaf lines, or elements one after another (R38, R39). -/
def rowBytes (f k : Nat) : Nat :=
  if isNative f then (k + 255) / 256 * 144 else if isFp8 f then k else 2 * k

/-- A native element as an integer, and its unit's exponent (R33, R34). -/
def nativeInt (f c : Nat) : Int := if f = 0 then gf4Half c else gi4Val c
def nativeExp (f : Nat) : Int := if f = 0 then -1 else 0

/-- What a block pair adds: an exact number of units of 2^−24, and whether it poisons (R41, R45). -/
structure Contribution where
  sum : Int
  nan : Bool
  deriving DecidableEq, Repr

/-- v × 2^e as an integer, truncated toward zero where e is negative (R49). -/
def scaleInt (v : Int) (e : Int) : Int :=
  if e ≥ 0 then v * 2 ^ e.toNat
  else if v < 0 then -((v.natAbs / 2 ^ (-e).toNat : Nat) : Int) else ((v.natAbs / 2 ^ (-e).toNat : Nat) : Int)

/-- Block j of a native line pair with K elements left in the line (R36, R39, R41). A block that poisons adds 0 to the value
(R45; DESIGN CHOICE, log entry 93). -/
def nativeBlock (fa fw k : Nat) (a w : List Byte) (j : Nat) : Contribution :=
  if k ≤ 16 * j then ⟨0, false⟩
  else
    match decodeFloat fmtE4M3 (lineScale a j), decodeFloat fmtE4M3 (lineScale w j) with
    | .fin sa ma ka, .fin sw mw kw =>
      let s := ((List.range (min 16 (k - 16 * j))).map (fun i =>
        nativeInt fa (lineCode a (16 * j + i)) * nativeInt fw (lineCode w (16 * j + i)))).sum
      let sign : Int := if sa = sw then 1 else -1
      ⟨scaleInt (sign * s * ((ma * mw : Nat) : Int)) (nativeExp fa + nativeExp fw + ka + kw + 24), false⟩
    | _, _ => ⟨0, true⟩

/-- The product of two FP8 elements in units of 2^−24, truncated where an E5M2 operand takes part (R48, R49). A product that
poisons adds 0 to the value (R45; DESIGN CHOICE, log entry 93). -/
def fp8Product (fa fw ca cw : Nat) : Contribution :=
  match decodeFloat (floatOf fa) ca, decodeFloat (floatOf fw) cw with
  | .fin sa ma ka, .fin sw mw kw =>
    let v : Int := ((ma * mw : Nat) : Int)
    ⟨scaleInt (if sa = sw then v else -v) (ka + kw + 24), false⟩
  | _, _ => ⟨0, true⟩

/-- Sum of contributions. -/
def sumContributions (cs : List Contribution) : Contribution :=
  ⟨(cs.map (fun c => c.sum)).sum, cs.any (fun c => c.nan)⟩

/-- What one stretch of at most 256 K-elements adds in native or FP8 mode. -/
def stretchSum (fa fw k : Nat) (a w : List Byte) : Contribution :=
  if isNative fa then sumContributions ((List.range 16).map (nativeBlock fa fw k a w))
  else sumContributions ((List.range k).map (fun i => fp8Product fa fw (a.getD i 0).toNat (w.getD i 0).toNat))

/-! ### Reference mode (R53 to R56) -/

/-- How the feeder slices a block: to the scalar path, all zero, or with its least weight (R53). -/
inductive Sliced where
  | scalar
  | zero
  | at (lsb : Int)
  deriving DecidableEq, Repr

/-- Strip factors of two. -/
def oddPart : Nat → Nat → Int → Nat × Int
  | 0, m, k => (m, k)
  | fuel + 1, m, k => if m % 2 = 0 && m ≠ 0 then oddPart fuel (m / 2) (k + 1) else (m, k)

/-- Slice 16 BF16 elements (R53). -/
def sliceBlock (xs : List Num) : Sliced :=
  if xs.any (fun x => match x with | .fin _ _ _ => false | _ => true) then .scalar
  else
    let nz := xs.filterMap (fun x => match x with
      | .fin _ mm k => if mm = 0 then none else some (oddPart 8 mm k)
      | _ => none)
    match nz with
    | [] => .zero
    | x :: rest =>
      let lsb := rest.foldl (fun l y => min l y.2) x.2
      let top := rest.foldl (fun l y => max l (y.2 + (bitLen y.1 : Int))) (x.2 + (bitLen x.1 : Int))
      if top - lsb > 24 then .scalar else .at lsb

/-- The exact sum of element products of finite elements as an integer at weight 2^−300 (R56). -/
def exactDot (xs ys : List Num) : Int :=
  ((xs.zip ys).map (fun p => match p.1, p.2 with
    | .fin s a k, .fin t b j => atExp (s ≠ t) (a * b) (k + j) (-300)
    | _, _ => 0)).sum

/-- The special products of a scalar block pair: NaN operand, invalid product, infinities of each sign (R56). -/
structure Specials where
  nanOperand : Bool
  invalid : Bool
  pos : Bool
  neg : Bool
  deriving DecidableEq, Repr

/-- What the element products of a pair bring beside finite values. -/
def specialsOf (xs ys : List Num) : Specials :=
  let ps := (xs.zip ys).map (fun p => mulNum p.1 p.2)
  let isNan := fun x : Num => match x with | .nan => true | _ => false
  ⟨(xs ++ ys).any isNan, ps.any isNan, ps.any (fun x => x = .inf false), ps.any (fun x => x = .inf true)⟩

/-! ### Accumulators -/

/-- The key of entry i, column n of a set of a tile. -/
def accKey (t set i n : Nat) : Nat := ((t * 2 + set) * 256 + i) * 256 + n

/-- An accumulator (R76). -/
def accOf (t set i n : Nat) (m : Dev) : Acc := Sparse.get Acc.zero m.acc (accKey t set i n)

/-- Write an accumulator. -/
def setAcc (t set i n : Nat) (a : Acc) (m : Dev) : Dev := { m with acc := m.acc.upd Acc.zero (accKey t set i n) a }

/-- Add a contribution: with clear it is written in place and the flags are cleared (R44, R45, R76). -/
def Acc.add (a : Acc) (clear : Bool) (c : Contribution) : Acc :=
  let base := if clear then Acc.zero else a
  let d := BitVec.ofInt 80 c.sum
  let s := base.val.toInt + c.sum
  { base with
    val := base.val + d
    ovf := base.ovf || decide (s < -(2 ^ 79 : Int)) || decide (s ≥ (2 ^ 79 : Int))
    nan := base.nan || c.nan }

/-- Does this addition overflow? -/
def Acc.overflows (a : Acc) (clear : Bool) (c : Contribution) : Bool :=
  let s := (if clear then (0 : Int) else a.val.toInt) + c.sum
  decide (s < -(2 ^ 79 : Int)) || decide (s ≥ (2 ^ 79 : Int))

/-- One addition into entry i, column n, with the flags and causes it sets (R44, R45). -/
def accumulate (t ce set i n : Nat) (clear : Bool) (c : Contribution) (m : Dev) : Dev :=
  let a := accOf t set i n m
  when c.nan (nanOperand t ce)
    (when (a.overflows clear c) (accOverflow t ce) (setAcc t set i n (a.add clear c) m))

/-- BF16 elements of block j of a row. -/
def bf16Block (row : List Byte) (j : Nat) : List Num :=
  (List.range 16).map (fun i => decodeFloat fmtBF16 (field row (32 * j + 2 * i) 2))

/-- One block pair of reference mode into entry i, column n, under window W (R54 to R56). A pair of an all-zero block adds
nothing and counts nowhere, whatever W, as R55 has no lsb for it (DEDUCED, log entry 95). -/
def referencePair (t ce set i n : Nat) (w : Int) (xs ys : List Num) (m : Dev) : Dev :=
  let a := accOf t set i n m
  let divert := fun (a : Acc) => { a with wide := a.wide + BitVec.ofInt 640 (exactDot xs ys) }
  match sliceBlock xs, sliceBlock ys with
  | .at la, .at lb =>
    let p := exactDot xs ys
    let high := w + 331
    let fits := if high ≥ 0 then decide (p.natAbs < 2 ^ high.toNat) else decide (p = 0)
    if la + lb ≥ w - 24 && fits then accumulate t ce set i n false ⟨scaleInt p (-300 - (w - 24)), false⟩ m
    else refDivert t 1 (setAcc t set i n (divert a) m)
  | .zero, .at _ => m
  | .at _, .zero => m
  | .zero, .zero => m
  | _, _ =>
    let sp := specialsOf xs ys
    let a' := divert { a with
      invalid := a.invalid || sp.invalid, posInf := a.posInf || sp.pos, negInf := a.negInf || sp.neg }
    when sp.nanOperand (raise (cDIE_GRID_NAN_OPERAND (dieOf t)))
      (refDivert t 1 (refScalar t (setAcc t set i n a' m)))

/-! ### A pass -/

/-- One stretch of at most 256 K-elements of row i against column n: a native or FP8 contribution, or the block pairs of
reference mode. -/
def stretch (t ce set i n : Nat) (clear : Bool) (fa fw k : Nat) (w : Int) (a b : List Byte) (m : Dev) : Dev :=
  if isBf16 fa then
    forEach (List.range (k / 16)) (fun j => referencePair t ce set i n w (bf16Block a j) (bf16Block b j))
      (when clear (setAcc t set i n Acc.zero) m)
  else accumulate t ce set i n clear (stretchSum fa fw k a b) m

/-- The bytes of stretch l of an operand row. -/
def stretchBytes (f l k : Nat) (row : List Byte) : List Byte :=
  if isNative f then slice row (144 * l) 144
  else if isFp8 f then slice row (256 * l) k
  else slice row (512 * l) (2 * k)

/-- Padding cycles of a pass with fewer than 129 rows (R74). -/
def padPass (t rows k : Nat) (m : Dev) : Dev :=
  countSat (onTile aTILE_GRID_STATS t) fTILE_GRID_STATS_STRETCH (k * (129 - rows)) m

/-! ### Columns and weight registers (R70, R73, R78 to R80) -/

/-- The physical columns that TILE_GRID_COLMAP names as failed: an entry above 257 acts as not valid, and two entries that
name one column as one (R79, R80). -/
def failedColumns (t : Nat) (m : Dev) : List Nat :=
  let v := rd (onTile aTILE_GRID_COLMAP t) m
  let a := if fTILE_GRID_COLMAP_FAIL0_VALID.get v = 1 then [fTILE_GRID_COLMAP_FAIL0.get v] else []
  let b := if fTILE_GRID_COLMAP_FAIL1_VALID.get v = 1 then [fTILE_GRID_COLMAP_FAIL1.get v] else []
  ((a ++ b).filter (fun p => p ≤ 257)).eraseDups

/-- p(n): the n-th physical column among those not failed (R79). -/
def physColumn (t n : Nat) (m : Dev) : Nat :=
  ((List.range 258).filter (fun p => !(failedColumns t m).contains p)).getD n 257

/-- F: the failed columns at or below p(255), which put off the last update of a pass of M rows to t + M + 514 + F (R79). -/
def failedBelow (t : Nat) (m : Dev) : Nat :=
  ((failedColumns t m).filter (fun p => p ≤ physColumn t 255 m)).length

/-- The 4-bit code that a cell holds of element i of a column in the last grid pass of a stretch: the code itself, or the
last digit of an FP8 element (R48) or of a sliced BF16 element (R53); 0 beyond K and for an element without digits
(DEDUCED, log entry 94). -/
def cellCode (fw k : Nat) (line : List Byte) (i : Nat) : Nat :=
  if k ≤ i then 0
  else if isNative fw then lineCode line i
  else if isFp8 fw then
    match decodeFloat (floatOf fw) (line.getD i 0).toNat with
    | .fin s m _ => if s then (16 - m % 4) % 16 else m % 4
    | _ => 0
  else
    match sliceBlock (bf16Block line (i / 16)), decodeFloat fmtBF16 (field line (2 * i) 2) with
    | .at lsb, .fin s m j =>
      let d := m * 2 ^ (j - min j lsb).toNat / 2 ^ (lsb - min j lsb).toNat / 2 ^ 21 % 8
      if s then (16 - d) % 16 else d
    | _, _ => 0

/-- What the feeder writes to one column: its cells' codes, and in native mode the scale bytes of its foot, which FP8 and
reference passes leave as they are. -/
def columnLine (fw k : Nat) (old line : List Byte) : List Byte :=
  (List.range 128).map (fun b => BitVec.ofNat 8 (cellCode fw k line (2 * b) + 16 * cellCode fw k line (2 * b + 1))) ++
    (if isNative fw then slice line 128 16 else slice old 128 16)

/-- The weights of a pass: the feeder writes NEXT of the columns that the pass uses, and the front copies NEXT into ACTIVE
(R70, R73). The NEXT registers keep what they hold until the feeder writes them for the pass that follows. -/
def holdWeights (t fw k : Nat) (cols : List (List Byte)) (m : Dev) : Dev :=
  let next := (List.range cols.length).foldl (fun ws n =>
    let p := 258 * t + physColumn t n m
    ws.upd [] p (columnLine fw k (Sparse.get [] ws p) (cols.getD n []))) m.nextWeights
  { m with
    nextWeights := next
    weights := (List.range cols.length).foldl (fun ws n =>
      let p := 258 * t + physColumn t n m
      ws.upd [] p (Sparse.get [] next p)) m.weights }

/-- One pass (R71 to R78): rows of one stretch, each with its accumulator entry, against the columns of the weights, into
one set. -/
def passCore (t ce set : Nat) (clear : Bool) (fa fw k : Nat) (w : Int) (as : List (Nat × List Byte)) (ws : List (List Byte))
    (m : Dev) : Dev :=
  padPass t as.length (passesOf fa)
    (forEach as (fun a =>
      forEach (List.range ws.length) (fun n => stretch t ce set a.1 n clear fa fw k w a.2 (ws.getD n [])))
      (holdWeights t fw k ws m))

/-- A whole product: K in stretches of 256, the first with the clear flag. -/
def productCore (t ce set : Nat) (clear : Bool) (fa fw k : Nat) (w : Int) (as : List (Nat × List Byte))
    (ws : List (List Byte)) (m : Dev) : Dev :=
  forEach (List.range ((k + 255) / 256)) (fun l m =>
    let kl := min 256 (k - 256 * l)
    passCore t ce set (clear && l = 0) fa fw kl w (as.map (fun a => (a.1, stretchBytes fa l kl a.2)))
      (ws.map (stretchBytes fw l kl)) m) m

/-- Read rows of bytes at a list of addresses. -/
def readRows (ag : Agent) (bytes : Nat) (addrs : List Nat) (r : Run) : Run × List (List Byte) :=
  addrs.foldl (fun (p : Run × List (List Byte)) a =>
    let q := p.1.read ag a bytes
    (q.1, p.2 ++ [q.2])) (r, [])

/-- The compute engine of a tile (R137). -/
def engineOf (t : Nat) (m : Dev) : Nat := rdF (onTile aCHANTER_ENGINE t) fCHANTER_ENGINE_ENGINE m

/-- GRID_PASS (R74): the feeder reads the rows and the weights and streams them; HOLD counts the cycles the operand buffer
could not supply (R75). A pass of more rows or columns than the grid takes does nothing (R76, R77). -/
def gridPass (t : Nat) (p : PassSpec) (m : Dev) : Dev :=
  if p.rows = 0 || p.rows > (if isBf16 p.fmtA.toNat then 64 else 256) || p.cols = 0 || p.cols > 256 || p.k = 0 ||
      p.k > 256 || !pairOk p.fmtA.toNat p.fmtW.toNat then m
  else
    let ag := Agent.tile t 1
    let as := readRows ag (rowBytes p.fmtA.toNat p.k) ((List.range p.rows).map (fun i => loc (p.aAddr + p.aPitch * i)))
      (Run.start m)
    let ws := readRows ag (rowBytes p.fmtW.toNat p.k) ((List.range p.cols).map (fun n => loc (p.wAddr + p.wPitch * n))) as.1
    countSat (onTile aTILE_GRID_STATS t) fTILE_GRID_STATS_HOLD p.holds
      (passCore t (engineOf t m) p.set.val p.clear p.fmtA.toNat p.fmtW.toNat p.k p.window
        ((List.range p.rows).zip as.2) ws.2 ws.1.m)

/-! ### The drain (R50, R51, R56, R81) -/

/-- The exact total of a reference-mode output in units of 2^e, e the lower of W − 24 and −300 (R56). -/
def referenceTotal (a : Acc) (w : Int) : Int × Int :=
  let e := min (w - 24) (-300)
  (scaleInt a.val.toInt (w - 24 - e) + scaleInt a.wide.toInt (-300 - e), e)

/-- A reference-mode output drains as NaN (R56). -/
def Acc.refNan (a : Acc) : Bool := a.invalid || (a.posInf && a.negInf) || a.ovf || a.nan

/-- A drained value rounded into a float format (R51, R52, R56). -/
def drainFloat (f : FloatFmt) (reference : Bool) (w shift : Int) (a : Acc) : Nat :=
  if reference then
    if a.refNan then f.nanCode
    else if a.posInf then overflowCode f false
    else if a.negInf then overflowCode f true
    else let v := referenceTotal a w; roundInt f v.1 (v.2 + shift)
  else if a.nan || a.ovf then f.nanCode
  else roundInt f a.val.toInt (shift - 24)

/-- An epilogue in FP32: 0 none, 1 SiLU, 2 GELU (R114). -/
def epilogue (e : Nat) (x : F32) : F32 := match e with | 1 => tine 8 x | 2 => tine 9 x | _ => x

/-- One drained element of a float output format (R50, R114). -/
def drainElem (out : Nat) (reference : Bool) (w shift : Int) (ep : Nat) (a : Acc) : Nat :=
  if ep = 0 then drainFloat (floatOf out) reference w shift a
  else
    let x : F32 := BitVec.ofNat 32 (drainFloat fmtFP32 reference w shift a)
    fromF32 (floatOf out) (epilogue ep x)

/-- FP32 values to the bytes of a row of an output format: floats, or one sheaf line for GF4 and GI4 (R81, R85, R113). -/
def rowOfF32 (out : Nat) (xs : List F32) : List Byte × List QuantBlock :=
  if out = 5 || out = 6 then
    let pad := xs ++ List.replicate (256 - xs.length) 0
    let blocks := (List.range 16).map (fun j => quantBlock (out = 6) ((pad.drop (16 * j)).take 16))
    (sheafBytes blocks, blocks)
  else ((xs.map (fun x => toLe (fmtBytes out) (fromF32 (floatOf out) x))).flatten, [])

/-- The bytes of one drained row, and the quantised blocks for their causes. -/
def drainRow (out : Nat) (reference : Bool) (w shift : Int) (ep : Nat) (as : List Acc) : List Byte × List QuantBlock :=
  if out = 4 then ((as.map (fun a => l80Bytes ⟨a.val, a.ovf, a.nan⟩)).flatten, [])
  else if out = 5 || out = 6 then
    rowOfF32 out (as.map (fun a => epilogue ep (BitVec.ofNat 32 (drainFloat fmtFP32 reference w shift a))))
  else ((as.map (fun a => toLe (fmtBytes out) (drainElem out reference w shift ep a))).flatten, [])

/-- The Tine of a tile has been used: its vector registers hold no defined value (R82, R130). -/
def useTine (t : Nat) (m : Dev) : Dev := useFree 32768 { m with tineSeed := m.tineSeed.upd 0 t m.free }

/-- The bytes of entry i of a set as its drain gives them, with the causes and flags they raise. -/
def drainEntry (t ce set i cols out : Nat) (reference : Bool) (w shift : Int) (ep : Nat) (r : Run) : Run × List Byte :=
  let as := (List.range cols).map (fun n => accOf t set i n r.m)
  let row := drainRow out reference w shift ep as
  ((r.eff (quantCauses t row.2)).eff (when (reference && as.any (fun a => a.refNan)) (accNan t ce)), row.1)

/-- Drain a set of a tile (R81): each row to the output address, as master 0; the set is not changed. -/
def drainCore (t ce : Nat) (d : DrainSpec) (r : Run) : Run :=
  if d.outFmt.toNat = 7 then r
  else
    Run.each (List.range d.rows) (fun i r =>
      let x := drainEntry t ce d.set.val i d.cols d.outFmt.toNat d.reference d.window d.shift d.epilogue r
      x.1.write (.tile t 0) (tl t (d.outAddr + d.pitch * i)) x.2) r

/-- ACC_DRAIN (R81). Reference mode drains only to FP32, and no other drain of it is performed (R58). -/
def accDrain (t : Nat) (d : DrainSpec) (m : Dev) : Dev :=
  if d.rows > (if d.reference then 64 else 256) || d.cols = 0 || d.cols > 256 || (d.reference && d.outFmt ≠ 0) then m
  else (drainCore t (engineOf t m) d (Run.start m)).m

/-! ### Self-test (R101) -/

/-- A write of START: ignored unless the tile is out of service and no test runs. -/
def selfTestStart (t : Nat) (m : Dev) : Dev :=
  if roleOf t m ≠ 0 || Sparse.get false m.selfTest t then m
  else { wr (onTile aTILE_GRID_SELFTEST t) 0 m with selfTest := m.selfTest.upd false t true }

/-- Free accumulators over both sets of a tile: what the test leaves is not defined (R101, DESIGN CHOICE, log entry 5). -/
def scrambleAcc (t seed : Nat) (acc : Sparse Acc) : Sparse Acc :=
  (List.range 131072).foldl (fun a i =>
    let x := Config.freeValue (seed + 3 * i)
    let y := Config.freeValue (seed + 3 * i + 1)
    let z := Config.freeValue (seed + 3 * i + 2)
    a.upd Acc.zero (t * 131072 + i)
      ⟨BitVec.ofNat 80 (x.toNat + 2 ^ 64 * y.toNat), z.getLsbD 0, z.getLsbD 1, 0, false, false, false⟩) acc

/-- The test's result fields. -/
def selfTestWord (failed : List (Fin 258)) (logic : Bool) : Word :=
  let cols := (List.range 258).filter (fun p => failed.any (fun f => f.val = p))
  fTILE_GRID_SELFTEST_DONE.of 1 ||| fTILE_GRID_SELFTEST_LOGIC_FAIL.of (if logic then 1 else 0) |||
    fTILE_GRID_SELFTEST_FAIL_COUNT.of (min 255 cols.length) |||
    fTILE_GRID_SELFTEST_FAIL_A.of (cols.getD 0 0) ||| fTILE_GRID_SELFTEST_FAIL_B.of (cols.getD 1 0)

/-- What the self-test of a tile leaves: free accumulators and a Tine that has worked. -/
def testLeaves (t : Nat) (m : Dev) : Dev := useTine t (useFree 393216 { m with acc := scrambleAcc t m.free m.acc })

/-- The test finishes (R101); more than two failed columns, or a fault outside them, raises SELFTEST_FAIL (R80). -/
def selfTestDone (t : Nat) (failed : List (Fin 258)) (logic : Bool) (m : Dev) : Dev :=
  if !Sparse.get false m.selfTest t then m
  else
    let m1 := wr (onTile aTILE_GRID_SELFTEST t) (selfTestWord failed logic) m
    let m2 := testLeaves t { m1 with selfTest := m1.selfTest.upd false t false }
    let n := ((List.range 258).filter (fun p => failed.any (fun f => f.val = p))).length
    when (n > 2 || logic) (raise (cDIE_GRID_SELFTEST_FAIL (dieOf t))) m2

end Sys2Proof.Machine
end

