-- ==== Sys2Proof/Machine/Seedbed.lean ====
section
/-! DEFINITION. Seedbed banks cycle by cycle (R86 to R95, R294, R522), the Harrow's Field accesses and its scrub (R299,
R300). -/
namespace Sys2Proof.Machine

/-- A number for a bank: tiles, then die-shared banks, then Harrow buffers. -/
def bankNum : BankRef → Nat
  | .tile t b => tileIdx t * 64 + b.val
  | .shared d b => 9216 + d.val * 64 + b.val
  | .buffer s => 9728 + s.val

/-- The local address of a word of a bank (R86, R293, R294). -/
def wordAddr (b : BankRef) (row : Nat) : Nat :=
  match b with
  | .tile t k => tileAddr (tileIdx t) (row * 4096 + k.val * 64)
  | .shared d k => sharedAddr d.val (row * 4096 + k.val * 64)
  | .buffer s => (s.val / 4) * 0x2000_0000 + 0x1C00_0000 + (s.val % 4) * 0x100_0000 + row * 64

/-- The rows of a bank (R86, R294, R522). -/
def bankRows (b : BankRef) (m : Dev) : Nat :=
  match b with
  | .tile _ _ => 5120
  | .shared _ _ => 6144
  | .buffer s => bufferTop s.val m / 64

/-- The gate through which a request is judged. -/
def bankGate (b : BankRef) (k : Nat) : Gate :=
  match b with
  | .tile t _ => .tile (tileIdx t) k
  | .shared d _ => .shared d.val k 31
  | .buffer _ => .none

/-- The offset that a fault record splits into bank and row. -/
def bankOff (b : BankRef) (row : Nat) : Nat :=
  match b with
  | .tile _ k => row * 4096 + k.val * 64
  | .shared _ k => row * 4096 + k.val * 64
  | .buffer _ => row * 64

/-- Does the region check allow a request (R94)? -/
def reqAllowed (b : BankRef) (q : BankReq) (m : Dev) : Bool :=
  q.row < bankRows b m && (bankGate b q.master.val).allows q.row q.row q.write m

/-- A refused request (R95), or in a Harrow buffer one that meets a hole (R291): a read returns zeros marked as poisoned. -/
def reqRefuse (b : BankRef) (q : BankReq) (m : Dev) : Dev :=
  let m1 := when (!q.write) (emit (.bankWord (bankNum b) q.row 0 true)) m
  match b with
  | .buffer s => raise (cDIE_FABRIC_UNMAPPED (s.val / 4)) m1
  | _ => refuseRegion (bankGate b q.master.val) (bankOff b q.row) q.write m1

/-! ### Requests that wait (R88, R90) -/

/-- The requests that wait at a bank, oldest first, each with the cycles that it has stalled. -/
def waitingAt (b : Nat) (m : Dev) : List (BankReq × Nat) := Sparse.get [] m.banks.stalls b
def setWaitingAt (b : Nat) (xs : List (BankReq × Nat)) (m : Dev) : Dev :=
  { m with banks := { m.banks with stalls := Sparse.upd [] m.banks.stalls b xs } }

/-- The first request of a master in a list: its later ones wait behind it (R88). -/
def firstOf (k : Nat) (xs : List (BankReq × Nat)) : Option (BankReq × Nat) := xs.find? (fun x => x.1.master.val = k)

/-- How often the request of a master that a bank takes up next has stalled. -/
def stallsOf (b k : Nat) (m : Dev) : Nat := ((firstOf k (waitingAt b m)).map Prod.snd).getD 0

/-- The requests that a bank takes up in a cycle, one of each master, in the order they are granted: those that have stalled 32
cycles first, then by the fixed priority, which is the master's number (R88, R90, R92, R294). -/
def grantOrder (xs : List (BankReq × Nat)) : List (BankReq × Nat) :=
  let heads := (List.range 10).filterMap (fun k => firstOf k xs)
  heads.filter (fun x => 32 ≤ x.2) ++ heads.filter (fun x => x.2 < 32)

/-- A master's first request leaves the list, or has stalled one cycle more. -/
def dropFirst (k : Nat) (xs : List (BankReq × Nat)) : List (BankReq × Nat) := xs.eraseP (fun x => x.1.master.val = k)
def stallFirst (k : Nat) : List (BankReq × Nat) → List (BankReq × Nat)
  | [] => []
  | x :: rest => if x.1.master.val = k then (x.1, x.2 + 1) :: rest else x :: stallFirst k rest

/-- The bytes of a word with the enabled bytes replaced (R87). -/
def mergeBytes (old : List Byte) (mask : BitVec 64) (data : BitVec 512) : List Byte :=
  (List.range 64).map (fun i => if mask.getLsbD i then BitVec.ofNat 8 (data.toNat / 2 ^ (8 * i)) else old.getD i 0)

/-- A write of the enabled bytes: a lane enabled whole is cleared of its error, a lane enabled in part keeps it (R91). -/
def bankWrite (a : Nat) (mask : BitVec 64) (data : BitVec 512) (m : Dev) : Dev :=
  let m1 := stBytes a (mergeBytes (ldBytes a 64 m) mask data) m
  let lanes := (List.range 8).filter (fun l => bitsAt mask.toNat (8 * l) 8 = 255)
  { m1 with poisonLane := marksPut m1.poisonLane (lanes.map (fun l => a / 8 + l)) false }

/-- The words of a bank whose correction waits, and their replacement. -/
def writeBacks (b : Nat) (m : Dev) : List Nat := Sparse.get [] m.banks.writeBack b
def setWriteBacks (b : Nat) (rows : List Nat) (m : Dev) : Dev :=
  { m with banks := { m.banks with writeBack := Sparse.upd [] m.banks.writeBack b rows } }

/-- A write drops a correction that waits for its word (R91). -/
def dropWriteBack (b row : Nat) (m : Dev) : Dev :=
  setWriteBacks b ((writeBacks b m).filter (fun r => r ≠ row)) m

/-- The corrected word waits to be written back (R91). -/
def queueWriteBack (b row : Nat) (m : Dev) : Dev :=
  setWriteBacks b (writeBacks b m ++ [row]) m

/-- What the ECC decoder finds in the word: a single-bit error is corrected and counted, two bits of one lane make the lane
uncorrectable (R91, R522). -/
def bankEcc (b : BankRef) (row : Nat) (read : Bool) (e : EccEvent) (m : Dev) : Dev :=
  match e with
  | .clean => m
  | .single _ =>
    if read then
      queueWriteBack (bankNum b) row (match b with
        | .tile t _ => countSat (onTile aTILE_SEEDBED_STATS (tileIdx t)) fTILE_SEEDBED_STATS_CORRECTED 1 m
        | .shared _ _ => m
        | .buffer s => countSat (aHARROW_ECC_STATS s.val) fHARROW_ECC_STATS_CORRECTED 1 m)
    else m
  | .double l => poisonRange (wordAddr b row + 8 * l.val) 8 m

/-- The write that port B put off in the last cycle, if any (R89). -/
def putOffOf (b : Nat) (m : Dev) : Option PutOff :=
  let p := Sparse.get PutOff.none m.banks.putOff b
  if p.row = 0 then none else some p
def setPutOff (b : Nat) (p : PutOff) (m : Dev) : Dev :=
  { m with banks := { m.banks with putOff := m.banks.putOff.upd PutOff.none b p } }

/-- A granted read: the word, its poison, and the causes of an uncorrectable lane. A read of the word whose port-B bytes land in
this cycle returns it without them (R89). -/
def bankRead (b : BankRef) (q : BankReq) (m : Dev) : Dev :=
  let a := wordAddr b q.row
  let m1 := bankEcc b q.row true q.ecc m
  let m2 := match putOffOf (bankNum b) m with
    | some p =>
      if p.row = q.row + 1 then emit (.bankWord (bankNum b) q.row p.word p.bad) m1
      else emit (.bankWord (bankNum b) q.row (BitVec.ofNat 512 (leNat (ldBytes a 64 m1))) (poisoned a 64 m1)) m1
    | none => emit (.bankWord (bankNum b) q.row (BitVec.ofNat 512 (leNat (ldBytes a 64 m1))) (poisoned a 64 m1)) m1
  if poisoned a 64 m1 then
    match b with
    | .buffer _ => poisonSeen a .none (firstBad a 64 m2) (bankOff b q.row) m2
    | _ => poisonSeen a (bankGate b q.master.val) 0 (bankOff b q.row) m2
  else m2

/-- A granted access on a port. -/
def bankServe (b : BankRef) (q : BankReq) (m : Dev) : Dev :=
  if q.write then
    dropWriteBack (bankNum b) q.row (bankWrite (wordAddr b q.row) q.mask q.data (bankEcc b q.row false q.ecc m))
  else bankRead b q m

/-- Both ports in one cycle (R89): reads return the word as it was before the cycle; of two writes to one word, port B's lands in
the next cycle, so that port B serves nothing then and a port-A read of the word does not see it yet. -/
def bankPorts (b : BankRef) (qa : BankReq) (qb : Option BankReq) (m : Dev) : Dev :=
  match qb with
  | none => bankServe b qa m
  | some qb =>
    if qa.write && qb.write && qa.row = qb.row then
      let m1 := bankServe b qa m
      let a := wordAddr b qa.row
      setPutOff (bankNum b) ⟨qb.row + 1, qb.mask, qb.data, BitVec.ofNat 512 (leNat (ldBytes a 64 m1)), poisoned a 64 m1⟩
        (bankServe b qb m1)
    else if qa.write && !qb.write then bankServe b qa (bankServe b qb m)
    else bankServe b qb (bankServe b qa m)

/-- The cycle of a write put off ends: where port A has written the same word in it, port B's bytes remain. -/
def finishPutOff (b : BankRef) (qa : Option BankReq) (m : Dev) : Dev :=
  match putOffOf (bankNum b) m with
  | none => m
  | some p =>
    let again := qa.any (fun q => q.write && decide (q.row + 1 = p.row))
    setPutOff (bankNum b) PutOff.none (when again (bankWrite (wordAddr b (p.row - 1)) p.mask p.data) m)

/-- STARVE counts the grants made to starved requests of a tile (R90, R103). -/
def countStarve (b : BankRef) (n : Nat) (m : Dev) : Dev :=
  match b with
  | .tile t _ => countSat (onTile aTILE_SEEDBED_STATS (tileIdx t)) fTILE_SEEDBED_STATS_STARVE n m
  | _ => m

/-- SEEDBED_ACCESS (R86 to R95): one cycle of one bank. The requests made in it join those that wait; a request of a master that
is parked waits for the apply (R164). -/
def seedbedAccess (b : BankRef) (qs : List BankReq) (m : Dev) : Dev :=
  let bn := bankNum b
  let xs := waitingAt bn m ++ (qs.filter (fun q => reqAllowed b q m)).map (fun q => (q, 0))
  let heads := (grantOrder xs).filter (fun x => !(bankGate b x.1.master.val).waits m)
  let order := heads.filter (fun x => reqAllowed b x.1 m)
  let late := heads.filter (fun x => !reqAllowed b x.1 m)
  let ports := if (putOffOf bn m).isSome then 1 else 2
  let granted := order.take ports
  let m1 := forEach (qs.filter (fun q => !reqAllowed b q m) ++ late.map Prod.fst) (reqRefuse b) m
  let m2 := countStarve b (granted.filter (fun x => 32 ≤ x.2)).length m1
  let m3 := match granted with
    | [] => m2
    | qa :: rest => bankPorts b qa.1 ((rest.head?).map Prod.fst) m2
  let m4 := when (ports = 1) (finishPutOff b ((granted.head?).map Prod.fst)) m3
  let left := (granted ++ late).foldl (fun ys x => dropFirst x.1.master.val ys) xs
  setWaitingAt bn ((order.drop ports).foldl (fun ys x => stallFirst x.1.master.val ys) left) m4

/-- ECC_WRITEBACK (R91): a corrected word is written back; memory already holds the corrected data. -/
def eccWriteback (b : BankRef) (m : Dev) : Dev :=
  setWriteBacks (bankNum b) ((writeBacks (bankNum b) m).drop 1) m

/-! ### The Harrow (R299, R300) -/

/-- WEAK_LIMIT, where 0 acts as 1. -/
def weakLimit (s : Nat) (m : Dev) : Nat := max 1 (rdF (aHARROW_CTRL s) fHARROW_CTRL_WEAK_LIMIT m)

/-- A fault record of a stack. -/
def harrowFault (s kind scrub off : Nat) (m : Dev) : Dev :=
  recordFirst (aHARROW_FAULT s) (fHARROW_FAULT_KIND.of kind ||| fHARROW_FAULT_SCRUB.of scrub |||
    fHARROW_FAULT_OFFSET.of off) m

/-- A corrected error of a page: counted, and PAGE_WEAK once a pass when the page gathers WEAK_LIMIT of them. `pg` numbers
the page of the Field tier by stack and page within the stack. -/
def harrowCorrected (s off scrub : Nat) (m : Dev) : Dev :=
  let pg := s * 2 ^ 20 + off / 65536
  let n := Sparse.get 0 m.banks.weak pg + 1
  let m1 := countSat (aHARROW_ECC_STATS s) fHARROW_ECC_STATS_CORRECTED 1 m
  let m2 := { m1 with banks := { m1.banks with weak := m1.banks.weak.upd 0 pg n } }
  if n ≥ weakLimit s m && !Sparse.get false m.banks.weakRaised pg then
    raise (cSTACK_ECC_PAGE_WEAK s) (harrowFault s 2 scrub (off / 65536 * 65536)
      { m2 with banks := { m2.banks with weakRaised := m2.banks.weakRaised.upd false pg true } })
  else m2

/-- The Field address of a byte of a stack (R296). -/
def stackByteAddr (s off : Nat) : Nat :=
  fieldBase + (s / 4) * 2 ^ 38 + (off / 65536) * 2 ^ 18 + (s % 4) * 2 ^ 16 + off % 65536

/-- An uncorrectable error: the mark, the count, the record and the cause (R299). -/
def harrowUncorrectable (s off scrub : Nat) (m : Dev) : Dev :=
  raise (cSTACK_ECC_UNCORR s) (harrowFault s 1 scrub (off / 32 * 32)
    (countSat (aHARROW_ECC_STATS s) fHARROW_ECC_STATS_UNCORRECTED 1
      (poisonRange (stackByteAddr s (off / 32 * 32)) 32 m)))

/-- FIELD_ACCESS (R299): a read returns its 32 bytes, corrected or poisoned; a write of all 32 bytes clears the mark. -/
def fieldAccess (q : FieldReq) (m : Dev) : Dev :=
  let f := 32 * q.granule
  let s := fieldStack f
  let off := fieldByte f
  if f ≥ 2 ^ 41 || !stackUp s m then raise (cDIE_FABRIC_UNMAPPED q.die.val) m
  else
    let a := fieldBase + f
    if q.write then
      let old := ldBytes a 32 m
      let new := (List.range 32).map (fun i =>
        if q.mask.getLsbD i then BitVec.ofNat 8 (q.data.toNat / 2 ^ (8 * i)) else old.getD i 0)
      let m1 := stBytes a new m
      if q.mask = 0xFFFFFFFF#32 then clearWhole a 32 m1 else m1
    else
      let m1 := match q.ecc with
        | .clean => m
        | .single _ => harrowCorrected s off 0 m
        | .double _ => harrowUncorrectable s off 0 m
      emit (.fieldWord q.granule (ldBytes a 32 m1) (poisoned a 32 m1)) m1

/-- SCRUB_PASS (R300): the faults the scrub of a whole stack finds, then a new pass of counts begins. -/
def scrubPass (s : Nat) (faults : List ScrubFault) (m : Dev) : Dev :=
  if rdF (aHARROW_CTRL s) fHARROW_CTRL_SCRUB_HOURS m = 0 || !stackUp s m then m
  else
    let m1 := forEach faults (fun x => if x.corrected then harrowCorrected s x.offset 1
      else harrowUncorrectable s x.offset 1) m
    { m1 with banks := { m1.banks with
        weak := m1.banks.weak.filter (fun e => e.1 / 2 ^ 20 ≠ s)
        weakRaised := m1.banks.weakRaised.filter (fun e => e.1 / 2 ^ 20 ≠ s) } }

end Sys2Proof.Machine
end

