-- ==== Sys2Proof/Machine/Operands.lean ====
section
/-! DEFINITION. The 64-byte command (R110 to R118): its header, operand forms, commit word, and the checks that refuse it
before it has any effect. -/
namespace Sys2Proof.Machine

/-! ### The header and the commit word (R110, R122) -/

def cmdOpcode (e : List Byte) : Nat := field e 0 1
def cmdRank (e : List Byte) : Nat := field e 1 1
def cmdRows (e : List Byte) : Nat := field e 2 2
def cmdTag (e : List Byte) : Nat := field e 4 2
def commitWord (e : List Byte) : Nat := field e 56 8

/-- KIND of the commit word. -/
def commitKind (e : List Byte) : Nat := bitsAt (commitWord e) 60 4

/-- The opcodes of R111. -/
def opGEMM : Nat := 0x01
def opFUSED : Nat := 0x02
def opATTEND : Nat := 0x03
def opNORM : Nat := 0x04
def opROUTE : Nat := 0x10
def opAPPEND : Nat := 0x11
def opGATHER : Nat := 0x12
def opMOVE : Nat := 0x13
def opCOPY : Nat := 0x14
def opWAIT : Nat := 0x20
def opSIGNAL : Nat := 0x21
def opFENCE : Nat := 0x22
def opCOMMIT : Nat := 0x23

/-- Every listed opcode. -/
def opcodes : List Nat := [0x01, 0x02, 0x03, 0x04, 0x10, 0x11, 0x12, 0x13, 0x14, 0x20, 0x21, 0x22, 0x23]

/-- Are the opcode's commands control commands? -/
def isControl (op : Nat) : Bool := 0x20 ≤ op

/-- Does a fixed engine run the opcode? -/
def isFixedOp (op : Nat) : Bool := 0x10 ≤ op && op ≤ 0x14

/-- The engine of a fixed-engine command: 0 Coulter, 1 Drill, 2 Gleaner, 3 Mover. -/
def fixedOf (op : Nat) : Nat := if op = 0x10 then 0 else if op = 0x11 then 1 else if op = 0x12 then 2 else 3

/-- Is a command detached (R111)? -/
def isDetached (op : Nat) : Bool := op = 0x02 || isFixedOp op || op = 0x21

/-- Zero bytes of an entry. -/
def zeroAt (e : List Byte) (o n : Nat) : Bool := field e o n = 0

/-- The bits a kind does not use must be 0 (R122). -/
def commitOk (e : List Byte) : Bool :=
  let w := commitWord e
  match commitKind e with
  | 0 => w = 0
  | 1 => bitsAt w 43 17 = 0
  | 2 => bitsAt w 50 10 = 0
  | 3 => bitsAt w 48 12 = 0 && bitsAt w 19 13 = 0 && bitsAt w 12 4 = 0
  | 4 => bitsAt w 21 39 = 0
  | 5 => bitsAt w 21 39 = 0
  | _ => false

/-! ### Operand addresses (R113) -/

/-- Is a 6-byte operand address well formed? -/
def opAddrOk (v : Nat) : Bool := if bitAt v 47 then bitsAt v 25 22 = 0 else !bitAt v 46

/-- The address `off` bytes past the one that an operand names, on the tile that stands for the command's rank. -/
def opAt (t v off : Nat) : Nat := if bitAt v 47 then tl t (bitsAt v 0 25 + off) else loc (bitsAt v 0 46 + off)

/-- The address an operand names, on the tile that stands for the command's rank. -/
def opAddr (t v : Nat) : Nat := opAt t v 0

/-- A counter reference has bit 15 set to 0. -/
def refOk (v : Nat) : Bool := !bitAt v 15

/-! ### The checks per opcode (R115 to R118) -/

/-- K fits 1 to 2^24 in bits [24:0]. -/
def kOk (k : Nat) : Bool := 1 ≤ k && k ≤ 2 ^ 24

/-- K of an FP8 or BF16 operand is a multiple of 16 (R39). -/
def kMultiple (fa k : Nat) : Bool := isNative fa || k % 16 = 0

/-- A native operand lies at a 16-byte-aligned address (R297). -/
def lineAligned (f v : Nat) : Bool := !isNative f || v % 16 = 0

def gemmOk (e : List Byte) : Bool :=
  let fa := bitsAt (field e 42 1) 0 3
  let fw := bitsAt (field e 42 1) 4 3
  let k := field e 36 4
  let n := field e 40 2
  let out := field e 43 1
  let shift := signed 8 (field e 44 1)
  let flags := field e 45 1
  let ep := field e 46 1
  opAddrOk (field e 8 6) && opAddrOk (field e 14 6) && lineAligned fa (field e 8 6) && lineAligned fw (field e 14 6) &&
  field e 28 4 % 64 = 0 && field e 32 4 % 16 = 0 && kOk k && 1 ≤ n && n ≤ 256 &&
  !bitAt (field e 42 1) 3 && !bitAt (field e 42 1) 7 && pairOk fa fw && kMultiple fa k &&
  out ≤ 7 && -64 ≤ shift && shift ≤ 63 && bitsAt flags 4 4 = 0 && !bitAt flags 2 && ep ≤ 2 && zeroAt e 47 1 &&
  bitsAt (field e 52 2) 10 6 = 0 && zeroAt e 54 2 &&
  !(cmdRows e > 256 && out = 7) && !(out = 4 && (shift ≠ 0 || ep ≠ 0)) &&
  (!isBf16 fa || (out = 0 && cmdRows e ≤ 64 && !bitAt flags 3 && field e 48 4 % 64 = 0))

/-- The output format of a FUSED against its collective (R380): OUT_FMT 4 is an unrounded L80 row and takes no shift and no
epilogue; COLL_OP 5 takes FP32 rows of an adapted product. -/
def fusedOutOk (e : List Byte) : Bool :=
  let out := field e 39 1
  let ct := field e 43 1
  out ≤ 6 && !(out = 4 && (ct ≠ 0 || field e 40 1 ≠ 0 || field e 50 1 ≠ 0)) &&
    !(field e 42 1 = 5 && (ct ≠ 1 || out ≠ 0 || !bitAt (field e 41 1) 3))

/-- FUSED: the collective's target is checked against the group table in the Drone (R380). -/
def fusedOk (e : List Byte) : Bool :=
  let fa := bitsAt (field e 38 1) 0 3
  let fw := bitsAt (field e 38 1) 4 3
  let k := field e 32 4
  let n := field e 36 2
  let shift := signed 8 (field e 40 1)
  let flags := field e 41 1
  let ct := field e 43 1
  opAddrOk (field e 8 6) && opAddrOk (field e 14 6) && lineAligned fa (field e 8 6) && lineAligned fw (field e 14 6) &&
  field e 28 4 % 16 = 0 && kOk k && 1 ≤ n && n ≤ 256 &&
  !bitAt (field e 38 1) 3 && !bitAt (field e 38 1) 7 && pairOk fa fw && !isBf16 fa && kMultiple fa k &&
  fusedOutOk e && -64 ≤ shift && shift ≤ 63 && bitsAt flags 4 4 = 0 && !bitAt flags 2 &&
  field e 42 1 ≤ 5 && ct ≤ 2 && field e 45 1 < 32 && refOk (field e 48 2) && field e 50 1 ≤ 2 && zeroAt e 51 5

def attendOk (e : List Byte) : Bool :=
  opAddrOk (field e 20 6) && 1 ≤ field e 29 1 && field e 29 1 ≤ 16 && field e 30 1 ≤ 2 && field e 31 1 ≤ 3 &&
  field e 36 1 ≤ 1 && zeroAt e 37 19

def normOk (e : List Byte) : Bool :=
  let w := field e 20 4
  let out := field e 25 1
  w % 16 = 0 && w ≤ 2 ^ 20 && field e 24 1 ≤ 1 && (out ≤ 3 || out = 5 || out = 6) && field e 27 1 ≤ 3 &&
  zeroAt e 36 20

def routeOk (e : List Byte) : Bool :=
  let ex := field e 24 2
  let k := field e 26 1
  opAddrOk (field e 12 6) && opAddrOk (field e 18 6) && lineAligned 0 (field e 8 4) &&
  lineAligned 0 (field e 12 6) && 1 ≤ ex && ex ≤ 1024 && 1 ≤ k && k ≤ 16 && k ≤ ex &&
  field e 27 1 ≤ 1 && field e 30 1 < 32 && refOk (field e 32 2) && zeroAt e 34 22

def appendOk (e : List Byte) : Bool := 1 ≤ field e 23 1 && field e 23 1 ≤ 16 && zeroAt e 24 32

def gatherOk (e : List Byte) : Bool :=
  let out := field e 35 1
  opAddrOk (field e 8 6) && field e 14 4 ≤ 2 ^ 24 && opAddrOk (field e 18 6) && field e 18 6 % 64 = 0 &&
  opAddrOk (field e 28 6) && field e 34 1 ≤ 3 && (out ≤ 3 || out = 5 || out = 6) && zeroAt e 40 16

/-- MOVE (R315, R335): SLOT is 1 to 15 with COMPRESS; EXPAND ignores it (R337), and a SLOT of 0 stands with it as R335
refuses 0 with COMPRESS only (DEDUCED, log entry 97). The commit word of a MIGRATE is checked against the page map in the Mover. -/
def moveOk (e : List Byte) : Bool :=
  let f := field e 24 1
  let zip := bitAt f 0 || bitAt f 1
  opAddrOk (field e 8 6) && opAddrOk (field e 14 6) && field e 8 6 % 65536 = 0 && field e 14 6 % 65536 = 0 &&
  field e 20 4 ≤ 65536 && f < 16 && !(bitAt f 3 && !bitAt f 2) && !(bitAt f 0 && bitAt f 1) && !(bitAt f 2 && zip) &&
  zeroAt e 25 7 && opAddrOk (field e 32 6) &&
  (if zip then field e 32 6 % 64 = 0 && field e 38 1 ≤ 15 && (!bitAt f 0 || 1 ≤ field e 38 1)
   else zeroAt e 32 6 && zeroAt e 38 1) && zeroAt e 39 17

/-- A COPY_ASYNC address: a global address, or a local one whose bits [62:46] are 0 (R117, R292). -/
def copyAddrOk (v : Nat) : Bool := bitAt v 63 || bitsAt v 46 17 = 0

def copyOk (e : List Byte) : Bool :=
  let c := field e 32 1
  copyAddrOk (field e 8 8) && copyAddrOk (field e 16 8) && refOk (field e 28 2) && (c = 0 || (12 ≤ c && c ≤ 22)) &&
  2 ≤ field e 33 1 && field e 33 1 ≤ 4 && zeroAt e 34 1 && field e 35 1 < 16 && zeroAt e 36 20

def waitOk (e : List Byte) : Bool := refOk (field e 8 2) && zeroAt e 10 2 && zeroAt e 20 36

def signalOk (e : List Byte) : Bool :=
  zeroAt e 9 1 && refOk (field e 10 2) && field e 14 2 ≤ 224 && bitsAt (field e 20 6) 46 2 = 0 && zeroAt e 26 30

def fenceOk (e : List Byte) : Bool := field e 8 1 ≤ 2 && zeroAt e 9 47

def commitCmdOk (e : List Byte) : Bool := zeroAt e 8 48

/-- The operand checks of an opcode; an undefined opcode is refused. -/
def operandsOk (e : List Byte) : Bool :=
  match cmdOpcode e with
  | 0x01 => gemmOk e
  | 0x02 => fusedOk e
  | 0x03 => attendOk e
  | 0x04 => normOk e
  | 0x10 => routeOk e
  | 0x11 => appendOk e
  | 0x12 => gatherOk e
  | 0x13 => moveOk e
  | 0x14 => copyOk e
  | 0x20 => waitOk e
  | 0x21 => signalOk e
  | 0x22 => fenceOk e
  | 0x23 => commitCmdOk e
  | _ => false

/-- The header, the commit word and the operands (R110, R118). -/
def entryOk (e : List Byte) : Bool :=
  zeroAt e 6 2 && cmdRows e ≤ 1024 && (!isControl (cmdOpcode e) || cmdRows e = 0) && commitOk e && operandsOk e

end Sys2Proof.Machine
end

