-- ==== Sys2Proof/Machine/Packet.lean ====
section
/-! DEFINITION. Packets of the Windrow network (R348 to R350, R363 to R367): types, headers, jobs and keys, the checks of a
sending unit, protected ranges (R317), NACKs, and the units' way to the router. -/
namespace Sys2Proof.Machine

/-! ### Types (R349) -/

def ptWRITE : Nat := 0x01
def ptREAD : Nat := 0x02
def ptREAD_DATA : Nat := 0x03
def ptATOMIC : Nat := 0x04
def ptCOMPLETION : Nat := 0x05
def ptCHUNK : Nat := 0x10
def ptMARKER : Nat := 0x11
def ptSIGNAL : Nat := 0x12
def ptABORT : Nat := 0x13
def ptDISPATCH : Nat := 0x18
def ptCOPY : Nat := 0x20
def ptRESEND : Nat := 0x21
def ptNACK : Nat := 0x3F

/-- The header VCs that a type allows; none for a type that is not listed (R349). -/
def typeVcs (t : Nat) : List Nat :=
  match t with
  | 0x01 => [3, 4]
  | 0x02 => [4]
  | 0x03 => [5]
  | 0x04 => [4]
  | 0x05 => [5]
  | 0x10 => [0, 1]
  | 0x11 => [0, 1]
  | 0x12 => [0, 1]
  | 0x13 => [0]
  | 0x18 => [0, 1]
  | 0x20 => [2, 3, 4]
  | 0x21 => [5]
  | 0x3F => [5]
  | _ => []

/-- Is a packet's TYPE listed and its header VC allowed? -/
def packetFormed (p : Packet) : Bool := (typeVcs p.typ.toNat).any (fun v => v = bitsAt p.vc.toNat 0 3)

/-- Flags of a header (R348). -/
def isZipped (p : Packet) : Bool := p.flags.getLsbD 0
def isEncrypted (p : Packet) : Bool := p.flags.getLsbD 1
def isPoison (p : Packet) : Bool := p.flags.getLsbD 2
def keyGenOf (p : Packet) : Nat := bitsAt p.flags.toNat 3 1

/-- Coordinate and die of DEST and SRC. -/
def destCoordOf (p : Packet) : Nat := bitsAt p.dest.toNat 0 9
def destDieOf (p : Packet) : Nat := bitsAt p.dest.toNat 9 3
def srcCoordOf (p : Packet) : Nat := bitsAt p.src.toNat 0 9
def srcDieOf (p : Packet) : Nat := bitsAt p.src.toNat 9 3

/-- ROUTE of a header: SUB, AXIS, DETOUR, HOPS. -/
def rSUB : Fld := ⟨0, 1⟩
def rAXIS : Fld := ⟨1, 2⟩
def rDETOUR : Fld := ⟨3, 1⟩
def rHOPS : Fld := ⟨4, 4⟩

/-- Bytes of a packet on a link: header, payload, tag when encrypted, check code. -/
def packetSize (p : Packet) : Nat := 32 + p.payload.length + (if (isEncrypted p) then 16 else 0) + 8

/-- Flits of a packet: 248 bytes each. -/
def packetFlits (p : Packet) : Nat := ((packetSize p) + 247) / 248

/-- The 32 header bytes (R348), with a given ROUTE. -/
def headerOf (p : Packet) (route : Nat) : List Byte :=
  toLe 1 p.typ.toNat ++ toLe 1 p.flags.toNat ++ toLe 2 p.payload.length ++ toLe 2 p.dest.toNat ++ toLe 2 p.src.toNat ++
  toLe 1 p.job.toNat ++ toLe 1 p.vc.toNat ++ toLe 2 p.boot.toNat ++ toLe 2 route ++ toLe 2 0 ++ toLe 8 p.counter.toNat ++
  toLe 8 p.arg.toNat

/-! ### The module's own place -/

/-- WINDROW_COORD as it acts: none when a dimension or the coordinate is out of range (R371). -/
def coordOk (v : Word) : Bool :=
  let dx := fWINDROW_COORD_DIM_X.get v
  let dy := fWINDROW_COORD_DIM_Y.get v
  let dz := fWINDROW_COORD_DIM_Z.get v
  let c := fWINDROW_COORD_COORD.get v
  1 ≤ dx && dx ≤ 4 && 1 ≤ dy && dy ≤ 4 && 1 ≤ dz && dz ≤ 5 && bitsAt c 6 3 < dx && bitsAt c 3 3 < dy && bitsAt c 0 3 < dz

/-- Is the coordinate set and in range? -/
def coordValid (m : Dev) : Bool :=
  isSet aWINDROW_COORD fWINDROW_COORD_VALID m && coordOk (rd aWINDROW_COORD m)

/-- The module's coordinate. -/
def selfCoord (m : Dev) : Nat := rdF aWINDROW_COORD fWINDROW_COORD_COORD m

/-- A DEST or SRC value. -/
def placeWord (coord die : Nat) : BitVec 16 := BitVec.ofNat 16 (coord % 512 + 512 * (die % 8))

/-- Low 16 bits of the boot count. -/
def bootLow (m : Dev) : BitVec 16 := BitVec.ofNat 16 (rdF aHEADLAND_BOOT fHEADLAND_BOOT_BOOT_COUNT m)

/-! ### Jobs (R363, R365 to R367) -/

/-- Is the module a member of a job? -/
def jobMember (j : Nat) (m : Dev) : Bool := j = 0 || isSet (aWINDROW_JOB j) fWINDROW_JOB_MEMBER m

/-- Are a job's payloads encrypted? -/
def jobEncrypt (j : Nat) (m : Dev) : Bool := j ≠ 0 && isSet (aWINDROW_JOB j) fWINDROW_JOB_ENCRYPT m

/-- The generation for new packets. -/
def jobGen (j : Nat) (m : Dev) : Nat := rdF (aWINDROW_JOB j) fWINDROW_JOB_TX_GEN m

/-- The key slot of a job's generation. -/
def jobSlot (j gen : Nat) (m : Dev) : Nat :=
  if gen = 0 then rdF (aWINDROW_JOB j) fWINDROW_JOB_KEY_SLOT0 m else rdF (aWINDROW_JOB j) fWINDROW_JOB_KEY_SLOT1 m

/-- Does a slot hold a job key? -/
def holdsJobKey (slot : Nat) (m : Dev) : Bool := 16 ≤ slot && (Sparse.get KeySlot.empty m.keys slot).usage = 2

/-- Record the first Windrow fault (R372). -/
def windrowFault (kind link coord job : Nat) (m : Dev) : Dev :=
  recordFirst aWINDROW_FAULT (fWINDROW_FAULT_KIND.of kind ||| fWINDROW_FAULT_LINK.of link |||
    fWINDROW_FAULT_COORD.of coord ||| fWINDROW_FAULT_JOB.of job) m

/-- Why a sending unit does not send a packet (R366). -/
inductive SendStop where
  | noKey | plainProtected | notMember
  deriving DecidableEq, Repr

/-- The checks of R366 on a packet of a job whose payload is or is not protected. -/
def sendStop (job : Nat) (isProtected : Bool) (m : Dev) : Option SendStop :=
  if !jobMember job m then some .notMember
  else if jobEncrypt job m && !holdsJobKey (jobSlot job (jobGen job m) m) m then some .noKey
  else if isProtected && !jobEncrypt job m then some .plainProtected
  else none

/-- The cause of a stop, with its record. -/
def sendStopped (s : SendStop) (coord job : Nat) (m : Dev) : Dev :=
  match s with
  | .noKey => raise cWINDROW_JOB_NO_KEY (windrowFault 8 0 coord job m)
  | .plainProtected => raise cWINDROW_JOB_PLAIN_PROTECTED (windrowFault 10 0 coord job m)
  | .notMember => raise cWINDROW_JOB_NOT_MEMBER (windrowFault 7 0 coord job m)

/-- The GCM counter's key: die, job and generation (R365). -/
def gcmKey (die job gen : Nat) : Nat := (die * 256 + job) * 2 + gen

/-- What a unit wants sent. -/
structure Draft where
  typ : Nat
  vc : Nat
  die : Nat
  dest : BitVec 16
  job : Nat
  arg : BitVec 64
  payload : List Byte
  zip : Bool
  poison : Bool
  deriving DecidableEq, Repr

/-- The packet that a draft becomes (R348, R365). Its payload is kept in clear beside its ENCRYPTED flag; the bytes of the cipher are
formed where it goes on a link (DESIGN CHOICE, log entry 4). -/
def formed (d : Draft) (m : Dev) : Packet :=
  let enc := jobEncrypt d.job m
  let gen := if enc then jobGen d.job m else 0
  { typ := BitVec.ofNat 8 d.typ
    flags := BitVec.ofNat 8 ((if d.zip then 1 else 0) + (if enc then 2 else 0) + (if d.poison then 4 else 0) + 8 * gen)
    dest := d.dest
    src := placeWord (selfCoord m) d.die
    job := BitVec.ofNat 8 d.job
    vc := BitVec.ofNat 8 d.vc
    boot := bootLow m
    route := BitVec.ofNat 16 (2 * 3)
    counter := if enc then Sparse.get 0 m.net.gcm (gcmKey d.die d.job gen) else 0
    arg := d.arg
    payload := d.payload }

/-- Form a packet and hand it to the router of its die; an encrypted packet advances its GCM counter. -/
def sendDraft (d : Draft) (m : Dev) : Dev :=
  let p := formed d m
  let m1 := emit (.packet d.die none p) m
  if (isEncrypted p) then
    { m1 with net := { m1.net with gcm := m1.net.gcm.upd 0 (gcmKey d.die d.job (keyGenOf p)) (p.counter + 1) } }
  else m1

/-- Hand a formed packet to the router again (a resend keeps its header and counter). -/
def sendAgain (die : Nat) (p : Packet) (m : Dev) : Dev := emit (.packet die none p) m

/-! ### NACK (R350) -/

/-- Send a NACK for a failed packet, in job 0, from the die it failed at; no NACK answers a NACK: that one is recorded. -/
def sendNack (reason die : Nat) (p : Packet) (m : Dev) : Dev :=
  if p.typ.toNat = ptNACK then windrowFault 12 0 (srcCoordOf p) p.job.toNat m
  else
    sendDraft ⟨ptNACK, 5, die, p.src, 0, BitVec.ofNat 64 reason, (headerOf p 0), false, false⟩ m

/-! ### Protected ranges (R317) -/

/-- The local address that an operand names: a tile-local offset on its tile. -/
def plainAddr (a : Nat) : Nat :=
  match placeOf a with
  | .tile t off => tileAddr t off
  | _ => a

/-- Does a range of `n` bytes touch a protected range? A protected adapter's factors lie in memory marked so (R260). -/
def protectedAt (a n : Nat) (m : Dev) : Bool :=
  let lo := plainAddr a / 65536
  let hi := (plainAddr a + n - 1) / 65536
  n ≠ 0 && (List.range 16).any (fun r =>
    isSet (aTIER_PROTECT r) fTIER_PROTECT_VALID m && rdF (aTIER_PROTECT r) fTIER_PROTECT_BASE m ≤ hi &&
      lo ≤ rdF (aTIER_PROTECT r) fTIER_PROTECT_LIMIT m)

/-- Is a destination inside the Seedbed window or the Field tier? -/
def insideSafe (a : Nat) : Bool := inWindow (plainAddr a) || inField (plainAddr a)

/-! ### Delivered packets -/

/-- A unit takes a packet that was delivered to it. -/
def takePacket (p : Packet) (m : Dev) : Dev := { m with net := { m.net with inbox := m.net.inbox.erase p } }

end Sys2Proof.Machine
end

