-- ==== Sys2Proof/Machine/Winnow.lean ====
section
/-! DEFINITION. Winnow (chapter 11): shadowed tables as bytes, code tables and their codewords (R327, R328), compression
(R331), expansion and its faults (R332), and the stored page form's CRC (R335). -/
namespace Sys2Proof.Machine

/-! ### Tables of R159 -/

/-- The key of a byte of a table of a target. -/
def tableKey (target table off : Nat) : Nat := (target * 32 + table) * 2 ^ 24 + off

/-- A byte of an active table. -/
def tableByte (target table off : Nat) (m : Dev) : Byte := Sparse.get 0 m.plan.tables (tableKey target table off)

/-- `n` bytes of an active table. -/
def tableBytes (target table off n : Nat) (m : Dev) : List Byte :=
  (List.range n).map (fun i => tableByte target table (off + i) m)

/-! ### Codes (R327, R328) -/

/-- The two registers of slot s, 1 to 15. -/
def slotReg0 (d s : Nat) : Nat := aWINNOW_SLOT0 d (s - 1)
def slotReg1 (d s : Nat) : Nat := aWINNOW_SLOT1 d (s - 1)

/-- Does a slot of a die hold a committed table? -/
def slotValid (d s : Nat) (m : Dev) : Bool := 1 ≤ s && s ≤ 15 && isSet (slotReg0 d s) fWINNOW_SLOT0_VALID m

/-- The code lengths of a table image: byte 64 + s / 2, low nibble for even s. -/
def codeLens (img : List Byte) : List Nat :=
  (List.range 267).map (fun s => ((img.getD (64 + s / 2) 0).toNat / (if s % 2 = 0 then 1 else 16)) % 16)

/-- One codeword: symbol, length, code. -/
structure Codeword where
  sym : Nat
  len : Nat
  code : Nat
  deriving DecidableEq, Repr

/-- Assign the codewords of one length in ascending symbol order. -/
def assignLen (l : Nat) (lens : List Nat) (st : Nat × List Codeword) : Nat × List Codeword :=
  (List.range lens.length).foldl (fun (p : Nat × List Codeword) s =>
    if lens.getD s 0 = l then (p.1 + 1, p.2 ++ [⟨s, l, p.1⟩]) else p) st

/-- The codewords of a table (R328). -/
def assignCodes (lens : List Nat) : List Codeword :=
  ((List.range 15).foldl (fun (p : Nat × List Codeword) i =>
    let q := assignLen (i + 1) lens p
    (q.1 * 2, q.2)) (0, [])).2

/-- The codewords of a slot of a die. -/
def slotCodes (d s : Nat) (m : Dev) : List Codeword := assignCodes (codeLens (tableBytes (0xA0 + d) s 0 256 m))

/-- The low 16 bits of a slot's GENERATION. -/
def slotGen (d s : Nat) (m : Dev) : Nat := rdF (slotReg0 d s) fWINNOW_SLOT0_GENERATION m % 65536

/-- Bits of a codeword, most significant first. -/
def codeBits (c : Codeword) : List Bool := ((List.range c.len).reverse).map (fun i => bitAt c.code i)

/-- Bytes of a bit stream: bit j is bit j mod 8 of byte j / 8; the last byte is padded with 0 bits. -/
def packBits : Nat → List Bool → List Byte
  | 0, _ => []
  | fuel + 1, bits =>
    if bits.isEmpty then []
    else BitVec.ofNat 8 (((List.range 8).map (fun i => if bits.getD i false then 2 ^ i else 0)).sum) ::
      packBits fuel (bits.drop 8)

/-- The bits of a byte stream. -/
def unpackBits (bs : List Byte) : List Bool := (bs.map (fun b => (List.range 8).map (fun i => b.getLsbD i))).flatten

/-- The leading zero bytes of a list. -/
def zeroRun : List Byte → Nat
  | [] => 0
  | b :: rest => if b = 0 then zeroRun rest + 1 else 0

/-- The codeword of a symbol, if present. -/
def codeOf (codes : List Codeword) (s : Nat) : Option Codeword := codes.find? (fun c => c.sym = s)

/-- The largest run symbol present that a run of z zeros holds (R331). -/
def runSymbol (codes : List Codeword) (z : Nat) : Option Codeword :=
  ((List.range 11).reverse.map (fun i => 256 + i)).findSome? (fun s => if 2 ^ (s - 254) ≤ z then codeOf codes s else none)

/-- The bits of a compressed payload (R331). -/
def compressBits (codes : List Codeword) : Nat → List Byte → List Bool
  | 0, _ => []
  | _ + 1, [] => []
  | fuel + 1, b :: rest =>
    let z := zeroRun (b :: rest)
    match if 4 ≤ z then runSymbol codes z else none with
    | some c => codeBits c ++ compressBits codes fuel ((b :: rest).drop (2 ^ (c.sym - 254)))
    | none =>
      (match codeOf codes b.toNat with | some c => codeBits c | none => []) ++ compressBits codes fuel rest

/-- The encoded bytes of a payload. -/
def compressBytes (codes : List Codeword) (bs : List Byte) : List Byte :=
  let bits := compressBits codes (bs.length + 1) bs
  packBits (bits.length + 1) bits

/-- The saving test (R331): MIN_SAVING in units of 16 bytes. -/
def savingOk (d declared encoded : Nat) (m : Dev) : Bool :=
  8 + encoded + 16 * rdF (aWINNOW_CTRL d) fWINNOW_CTRL_MIN_SAVING m ≤ declared

/-- A block: its 8-byte header and its stream (R330). -/
def blockBytes (d s declared : Nat) (enc : List Byte) (m : Dev) : List Byte :=
  toLe 1 s ++ toLe 1 0 ++ toLe 2 declared ++ toLe 2 enc.length ++ toLe 2 (slotGen d s m) ++ enc

/-- Compress a payload by a slot; none when the saving test fails. -/
def zipPayload (d s : Nat) (bs : List Byte) (m : Dev) : Option (List Byte) :=
  let enc := compressBytes (slotCodes d s m) bs
  if savingOk d bs.length enc.length m then some (blockBytes d s bs.length enc m) else none

/-! ### Expansion (R332) -/

/-- How the expansion of a stream ends. -/
inductive ExpandEnd where
  | good | more | less | badCode
  deriving DecidableEq, Repr

/-- Decode one symbol from the front of a stream: the codeword whose bits stand there; none for an invalid prefix, and
`short` tells a stream that ended within a codeword. -/
def decodeSym (codes : List Codeword) (bits : List Bool) : Option Codeword :=
  codes.find? (fun c => c.len ≤ bits.length && bits.take c.len = codeBits c)

/-- Could the bits be the start of a codeword that the stream does not finish? -/
def prefixOfCode (codes : List Codeword) (bits : List Bool) : Bool :=
  codes.any (fun c => bits.length < c.len && (codeBits c).take bits.length = bits)

/-- Decode up to `declared` bytes. -/
def expandBits (codes : List Codeword) (declared : Nat) : Nat → List Bool → List Byte → List Byte × ExpandEnd
  | 0, _, out => (out, .less)
  | fuel + 1, bits, out =>
    if out.length = declared then
      (out, if bits.length < 8 && bits.all (fun b => !b) then .good else .more)
    else
      match decodeSym codes bits with
      | some c =>
        let bytes := if c.sym < 256 then [BitVec.ofNat 8 c.sym] else List.replicate (2 ^ (c.sym - 254)) 0
        let out' := out ++ bytes
        if out'.length > declared then (out'.take declared, .more)
        else expandBits codes declared fuel (bits.drop c.len) out'
      | none => (out, if prefixOfCode codes bits then .less else .badCode)

/-- Expand a stream to exactly `declared` bytes. -/
def expandBytes (codes : List Codeword) (declared : Nat) (enc : List Byte) : List Byte × ExpandEnd :=
  let bits := unpackBits enc
  let r := expandBits codes declared (bits.length + 2) bits []
  (r.1 ++ List.replicate (declared - r.1.length) 0, r.2)

/-- A Winnow fault on a die (R339). UNIT 0 is a link interface, with its link; UNIT 1 the Mover. -/
def winnowFault (d kind unit link slot source page : Nat) (m : Dev) : Dev :=
  recordFirst (aWINNOW_FAULT d) (fWINNOW_FAULT_KIND.of kind ||| fWINNOW_FAULT_UNIT.of unit |||
    fWINNOW_FAULT_LINK.of link ||| fWINNOW_FAULT_SLOT.of slot ||| fWINNOW_FAULT_SOURCE.of source ||| fWINNOW_FAULT_PAGE.of page) m

/-- A slot that is missing or of another generation. -/
def tableMismatch (d unit link slot source page : Nat) (m : Dev) : Dev :=
  raise (cDIE_WINNOW_TABLE_MISMATCH d) (winnowFault d 4 unit link slot source page
    (countSat (aWINNOW_ERR_STATS d) fWINNOW_ERR_STATS_TABLE 1 m))

/-- The causes of an expansion's end. -/
def expandCauses (d unit link slot source page : Nat) (e : ExpandEnd) (m : Dev) : Dev :=
  match e with
  | .good => m
  | .more => raise (cDIE_WINNOW_SIZE_MISMATCH d) (winnowFault d 1 unit link slot source page
      (countSat (aWINNOW_ERR_STATS d) fWINNOW_ERR_STATS_SIZE 1 m))
  | .less => raise (cDIE_WINNOW_SIZE_MISMATCH d) (winnowFault d 2 unit link slot source page
      (countSat (aWINNOW_ERR_STATS d) fWINNOW_ERR_STATS_SIZE 1 m))
  | .badCode => raise (cDIE_WINNOW_CODE_INVALID d) (winnowFault d 3 unit link slot source page
      (countSat (aWINNOW_ERR_STATS d) fWINNOW_ERR_STATS_CODE 1 m))

/-- What a block on a link becomes: its bytes, or none when its header cannot be trusted; how many of them were decoded; and
whether it is poisoned. -/
structure Expanded where
  m : Dev
  data : List Byte
  decoded : Nat
  bad : Bool
  deriving DecidableEq, Repr

/-- Expand a block that arrived on a die by a link from a module (R332). -/
def expandBlock (d link source : Nat) (block : List Byte) (m : Dev) : Expanded :=
  let s := field block 0 1
  let declared := field block 2 2
  let encoded := field block 4 2
  if declared = 0 || declared > 4096 || encoded = 0 || encoded > 4096 || encoded + 8 ≠ block.length then
    ⟨expandCauses d 0 link s source 0 .badCode m, [], 0, true⟩
  else if !slotValid d s m || slotGen d s m ≠ field block 6 2 then
    ⟨tableMismatch d 0 link s source 0 m, List.replicate declared 0, 0, true⟩
  else
    let bits := unpackBits (block.drop 8)
    let r := expandBits (slotCodes d s m) declared (bits.length + 2) bits []
    ⟨expandCauses d 0 link s source 0 r.2 m, slice r.1 0 declared, r.1.length, decide (r.2 ≠ .good)⟩

/-- The order in which stored blocks lie: each starts at a multiple of 16 bytes (R335). -/
def alignUp (n k : Nat) : Nat := (n + k - 1) / k * k

end Sys2Proof.Machine
end

