-- ==== Sys2Proof/Machine/Router.lean ====
section
/-! DEFINITION. The Windrow routers and links (chapter 12): link states and training (R351 to R355), ports (R356, R357),
routing (R358 to R364), credit, sequences and retries (R342 to R346), actions on a link (R373, R513). -/
namespace Sys2Proof.Machine

/-! ### Links and ports -/

def linkOf (l : Nat) (m : Dev) : LinkDyn := Sparse.get LinkDyn.idle m.links l
def setLink (l : Nat) (x : LinkDyn) (m : Dev) : Dev := { m with links := m.links.upd LinkDyn.idle l x }

/-- The die of a link (R19). -/
def linkDie (l : Nat) : Nat :=
  if l < 6 then 0 else if l < 9 then 1 else if l < 12 then 2 else if l < 18 then 3 else if l < 24 then 4
  else if l < 27 then 5 else if l < 30 then 6 else 7

/-- The first link of a die. -/
def firstLink (d : Nat) : Nat := ((List.range 36).find? (fun l => linkDie l = d)).getD 0

/-- WINDROW_LINK_STATUS.STATE (R352): 0 DOWN, 1 TRAINING, 2 IDENT, 3 UP, 4 DEGRADED, 5 QUARANTINED, 6 ISOLATED, 7 DISABLED. -/
def linkState (l : Nat) (m : Dev) : Nat := rdF (aWINDROW_LINK_STATUS l) fWINDROW_LINK_STATUS_STATE m
def setState (l n : Nat) (m : Dev) : Dev := wrF (aWINDROW_LINK_STATUS l) fWINDROW_LINK_STATUS_STATE n m
def lanesUp (l : Nat) (m : Dev) : Nat := rdF (aWINDROW_LINK_STATUS l) fWINDROW_LINK_STATUS_LANES_UP m
def setLanes (l n : Nat) (m : Dev) : Dev := wrF (aWINDROW_LINK_STATUS l) fWINDROW_LINK_STATUS_LANES_UP n m

/-- How many lanes of a mask are set. -/
def laneCount (mask : Nat) : Nat := (setBits 4 mask).length

/-- Does a link carry traffic? -/
def linkUp (l : Nat) (m : Dev) : Bool := linkState l m = 3 || linkState l m = 4

/-- The port of a link; 12 to 15 for none. -/
def linkPort (l : Nat) (m : Dev) : Nat := rdF (aWINDROW_LINK_CTRL l) fWINDROW_LINK_CTRL_PORT m

/-- Is a port VALID? DIR 6 and 7 act as not VALID. -/
def portValid (p : Nat) (m : Dev) : Bool :=
  p < 12 && isSet (aWINDROW_PORT p) fWINDROW_PORT_VALID m && rdF (aWINDROW_PORT p) fWINDROW_PORT_DIR m < 6

def portDir (p : Nat) (m : Dev) : Nat := rdF (aWINDROW_PORT p) fWINDROW_PORT_DIR m

/-- The axis of a direction: 0 X, 1 Y, 2 Z; and the dimension of an axis. -/
def dirAxis (dir : Nat) : Nat := dir / 2
def dimOf (axis : Nat) (m : Dev) : Nat :=
  match axis with
  | 0 => rdF aWINDROW_COORD fWINDROW_COORD_DIM_X m
  | 1 => rdF aWINDROW_COORD fWINDROW_COORD_DIM_Y m
  | _ => rdF aWINDROW_COORD fWINDROW_COORD_DIM_Z m

/-- A coordinate's place on an axis, and a coordinate with that place replaced. -/
def coordOn (c axis : Nat) : Nat := bitsAt c (6 - 3 * axis) 3
def coordPut (c axis v : Nat) : Nat := c - coordOn c axis * 2 ^ (6 - 3 * axis) + v * 2 ^ (6 - 3 * axis)

/-- A coordinate stepped once in a direction, modulo the dimension. -/
def coordStep (c dir : Nat) (m : Dev) : Nat :=
  let a := dirAxis dir
  let n := max 1 (dimOf a m)
  let x := coordOn c a
  coordPut c a (if dir % 2 = 0 then (x + 1) % n else (x + n - 1) % n)

/-- The links of a port, ascending (R356), and those that carry traffic and take new packets (R373). -/
def portLinks (p : Nat) (m : Dev) : List Nat := (List.range 36).filter (fun l => linkPort l m = p)
def portOpen (p : Nat) (m : Dev) : List Nat := (portLinks p m).filter (fun l => linkUp l m && !(linkOf l m).taking)

/-- The link of the neighbour that a link must face: the same place in the lowest-numbered port of the opposite direction
(R356). -/
def mateOf (l : Nat) (m : Dev) : Option Nat :=
  let p := linkPort l m
  let i := (portLinks p m).findIdx (fun k => k = l)
  match (List.range 12).find? (fun q => portValid q m && portDir q m = Nat.xor (portDir p m) 1) with
  | some q => (portLinks q m)[i]?
  | none => none

/-- May a link train (R352)? -/
def canTrain (l : Nat) (m : Dev) : Bool :=
  !stopNow m && isSet (aWINDROW_LINK_CTRL l) fWINDROW_LINK_CTRL_ENABLE m && coordValid m && portValid (linkPort l m) m &&
    1 < dimOf (dirAxis (portDir (linkPort l m) m)) m &&
    3 ≤ laneCount (rdF (aWINDROW_LINK_CTRL l) fWINDROW_LINK_CTRL_LANE_EN m)

/-! ### Records on a link (R344, R351) -/

/-- The 256 bytes of a flit (R343): DATA, the fields of the trailer, and the CRC over everything else. KIND: 0 idle, 1 and 2 flits of
a packet, 3 control. -/
def flitBytes (kind vc sub : Nat) (fseq ack : BitVec 12) (data : List Byte) : List Byte :=
  let d := slice data 0 248
  let t := toLe 4 (4 * kind + 16 * sub + 32 * vc + 2 ^ 8 * ack.toNat + 2 ^ 20 * fseq.toNat)
  d ++ toLe 4 (crc32 (d ++ t)) ++ t

/-- The bytes of a sequenced flit. -/
def wireFlit (f : Flit) : List Byte := flitBytes (if f.first then 1 else 2) f.vc.toNat f.sub.toNat f.fseq f.ack f.data

/-- Send a control flit: its CTYPE in DATA byte 0, on VC7; its trailer carries the next sequence to be sent and the ACK (R343,
R344). An idle flit in every slot without another is timing, and leaves nothing to show. -/
def sendRecord (l ctype : Nat) (body : List Byte) (m : Dev) : Dev :=
  emit (.link l (flitBytes 3 7 0 (linkOf l m).sendSeq (linkOf l m).recvSeq (BitVec.ofNat 8 ctype :: body))) m

/-- CREDIT: the counts of flits freed since training, by receive part (R344). The model sends one whenever a packet has left a
part, where the spec asks for one in 64 slots at least (DESIGN CHOICE, log entry 102). -/
def sendCredit (l : Nat) (m : Dev) : Dev :=
  sendRecord l 1 (List.replicate 7 0 ++
    ((List.range 16).map (fun k => toLe 4 (Sparse.get 0 (linkOf l m).freedHere k))).flatten) m

/-- GEN_MIN as it acts (R370: below GEN_LOW acts as GEN_LOW, above GEN_MAX as GEN_MAX). -/
def genMin (m : Dev) : Nat :=
  min (rdF aWINDROW_GEN fWINDROW_GEN_GEN_MAX m)
    (max (rdF aWINDROW_GEN fWINDROW_GEN_GEN_LOW m) (rdF aWINDROW_GEN fWINDROW_GEN_GEN_MIN m))
def genMax (m : Dev) : Nat := rdF aWINDROW_GEN fWINDROW_GEN_GEN_MAX m

/-- The IDENT record that a link sends (R351), with a verdict. -/
def sendIdent (l verdict : Nat) (m : Dev) : Dev :=
  sendRecord l 3 (List.replicate 3 0 ++ toLe 1 (genMin m) ++ toLe 1 (genMax m) ++ toLe 2 (selfCoord m) ++ toLe 1 l ++
    toLe 1 (portDir (linkPort l m) m) ++ toLe 1 verdict ++ [0] ++ toLe 8 (rd aWINDROW_APPLIANCE m).toNat ++
    toLe 8 (rd (aHEADLAND_ID_DIGEST 0) m).toNat ++ toLe 4 0) m

/-- A fault of a link (R372, KINDs 1 to 4), with the peer's coordinate. -/
def linkFault (kind l : Nat) (m : Dev) : Dev :=
  windrowFault kind l (rdF (aWINDROW_LINK_PEER l) fWINDROW_LINK_PEER_PEER_COORD m) 0 m

/-! ### Credit and starting a packet (R345, R346) -/

/-- Flits of a receive part, by VC. -/
def partSize (v : Nat) : Nat := match v with | 0 => 32 | 1 => 192 | 2 => 192 | 3 => 192 | 4 => 128 | 5 => 128 | 6 => 128 | _ => 32

/-- The credit of a part of a link. -/
def creditOf (x : LinkDyn) (v s : Nat) : Nat :=
  partSize v - (Sparse.get 0 x.sent (2 * v + s) + 2 ^ 32 - Sparse.get 0 x.freed (2 * v + s)) % 2 ^ 32

/-- The VC that a packet rides from this module (R364). -/
def rideVc (p : Packet) (m : Dev) : Nat :=
  let h := bitsAt p.vc.toNat 0 3
  if h = 0 then 0 else if jobMember p.job.toNat m then h else 6

/-- SUB of a packet's ROUTE. -/
def subOf (p : Packet) : Nat := bitsAt p.route.toNat 0 1

/-- The slot of the key of an encrypted packet, when it holds one: a transit module has none (R365). -/
def sealSlot (p : Packet) (m : Dev) : Option Nat :=
  let s := jobSlot p.job.toNat (keyGenOf p) m
  if holdsJobKey s m then some s else none

/-- The IV of a packet: SRC, BOOT, COUNTER (R365). -/
def packetIv (p : Packet) : List Byte := toLe 2 p.src.toNat ++ toLe 2 p.boot.toNat ++ toLe 8 p.counter.toNat

/-- An encrypted payload and its tag. Without the key, as in transit, they are bytes that the module cannot know: free bytes (DESIGN
CHOICE, log entry 4). -/
def sealed (p : Packet) (m : Dev) : List Byte :=
  match sealSlot p m with
  | some s => gcmSeal (toLe 32 (Sparse.get KeySlot.empty m.keys s).key.toNat) (packetIv p) (headerOf p 0) p.payload
  | none => freeBytes (p.payload.length + 16) m

/-- How many free bytes a packet takes on a link. -/
def sealFree (p : Packet) (m : Dev) : Nat := if isEncrypted p && (sealSlot p m).isNone then p.payload.length + 16 else 0

/-- The bytes of a packet as its flits carry them. -/
def wireBytes (p : Packet) (m : Dev) : List Byte :=
  let body := if isEncrypted p then sealed p m else p.payload
  headerOf p p.route.toNat ++ body ++ toLe 8 (crc64 (headerOf p 0 ++ body))

/-- The flits of a packet from a sequence on (R343, R348): DATA filled from the first flit, the last padded with zeros. -/
def flitsOf (p : Packet) (vc : Nat) (seq : BitVec 12) (ack : BitVec 12) (m : Dev) : List Flit :=
  let bytes := wireBytes p m
  (List.range (packetFlits p)).map (fun i =>
    { fseq := seq + BitVec.ofNat 12 i, ack := ack, vc := BitVec.ofNat 3 vc, sub := BitVec.ofNat 1 (subOf p),
      first := decide (i = 0), data := slice bytes (248 * i) 248 })

/-- The counts of local time in 4 µs: 1,562 slots of a whole link and 1,171 of a degraded one (R347). -/
def vc0Window : Nat := 625

/-- Does the cap on VC0 leave room for so many flits: 390 in 4 µs, 292 on a degraded link (R347)? Slots pass with local time
(DEDUCED, log entry 103). -/
def vc0Room (l n : Nat) (m : Dev) : Bool :=
  let now := m.time.toNat
  let used := (((linkOf l m).vc0.filter (fun x => now < x.1 + vc0Window)).map Prod.snd).sum
  used + n ≤ (if linkState l m = 4 then 292 else 390)

/-- Is a link, its port or the routing of the module parked, so that no new packet starts (R164)? -/
def linkParked (l : Nat) (m : Dev) : Bool :=
  isParked .windrow m || m.plan.parked.any (fun u => match u with
    | .port x => linkPort l m = x.val
    | .link k => k.val = l
    | _ => false)

/-- May a packet start on a link: room for all of it at the receiver, room in the retry buffer, and for VC0 under its cap? -/
def canStart (l : Nat) (p : Packet) (m : Dev) : Bool :=
  let x := linkOf l m
  !linkParked l m && packetFlits p ≤ creditOf x (rideVc p m) (subOf p) && x.retryBuf.length + packetFlits p ≤ 512 &&
    (rideVc p m ≠ 0 || vc0Room l (packetFlits p) m)

/-- Start a packet on a link: its flits are sequenced and kept for retries, its credit is spent. -/
def startPacket (l : Nat) (p : Packet) (m : Dev) : Dev :=
  let x := linkOf l m
  let v := rideVc p m
  let k := 2 * v + subOf p
  let fs := flitsOf p v x.sendSeq x.recvSeq m
  emit (.packet (linkDie l) (some l) p) (useFree (sealFree p m) (setLink l
    { x with
      sendSeq := x.sendSeq + BitVec.ofNat 12 fs.length
      retryBuf := x.retryBuf ++ fs
      vc0 := if v = 0 then x.vc0.filter (fun y => m.time.toNat < y.1 + vc0Window) ++ [(m.time.toNat, fs.length)] else x.vc0
      sent := Sparse.upd 0 x.sent k ((Sparse.get 0 x.sent k + fs.length) % 2 ^ 32) } m))

/-- The first packet that waits for a VC and SUB: those behind it wait too, so that the packets of a flow keep their order
(R357). -/
def headOf (v sb : Nat) (l : Nat) (m : Dev) : Option QueuedPkt :=
  (linkOf l m).queue.find? (fun q => rideVc q.p m = v && subOf q.p = sb)

/-- The first packet of a VC that may start now, of SUB 0 before SUB 1. -/
def readyOn (l v : Nat) (m : Dev) : Option QueuedPkt :=
  ([0, 1].filterMap (fun sb => headOf v sb l m)).find? (fun q => canStart l q.p m)

/-- The weight of a VC on the port of a link, of VC1 for 0; a weight of 0 acts as 1 (R347, R370). -/
def vcWeight (l i : Nat) (m : Dev) : Nat := max 1 (bitsAt (rd (aWINDROW_VC_WEIGHT (linkPort l m)) m).toNat (8 * i) 8)

/-- Deficit round robin over VC1 to VC6, counted in flits (R347): the packet to start next, and the link with its turn moved on. A
VC with nothing that may start keeps no deficit. -/
def nextByWeight : Nat → Nat → Dev → Option (QueuedPkt × Dev)
  | 0, _, _ => none
  | fuel + 1, l, m =>
    let x := linkOf l m
    let i := x.turn
    let pass := fun d => setLink l { x with turn := (i + 1) % 6, deficit := Sparse.upd 0 x.deficit i d } m
    match readyOn l (i + 1) m with
    | none => nextByWeight fuel l (pass 0)
    | some q =>
      let d := Sparse.get 0 x.deficit i
      if packetFlits q.p ≤ d then some (q, setLink l { x with deficit := Sparse.upd 0 x.deficit i (d - packetFlits q.p) } m)
      else nextByWeight fuel l (pass (d + vcWeight l i m))

/-- The packet to start next on a link: of VC0 first, then by weight. A packet that may start has at most 192 flits, so that as many
rounds of the six VCs give it its deficit. -/
def nextPacket (l : Nat) (m : Dev) : Option (QueuedPkt × Dev) :=
  match readyOn l 0 m with
  | some q => some (q, m)
  | none => if (List.range 6).any (fun i => (readyOn l (i + 1) m).isSome) then nextByWeight 1200 l m else none

/-- Start waiting packets while one may start. -/
def drainSteps : Nat → Nat → Dev → Dev
  | 0, _, m => m
  | fuel + 1, l, m =>
    match nextPacket l m with
    | none => m
    | some (q, m1) =>
      drainSteps fuel l (startPacket l q.p (setLink l { linkOf l m1 with queue := (linkOf l m1).queue.erase q } m1))
def drainQueue (l : Nat) (m : Dev) : Dev := drainSteps (linkOf l m).queue.length l m

/-- A packet joins those that wait at a link, and starts at once where it may. -/
def offerPacket (l : Nat) (q : QueuedPkt) (m : Dev) : Dev :=
  drainQueue l (setLink l { linkOf l m with queue := (linkOf l m).queue ++ [q] } m)

/-! ### Routing (R357 to R362) -/

/-- The routing table entry of a destination at a die: shadowed table 16 of the die fabric block (R358). -/
def routeEntry (d c : Nat) (m : Dev) : Nat := leNat (tableBytes (0xA0 + d) 16 (8 + 4 * c) 4 m)

/-- The way round one axis from x to y (R359): true for +. -/
def ringPlus (x y n : Nat) : Bool :=
  let plus := (y + n - x) % n
  let minus := (x + n - y) % n
  if plus = minus then decide (y > x) else decide (plus < minus)

/-- The entry that boot builds for a destination (R359): dimension order X, Y, Z, the shorter way, and as DETOUR the port
of the next axis in the + direction; ports are those of the reset map, port 2a for +, 2a + 1 for −. -/
def builtEntry (c : Nat) (m : Dev) : Nat :=
  let me := selfCoord m
  let inMap := (List.range 3).all (fun a => coordOn c a < dimOf a m)
  if !inMap then 0
  else if c = me then 2 ^ 31 + 2 ^ 30
  else
    let a := ((List.range 3).find? (fun a => coordOn me a ≠ coordOn c a)).getD 0
    let port := 2 * a + (if ringPlus (coordOn me a) (coordOn c a) (dimOf a m) then 0 else 1)
    2 ^ 31 + port * 2 ^ 24 + (2 * ((a + 1) % 3)) * 2 ^ 16

/-- Does a packet that leaves in a direction cross the dateline of its axis (R361)? -/
def crossesDateline (dir : Nat) (m : Dev) : Bool :=
  let a := dirAxis dir
  let x := coordOn (selfCoord m) a
  if dir % 2 = 0 then decide (x + 1 = dimOf a m) else decide (x = 0)

/-- ROUTE after the packet takes a port (R361, R362). -/
def routeAfter (p : Packet) (port : Nat) (detour : Bool) (m : Dev) : BitVec 16 :=
  let r := p.route.toNat
  let dir := portDir port m
  let ax := dirAxis dir
  let sub := if bitsAt r 1 2 ≠ ax then 0 else bitsAt r 0 1
  let sub := if crossesDateline dir m then 1 else sub
  BitVec.ofNat 16 (sub + 2 * ax + (if detour || bitAt r 3 then 8 else 0) + 16 * min 15 (bitsAt r 4 4 + 1))

/-- The link of a port that a packet takes at a die (R357). -/
def chooseLink (d port : Nat) (p : Packet) (m : Dev) : Option Nat :=
  let up := portOpen port m
  let here := up.find? (fun l => linkDie l = d)
  if bitsAt p.vc.toNat 0 3 = 0 && here.isSome then here
  else up[Config.linkHash p.src p.dest p.vc % up.length]?

/-- A packet that no entry or port can carry is discarded and NACKed (R360); an undeliverable NACK is only recorded. -/
def unreachable (d : Nat) (p : Packet) (m : Dev) : Dev :=
  raise cWINDROW_ROUTE_UNREACHABLE
    (if p.typ.toNat = ptNACK then windrowFault 12 0 (destCoordOf p) p.job.toNat m
     else sendNack 4 d p (windrowFault 9 0 (destCoordOf p) p.job.toNat m))

/-- Send a packet out of a port. -/
def leaveBy (d port : Nat) (detour : Bool) (p : Packet) (m : Dev) : Dev :=
  match chooseLink d port p m with
  | some l => offerPacket l ⟨{ p with route := routeAfter p port detour m }, p.route⟩ m
  | none => unreachable d p m

/-- A packet whose entry is LOCAL leaves the router network for DEST's die; the link it came in on is kept (R339, R360). -/
def leaveNetwork (link : Option Nat) (p : Packet) (m : Dev) : Dev :=
  let m1 := match link with
    | some l => { m with net := { m.net with arrivals := m.net.arrivals ++ [(p, l)] } }
    | none => m
  emit (.arrived (destDieOf p) p) m1

/-- PACKET_ROUTE (R349, R358 to R364): a router handles one packet, from a link or from a unit of the module. -/
def packetRoute (d : Nat) (link : Option Nat) (p : Packet) (m : Dev) : Dev :=
  let e := routeEntry d (destCoordOf p) m
  let prim := bitsAt e 24 4
  let det := bitsAt e 16 4
  if !packetFormed p then raise cWINDROW_PKT_MALFORMED (windrowFault 11 0 (srcCoordOf p) p.job.toNat m)
  else if bitAt e 31 && bitAt e 30 then leaveNetwork link p m
  else if !bitAt e 31 || !portValid prim m then unreachable d p m
  else if (portOpen prim m).length ≠ 0 then leaveBy d prim false p m
  else if bitAt p.route.toNat 3 || !portValid det m || (portOpen det m).length = 0 then unreachable d p m
  else leaveBy d det true p m

/-- The link that a packet formed here would take first, for R325. -/
def outgoingLink (d : Nat) (p : Packet) (m : Dev) : Option Nat :=
  let e := routeEntry d (destCoordOf p) m
  let prim := bitsAt e 24 4
  let det := bitsAt e 16 4
  if !bitAt e 31 || bitAt e 30 || !portValid prim m then none
  else if (portOpen prim m).length ≠ 0 then chooseLink d prim p m
  else chooseLink d det p m

/-! ### Going down (R355) -/

/-- Send the packets that had not started another way, with the ROUTE they had before they took this link (R355, R357, R362). -/
def requeue (l : Nat) (qs : List QueuedPkt) (m : Dev) : Dev :=
  forEach qs (fun q => packetRoute (linkDie l) none { q.p with route := q.was }) m

/-- A link goes DOWN or out of service: its retry buffer and partly received packets are discarded, and packets that had
not started go another way. `st` is the state it rests in. -/
def linkFalls (l st : Nat) (m : Dev) : Dev :=
  let q := (linkOf l m).queue
  requeue l q (setLink l LinkDyn.idle (setLanes l 0 (setState l st m)))

/-- The causes of a link that goes DOWN, and PORT/DOWN when its port loses its last link. -/
def downCauses (l : Nat) (m : Dev) : Dev :=
  let p := linkPort l m
  when (portValid p m && (portLinks p m).all (fun k => !linkUp k m)) (raise cWINDROW_PORT_DOWN)
    (raise cWINDROW_LINK_DOWN m)

/-- A link that carried traffic goes DOWN under R355. -/
def linkGoesDown (l : Nat) (m : Dev) : Dev := if linkUp l m then downCauses l (linkFalls l 0 m) else m

/-- LINK_DOWN (R355). -/
def linkDownEvent (l : Nat) (why : LinkLoss) (m : Dev) : Dev :=
  match why with
  | .retryLimit => if linkUp l m then linkGoesDown l (raise cWINDROW_LINK_RETRY_LIMIT (linkFault 3 l m)) else m
  | _ => linkGoesDown l m

/-! ### Training and identity (R351 to R354) -/

/-- TRAINING_START: a link that may train leaves DOWN. -/
def trainingStart (l : Nat) (m : Dev) : Dev := if linkState l m = 0 && canTrain l m then setState l 1 m else m

/-- A link begins afresh at training: no flit outstanding, counts at 0. -/
def freshLink (l : Nat) (m : Dev) : Dev := setLink l { LinkDyn.idle with queue := (linkOf l m).queue } m

/-- TRAINING_DONE (R340, R352): FEC lock needs both ends in one mode, and three lanes. -/
def trainingDone (l : Nat) (lanes : Nat) (peerFec : Bool) (m : Dev) : Dev :=
  let up := Nat.land lanes (rdF (aWINDROW_LINK_CTRL l) fWINDROW_LINK_CTRL_LANE_EN m)
  if linkState l m ≠ 1 then m
  else if !canTrain l m then setState l 0 m
  else if peerFec = isSet (aWINDROW_LINK_CTRL l) fWINDROW_LINK_CTRL_FEC_MODE m && 3 ≤ laneCount up then
    sendIdent l 0 (freshLink l (setLanes l up (setState l 2 m)))
  else raise cWINDROW_LINK_TRAIN_FAIL (linkFault 4 l (setState l 0 m))

/-- The first condition of R353 that a record fails; 0 when it passes. -/
def identFault (l : Nat) (r : IdentRecord) (m : Dev) : Nat :=
  let dir := portDir (linkPort l m) m
  if r.appliance ≠ rd aWINDROW_APPLIANCE m then 1
  else if bitsAt r.coord.toNat 0 9 ≠ coordStep (selfCoord m) dir m then 2
  else if mateOf l m ≠ some r.link.toNat then 3
  else if r.dir.toNat ≠ Nat.xor dir 1 then 4
  else 0

/-- WINDROW_LINK_PEER from a record. -/
def peerWord (r : IdentRecord) : Word :=
  fWINDROW_LINK_PEER_MODULE_ID.of r.identity.toNat ||| fWINDROW_LINK_PEER_PEER_LINK.of r.link.toNat |||
    fWINDROW_LINK_PEER_PEER_GEN_MAX.of r.genMax.toNat ||| fWINDROW_LINK_PEER_PEER_GEN_MIN.of r.genMin.toNat |||
    fWINDROW_LINK_PEER_PEER_COORD.of r.coord.toNat

/-- Both verdicts are in (R352 to R354). -/
def identEnd (l fault : Nat) (r : IdentRecord) (m : Dev) : Dev :=
  if fault ≠ 0 || r.verdict.toNat ≠ 1 then
    raise cWINDROW_LINK_NEIGHBOUR_MISMATCH (linkFault 1 l
      (wrF (aWINDROW_LINK_STATUS l) fWINDROW_LINK_STATUS_QUAR_REASON (if fault ≠ 0 then fault else 4) (setState l 5 m)))
  else if !canTrain l m then linkFalls l 0 m
  else if min (genMax m) r.genMax.toNat < max (genMin m) r.genMin.toNat then
    raise cWINDROW_LINK_GEN_INCOMPATIBLE (linkFault 2 l (setState l 6 m))
  else
    drainQueue l (setState l (if laneCount (lanesUp l m) = 4 then 3 else 4)
      (wrF (aWINDROW_LINK_STATUS l) fWINDROW_LINK_STATUS_GEN (min (genMax m) r.genMax.toNat) m))

/-- IDENT: the peer's record is checked and answered with a verdict; with the peer's verdict the link ends IDENT. -/
def identReceived (l : Nat) (r : IdentRecord) (m : Dev) : Dev :=
  if linkState l m ≠ 2 then m
  else
    let fault := identFault l r m
    let m1 := wr (aWINDROW_LINK_PEER l) (peerWord r) m
    let verdict := if fault = 0 then 1 else 2
    let m2 := setLink l { linkOf l m1 with mine := verdict } m1
    let m3 := when ((linkOf l m).mine = 0) (sendIdent l verdict) m2
    if r.verdict.toNat = 0 then m3 else identEnd l fault r m3

/-! ### Lanes (R342, R513) -/

/-- The LANE record: the lanes that the link runs on from now, and the change step (R344; DEDUCED, log entry 104: one byte each). -/
def sendLane (l lanes step : Nat) (m : Dev) : Dev := sendRecord l 4 (List.replicate 3 0 ++ toLe 1 lanes ++ toLe 1 step ++ toLe 2 0) m

/-- One lane drops out of a link; with fewer than three left it goes DOWN. -/
def dropLane (l lane : Nat) (m : Dev) : Dev :=
  let left := Nat.land (lanesUp l m) (15 - 2 ^ lane)
  if laneCount left < 3 then linkGoesDown l m
  else sendLane l left 0 (setState l 4 (setLanes l left m))

/-- LANE_LOSS (R342). -/
def laneLoss (l lane : Nat) (m : Dev) : Dev :=
  if !linkUp l m || !bitAt (lanesUp l m) lane then m
  else
    let m1 := dropLane l lane m
    when (linkUp l m1) (raise cWINDROW_LINK_LANE_DEGRADED) m1

/-- LANE: the peer names the lanes that the link runs on from now (R342, R513). A change that the peer began is answered with the
same step; a drop raises LANE_DEGRADED at this end too. The record that names the lanes in use is the answer to one of ours. -/
def laneHandshake (l mask step : Nat) (m : Dev) : Dev :=
  let up := Nat.land mask (rdF (aWINDROW_LINK_CTRL l) fWINDROW_LINK_CTRL_LANE_EN m)
  if !linkUp l m || up = lanesUp l m then m
  else if laneCount up < 3 then linkGoesDown l m
  else
    sendLane l up step (when (decide (laneCount up < laneCount (lanesUp l m))) (raise cWINDROW_LINK_LANE_DEGRADED)
      (setState l (if laneCount up = 4 then 3 else 4) (setLanes l up m)))

/-- ACTION 3 (R373, R513): ignored unless STATE is UP; the lane drops and no cause is raised. -/
def laneRecalibrate (l lane : Nat) (m : Dev) : Dev :=
  if linkState l m ≠ 3 then m
  else
    let m1 := dropLane l lane m
    setLink l { linkOf l m1 with recal := some lane } m1

/-- The lane rejoins, or stays out and raises LANE_DEGRADED (R513). -/
def laneRecalEnd (l : Nat) (ok : Bool) (m : Dev) : Dev :=
  match (linkOf l m).recal with
  | none => m
  | some lane =>
    let m1 := setLink l { linkOf l m with recal := none } m
    if !linkUp l m then m1
    else if ok then
      let up := Nat.lor (lanesUp l m1) (2 ^ lane)
      sendLane l up 0
        (setState l (if laneCount up = 4 then 3 else 4) (setLanes l up m1))
    else raise cWINDROW_LINK_LANE_DEGRADED m1

/-! ### Actions of WINDROW_LINK_CTRL (R373) -/

/-- ACTION 1: a link that rests, or is quarantined or isolated, trains; one that carries traffic goes down for it. -/
def linkRetrain (l : Nat) (m : Dev) : Dev :=
  if linkState l m = 7 || !canTrain l m then m
  else setState l 1 (when (linkUp l m) (linkFalls l 0) m)

/-- Is a link that is being taken out done: its retry buffer acknowledged? -/
def takeOutEnd (l : Nat) (m : Dev) : Dev :=
  if (linkOf l m).taking && (linkOf l m).retryBuf.isEmpty then linkFalls l 7 m else m

/-- ACTION 2: no new packet starts; the link is DISABLED once its retry buffer is acknowledged. -/
def linkTakeOut (l : Nat) (m : Dev) : Dev :=
  if linkUp l m then
    let q := (linkOf l m).queue
    takeOutEnd l (requeue l q (setLink l { linkOf l m with taking := true, queue := [] } m))
  else linkFalls l 7 m

/-! ### Flits (R345, R346) -/

/-- ACK passes flits of the retry buffer: those before the sequence expected. -/
def acked (ack : BitVec 12) (buf : List Flit) : List Flit :=
  match buf with
  | [] => []
  | f :: rest =>
    -- a sequence of the buffer lies at most 512 before the acknowledged one
    if 1 ≤ (ack - f.fseq).toNat && (ack - f.fseq).toNat ≤ 512 then acked ack rest else f :: rest

/-- The peer has acknowledged up to a sequence. -/
def takeAck (l : Nat) (ack : BitVec 12) (m : Dev) : Dev :=
  takeOutEnd l (setLink l { linkOf l m with retryBuf := acked ack (linkOf l m).retryBuf } m)

/-- A retry counts; so many in a row that name one sequence take the link down (RETRY_LIMIT 0 acts as 1). -/
def retryCounted (l run : Nat) (m : Dev) : Dev :=
  let m1 := countSat (aWINDROW_LINK_STATS l) fWINDROW_LINK_STATS_RETRIES 1 m
  if max 1 (rdF (aWINDROW_LINK_CTRL l) fWINDROW_LINK_CTRL_RETRY_LIMIT m) ≤ run then linkDownEvent l .retryLimit m1 else m1

/-- A flit that must be discarded: a RETRY goes out after the first of a run, and again when the flit it asked for is bad. -/
def flitDiscard (l : Nat) (f : Flit) (m : Dev) : Dev :=
  let x := linkOf l m
  if x.discarding && f.fseq ≠ x.recvSeq then m
  else retryCounted l (x.askRun + 1) (sendRecord l 2 (List.replicate 3 0 ++ toLe 2 x.recvSeq.toNat)
    (setLink l { x with discarding := true, askRun := x.askRun + 1 } m))

/-- A flit taken in sequence: a packet whose last flit is in leaves the part, and its flits count as freed. -/
def flitTake (l : Nat) (f : Flit) (m : Dev) : Dev :=
  let x := linkOf l m
  let k := 2 * f.vc.toNat + f.sub.toNat
  let got := (if f.first then [] else Sparse.get [] x.assembling k) ++ [f]
  let bytes := (got.map (fun g => slice g.data 0 248)).flatten
  let need := (32 + field bytes 2 2 + (if bitAt (field bytes 1 1) 1 then 16 else 0) + 8 + 247) / 248
  let whole := decide (got.length ≥ need)
  when whole (sendCredit l) (setLink l { x with
    recvSeq := x.recvSeq + 1
    discarding := false
    askRun := 0
    assembling := Sparse.upd [] x.assembling k (if whole then [] else got)
    freedHere := if whole then Sparse.upd 0 x.freedHere k ((Sparse.get 0 x.freedHere k + got.length) % 2 ^ 32)
      else x.freedHere } m)

/-- The codewords of a flit are counted as they came through (R372). -/
def codewordCounted (l : Nat) (c : FlitCheck) (m : Dev) : Dev :=
  match c with
  | .corrected => countSat (aWINDROW_LINK_STATS l) fWINDROW_LINK_STATS_CORRECTED 1 m
  | .uncorrectable => countSat (aWINDROW_LINK_STATS l) fWINDROW_LINK_STATS_UNCORRECTED 1 m
  | _ => m

/-- Does a flit come through whole? -/
def flitPasses (c : FlitCheck) : Bool := c = .good || c = .corrected

/-- SEQUENCED_FLIT (R346). -/
def sequencedFlit (l : Nat) (c : FlitCheck) (f : Flit) (m : Dev) : Dev :=
  if !linkUp l m then m
  else
    let m1 := codewordCounted l c m
    if !flitPasses c || f.fseq ≠ (linkOf l m).recvSeq then flitDiscard l f m1
    else takeAck l f.ack (flitTake l f m1)

/-- RETRY (R346): the sender replays from the sequence named. -/
def retryReceived (l : Nat) (seq : BitVec 12) (m : Dev) : Dev :=
  if !linkUp l m then m
  else
    let m1 := takeAck l seq m
    let m2 := forEach (linkOf l m1).retryBuf (fun f => emit (.flit l (wireFlit f))) m1
    let x := linkOf l m2
    let run := if x.retryRun ≠ 0 && x.retrySeq = seq then x.retryRun + 1 else 1
    retryCounted l run (setLink l { x with retrySeq := seq, retryRun := run } m2)

/-- CREDIT (R344, R345): absolute counts of flits freed, by part. -/
def creditReceived (l : Nat) (freed : List (BitVec 32)) (m : Dev) : Dev :=
  if !linkUp l m then m
  else
    let x := linkOf l m
    let fr := (List.range 16).foldl (fun f k => Sparse.upd 0 f k (freed.getD k 0).toNat) x.freed
    drainQueue l (setLink l { x with freed := fr } m)

end Sys2Proof.Machine
end

