-- ==== Sys2Proof/Machine/RingCore.lean ====
section
/-! DEFINITION. Queue rings (R107, R136, R143): their registers on every rank, the counts HEAD, FETCH and RERUN, what a kill
discards (R128) and what a halt records (R134, R142). -/
namespace Sys2Proof.Machine

/-! ### Numbers of rings and engines -/

/-- Ring numbers: 8 × engine + ring for compute engines, 128 + 16 × die + 4 × engine + ring for fixed engines. -/
def fixedNum : FixedEngine → Nat
  | .coulter => 0
  | .drill => 1
  | .gleaner => 2
  | .mover => 3

def ringNum : RingRef → Nat
  | .ce e r => 8 * e.val + r.val
  | .fixed d k r => 128 + 16 * d.val + 4 * fixedNum k + r.val

/-- Engine numbers: 0 to 15, then 16 + 4 × die + fixed engine. -/
def engineNum : EngineRef → Nat
  | .ce e => e.val
  | .fixed d k => 16 + 4 * d.val + fixedNum k

/-- Is a ring a compute engine's? -/
def ringIsCe (q : Nat) : Bool := q < 128

/-- The engine of a ring, its number within the engine, and how many rings the engine has. -/
def ringEngine (q : Nat) : Nat := if q < 128 then q / 8 else 16 + (q - 128) / 4
def ringIndex (q : Nat) : Nat := if q < 128 then q % 8 else q % 4
def engineRings (e : Nat) : List Nat :=
  if e < 16 then (List.range 8).map (fun r => 8 * e + r) else (List.range 4).map (fun r => 128 + 4 * (e - 16) + r)

/-- The die and the fixed engine of a fixed engine's ring. -/
def fixedDie (q : Nat) : Nat := (q - 128) / 16
def fixedKind (q : Nat) : Nat := (q - 128) / 4 % 4

/-- The tiles whose Chanters hold copies of a ring: every rank of its engine. -/
def ringTiles (q : Nat) (m : Dev) : List Nat := if ringIsCe q then members (ringEngine q) m else []

/-- The register of a ring of a tile, 0 BASE, 1 CTRL, 2 HEAD, 3 PTR. -/
def tileRingReg (t r k : Nat) : Nat := aRING_BASE (dieOf t) (numOf t) r + 8 * k

/-- The register that a ring is read at: the lead's copy, or the fixed engine's own. -/
def ringReg (q k : Nat) (m : Dev) : Option Nat :=
  if ringIsCe q then (leadOf (ringEngine q) m).map (fun t => tileRingReg t (ringIndex q) k)
  else some (aFIX_RING_BASE (fixedDie q) (fixedKind q) (ringIndex q) + 8 * k)

/-- Read a ring register; 0 when the engine has no lead. -/
def ringRd (q k : Nat) (m : Dev) : Word :=
  match ringReg q k m with
  | some off => rd off m
  | none => 0

/-- Write a ring register on every rank. -/
def ringWr (q k : Nat) (v : Word) (m : Dev) : Dev :=
  if ringIsCe q then forEach (ringTiles q m) (fun t => wr (tileRingReg t (ringIndex q) k) v) m
  else wr (aFIX_RING_BASE (fixedDie q) (fixedKind q) (ringIndex q) + 8 * k) v m

/-! ### Fields and counts -/

def ringEnabled (q : Nat) (m : Dev) : Bool := fRING_CTRL_ENABLE.get (ringRd q 1 m) = 1
def ringClass (q : Nat) (m : Dev) : Nat := fRING_CTRL_CLASS.get (ringRd q 1 m)
def ringJob (q : Nat) (m : Dev) : Nat := fRING_CTRL_JOB.get (ringRd q 1 m)
def ringQuantum (q : Nat) (m : Dev) : Nat := fRING_CTRL_QUANTUM.get (ringRd q 1 m)
/-- SIZE_LOG2, where a value outside 6 to 16 acts as 6. -/
def ringSize (q : Nat) (m : Dev) : Nat :=
  let s := fRING_CTRL_SIZE_LOG2.get (ringRd q 1 m)
  if 6 ≤ s && s ≤ 16 then s else 6
def ringHalted (q : Nat) (m : Dev) : Bool := fRING_HEAD_HALTED.get (ringRd q 2 m) = 1
def ringHead (q : Nat) (m : Dev) : Nat := fRING_HEAD_HEAD.get (ringRd q 2 m)
def ringFetch (q : Nat) (m : Dev) : Nat := fRING_PTR_FETCH.get (ringRd q 3 m)
def ringRerun (q : Nat) (m : Dev) : Nat := fRING_PTR_RERUN.get (ringRd q 3 m)
def setFetch (q n : Nat) (m : Dev) : Dev := ringWr q 3 (fRING_PTR_FETCH.put (ringRd q 3 m) n) m
def setRerun (q n : Nat) (m : Dev) : Dev := ringWr q 3 (fRING_PTR_RERUN.put (ringRd q 3 m) n) m
def setHead (q n : Nat) (m : Dev) : Dev := ringWr q 2 (fRING_HEAD_HEAD.put (ringRd q 2 m) n) m

/-- The local address of the entry with count c (R107). -/
def entryAt64 (q c : Nat) (m : Dev) : Nat :=
  fRING_BASE_BASE.get (ringRd q 0 m) * 64 + 64 * (c % 2 ^ ringSize q m)

/-- Who fetches a ring's entries: the lead's Chanter, or the fixed engine. -/
def ringAgent (q : Nat) (m : Dev) : Agent :=
  if ringIsCe q then .tile ((leadOf (ringEngine q) m).getD 0) 9
  else match fixedKind q with
    | 0 => agentCoulter (fixedDie q)
    | 1 => agentDrill (fixedDie q)
    | 2 => agentGleaner (fixedDie q)
    | _ => agentMover (fixedDie q)

/-- The Chanters of an engine's other ranks, which fetch every command too (R105). -/
def otherFetchers (q : Nat) (m : Dev) : List Agent :=
  if ringIsCe q then ((ringTiles q m).drop 1).map (fun t => Agent.tile t 9) else []

/-- The entry at FETCH as every rank's Chanter fetches it: the lead's copy, and the first outcome that is not ok (R105). -/
def fetchEntry (q : Nat) (m : Dev) : ReadRes :=
  let a := entryAt64 q (ringFetch q m) m
  (otherFetchers q m).foldl (fun r ag => if r.st = .ok then let x := readVia ag a 64 r.m; ⟨x.m, x.st, r.data⟩ else r)
    (readVia (ringAgent q m) a 64 m)

/-- What the sequencer of a ring holds. -/
def dynOf (q : Nat) (m : Dev) : RingDyn := Sparse.get RingDyn.idle m.rings q
def setDyn (q : Nat) (x : RingDyn) (m : Dev) : Dev := { m with rings := m.rings.upd RingDyn.idle q x }

/-- What an engine's sequencer holds. -/
def engDyn (e : Nat) (m : Dev) : EngineDyn := Sparse.get EngineDyn.idle m.engines e
def setEngDyn (e : Nat) (x : EngineDyn) (m : Dev) : Dev := { m with engines := m.engines.upd EngineDyn.idle e x }

/-- The entry at FETCH as it lies in memory, zeros where it cannot be read. -/
def peekEntry (q : Nat) (m : Dev) : List Byte :=
  let a := entryAt64 q (ringFetch q m) m
  if canRead (ringAgent q m) a 64 m then ldBytes a 64 m else List.replicate 64 0

/-! ### The tiles a command runs on (R105, R106) -/

/-- The tile of a rank: of an engine's members, or of a fixed engine's die. -/
def rankTile (q r : Nat) (m : Dev) : Option Nat :=
  if ringIsCe q then memberAt (ringEngine q) r m else some (18 * fixedDie q + r)

/-- The ranks that a command runs on, each with its tile: every rank for 0xFF. -/
def commandTiles (q : Nat) (e : List Byte) (m : Dev) : List (Nat × Nat) :=
  if cmdRank e = 0xFF then
    (List.range (memberCount (ringEngine q) m)).filterMap (fun r => (rankTile q r m).map (fun t => (r, t)))
  else ((rankTile q (cmdRank e) m).map (fun t => [(cmdRank e, t)])).getD []

/-- The RANK checks (R105, R106): a fixed-engine command names one rank; in a fixed engine's ring the tile is one of the
die's 18 and not out of service. -/
def rankOk (q : Nat) (e : List Byte) (m : Dev) : Bool :=
  let r := cmdRank e
  if ringIsCe q then
    if r = 0xFF then !isFixedOp (cmdOpcode e) else r < memberCount (ringEngine q) m
  else
    let op := cmdOpcode e
    (isControl op || (isFixedOp op && fixedOf op = fixedKind q)) && r < 18 && roleOf (18 * fixedDie q + r) m ≠ 0

/-- The engine number that status registers name for a command of a ring. -/
def ringCe (q : Nat) : Nat := if ringIsCe q then ringEngine q else 0

/-! ### Kill (R128) -/

/-- A MIGRATE that is killed leaves MAP unchanged: MOVING clears and its frames go back (R314), where faults and migrations that
wait may take them (R313). -/
def undoPages (moving popped : List (Nat × Nat)) (m : Dev) : Dev :=
  let m1 := forEach popped (fun kf => pushFrame kf.1 kf.2) (forEach moving (fun rp => setMapF rp.1 rp.2 mMOVING 0) m)
  if popped.isEmpty then m1 else retryWaiting m1

/-- The accumulators of a tile's two sets are discarded. -/
def clearTileAcc (t : Nat) (m : Dev) : Dev := { m with acc := m.acc.filter (fun e => e.1 / 131072 ≠ t) }

/-- The ring whose open group a request belongs to. A KIND 5 act belongs to a group already committed (R414). -/
def Waiter.group (w : Waiter) : Option Nat :=
  match w with
  | .copy q => some q
  | .row q _ _ => some q
  | .update q => some q
  | .migrate q => some q
  | .act _ _ _ _ | .bulk | .fill _ | .page _ _ _ | .table _ _ _ | .report => none

/-- Does a request belong to the open group of a ring? -/
def waitsFor (q : Nat) (w : Waiter) : Bool := decide (w.group = some q)

/-- Is an NVMe command part of a migration that waits so? -/
def NvmeUse.waits (f : Waiter → Bool) (u : NvmeUse) : Bool :=
  match u with
  | .move w => f w
  | _ => false

/-- Cancel the work that a ring's group handed off: its GATHERs, its fabric requests, the NVMe commands of its migrations, its
SIGNALs, its collectives that have not bound; and what it waits for. -/
def cancelWork (q : Nat) (m : Dev) : Dev :=
  { m with
    gathers := m.gathers.filter (fun g => g.ring ≠ q)
    net := { m.net with
      reqs := m.net.reqs.filter (fun r => !waitsFor q r.waiter)
      later := m.net.later.filter (fun l => !waitsFor q l.waiter) }
    tiers := { m.tiers with
      nvme := m.tiers.nvme.filter (fun c => !c.use.waits (waitsFor q))
      pageWaits := m.tiers.pageWaits.filter (fun x => x.1 ≠ q)
      waitMove := m.tiers.waitMove.filter (fun x => x.q ≠ q) }
    drone := { m.drone with
      signals := m.drone.signals.filter (fun s => s.ring ≠ q)
      colls := m.drone.colls.filter (fun c => c.ring ≠ q || c.lanes.any (fun l => l.bound)) } }

/-- What a kill does beside ending bound collectives: the group's work and its records are discarded and FETCH returns to
RERUN. -/
def killRaw (q : Nat) (m : Dev) : Dev :=
  let ts := ringTiles q m
  let x := dynOf q m
  let m1 := forEach ts clearTileAcc (undoPages x.moving x.popped (cancelWork q m))
  let m2 := setDyn q RingDyn.idle (setFetch q (ringRerun q m1) m1)
  forEach ts (fun t => countSat (onTile aCHANTER_STATS t) fCHANTER_STATS_KILLS 1) m2

/-- A ring that stands at a commit boundary has no group to kill: it only stops waiting (R131, R134). -/
def stopWaiting (q : Nat) (m : Dev) : Dev := setDyn q RingDyn.idle (setFetch q (ringRerun q m) (cancelWork q m))

/-! ### Halt (R134, R142) -/

/-- The dies whose Chanters halt with a ring. -/
def ringDies (q : Nat) (m : Dev) : List Nat :=
  if ringIsCe q then ((ringTiles q m).map dieOf).eraseDups else [fixedDie q]

/-- CHANTER_FAULT of a halt: the entry at FETCH. -/
def faultWord (q reason : Nat) (m : Dev) : Word :=
  let e := peekEntry q m
  fCHANTER_FAULT_RING.of (ringIndex q) ||| fCHANTER_FAULT_REASON.of reason ||| fCHANTER_FAULT_OPCODE.of (cmdOpcode e) |||
    fCHANTER_FAULT_TAG.of (cmdTag e) ||| fCHANTER_FAULT_ENTRY.of (ringFetch q m)

/-- What a halt records: HALTED and REASON, the first halt of each rank's Chanter, the count, the cause. `w` is the
record, taken before the kill. A fixed engine's own ring has no CHANTER_STATS and no CHANTER_FAULT: its halt, kill, overlong
command or hollow group is counted and recorded nowhere (DESIGN CHOICE, log entry 101). -/
def haltMarks (q reason : Nat) (w : Word) (m : Dev) : Dev :=
  let m1 := ringWr q 2 (fRING_HEAD_REASON.put (fRING_HEAD_HALTED.put (ringRd q 2 m) 1) reason) m
  let m2 := forEach (ringTiles q m) (fun t m =>
    countSat (onTile aCHANTER_STATS t) fCHANTER_STATS_HALTS 1 (recordFirst (onTile aCHANTER_FAULT t) w m)) m1
  forEach (ringDies q m) (fun d => raise (cDIE_CHANTER_RING_HALT d)) m2

/-- A halt without the ending of bound collectives: it kills the open group, if there is one (R134). -/
def haltRaw (q reason : Nat) (m : Dev) : Dev :=
  haltMarks q reason (faultWord q reason m) (if (dynOf q m).open_ then killRaw q m else stopWaiting q m)

end Sys2Proof.Machine
end

