-- ==== Sys2Proof/Machine/Drone.lean ====
section
/-! DEFINITION. The Drones (chapter 13) and the host side of Coulter (R248, R251 to R255): groups (R374, R375), phases and
parts (R377, R378), chunks and markers (R382), credits and binding (R384, R385), completion (R387, R388), fingerprints
(R390), aborts (R391, R392), SIGNAL answers (R395). -/
namespace Sys2Proof.Machine

/-! ### Groups (R374, R375) -/

/-- A group entry as it acts. -/
structure Grp where
  members : Nat
  me : Nat
  shape : List Nat
  coords : List Nat
  deriving DecidableEq, Repr

/-- The 160 bytes of a group's committed entry: table 1 of target 0x06. -/
def grpBytes (g : Nat) (m : Dev) : List Byte := tableBytes 0x06 1 (160 * g) 160 m

/-- Does an entry pass R375? -/
def grpOk (b : List Byte) (self : Nat) : Bool :=
  let n := field b 1 1
  let words := (List.range n).map (fun i => field b (32 + 2 * i) 2)
  let coords := words.map (fun w => bitsAt w 0 9)
  bitAt (field b 0 1) 0 && 1 ≤ n && n ≤ 64 && field b 3 1 * field b 4 1 * field b 5 1 = n &&
    [3, 4, 5].all (fun i => 1 ≤ field b i 1 && field b i 1 ≤ 5) && words.all (fun w => bitAt w 15) &&
    coords.eraseDups.length = n && field b 2 1 < n && coords.getD (field b 2 1) 512 = self

/-- A group, when its entry is VALID. -/
def groupOf (g : Nat) (m : Dev) : Option Grp :=
  let b := grpBytes g m
  if grpOk b (selfCoord m) then
    some ⟨field b 1 1, field b 2 1, [field b 3 1, field b 4 1, field b 5 1],
      (List.range (field b 1 1)).map (fun i => bitsAt (field b (32 + 2 * i) 2) 0 9)⟩
  else none

/-- The size of an axis and the stride of member indices along it. -/
def grpAxis (g : Grp) (k : Nat) : Nat := g.shape.getD k 1
def grpStride (g : Grp) (k : Nat) : Nat := match k with | 0 => 1 | 1 => grpAxis g 0 | _ => grpAxis g 0 * grpAxis g 1

/-- The position of a member on an axis (R375). -/
def grpPos (g : Grp) (i k : Nat) : Nat := i / grpStride g k % grpAxis g k

/-- The member at position j of a member's axis-k sub-group. -/
def grpAt (g : Grp) (i k j : Nat) : Nat := i - grpPos g i k * grpStride g k + j * grpStride g k

/-- The member index of a coordinate. -/
def grpIndex (g : Grp) (c : Nat) : Option Nat := (List.range g.members).find? (fun i => g.coords.getD i 512 = c)

/-- The coordinate of a member. -/
def grpCoord (g : Grp) (i : Nat) : Nat := g.coords.getD i 0

/-! ### Phases and ranges (R377, R378) -/

/-- What a phase does. -/
inductive PhaseKind where
  | rs | ag | bc | rd
  deriving DecidableEq, Repr

/-- The phases of an operation, in order, with their axes. -/
def opPhases (op : Nat) : List (PhaseKind × Nat) :=
  match op with
  | 0 => [(.rs, 0), (.rs, 1), (.rs, 2), (.ag, 2), (.ag, 1), (.ag, 0)]
  | 1 => [(.rs, 0), (.rs, 1), (.rs, 2)]
  | 2 => [(.ag, 0), (.ag, 1), (.ag, 2)]
  | 3 => [(.bc, 2), (.bc, 1), (.bc, 0)]
  | 4 => [(.rd, 0), (.rd, 1), (.rd, 2)]
  | _ => []

/-- The axes of the six FIN phases (R388). -/
def finAxis (i : Nat) : Nat := [0, 1, 2, 2, 1, 0].getD i 0

/-- A range of elements: first and number. -/
structure Span where
  lo : Nat
  len : Nat
  deriving DecidableEq, Repr

/-- Part j of a range split into a parts (R378). -/
def partOf (s : Span) (a j : Nat) : Span :=
  ⟨s.lo + j * s.len / a, (j + 1) * s.len / a - j * s.len / a⟩

/-- A member's range after the first n splits of RS0, RS1, RS2. -/
def splitRange (g : Grp) (i n count : Nat) : Span :=
  (List.range n).foldl (fun s k => partOf s (grpAxis g k) (grpPos g i k)) ⟨0, count⟩

/-- A member's current range before phase `step` of an operation. -/
def rangeAt (g : Grp) (op count i step : Nat) : Span :=
  match op with
  | 0 => splitRange g i (if step ≤ 3 then step else 6 - step) count
  | 1 => splitRange g i step count
  | 2 =>
    let block := ((List.range step).map (grpAxis g)).prod
    ⟨i / block * block * count, block * count⟩
  | _ => ⟨0, count⟩

/-- Do a member's positions equal ROOT's on every axis below k? -/
def matchBelow (g : Grp) (i root k : Nat) : Bool := (List.range k).all (fun a => grpPos g i a = grpPos g root a)

/-- The members that a member sends to in a phase, and the range for each. -/
def phaseSends (g : Grp) (d : CollDesc) (i step : Nat) : List (Nat × Span) :=
  match (opPhases d.op)[step]? with
  | none => []
  | some (kind, k) =>
    let r := rangeAt g d.op d.count i step
    let others := ((List.range (grpAxis g k)).filter (fun j => j ≠ grpPos g i k)).map (fun j => (j, grpAt g i k j))
    match kind with
    | .rs => others.map (fun p => (p.2, partOf r (grpAxis g k) p.1))
    | .ag => others.map (fun p => (p.2, r))
    | .rd =>
      if matchBelow g i d.root k && grpPos g i k ≠ grpPos g d.root k then [(grpAt g i k (grpPos g d.root k), r)] else []
    | .bc => if matchBelow g i d.root (k + 1) then others.map (fun p => (p.2, r)) else []

/-- What a sender owes a member in a phase: the range that the sender's own list names for it. -/
def owed (g : Grp) (d : CollDesc) (me sender step : Nat) : Option Span :=
  ((phaseSends g d sender step).find? (fun p => p.1 = me)).map (fun p => p.2)

/-- The members that owe a member something in a phase. -/
def owers (g : Grp) (d : CollDesc) (me step : Nat) : List Nat :=
  (List.range g.members).filter (fun j => (owed g d me j step).isSome)

/-- Bytes of an element on the wire and elements of a chunk (R379). -/
def wireSize (ctype : Nat) : Nat := match ctype with | 0 => 16 | 1 => 4 | _ => 2
def wireElems (ctype : Nat) : Nat := match ctype with | 0 => 255 | 1 => 1020 | _ => 2040

/-- Elements of the lane's result at a member (R377). -/
def resultSpan (g : Grp) (d : CollDesc) (i : Nat) : Span :=
  match d.op with
  | 0 => ⟨0, d.count⟩
  | 1 => splitRange g i 3 d.count
  | 2 => ⟨0, d.count * g.members⟩
  | 3 => ⟨0, d.count⟩
  | 4 => if i = d.root then ⟨0, d.count⟩ else ⟨0, 0⟩
  | _ => ⟨0, 0⟩

/-- Does an operation complete by data (R377)? By a barrier otherwise, for operations 1, 3 and 4. -/
def byData (op : Nat) : Bool := op = 0 || op = 2
def byMarkers (op : Nat) : Bool := 5 ≤ op

/-- Pieces of a span of elements (R387). -/
def piecesIn (ctype len : Nat) : Nat := max 1 ((len + wireElems ctype - 1) / wireElems ctype)

/-- How many pieces a lane's result is cut into (R387). -/
def pieceCount (g : Grp) (d : CollDesc) (i : Nat) : Nat :=
  let ph := opPhases d.op
  let last := ((List.range ph.length).reverse).find? (fun s => 1 < grpAxis g ((ph.getD s (.rs, 0)).2))
  match byData d.op, last with
  | true, some s =>
    let k := (ph.getD s (.rs, 0)).2
    ((List.range (grpAxis g k)).map (fun j => piecesIn d.ctype (rangeAt g d.op d.count (grpAt g i k j) s).len)).sum
  | _, _ => piecesIn d.ctype (resultSpan g d i).len

/-! ### Element arithmetic (R47, R379) -/

/-- One addition in the element form of a collective. BF16 sums are formed in FP32 (`bf16` values are widened before). -/
def wireAdd (ctype a b : Nat) : Nat :=
  match ctype with
  | 0 => leNat (l80Bytes (l80Add (l80Of (toLe 16 a)) (l80Of (toLe 16 b))))
  | _ => (f32Add (BitVec.ofNat 32 a) (BitVec.ofNat 32 b)).toNat

/-- The sum of the values of one element, left to right (R378). -/
def wireSum (ctype : Nat) (vs : List Nat) : Nat :=
  let wide := if ctype = 2 then vs.map (fun v => (toF32 fmtBF16 v).toNat) else vs
  match wide with
  | [] => 0
  | v :: rest =>
    let s := rest.foldl (wireAdd ctype) v
    if ctype = 2 then fromF32 fmtBF16 (BitVec.ofNat 32 s) else s

/-- Does an addition of an L80 sum overflow, whatever flags its operands carry (R44)? -/
def sumOverflows (ctype : Nat) (vs : List Nat) : Bool :=
  match vs.map (fun v => l80Of (toLe 16 v)) with
  | [] => false
  | x :: rest => ctype = 0 && (rest.foldl (fun (p : L80 × Bool) y => (l80Add p.1 y, p.2 || ovf80 p.1.val y.val)) (x, false)).2

/-- A result element in FP32 before OUT_FMT (R380): an L80 word is rounded under R51 with OUT_SHIFT. -/
def resultF32 (d : CollDesc) (v : Nat) : F32 :=
  match d.ctype with
  | 0 => BitVec.ofNat 32 (l80Drain fmtFP32 d.shift (l80Of (toLe 16 v)))
  | 1 => BitVec.ofNat 32 v
  | _ => toF32 fmtBF16 v

/-- A result element in a float output format: one rounding, or the epilogue in FP32 and then the format. -/
def resultElem (d : CollDesc) (f : FloatFmt) (v : Nat) : Nat :=
  if d.epilogue ≠ 0 then fromF32 f (tine (if d.epilogue = 1 then 8 else 9) (resultF32 d v))
  else if d.ctype = 0 then l80Drain f d.shift (l80Of (toLe 16 v))
  else fromF32 f (resultF32 d v)

/-- The blocks of 16 of a list of FP32 values, in runs of 256 (R380). -/
def resultBlocks (gi4 : Bool) (xs : List F32) : List QuantBlock :=
  (List.range (xs.length / 16)).map (fun b => quantBlock gi4 ((xs.drop (16 * b)).take 16))

/-- The bytes of a result in OUT_FMT, with the blocks quantised (R380). -/
def resultBytes (d : CollDesc) (vs : List Nat) : List Byte × List QuantBlock :=
  if d.outFmt = 4 then ((vs.map (toLe 16)).flatten, [])
  else if 5 ≤ d.outFmt then
    let xs := vs.map (fun v => BitVec.ofNat 32 (resultElem d fmtFP32 v))
    let bs := resultBlocks (d.outFmt = 6) xs
    (((List.range ((bs.length + 15) / 16)).map (fun i => sheafBytes ((bs.drop (16 * i)).take 16))).flatten, bs)
  else
    let f := floatOf d.outFmt
    ((vs.map (fun v => toLe (fmtBytes d.outFmt) (resultElem d f v))).flatten, [])

/-! ### Names, ARG and prefix (R382) -/

/-- Fields of a collective's ARG. -/
def argSeq (a : BitVec 64) : Nat := bitsAt a.toNat 32 32
def argGroup (a : BitVec 64) : Nat := bitsAt a.toNat 24 8
def argCtx (a : BitVec 64) : Nat := bitsAt a.toNat 19 5
def argLane (a : BitVec 64) : Nat := bitsAt a.toNat 12 7
def argPhase (a : BitVec 64) : Nat := bitsAt a.toNat 8 4
def argAttempt (a : BitVec 64) : Nat := bitsAt a.toNat 4 4

/-- The ARG of a chunk or marker of a collective. -/
def collArg (c : Coll) (lane phase : Nat) : BitVec 64 :=
  BitVec.ofNat 64 (c.seq * 2 ^ 32 + c.group * 2 ^ 24 + c.ctx * 2 ^ 19 + lane * 2 ^ 12 + phase * 2 ^ 8 + c.attempt * 16)

/-- The 16-byte prefix. -/
def collPrefix (fp off elems mkind : Nat) : List Byte := toLe 8 fp ++ toLe 4 off ++ toLe 2 elems ++ toLe 1 mkind ++ [0]

def preFp (p : Packet) : Nat := field p.payload 0 8
def preOff (p : Packet) : Nat := field p.payload 8 4
def preElems (p : Packet) : Nat := field p.payload 12 2
def preKind (p : Packet) : Nat := field p.payload 14 1

/-- The fingerprint of a collective (R390). -/
def fingerprint (d : CollDesc) (group seq : Nat) : Nat :=
  let body := if d.op = 6 then toLe 1 6 ++ toLe 1 0 ++ toLe 2 d.root ++ toLe 4 d.count
    else toLe 1 d.op ++ toLe 1 d.ctype ++ toLe 2 d.root ++ toLe 4 (if d.op = 5 then d.n else d.count)
  leNat (shake256 8 (body ++ toLe 1 group ++ [0, 0, 0] ++ toLe 4 seq))

/-! ### Attempts (R403) -/

def attemptReg (g : Nat) : Nat := aDRONE_ATTEMPT (g / 16)
def attemptFld (g : Nat) : Fld := ⟨4 * (g % 16), 4⟩
def attemptOf (g : Nat) (m : Dev) : Nat := rdF (attemptReg g) (attemptFld g) m
def setAttempt (g a : Nat) (m : Dev) : Dev := wrF (attemptReg g) (attemptFld g) a m

/-- Is attempt a behind the group's (R392)? -/
def isBehind (cur a : Nat) : Bool := 1 ≤ (cur + 16 - a) % 16 && (cur + 16 - a) % 16 ≤ 7

/-! ### Finding collectives -/

def isBound (c : Coll) : Bool := c.lanes.any (fun l => l.bound)
def sameColl (a b : Coll) : Bool := a.ctx = b.ctx && a.ring = b.ring && a.group = b.group && a.seq = b.seq

/-- The collective bound to a context. -/
def boundAt (ctx : Nat) (m : Dev) : Option Coll := m.drone.colls.find? (fun c => c.ctx = ctx && isBound c)

/-- The collectives of a ring that have bound. -/
def boundOf (q : Nat) (m : Dev) : List Coll := m.drone.colls.filter (fun c => c.ring = q && isBound c)

/-- Replace a collective, if it is still there. -/
def putColl (c : Coll) (m : Dev) : Dev :=
  { m with drone := { m.drone with colls := m.drone.colls.map (fun x => if sameColl x c then c else x) } }

def dropColl (c : Coll) (m : Dev) : Dev :=
  { m with drone := { m.drone with colls := m.drone.colls.filter (fun x => !sameColl x c) } }

def findColl (c : Coll) (m : Dev) : Option Coll := m.drone.colls.find? (sameColl c)

/-- A lane of a collective, and the collective with it replaced. -/
def laneOf (c : Coll) (k : Nat) : Option LaneSt := c.lanes.find? (fun l => l.lane = k)
def putLane (c : Coll) (l : LaneSt) : Coll := { c with lanes := c.lanes.map (fun x => if x.lane = l.lane then l else x) }

/-! ### Faults and sending -/

/-- Record the first Drone fault (R401), with both fingerprints when KIND is 1. -/
def droneFault (kind die : Nat) (ctx group job peer seq fpLocal fpRemote : Nat) (m : Dev) : Dev :=
  if isSet aDRONE_FAULT fDRONE_FAULT_VALID m then m
  else
    wr aDRONE_FAULT_FP (fDRONE_FAULT_FP_LOCAL.of fpLocal ||| fDRONE_FAULT_FP_REMOTE.of fpRemote)
      (recordFirst aDRONE_FAULT (fDRONE_FAULT_KIND.of kind ||| fDRONE_FAULT_DIE.of die ||| fDRONE_FAULT_CONTEXT.of ctx |||
        fDRONE_FAULT_GROUP.of group ||| fDRONE_FAULT_JOB.of job ||| fDRONE_FAULT_PEER.of peer |||
        fDRONE_FAULT_SEQ.of seq) m)

/-- Send one chunk or marker to a coordinate, on VC0 for an express ring. -/
def collSend (c : Coll) (typ die coord lane phase : Nat) (payload : List Byte) (m : Dev) : Dev :=
  sendDraft ⟨typ, if c.desc.express then 0 else 1, die, placeWord coord die, c.job, collArg c lane phase, payload, false, false⟩ m

/-- Return a credit or an ACK for a packet: a marker that repeats its ARG and the fields of its prefix. It is not sent when
R366 forbids it. -/
def answerChunk (mkind : Nat) (p : Packet) (m : Dev) : Dev :=
  if (sendStop p.job.toNat false m).isSome then m
  else
    sendDraft ⟨ptMARKER, bitsAt p.vc.toNat 0 3, destDieOf p, p.src, p.job.toNat, p.arg,
      collPrefix (preFp p) (preOff p) (preElems p) mkind, false, false⟩ m

/-- A chunk that sits in a slot. -/
def isSlotChunk (p : Packet) : Bool := p.typ.toNat = ptCHUNK

/-! ### Abort (R391, R392) -/

/-- Send ABORT to D0 of every other member of a collective's group. -/
def sendAborts (c : Coll) (reason : Nat) (m : Dev) : Dev :=
  match groupOf c.group m with
  | none => m
  | some g =>
    if (sendStop c.job false m).isSome then m
    else
      forEach ((List.range g.members).filter (fun i => i ≠ g.me)) (fun i =>
        sendDraft ⟨ptABORT, 0, 0, placeWord (grpCoord g i) 0, c.job, collArg c 0 0,
          toLe 1 reason ++ List.replicate 15 0, false, false⟩) m

/-- What an abort does to one collective, its ring aside. -/
def abortOne (c : Coll) (m : Dev) : Dev :=
  let mine := fun (h : HeldPkt) => h.p.job.toNat = c.job && argGroup h.p.arg = c.group && argAttempt h.p.arg = c.attempt
  let held := m.drone.held.filter mine
  let early := (c.lanes.map (fun l => l.early)).flatten
  let m1 := dropColl c { m with drone := { m.drone with held := m.drone.held.filter (fun h => !mine h) } }
  let m2 := forEach (((held.map (fun h => h.p)) ++ early).filter isSlotChunk) (answerChunk 2) m1
  let n := (c.lanes.map (fun l => l.counted)).sum
  let m3 := when (n ≠ 0) (addRef c.desc.counter (2 ^ 32 - n % 2 ^ 32)) m2
  let m4 := { m3 with coulter := { m3.coulter with
    rx := m3.coulter.rx.filter (fun r => !(r.job = c.job && r.group = c.group && r.seq = c.seq)) } }
  countSat aDRONE_STATS fDRONE_STATS_ABORTED 1 m4

/-- The key of an abort: job, group, attempt. -/
structure AbortKey where
  job : Nat
  group : Nat
  attempt : Nat
  deriving DecidableEq, Repr

def keyOf (c : Coll) : AbortKey := ⟨c.job, c.group, c.attempt⟩

/-- Abort every open collective of each key; each one's ring halts with reason 9, and that kill aborts the ring's other
bound collectives at every member. -/
def abortKeys : Nat → List AbortKey → Dev → Dev
  | 0, _, m => m
  | _, [], m => m
  | fuel + 1, k :: rest, m =>
    let cs := m.drone.colls.filter (fun c => isBound c && keyOf c = k)
    let m1 := forEach cs abortOne m
    let m2 := setAttempt k.group ((k.attempt + 1) % 16) m1
    let rings := (cs.map (fun c => c.ring)).eraseDups
    let m3 := forEach rings (fun q m => if ringHalted q m then m else haltRaw q 9 m) m2
    let others := (rings.map (fun q => boundOf q m3)).flatten
    abortKeys fuel (rest ++ others.map keyOf) (forEach others (fun c => sendAborts c 6) m3)

/-- The abort of one key. -/
def abortHere (k : AbortKey) (m : Dev) : Dev := abortKeys 64 [k] m

/-- The cause and the record of an abort that this member detects (R391); reasons 6 and 8 have causes of their own. -/
def abortCause (reason die : Nat) (c : Coll) (peer fpRemote : Nat) (m : Dev) : Dev :=
  let note := fun kind => droneFault kind die c.ctx c.group c.job peer c.seq (if kind = 1 then c.fp else 0)
    (if kind = 1 then fpRemote else 0)
  match reason with
  | 1 => raise cDRONE_COLL_MISMATCH (note 1 m)
  | 2 => raise cDRONE_COLL_CONTEXT_CLASH (note 2 m)
  | 3 => raise cDRONE_COLL_WATCHDOG (note 3 m)
  | 4 => raise cDRONE_RESIDUE_ERROR (note 4 m)
  | 5 => raise cDRONE_COLL_NACKED (note 5 m)
  | 7 => raise cDRONE_COLL_NOT_IN_GROUP (note 6 m)
  | _ => m

/-- A member detects an abort reason: cause, record, ABORT to the others, then the abort here. -/
def abortDetected (reason die : Nat) (c : Coll) (peer fpRemote : Nat) (m : Dev) : Dev :=
  abortHere (keyOf c) (sendAborts c reason (abortCause reason die c peer fpRemote m))

/-! ### Halting and killing a ring (R128, R129, R134) -/

/-- A ring halts. A kill that ends a bound collective halts it with reason 9 and aborts the collective at every member
(R129). -/
def haltRing (q reason : Nat) (m : Dev) : Dev :=
  let cs := boundOf q m
  if cs.isEmpty then haltRaw q reason m
  else abortKeys 64 (cs.map keyOf) (forEach cs (fun c => sendAborts c 6) (haltRaw q 9 m))

/-- A kill for a reason other than pre-emption. -/
def killRing (q : Nat) (m : Dev) : Dev := if (boundOf q m).isEmpty then killRaw q m else haltRing q 9 m

/-! ### Credits (R384) -/

/-- Is the credit for (member coordinate, lane, context, axis) spent? -/
def creditSpent (coord ctx lane axis : Nat) (m : Dev) : Bool :=
  m.drone.spent.any (fun s => s.coord = coord && s.axis = axis && argCtx s.arg = ctx && argLane s.arg = lane)

/-- Remove the first entry that a predicate names. -/
def eraseFirst {α : Type} (f : α → Bool) : List α → List α
  | [] => []
  | x :: rest => if f x then rest else x :: eraseFirst f rest

/-- A credit or an ACK comes back. -/
def creditBack (coord : Nat) (arg : BitVec 64) (direct : Bool) (m : Dev) : Dev :=
  { m with drone := { m.drone with
      spent := eraseFirst (fun s => s.coord = coord && s.arg = arg && (if direct then s.axis = 3 else s.axis ≠ 3))
        m.drone.spent } }

/-- Has a lane every answer that its chunks are owed? -/
def laneAnswered (c : Coll) (lane : Nat) (m : Dev) : Bool :=
  m.drone.spent.all (fun s => !(argSeq s.arg = c.seq && argGroup s.arg = c.group && argCtx s.arg = c.ctx &&
    argLane s.arg = lane && argAttempt s.arg = c.attempt))

/-- One thing a lane sends, and the credit it takes. The last piece of a dispatch chunk counts the chunk (R267). -/
def sendOutgoing (c : Coll) (l : LaneSt) (g : Grp) (o : Outgoing) (m : Dev) : Dev :=
  let coord := grpCoord g o.member
  let m1 := collSend c o.typ (dieOf l.tile) coord l.lane o.phase (collPrefix c.fp o.off o.elems o.mkind ++ o.data) m
  if o.owed then
    when (o.typ = ptDISPATCH) (countSat (aCOULTER_STATS (dieOf l.tile)) fCOULTER_STATS_ROUTED 1)
      { m1 with drone := { m1.drone with spent := m1.drone.spent ++ [⟨coord, o.axis, collArg c l.lane o.phase⟩] } }
  else m1

/-- Send what a lane's credits allow: the answer is what stays queued and the module. -/
def flushQueue (c : Coll) (l : LaneSt) (g : Grp) : List Outgoing → Dev → List Outgoing × Dev
  | [], m => ([], m)
  | o :: rest, m =>
    if o.owed && o.axis ≠ 3 && creditSpent (grpCoord g o.member) c.ctx l.lane o.axis m then
      let r := flushQueue c l g rest m
      (o :: r.1, r.2)
    else flushQueue c l g rest (sendOutgoing c l g o m)

/-! ### A lane's phases -/

/-- The value of element i. -/
def valOf (l : LaneSt) (i : Nat) : Nat := Sparse.get 0 l.vals i

/-- The chunks that carry a range to a member in a phase; an empty part goes as one END marker (R378). -/
def chunkOut (d : CollDesc) (l : LaneSt) (axis step member : Nat) (s : Span) : List Outgoing :=
  let e := wireElems d.ctype
  if s.len = 0 then [⟨member, axis, step, s.lo, 0, 1, ptMARKER, false, []⟩]
  else
    (List.range ((s.len + e - 1) / e)).map (fun i =>
      let n := min e (s.len - i * e)
      ⟨member, axis, step, s.lo + i * e, n, 0, ptCHUNK, true,
        ((List.range n).map (fun j => toLe (wireSize d.ctype) (valOf l (s.lo + i * e + j)))).flatten⟩)

/-- Everything a lane sends in a phase. -/
def phaseOut (g : Grp) (d : CollDesc) (l : LaneSt) : List Outgoing :=
  let axis := ((opPhases d.op).getD l.step (.rs, 0)).2
  ((phaseSends g d g.me l.step).map (fun p => chunkOut d l axis l.step p.1 p.2)).flatten

/-- Elements received from a member in this phase. -/
def gotFrom (l : LaneSt) (j : Nat) : Nat := ((l.got.filter (fun x => x.1 = j)).map (fun x => x.2.2.length)).sum

/-- Has everything owed in this phase come in? -/
def phaseFull (g : Grp) (d : CollDesc) (l : LaneSt) : Bool :=
  (owers g d g.me l.step).all (fun j => match owed g d g.me j l.step with
    | some s => if s.len = 0 then l.empties.contains j else gotFrom l j = s.len
    | none => true)

/-- The value that member j sent for an element. -/
def gotVal (l : LaneSt) (j i : Nat) : Nat :=
  match l.got.find? (fun x => x.1 = j && x.2.1 ≤ i && i < x.2.1 + x.2.2.length) with
  | some x => x.2.2.getD (i - x.2.1) 0
  | none => 0

/-- The values of an element at every position of an axis, ascending, each member's own at its own position (R378). -/
def axisVals (g : Grp) (l : LaneSt) (k i : Nat) : List Nat :=
  (List.range (grpAxis g k)).map (fun j => if j = grpPos g g.me k then valOf l i else gotVal l (grpAt g g.me k j) i)

/-- The elements of a span. -/
def spanList (s : Span) : List Nat := (List.range s.len).map (fun i => s.lo + i)

/-- Set element values. -/
def setVals (l : LaneSt) (vs : List (Nat × Nat)) : LaneSt :=
  { l with vals := vs.foldl (fun s v => Sparse.upd 0 s v.1 v.2) l.vals }

/-- The values of a lane when a phase ends, and whether a sum overflowed. -/
def phaseVals (g : Grp) (d : CollDesc) (l : LaneSt) : List (Nat × Nat) × Bool :=
  match (opPhases d.op)[l.step]? with
  | none => ([], false)
  | some (kind, k) =>
    let ow := owers g d g.me l.step
    let sums := fun (s : Span) =>
      let vs := (spanList s).map (fun i => (i, axisVals g l k i))
      (vs.map (fun v => (v.1, wireSum d.ctype v.2)), vs.any (fun v => sumOverflows d.ctype v.2))
    match kind with
    | .rs => sums (partOf (rangeAt g d.op d.count g.me l.step) (grpAxis g k) (grpPos g g.me k))
    | .rd => if ow.isEmpty then ([], false) else sums ⟨0, d.count⟩
    | _ => ((ow.map (fun j => match owed g d g.me j l.step with
        | some s => (spanList s).map (fun i => (i, gotVal l j i))
        | none => [])).flatten, false)

/-- Write a lane's result at RECV_ADDR and count its pieces (R380, R387). -/
def finishLane (c : Coll) (g : Grp) (l : LaneSt) (m : Dev) : LaneSt × Dev × AStat :=
  let s := resultSpan g c.desc g.me
  let r := resultBytes c.desc ((spanList s).map (valOf l))
  let w := writeVia (.tile l.tile 3) (tl l.tile c.desc.recvAddr) r.1 (quantCauses l.tile r.2 m)
  let n := pieceCount g c.desc g.me
  ({ l with counted := l.counted + n }, addRef c.desc.counter n w.m, w.st)

/-- The other members of a FIN phase's axis sub-group (R388). -/
def finPeers (g : Grp) (i : Nat) : List Nat :=
  ((List.range (grpAxis g (finAxis i))).filter (fun j => j ≠ grpPos g g.me (finAxis i))).map
    (fun j => grpAt g g.me (finAxis i) j)

/-- What one turn of a lane comes to. -/
structure LaneTurn where
  l : LaneSt
  m : Dev
  moved : Bool
  st : AStat
  deriving DecidableEq, Repr

/-- The lane has all its data: completion by data, or the FIN phases of a barrier (R388). Steps count on from the number
of phases n: n the data's end, n + 1 + i FIN phase i. -/
def laneEnd (c : Coll) (g : Grp) (l : LaneSt) (n : Nat) (m : Dev) : LaneTurn :=
  let clear := l.queue.isEmpty && laneAnswered c l.lane m
  if byData c.desc.op then
    if !l.begun then
      let r := finishLane c g l m
      ⟨{ r.1 with begun := true }, r.2.1, true, r.2.2⟩
    else ⟨{ l with done := clear }, m, false, .ok⟩
  else if l.step = n then
    if clear then ⟨{ l with step := n + 1, begun := false }, m, true, .ok⟩ else ⟨l, m, false, .ok⟩
  else
    let i := l.step - n - 1
    if i ≥ 6 then
      if !l.begun then
        let r := finishLane c g l m
        ⟨{ r.1 with begun := true, done := true }, r.2.1, true, r.2.2⟩
      else ⟨l, m, false, .ok⟩
    else if !l.begun then
      ⟨{ l with begun := true },
        forEach (finPeers g i) (fun j =>
          sendOutgoing c l g ⟨j, finAxis i, i, 0, 0, 4, ptMARKER, false, []⟩) m, true, .ok⟩
    else if (finPeers g i).all (fun j => l.fins.contains (i, j)) then
      ⟨{ l with step := l.step + 1, begun := false }, m, true, .ok⟩
    else ⟨l, m, false, .ok⟩

/-- The counter of R251 has advanced by MEMBERS × 65,536 when every member's marker and announced chunks are in. -/
def allArrived (g : Grp) (l : LaneSt) : Bool :=
  (List.range g.members).all (fun j => Sparse.get 0 l.marks j ≠ 0 && Sparse.get 0 l.froms j = Sparse.get 0 l.marks j - 1)

/-- Elements of a payload's data. -/
def chunkVals (ctype : Nat) (p : Packet) : List Nat :=
  (List.range (preElems p)).map (fun i => field p.payload (16 + wireSize ctype * i) (wireSize ctype))

/-- Take the chunks and markers that waited for this phase: values in, credits back. -/
def takeEarly (c : Coll) (g : Grp) (l : LaneSt) (m : Dev) : LaneSt × Dev :=
  let now := l.early.filter (fun p => argPhase p.arg = l.step)
  let l1 := { l with
    early := l.early.filter (fun p => argPhase p.arg ≠ l.step)
    got := l.got ++ (now.filter isSlotChunk).map (fun p =>
      ((grpIndex g (srcCoordOf p)).getD 0, preOff p, chunkVals c.desc.ctype p))
    empties := l.empties ++ (now.filter (fun p => !isSlotChunk p)).map (fun p => (grpIndex g (srcCoordOf p)).getD 0) }
  (l1, forEach (now.filter isSlotChunk) (answerChunk 2) m)

/-- One turn of a bound lane: begin its phase, or end it when everything owed is in. -/
def laneTurn (c : Coll) (g : Grp) (l : LaneSt) (m : Dev) : LaneTurn :=
  let n := (opPhases c.desc.op).length
  if byMarkers c.desc.op then
    let f := flushQueue c l g l.queue m
    let l1 := { l with queue := f.1 }
    ⟨{ l1 with done := allArrived g l1 && laneAnswered c l.lane f.2 }, f.2, false, .ok⟩
  else
    let f := flushQueue c l g l.queue m
    let l0 := { l with queue := f.1 }
    if l0.step ≥ n then laneEnd c g l0 n f.2
    else if !l0.begun then
      let l1 := { l0 with begun := true, queue := l0.queue ++ phaseOut g c.desc l0 }
      let e := takeEarly c g l1 f.2
      ⟨e.1, e.2, true, .ok⟩
    else if phaseFull g c.desc l0 then
      let v := phaseVals g c.desc l0
      ⟨{ setVals l0 v.1 with step := l0.step + 1, begun := false, got := [], empties := [] },
        when v.2 (accOverflow l.tile (ringCe c.ring)) f.2, true, .ok⟩
    else ⟨l0, f.2, false, .ok⟩

/-- Turns until the lane waits: at most two for each phase and FIN phase. -/
def laneRun : Nat → Coll → Grp → LaneSt → Dev → LaneTurn
  | 0, _, _, l, m => ⟨l, m, false, .ok⟩
  | fuel + 1, c, g, l, m =>
    let t := laneTurn c g l m
    if t.moved && t.st = .ok then laneRun fuel c g t.l t.m else t

/-- A send that R366 forbids aborts the collective at every member with reason 6; its own cause is the abort's. -/
def collStopped (s : SendStop) (c : Coll) (m : Dev) : Dev :=
  abortHere (keyOf c) (sendAborts c 6 (sendStopped s (selfCoord m) c.job m))

/-- Is a packet a chunk, a dispatch piece or a marker that a lane sends of its own, no answer? -/
def isLaneSend (x : Out) : Bool :=
  match x with
  | .packet _ none p => p.typ.toNat = ptCHUNK || p.typ.toNat = ptDISPATCH ||
      (p.typ.toNat = ptMARKER && (preKind p = 1 || preKind p = 4))
  | _ => false

/-- Let a lane of a collective go on as far as it can. A result that cannot be written kills the command (R121). -/
def advanceLane (c : Coll) (k : Nat) (m : Dev) : Dev :=
  match findColl c m with
  | none => m
  | some c =>
    match laneOf c k, groupOf c.group m with
    | some l, some g =>
      if !l.bound then m
      else
        let t := laneRun 40 c g l m
        let m1 := putColl (putLane c t.l) t.m
        match sendStop c.job c.prot m with
        | some s =>
          if (t.m.out.drop m.out.length).any isLaneSend then collStopped s c m
          else if t.st = .ok then m1 else haltRing c.ring 2 m1
        | none => if t.st = .ok then m1 else haltRing c.ring 2 m1
    | _, _ => m

/-! ### The host Coulter (R248, R251 to R255) -/

/-- The receiving die of the module (R248). -/
def hostDie (m : Dev) : Option Nat := (List.range 8).find? (fun d => isSet (aCOULTER_HOST d) fCOULTER_HOST_ENABLE m)

/-- BAY_ROWS as it acts: the next lower multiple of 16, at most 1,024. -/
def bayRows (d : Nat) (m : Dev) : Nat := min 1024 (rdF (aCOULTER_HOST d) fCOULTER_HOST_BAY_ROWS m / 16 * 16)

/-- WINDOWS as it acts: 1 to 16. -/
def hostWindows (d : Nat) (m : Dev) : Nat := max 1 (min 16 (rdF (aCOULTER_HOST d) fCOULTER_HOST_WINDOWS m))

/-- The place of a bay row (R253). -/
def bayRowAddr (d j rowBytes : Nat) (m : Dev) : Nat :=
  if j < bayRows d m then rdF (aCOULTER_BAY d) fCOULTER_BAY_BASE m * 64 + j * rowBytes
  else rdF (aCOULTER_OVERFLOW d) fCOULTER_OVERFLOW_BASE m * 64 + (j - bayRows d m) * rowBytes

/-- Fields of a route record (R250). -/
def rrExpert (r : List Byte) : Nat := field r 0 2
def rrLayer (r : List Byte) : Nat := field r 2 2
def rrRow (r : List Byte) : Nat := field r 4 2
def rrChoice (r : List Byte) : Nat := field r 6 1
def rrSource (r : List Byte) : Nat := field r 7 1
def rrAdapter (r : List Byte) : Nat := field r 8 2
def rrGen (r : List Byte) : Nat := field r 12 4

/-- The host table half of a generation, and an entry of it (R248). -/
def hostHalf (d gen : Nat) (m : Dev) : Nat := rdF (aCOULTER_HOST d) fCOULTER_HOST_TABLE m * 64 + 524352 * (gen % 2)
def hostEntry (d gen layer expert : Nat) (m : Dev) : Nat := peekN 2 (hostHalf d gen m + 64 + 2 * (1024 * layer + expert)) m

/-- A run of a run list: slot, adapter, and its rows (R255). -/
structure RunOf where
  slot : Nat
  adapter : Nat
  quarter : Nat
  rows : List Nat
  deriving DecidableEq, Repr

/-- A row that a run list takes: its slot, adapter and number. -/
structure RunRow where
  slot : Nat
  adapter : Nat
  row : Nat
  deriving DecidableEq, Repr

/-- The runs of a list of rows: grouped by (slot, adapter) ascending, split at every 256-row boundary (R254). -/
def runsOf (rows : List RunRow) : List RunOf :=
  let keys := ((rows.map (fun r => r.slot * 65536 + r.adapter)).eraseDups).mergeSort (fun a b => a ≤ b)
  ((keys.map (fun k => (List.range 4).map (fun q =>
    RunOf.mk (k / 65536) (k % 65536) q
      (((rows.filter (fun r => r.slot * 65536 + r.adapter = k && r.row / 256 = q)).map (fun r => r.row)).mergeSort
        (fun a b => a ≤ b))))).flatten).filter (fun r => !r.rows.isEmpty)

/-- The bytes of a run list (R255). -/
def runListBytes (runs : List RunOf) : List Byte :=
  let listed := (runs.map (fun r => r.rows.length)).sum
  let entries := runs.foldl (fun (p : List Byte × Nat) r =>
    (p.1 ++ toLe 2 p.2 ++ toLe 2 r.rows.length ++ toLe 2 r.adapter ++ toLe 1 r.slot ++ toLe 1 r.quarter ++
      List.replicate 8 0, p.2 + r.rows.length)) ([], 0)
  toLe 4 runs.length ++ toLe 4 listed ++ List.replicate 8 0 ++ entries.1 ++
    ((runs.map (fun r => (r.rows.map (toLe 2)).flatten)).flatten)

/-- The rows of window w among the records placed. -/
def windowRows (d w : Nat) (records : List (List Byte)) (m : Dev) : List RunRow :=
  ((List.range (min 1024 (records.length - 1024 * w))).map (fun i =>
    let r := records.getD (1024 * w + i) []
    RunRow.mk (hostEntry d (rrGen r) (rrLayer r) (rrExpert r) m % 64) (rrAdapter r) i))

/-- Write the run list of every window into every active tile of the engine that COULTER_HOST names (R252, R254). -/
def writeRunLists (d : Nat) (records : List (List Byte)) (r : Run) : Run :=
  let e := rdF (aCOULTER_HOST d) fCOULTER_HOST_ENGINE r.m
  Run.each (List.range (hostWindows d r.m)) (fun w r =>
    let bytes := runListBytes (runsOf (windowRows d w records r.m))
    Run.each (members e r.m) (fun t r =>
      r.write (agentCoulter d) (tl t (rdF (aCOULTER_RUNS d) fCOULTER_RUNS_OFFSET r.m + 20480 * w)) bytes) r) r

/-- The reception of a ROUTE's rows, if it has begun. -/
def rxOf (c : Coll) (m : Dev) : RouteRx :=
  (m.coulter.rx.find? (fun r => r.job = c.job && r.group = c.group && r.seq = c.seq)).getD
    ⟨c.job, c.group, c.seq, c.attempt, [], [], 0⟩

def putRx (r : RouteRx) (m : Dev) : Dev :=
  { m with coulter := { m.coulter with
      rx := (m.coulter.rx.filter (fun x => !(x.job = r.job && x.group = r.group && x.seq = r.seq))) ++ [r] } }

/-- A host fault (R248, R254, R268): cause, record, abort with reason 8. -/
def hostFault (kind d : Nat) (c : Coll) (rr : List Byte) (source : Nat) (m : Dev) : Dev :=
  let cause := if kind = 1 then cDIE_COULTER_NOT_HOSTED d else if kind = 2 then cDIE_COULTER_MAP_GEN d
    else cDIE_COULTER_OVERFLOW_FULL d
  abortDetected 8 d c source 0 (raise cause (recordFirst (aCOULTER_FAULT d) (fCOULTER_FAULT_KIND.of kind |||
    fCOULTER_FAULT_LAYER.of (rrLayer rr) ||| fCOULTER_FAULT_EXPERT.of (rrExpert rr) |||
    fCOULTER_FAULT_SOURCE.of source) m))

/-- Place one whole dispatch chunk, a route record and its row, at the host (R248, R253). -/
def placeRow (c : Coll) (l : LaneSt) (j : Nat) (chunk : List Byte) (p : Packet) (m : Dev) : Dev :=
  let rr := chunk.take 16
  match hostDie m with
  | none => hostFault 1 (destDieOf p) c rr (srcCoordOf p) m
  | some d =>
    let rx := rxOf c m
    let n := rx.records.length
    if peekN 4 (hostHalf d (rrGen rr) m) m ≠ rrGen rr then hostFault 2 d c rr (srcCoordOf p) m
    else if !bitAt (hostEntry d (rrGen rr) (rrLayer rr) (rrExpert rr) m) 15 then hostFault 1 d c rr (srcCoordOf p) m
    else if 1024 * hostWindows d m ≤ n then hostFault 3 d c rr (srcCoordOf p) m
    else
      let w := writeVia (agentCoulter d) (bayRowAddr d n c.desc.n m) (chunk.drop 16) m
      let spill := decide (bayRows d m ≤ n)
      let m1 := when (spill && rx.spilled = 0) (raise (cDIE_COULTER_OVERFLOW d)) w.m
      let m2 := when spill (countSat (aCOULTER_STATS d) fCOULTER_STATS_SPILLED 1) m1
      let m3 := putRx { rx with
        records := rx.records ++ [rr], parts := Sparse.upd [] rx.parts j [],
        spilled := rx.spilled + (if spill then 1 else 0) } m2
      let l1 := { l with counted := l.counted + 1, froms := Sparse.upd 0 l.froms j (Sparse.get 0 l.froms j + 1) }
      let m4 := addRef c.desc.counter 1 (putColl (putLane c l1) (answerChunk 3 p m3))
      if w.st ≠ .ok then haltRing c.ring 2 m4 else m4

/-- Once every source's marker and announced chunks are in, the run lists are written, then the withheld increments are
applied, and the return table is this ROUTE's (R252, R253). -/
def hostComplete (c : Coll) (g : Grp) (l : LaneSt) (m : Dev) : Dev :=
  if !allArrived g l || g.members * 65536 ≤ l.counted then m
  else
    let rx := rxOf c m
    let r := match hostDie m with
      | some d => writeRunLists d rx.records (Run.start m)
      | none => Run.start m
    let rest := g.members * 65536 - l.counted
    let m1 := putColl (putLane c { l with counted := l.counted + rest }) (addRef c.desc.counter rest
      { r.m with coulter := { r.m.coulter with returns := rx.records, rowBytes := c.desc.n } })
    if r.st ≠ .ok then haltRing c.ring 2 m1 else m1

/-! ### Arrival of chunks and markers (R384, R385, R388, R391) -/

/-- Hold a packet for a later binding; a chunk of a phase sits in its slot meanwhile. -/
def holdPacket (p : Packet) (m : Dev) : Dev :=
  { m with drone := { m.drone with held := m.drone.held ++ [⟨argCtx p.arg, p⟩] } }

/-- The receive slot of a chunk on axis k from position j (R383). -/
def slotAddr (ctx k j : Nat) (m : Dev) : Nat :=
  rdF aDRONE_AREA fDRONE_AREA_SLOTS m + 65536 * ctx + 4096 * (5 * k + j)

/-- Discard a chunk or marker: a chunk of a phase gives its credit back. -/
def discardPacket (p : Packet) (m : Dev) : Dev := if isSlotChunk p then answerChunk 2 p m else m

/-- Does a chunk of a phase agree with what its sender owes: within the range, nothing received twice, its length right? -/
def chunkAgrees (c : Coll) (g : Grp) (l : LaneSt) (j : Nat) (p : Packet) : Bool :=
  let step := argPhase p.arg
  let off := preOff p
  let n := preElems p
  let seen := (if step = l.step then l.got.map (fun x => (x.1, x.2.1, x.2.2.length)) else []) ++
    (l.early.filter (fun q => isSlotChunk q && argPhase q.arg = step)).map (fun q =>
      ((grpIndex g (srcCoordOf q)).getD 64, preOff q, preElems q))
  match owed g c.desc g.me j step with
  | none => false
  | some s => l.step ≤ step && s.lo ≤ off && off + n ≤ s.lo + s.len && 0 < n && n ≤ wireElems c.desc.ctype &&
      p.payload.length = 16 + n * wireSize c.desc.ctype &&
      seen.all (fun x => x.1 ≠ j || off + n ≤ x.2.1 || x.2.1 + x.2.2 ≤ off)

/-- Does a phase of an operation add what it receives (R377)? The adder's residue is checked there alone (R396). -/
def phaseAdds (op step : Nat) : Bool :=
  match (opPhases op)[step]? with
  | some (.rs, _) => true
  | some (.rd, _) => true
  | _ => false

/-- A data chunk of a phase: consumed when the lane stands in that phase, else it waits in its slot. A slot that does not take it
fails the command (R95, R121). -/
def phaseChunk (c : Coll) (g : Grp) (l : LaneSt) (j : Nat) (p : Packet) (m : Dev) : Dev :=
  let step := argPhase p.arg
  let k := ((opPhases c.desc.op).getD step (.rs, 0)).2
  let w := writeVia (agentDrone (dieOf l.tile)) (tl l.tile (slotAddr c.ctx k (grpPos g j k) m)) p.payload m
  if w.st ≠ .ok then discardPacket p (haltRing c.ring 2 w.m)
  else if step = l.step && l.begun then
    answerChunk 2 p (putColl (putLane c { l with got := l.got ++ [(j, preOff p, chunkVals c.desc.ctype p)] }) w.m)
  else putColl (putLane c { l with early := l.early ++ [p] }) w.m

/-- A COMBINE chunk lands at its place in the home and is answered with an ACK (R381). -/
def combineChunk (c : Coll) (l : LaneSt) (j : Nat) (p : Packet) (m : Dev) : Dev :=
  let w := writeVia (agentDrone (dieOf l.tile)) (tl l.tile (c.desc.recvAddr + 4 * c.desc.n * preOff p))
    (p.payload.drop 16) m
  let l1 := { l with counted := l.counted + 1, froms := Sparse.upd 0 l.froms j (Sparse.get 0 l.froms j + 1) }
  let m1 := addRef c.desc.counter 1 (putColl (putLane c l1) (answerChunk 3 p w.m))
  if w.st ≠ .ok then haltRing c.ring 2 m1 else m1

/-- One packet of a dispatch chunk: OFFSET is its first byte within the chunk (DEDUCED, log entry 24); the chunk is whole at 16 +
ROW_BYTES bytes. -/
def dispatchPiece (c : Coll) (g : Grp) (l : LaneSt) (j : Nat) (p : Packet) (m : Dev) : Dev :=
  let rx := rxOf c m
  let got := Sparse.get [] rx.parts j ++ p.payload.drop 16
  if got.length < 16 + c.desc.n then putRx { rx with parts := Sparse.upd [] rx.parts j got } m
  else
    let m1 := placeRow c l j (got.take (16 + c.desc.n)) p m
    match findColl c m1 with
    | none => m1
    | some c1 => match laneOf c1 l.lane with
      | some l1 => hostComplete c1 g l1 m1
      | none => m1

/-- An end marker of a direct exchange (R251): it announces c chunks. For COMBINE the increment is made at once; the host
of a ROUTE withholds it (R252). -/
def endMarker (c : Coll) (g : Grp) (l : LaneSt) (j n : Nat) (m : Dev) : Dev :=
  let l1 := { l with marks := Sparse.upd 0 l.marks j (n + 1) }
  if c.desc.op = 6 then hostComplete (putLane c l1) g l1 (putColl (putLane c l1) m)
  else
    let k := 65536 - n % 65536
    addRef c.desc.counter k (putColl (putLane c { l1 with counted := l1.counted + k }) m)

/-- A packet of the bound collective, for a bound lane of it. A chunk that aborts the collective is discarded, so its credit
goes back (R384). -/
def collPacket (c : Coll) (g : Grp) (l : LaneSt) (j : Nat) (residueOk : Bool) (p : Packet) (m : Dev) : Dev :=
  let d := dieOf l.tile
  let bad := fun r => discardPacket p (abortDetected r d c (srcCoordOf p) (preFp p) m)
  let typ := p.typ.toNat
  if preFp p ≠ c.fp then bad 1
  else if isPoison p then discardPacket p (haltRing c.ring 2 m)
  else if typ = ptDISPATCH then
    if c.desc.op ≠ 6 then bad 1 else dispatchPiece c g l j p m
  else if typ = ptCHUNK then
    if c.desc.op = 5 then
      if preElems p = c.desc.n && p.payload.length = 16 + 4 * c.desc.n then combineChunk c l j p m else bad 1
    else if !chunkAgrees c g l j p then bad 1
    else if !residueOk && phaseAdds c.desc.op (argPhase p.arg) then
      discardPacket p (abortDetected 4 d c 0 0 (countSat aDRONE_STATS fDRONE_STATS_RESIDUE 1 m))
    else phaseChunk c g l j p m
  else match preKind p with
    | 1 =>
      if byMarkers c.desc.op then endMarker c g l j (preElems p) m
      else
        match owed g c.desc g.me j (argPhase p.arg) with
        | some s =>
          if s.len ≠ 0 || preElems p ≠ 0 || argPhase p.arg < l.step then bad 1
          else if argPhase p.arg = l.step && l.begun then putColl (putLane c { l with empties := l.empties ++ [j] }) m
          else putColl (putLane c { l with early := l.early ++ [p] }) m
        | none => bad 1
    | 4 =>
      if (finPeers g (argPhase p.arg)).contains j && argPhase p.arg < 6 then
        putColl (putLane c { l with fins := l.fins ++ [(argPhase p.arg, j)] }) m
      else bad 1
    | _ => bad 1

/-- A packet whose name is that of the bound collective. -/
def namedPacket (c : Coll) (residueOk : Bool) (p : Packet) (m : Dev) : Dev :=
  match groupOf c.group m with
  | none => discardPacket p m
  | some g =>
    match laneOf c (argLane p.arg) with
    | none => discardPacket p (abortDetected 1 (destDieOf p) c (srcCoordOf p) (preFp p) m)
    | some l =>
      if !l.bound then holdPacket p m
      else
        match grpIndex g (srcCoordOf p) with
        | none => discardPacket p (abortDetected 7 (dieOf l.tile) c (srcCoordOf p) (preFp p) m)
        | some j => advanceLane c l.lane (collPacket c g l j residueOk p m)

/-- Does a packet carry the name of a collective? -/
def hasName (c : Coll) (p : Packet) : Bool :=
  p.job.toNat = c.job && argGroup p.arg = c.group && argSeq p.arg = c.seq

/-- A chunk, a dispatch piece, or an END or FIN marker arrives (R384, R385). -/
def collArrive (residueOk : Bool) (p : Packet) (m : Dev) : Dev :=
  let cur := attemptOf (argGroup p.arg) m
  if isBehind cur (argAttempt p.arg) then discardPacket p m
  else if argAttempt p.arg ≠ cur then holdPacket p m
  else
    match boundAt (argCtx p.arg) m with
    | some c => if hasName c p then namedPacket c residueOk p m else holdPacket p m
    | none => holdPacket p m

/-- A CREDIT or ACK marker: the answer is taken, and the lane goes on. -/
def answerArrive (p : Packet) (direct : Bool) (m : Dev) : Dev :=
  let m1 := creditBack (srcCoordOf p) p.arg direct m
  match boundAt (argCtx p.arg) m1 with
  | some c => if hasName c p then advanceLane c (argLane p.arg) m1 else m1
  | none => m1

/-! ### SIGNAL answers (R395) -/

/-- STAG and DEST of a SIGNAL's ARG. -/
def sigTag (a : BitVec 64) : Nat := bitsAt a.toNat 0 18
def sigDest (a : BitVec 64) : Nat := bitsAt a.toNat 18 46

/-- The SIGNAL of a die that a SACK or NACK names: an entry that still waits for this member and tag. -/
def sigMatch (coord die : Nat) (arg : BitVec 64) (s : SignalSt) : Bool :=
  s.die = die && s.dest = sigDest arg && s.left.contains (coord, sigTag arg)

/-- A member has answered: one wait fewer; a SIGNAL that every member answered waits no more. -/
def sackArrive (p : Packet) (m : Dev) : Dev :=
  let upd := fun s : SignalSt =>
    if sigMatch (srcCoordOf p) (destDieOf p) p.arg s then { s with left := s.left.erase (srcCoordOf p, sigTag p.arg) } else s
  { m with drone := { m.drone with signals := (m.drone.signals.map upd).filter (fun s => !s.left.isEmpty) } }

/-- A SIGNAL fails, on the NACK of a member or for want of its answer: its ring halts with reason 9. -/
def signalFails (s : SignalSt) (peer : Nat) (m : Dev) : Dev :=
  let m1 := { m with drone := { m.drone with signals := m.drone.signals.filter (fun x => x ≠ s) } }
  raise cDRONE_SIGNAL_UNDELIVERED (droneFault 7 s.die 0 s.group (ringJob s.ring m)
    peer 0 0 0 (haltRing s.ring 9 m1))

/-! ### The commands' effects -/

/-- Does what arrives wait with the Drones: a Seedbed master that their receptions write through is parked, or a tile's Seedbed
is being zeroed, so that they could write nothing before the apply (R164, R295)? -/
def droneHeld (m : Dev) : Bool :=
  m.plan.zeroing || m.plan.parked.any (fun u => match u with
    | .tileMaster _ k => k = 2 || k = 3 || k = 8
    | .sharedMaster _ k => k = 1 || k = 2 || k = 6
    | _ => false)

/-- CHUNK. -/
def chunkRx (residueOk : Bool) (p : Packet) (m : Dev) : Dev :=
  let m1 := takePacket p m
  if droneHeld m then m
  else if !isSet aDRONE_CTRL fDRONE_CTRL_ENABLE m then m1 else collArrive residueOk p m1

/-- MARKER: END, CREDIT, ACK, FIN or SACK. -/
def markerRx (p : Packet) (m : Dev) : Dev :=
  let m1 := takePacket p m
  if droneHeld m then m
  else if !isSet aDRONE_CTRL fDRONE_CTRL_ENABLE m then m1
  else match preKind p with
    | 2 => answerArrive p false m1
    | 3 => answerArrive p true m1
    | 5 => sackArrive p m1
    | _ => collArrive true p m1

/-- Record a tombstone (R392): 64 are held, the oldest is dropped. -/
def addTomb (k : AbortKey) (m : Dev) : Dev :=
  let full := decide (64 ≤ m.drone.tombs.length)
  let ts := (if full then m.drone.tombs.drop 1 else m.drone.tombs) ++ [(k.job, k.group, k.attempt)]
  when full (countSat aDRONE_STATS fDRONE_STATS_TOMB_DROPPED 1) { m with drone := { m.drone with tombs := ts } }

/-- ABORT (R391, R392). -/
def abortRx (p : Packet) (m : Dev) : Dev :=
  let m1 := takePacket p m
  let k : AbortKey := ⟨p.job.toNat, argGroup p.arg, argAttempt p.arg⟩
  if !isSet aDRONE_CTRL fDRONE_CTRL_ENABLE m then m1
  else if isBehind (attemptOf k.group m) k.attempt then m1
  else
    let m2 := raise cDRONE_COLL_ABORTED (droneFault 9 (destDieOf p) (argCtx p.arg) k.group k.job (srcCoordOf p)
      (argSeq p.arg) 0 0 m1)
    if m2.drone.colls.any (fun c => isBound c && keyOf c = k) then abortHere k m2 else addTomb k m2

/-- The work area of a context (R383, R399). -/
def workLog2 (m : Dev) : Nat := max 12 (min 18 (rdF aDRONE_AREA fDRONE_AREA_WORK_LOG2 m))
def workOffset (ctx : Nat) (m : Dev) : Nat := rdF aDRONE_AREA fDRONE_AREA_WORK m + ctx * 2 ^ workLog2 m

/-- The elements that a lane brings: the drained product in the work area (R380); a BROADCAST reads it at ROOT only, an
ALL_GATHER places it at its member index. The Drone takes them when the product is handed to it. -/
def laneInput (ctx : Nat) (d : CollDesc) (g : Grp) (t : Nat) (r : Run) : Run × Sparse Nat :=
  if byMarkers d.op || (d.op = 3 && g.me ≠ d.root) then (r, [])
  else
    let sz := wireSize d.ctype
    let x := r.read (agentDrone (dieOf t)) (tl t (workOffset ctx r.m)) (sz * d.count)
    let base := if d.op = 2 then g.me * d.count else 0
    (x.1, (List.range d.count).foldl (fun s i => Sparse.upd 0 s (base + i) (field x.2 (sz * i) sz)) [])

/-- One held packet at binding (R385). -/
def bindHeld (c : Coll) (p : Packet) (m : Dev) : Dev :=
  let cur := attemptOf (argGroup p.arg) m
  if isBehind cur (argAttempt p.arg) then discardPacket p m
  else if argAttempt p.arg ≠ cur || (findColl c m).isNone then holdPacket p m
  else if hasName c p then collArrive true p m
  else
    let other : AbortKey := ⟨p.job.toNat, argGroup p.arg, argAttempt p.arg⟩
    let m1 := abortDetected 2 (destDieOf p) c (srcCoordOf p) 0 m
    let c2 : Coll := { c with job := other.job, group := other.group, attempt := other.attempt, seq := argSeq p.arg }
    discardPacket p (abortHere other (sendAborts c2 2 m1))

/-- A lane binds (R385): name, attempt and fingerprint; a tombstone ends it at once; then what was held. -/
def bindLane (c : Coll) (l : LaneSt) (m : Dev) : Dev :=
  let att := attemptOf c.group m
  let c1 := putLane { c with attempt := att, fp := fingerprint c.desc c.group c.seq } { l with bound := true }
  let m1 := setDyn c.ring { dynOf c.ring m with bound := true } (putColl c1 m)
  let tomb := (c.job, c.group, att)
  if m1.drone.tombs.contains tomb then
    abortHere (keyOf c1) { m1 with drone := { m1.drone with tombs := m1.drone.tombs.erase tomb } }
  else
    let here := fun h : HeldPkt => h.ctx = c.ctx && (argLane h.p.arg = l.lane || (laneOf c (argLane h.p.arg)).isNone)
    let mine := m1.drone.held.filter here
    let m2 := { m1 with drone := { m1.drone with held := m1.drone.held.filter (fun (h : HeldPkt) => !here h) } }
    advanceLane c1 l.lane (forEach (mine.map (fun h => h.p)) (bindHeld c1) m2)

/-- Is a collective's context free for it: no other collective is bound there (R385)? -/
def ctxFree (c : Coll) (m : Dev) : Bool := match boundAt c.ctx m with | some b => sameColl b c | none => true

/-- COLLECTIVE_BIND: the first start of the ring with this lane unbound whose context is free for it, while the Drones are not
parked (R164). A send that R366 forbids aborts the collective with reason 6 and its own cause. -/
def collectiveBind (q lane : Nat) (m : Dev) : Dev :=
  match m.drone.colls.find? (fun c => c.ring = q && ctxFree c m && c.lanes.any (fun l => l.lane = lane && !l.bound)) with
  | none => m
  | some c =>
    match laneOf c lane, groupOf c.group m with
    | some l, some g =>
      if !isSet aDRONE_CTRL fDRONE_CTRL_ENABLE m || isParked .drone m || droneHeld m then m
      else match sendStop c.job c.prot m with
        | some s =>
          if g.members = 1 then bindLane c l m
          else
            let c1 := putLane { c with attempt := attemptOf c.group m } { l with bound := true }
            collStopped s c1 (putColl c1 m)
        | none => bindLane c l m
    | _, _ => m

/-- COLLECTIVE_COMPLETE (R388): every lane is complete, the context is released. -/
def collectiveComplete (q : Nat) (m : Dev) : Dev :=
  match m.drone.colls.find? (fun c => c.ring = q && c.lanes.all (fun l => l.bound && l.done)) with
  | none => m
  | some c =>
    countSat aDRONE_STATS fDRONE_STATS_COMPLETED 1
      (dropColl c { m with coulter := { m.coulter with
        rx := m.coulter.rx.filter (fun r => !(r.job = c.job && r.group = c.group && r.seq = c.seq)) } })

/-- The watchdog of a collective runs out: it aborts with reason 3. A start that waits to bind ends, and is counted, the same way. -/
def collWatchdog (c : Coll) (m : Dev) : Dev :=
  let die := ((c.lanes.head?).map (fun l => dieOf l.tile)).getD 0
  if isBound c then abortDetected 3 die c 0 0 m
  else
    let c1 := { c with attempt := attemptOf c.group m }
    haltRing c.ring 9 (abortOne c1 (abortHere (keyOf c1) (sendAborts c1 3 (abortCause 3 die c1 0 0 m))))

/-- DRONE_WATCHDOG (R394, R395): the ring's collective on the named context aborts with reason 3, or, where no context is named, its
unanswered SIGNAL fails. -/
def droneWatchdog (q : Nat) (ctx : Option Nat) (m : Dev) : Dev :=
  match ctx with
  | some k => match m.drone.colls.find? (fun c => c.ring = q && c.ctx = k) with
    | some c => collWatchdog c m
    | none => m
  | none => match m.drone.signals.find? (fun s => s.ring = q) with
    | some s => signalFails s (((s.left.head?).map (fun x => x.1)).getD 0) m
    | none => m

/-- The die whose Drone performs a SIGNAL at its target: the die that owns DEST. -/
def signalDie (p : Packet) : Nat :=
  match placeOf (sigDest p.arg) with
  | .tile t _ => dieOf t
  | .shared d _ => d
  | .buffer s _ => s / 4
  | .fld f => fieldDie f
  | _ => destDieOf p

/-- SIGNAL_RECEIVE (R395): the payload and the increment, one act; a refused write changes nothing and is NACKed. -/
def signalReceive (p : Packet) (m : Dev) : Dev :=
  let m1 := takePacket p m
  if !isSet aDRONE_CTRL fDRONE_CTRL_ENABLE m then m1
  else
    let dest := sigDest p.arg
    let ref := field p.payload 0 2
    let die := signalDie p
    let data := p.payload.drop 8
    if isPoison p || bitAt ref 15 || !canWrite (agentDrone die) dest data.length m then
      sendNack 6 (destDieOf p) p (if isPoison p || bitAt ref 15 then m1 else (refuseWrite (agentDrone die) dest data.length m1).m)
    else
      let m2 := addRef ref (field p.payload 2 2) (writeVia (agentDrone die) dest data m1).m
      if (sendStop p.job.toNat false m2).isSome then m2
      else sendDraft ⟨ptMARKER, bitsAt p.vc.toNat 0 3, destDieOf p, p.src, p.job.toNat, p.arg, collPrefix 0 0 0 5,
        false, false⟩ m2

/-! ### DRONE_CTX_STATUS (R402) -/

/-- What a context reports: free, bound, or a start that waits to bind. -/
def ctxStatus (ctx : Nat) (m : Dev) : Word :=
  let held := (m.drone.held.filter (fun h => h.ctx = ctx && isSlotChunk h.p)).length
  let base := fDRONE_CTX_STATUS_HELD.of (min 63 held)
  match boundAt ctx m with
  | some c => base ||| fDRONE_CTX_STATUS_STATE.of 1 ||| fDRONE_CTX_STATUS_JOB.of c.job |||
      fDRONE_CTX_STATUS_GROUP.of c.group ||| fDRONE_CTX_STATUS_LANES.of (c.lanes.filter (fun l => l.bound)).length |||
      fDRONE_CTX_STATUS_SEQ.of c.seq
  | none => if m.drone.colls.any (fun c => c.ctx = ctx) then base ||| fDRONE_CTX_STATUS_STATE.of 2 else base

end Sys2Proof.Machine
end

