-- ==== Sys2Proof/Machine/Fabric.lean ====
section
/-! DEFINITION. The memory fabric (chapter 14): requests and their failure (R404 to R408), the read cache (R409, R410),
atomics and the replay table (R411 to R414), chunks of COPY packets (R415, R416), delivery and NACKs (R350), resends
(R334). -/
namespace Sys2Proof.Machine

/-! ### The prefix (R405) -/

def fxAddr (p : Packet) : Nat := field p.payload 0 8
def fxLen (p : Packet) : Nat := field p.payload 8 2
def fxFlags (p : Packet) : Nat := field p.payload 10 1
def fxStatus (p : Packet) : Nat := field p.payload 11 1
def fxExtra (p : Packet) : Nat := field p.payload 12 4
def fxRow (p : Packet) : Bool := bitAt (fxFlags p) 1
def fxLast (p : Packet) : Bool := bitAt (fxFlags p) 2
def fxData (p : Packet) : List Byte := p.payload.drop 16

/-- TAG and REQ_ID of a header's ARG. -/
def argTag (a : BitVec 64) : Nat := bitsAt a.toNat 0 32
def argReq (a : BitVec 64) : Nat := bitsAt a.toNat 32 32
def fabricArg (tag req : Nat) : BitVec 64 := BitVec.ofNat 64 (tag % 2 ^ 32 + 2 ^ 32 * (req % 2 ^ 32))

/-- The 16 bytes of a prefix. -/
def fabricPrefix (addr len flags status extra : Nat) : List Byte :=
  toLe 8 addr ++ toLe 2 len ++ toLe 1 flags ++ toLe 1 status ++ toLe 4 extra

/-- Does a request's prefix break the layout of R405? -/
def prefixBad (p : Packet) : Bool :=
  let t := p.typ.toNat
  let reserved := if fxRow p then 48 else 46
  fxAddr p / 2 ^ reserved ≠ 0 || 8 ≤ fxFlags p || fxStatus p ≠ 0 || fxLen p > 4080 ||
    (if t = ptREAD then (fxData p).length ≠ 0
     else if t = ptATOMIC then (fxData p).length ≠ 16 || fxLen p ≠ 0
     else fxLen p ≠ (fxData p).length)

/-! ### Faults -/

/-- Record the first fabric fault (R424): REQ_ID, or TAG when REQ_ID is 0. -/
def fabricFault (kind die coord status typ : Nat) (arg : BitVec 64) (m : Dev) : Dev :=
  recordFirst aFABRIC_FAULT (fFABRIC_FAULT_KIND.of kind ||| fFABRIC_FAULT_DIE.of die ||| fFABRIC_FAULT_PEER.of coord |||
    fFABRIC_FAULT_STATUS.of status ||| fFABRIC_FAULT_TYPE.of typ |||
    fFABRIC_FAULT_REQ_ID.of (if argReq arg = 0 then argTag arg else argReq arg)) m

/-- An access of a die failed (R406). -/
def accessFailed (die coord status typ : Nat) (arg : BitVec 64) (m : Dev) : Dev :=
  raise (cDIE_FABRIC_ACCESS die) (fabricFault 1 die coord status typ arg m)

/-- STATUS of an outcome (R406). -/
def statusOf (st : AStat) : Nat :=
  match st with
  | .ok => 0
  | .region => 1
  | .unmapped => 4
  | .poison => 2
  | .noFrame => 1
  | .held => 0

/-! ### Global addresses (R292) -/

/-- Where an address names: the issuing module, another module, or nothing. -/
inductive Named where
  | here (a : Nat)
  | there (coord a : Nat)
  | refused
  deriving DecidableEq, Repr

/-- Resolve a 64-bit field that accepts a local or a global address. -/
def resolve (v : Nat) (m : Dev) : Named :=
  let c := bitsAt v 54 9
  let a := bitsAt v 0 46
  if !bitAt v 63 then (if bitsAt v 46 17 = 0 then .here a else .refused)
  else if bitsAt v 46 8 ≠ 0 || 4 ≤ bitsAt c 6 3 || 4 ≤ bitsAt c 3 3 || 5 ≤ bitsAt c 0 3 then .refused
  else if c = selfCoord m then .here a
  else .there c a

/-- The die that serves a local address at its home: the die that owns it; pages, register space and holes are served at
D0 (DEDUCED, log entry 25). -/
def homeDie (a : Nat) : Nat :=
  match placeOf a with
  | .tile t _ => dieOf t
  | .shared d _ => d
  | .buffer s _ => s / 4
  | .fld f => fieldDie f
  | _ => 0

/-! ### The read cache (R409, R410) -/

/-- The key of a line of a die's cache. -/
def cacheKey (die job line : Nat) : Nat := (die * 256 + job) * 2 ^ 64 + line

/-- The global address of a local address at a coordinate. -/
def globalOf (coord a : Nat) : Nat := 2 ^ 63 + coord * 2 ^ 54 + a

/-- Does a VALID range hold all of `n` bytes at an address of a module? -/
def cacheable (coord a n : Nat) (m : Dev) : Bool :=
  n ≠ 0 && (List.range 8).any (fun i =>
    let v := rd (aFABRIC_CACHE_RANGE i) m
    fFABRIC_CACHE_RANGE_VALID.get v = 1 && fFABRIC_CACHE_RANGE_COORD.get v = coord &&
      fFABRIC_CACHE_RANGE_BASE.get v ≤ a / 2 ^ 24 && (a + n - 1) / 2 ^ 24 ≤ fFABRIC_CACHE_RANGE_LIMIT.get v)

/-- The 64-byte lines that a range touches. -/
def linesOf (coord a n : Nat) : List Nat := (unitsOf 64 a n).map (fun u => globalOf coord (64 * u))

/-- Drop the lines that a request issued by a die covers. -/
def dropLines (die coord a n : Nat) (m : Dev) : Dev :=
  if n = 0 then m
  else
    let ls := linesOf coord a n
    { m with net := { m.net with cache := m.net.cache.filter (fun e =>
        !(e.1 / 2 ^ 64 / 256 = die && ls.any (fun l => l = e.1 % 2 ^ 64))) } }

/-- CACHE_INVALIDATE: every line of every die is dropped, and the READ_DATA of READs already issued fills none. -/
def cacheInvalidate (m : Dev) : Dev :=
  { m with net := { m.net with
      cache := []
      noFill := (m.net.reqs.filter (fun r => r.p.typ.toNat = ptREAD)).map (fun r => argTag r.p.arg) } }

/-- The keys of the lines that a die's cache holds. -/
def dieLines (die : Nat) (m : Dev) : List Nat := m.net.cache.keys.filter (fun k => k / 2 ^ 64 / 256 = die)

/-- A die's cache holds 2 MiB, 32,768 lines (R409). The line that makes room in a full one is a free choice (DESIGN CHOICE, log entry
119). -/
def cacheRoom (die : Nat) (m : Dev) : Dev :=
  let ls := dieLines die m
  if ls.length < 32768 then m
  else useFree 1 { m with net := { m.net with cache := m.net.cache.upd [] (ls.getD ((drawFree m).toNat % ls.length) 0) [] } }

/-- Keep one line in a die's cache. -/
def cacheLine (die job line : Nat) (data : List Byte) (m : Dev) : Dev :=
  let key := cacheKey die job line
  let m1 := if (Sparse.get [] m.net.cache key).isEmpty then cacheRoom die m else m
  { m1 with net := { m1.net with cache := m1.net.cache.upd [] key data } }

/-- Fill the lines that a READ_DATA covers whole. -/
def cacheFill (die job coord a : Nat) (data : List Byte) (m : Dev) : Dev :=
  forEach ((unitsOf 64 a data.length).filter (fun u => a ≤ 64 * u && 64 * u + 64 ≤ a + data.length)) (fun u =>
    cacheLine die job (globalOf coord (64 * u)) (slice data (64 * u - a) 64)) m

/-! ### Sending requests -/

/-- Take a new TAG. -/
def newTag (m : Dev) : Nat × Dev := (m.net.nextTag, { m with net := { m.net with nextTag := (m.net.nextTag + 1) % 2 ^ 32 } })

/-- The key of a request sequence, and the sequence last used (R412). -/
def seqKey (die coord : Nat) : Nat := die * 512 + coord
def lastSeq (die coord : Nat) (m : Dev) : Nat := Sparse.get 0 m.net.reqSeq (seqKey die coord)

/-- Take the next request sequence of a die for a home. -/
def nextSeq (die coord : Nat) (m : Dev) : Nat × Dev :=
  let n := (lastSeq die coord m + 1) % 2 ^ 32
  (n, { m with net := { m.net with reqSeq := m.net.reqSeq.upd 0 (seqKey die coord) n } })

/-- How many sequenced requests of a die to a home have no answer yet. -/
def outstandingTo (die coord : Nat) (m : Dev) : Nat :=
  (((m.net.reqs.filter (fun r => r.die = die && destCoordOf r.p = coord && argReq r.p.arg ≠ 0)).map
    (fun r => argReq r.p.arg)).eraseDups).length

/-- The position of a link among its die's links, in ascending order (R19). -/
def linkPlace (d l : Nat) : Nat := l - firstLink d

/-- The table slot by which the link interface of a die compresses: the one named, or for 16 the die's MIGRATE_SLOT (R325). -/
def slotAt (s slot : Nat) (m : Dev) : Nat := if slot = 16 then rdF (aWINNOW_CTRL s) fWINNOW_CTRL_MIGRATE_SLOT m else slot

/-- A payload as its link interface sends it (R325, R326, R331): one block when every condition holds, and the count it makes. The
sending die is that of the link by which the packet leaves the module. -/
def linkPayload (d : Draft) (slot : Nat) (prot : Bool) (m : Dev) : Draft × Dev :=
  match outgoingLink d.die (formed d m) m with
  | none => (d, m)
  | some l =>
    let s := linkDie l
    let k := slotAt s slot m
    let raw := (d, countSat (aWINNOW_STATS s) fWINNOW_STATS_RAW 1 m)
    if k = 0 then (d, m)
    else if prot then raw
    else if !(d.vc = 2 || d.vc = 3) || !bitAt (rdF (aWINNOW_CTRL s) fWINNOW_CTRL_LINK_ENABLE m) (linkPlace s l) ||
      !slotValid s k m then (d, m)
    else
      match zipPayload s k d.payload m with
      | some b => ({ d with payload := b, zip := true }, countSat (aWINNOW_STATS s) fWINNOW_STATS_COMPRESSED 1 m)
      | none => raw

/-- The bytes of its home that a request changes, by its prefix: none for a READ, a row or a counter (R405, R411). -/
def changedBytes (typ : Nat) (pre : List Byte) : Nat :=
  if typ = ptREAD || bitAt (field pre 10 1) 1 then 0
  else if typ = ptATOMIC then (if field pre 12 1 = 7 then 0 else if field pre 13 1 = 0 then 4 else 8)
  else field pre 8 2

/-- Send a formed draft as a request and remember it. The lines it covers leave the die's cache when it writes. -/
def issue (d : Draft) (w : Waiter) (pre : List Byte) (src : Option Nat) (m : Dev) : Dev :=
  let p := formed d m
  let m1 := sendDraft d m
  let m2 := dropLines d.die (destCoordOf p) (field pre 0 8 % 2 ^ 46) (changedBytes d.typ pre) m1
  { m2 with net := { m2.net with reqs := m2.net.reqs ++ [⟨d.die, p, w, 0, pre, src⟩] } }

/-- Forget every request of a ring's open group and every COPY packet of it that waits. -/
def dropRequests (f : Waiter → Bool) (m : Dev) : Dev :=
  { m with net := { m.net with
      reqs := m.net.reqs.filter (fun r => !f r.waiter)
      later := m.net.later.filter (fun l => !f l.waiter) } }

/-! ### Failure of a request (R406, R414) -/

/-- Remove one request. -/
def dropReq (r : Request) (m : Dev) : Dev := { m with net := { m.net with reqs := m.net.reqs.erase r } }

/-- A page whose eviction reads it from its peer (R313): once all of it is there it is written home; when the read fails it stays
in its frame, DIRTY (R307). -/
def evictRead (die page status : Nat) (m : Dev) : Dev :=
  if !m.tiers.evicting.contains (page, die) then m
  else if status = 0 then (if (lentBytes die page m).isSome then evictWrite die page m else m)
  else dropLent page (setMapF 1 page mMOVING 0 { m with tiers := { m.tiers with
    evicting := m.tiers.evicting.filter (fun x => x.1 ≠ page) } })

/-- Bytes of a page that a peer lends have been answered. -/
def pageAnswered (die a n status : Nat) (data : List Byte) (m : Dev) : Dev :=
  let m1 := { m with tiers := { m.tiers with
    peerWant := m.tiers.peerWant.filter (fun x => !(x.die = die && x.a = a && x.n = n))
    peerGot := m.tiers.peerGot ++ [⟨die, a, n, data, status⟩] } }
  match placeOf a with
  | .page 1 p _ => evictRead die p status m1
  | _ => m1

/-- What waits for requests fails with one of them: a command does not commit and its ring halts with reason 2; a bulk entry
fails; a page being filled is poisoned; a read of a lent page is answered with its failure. -/
def failWaiter (w : Waiter) (m : Dev) : Dev :=
  match w.group with
  | some q => haltRing q 2 (dropRequests (waitsFor q) m)
  | none =>
    match w with
    | .bulk => dropRequests (fun x => x = .bulk) { m with tiers := { m.tiers with bulkFailed := true } }
    | .fill p => fillDone p false (dropRequests (fun x => x = .fill p) m)
    | .page die a n => pageAnswered die a n 1 [] m
    | _ => m

/-- A request has failed; a KIND 5 act keeps its record and halts its ring with reason 5. -/
def requestFails (r : Request) (m : Dev) : Dev :=
  match r.waiter with
  | .act q _ _ _ =>
    let m1 := dropReq r m
    haltRing q 5 { m1 with net := { m1.net with failed := m1.net.failed ++ [{ r with resends := 0 }] } }
  | w => failWaiter w (dropReq r m)

/-! ### Packets that wait (R407, R412, R416) -/

/-- Is the memory fabric parked, so that no request starts and none is served (R164)? -/
def fabricParked (m : Dev) : Bool := isParked .fabric m

/-- Is an earlier request of the same flow still with the home, which serves a flow in arrival order (R407)? A flow is its SRC, DEST
and header VC (R357). -/
def flowWaits (p : Packet) (m : Dev) : Bool :=
  (m.net.inbox.takeWhile (fun x => x ≠ p)).any (fun x =>
    [ptREAD, ptWRITE, ptATOMIC, ptCOPY].contains x.typ.toNat && x.src = p.src && x.dest = p.dest &&
      bitsAt x.vc.toNat 0 3 = bitsAt p.vc.toNat 0 3)

/-- Does a request stay with the home for now: the fabric is parked, or its flow has an earlier one there? -/
def fabricWaits (p : Packet) (m : Dev) : Bool := fabricParked m || flowWaits p m

/-- A new chunk number. -/
def newChunk (m : Dev) : Nat × Dev :=
  (m.net.nextChunk + 1, { m with net := { m.net with nextChunk := m.net.nextChunk + 1 } })

/-- Add a packet to those that wait to be sent. -/
def sendAfter (l : Later) (m : Dev) : Dev := { m with net := { m.net with later := m.net.later ++ [l] } }

/-- The packets that carry a range to another module: offset, bytes and whether it is the last, at most 4,080 bytes each
(R416). -/
def copyCuts (n : Nat) : List (Nat × Nat × Bool) :=
  if n = 0 then [(0, 0, true)]
  else (List.range ((n + 4079) / 4080)).map (fun i => (4080 * i, min 4080 (n - 4080 * i), decide (n ≤ 4080 * i + 4080)))

/-- The module that lends a frame, and the address of the frame there (R309, R312). -/
def lender (frame : Nat) (m : Dev) : Nat := rdF (aTIER_PEER (bitsAt frame 29 3)) fTIER_PEER_COORD m
def lentAt (frame : Nat) : Nat := fallowBase + bitsAt frame 0 27 * 65536

/-- Put a page's bytes into a frame that a peer lends: COPY packets on VC3 to the peer's Fallow (R309, R315, R404). A class with
COMPRESS_OK names the MIGRATE_SLOT of the sending die (R325). -/
def sendPage (d job : Nat) (w : Waiter) (q range p frame cls : Nat) (data : List Byte) (m : Dev) : Dev :=
  let slot := if isSet (aTIER_CLASS cls) fTIER_CLASS_COMPRESS_OK m then 16 else 0
  let src := (if range = 0 then fallowBase else granaryBase) + 65536 * p
  let c := newChunk m
  forEach (copyCuts 65536) (fun x =>
    sendAfter ⟨ptCOPY, q, d, placeWord (lender frame m) 0, job, 3,
      fabricPrefix (lentAt frame + x.1) x.2.1 (if x.2.2 then 4 else 0) 0 0,
      slice data x.1 x.2.1, src + x.1, false, slot, false, c.1, w⟩) c.2

/-- The module and the address there of bytes of a page that a peer lends. -/
def lentPlace (a : Nat) (m : Dev) : Nat × Nat :=
  match placeOf a with
  | .page range p off =>
    let f := mFRAME.get (mapOf range p m)
    (lender f m, lentAt f + off)
  | _ => (selfCoord m, a)

/-- The bytes that commands have written to lent pages go to their peers: WRITEs on VC4 (R309, R404). -/
def sendPeers (w : Waiter) (q job : Nat) (m : Dev) : Dev :=
  if m.tiers.peerOut.isEmpty && m.tiers.peerGot.isEmpty then m else
  let m1 := forEach m.tiers.peerOut (fun x m =>
    let at_ := lentPlace x.a m
    sendAfter ⟨ptWRITE, q, x.die, placeWord at_.1 0, job, 4, fabricPrefix at_.2 x.n 0 0 0, x.data, x.a, false, 0, false, 0, w⟩ m) m
  let kept := fun x : PeerPiece => m.tiers.evicting.any (fun e => placeOf x.a = .page 1 e.1 (x.a % 65536))
  { m1 with tiers := { m1.tiers with peerOut := [], peerGot := m1.tiers.peerGot.filter kept } }

/-- Does a COPY or WRITE of a die to a home, still without its answer, overlap a range? -/
def overlaps (die coord a n : Nat) (m : Dev) : Bool :=
  m.net.reqs.any (fun r => r.die = die && destCoordOf r.p = coord && (r.p.typ.toNat = ptCOPY || r.p.typ.toNat = ptWRITE) &&
    field r.pre 0 8 < a + n && a < field r.pre 0 8 + field r.pre 8 2)

/-- The REQ_ID + 1 of a chunk whose first packet has gone; 0 before that. -/
def chunkReq (l : Later) (m : Dev) : Nat := Sparse.get 0 m.net.chunkSeq l.chunk

/-- Row requests of a die that have no answer yet (R270). -/
def rowsOut (die : Nat) (m : Dev) : Nat :=
  (m.net.reqs.filter (fun r => r.die = die && (match r.waiter with | .row _ _ _ => true | _ => false))).length

/-- May a packet go now? A packet that begins a chunk needs one of the 1,024 places (R412), a row request one of the 4,096 (R270). -/
def mayGo (l : Later) (m : Dev) : Bool :=
  let coord := bitsAt l.dest.toNat 0 9
  !fabricParked m && (if l.typ = ptREAD then decide (rowsOut l.die m < 4096)
    else !overlaps l.die coord (field l.pre 0 8) l.data.length m &&
      (l.typ = ptWRITE || chunkReq l m ≠ 0 || outstandingTo l.die coord m < 1024))

/-- The REQ_ID of a waiting packet: 0 for a WRITE or a READ; the first of a chunk takes the next, and the others carry it too up to the
LAST. -/
def laterReq (l : Later) (m : Dev) : Nat × Dev :=
  if l.typ = ptWRITE || l.typ = ptREAD then (0, m)
  else
    let s := if chunkReq l m ≠ 0 then (chunkReq l m - 1, m) else nextSeq l.die (bitsAt l.dest.toNat 0 9) m
    let keep := if bitAt (field l.pre 10 1) 2 then 0 else s.1 + 1
    (s.1, { s.2 with net := { s.2.net with chunkSeq := s.2.net.chunkSeq.upd 0 l.chunk keep } })

/-- Send the packet. A send that R366 forbids fails what it is part of. -/
def sendLater (l : Later) (m : Dev) : Dev :=
  match sendStop l.job l.prot m with
  | some s => failWaiter l.waiter (sendStopped s (bitsAt l.dest.toNat 0 9) l.job m)
  | none =>
    let s := laterReq l m
    let t := newTag s.2
    let d : Draft := ⟨l.typ, l.vc, l.die, l.dest, l.job, fabricArg t.1 s.1, l.pre ++ l.data, false, l.poison⟩
    let z := linkPayload d l.slot l.prot t.2
    issue z.1 l.waiter l.pre (if l.typ = ptREAD then none else some l.src) z.2

/-- Must a waiting packet stay behind another that waits: one of its own chunk or copy, or one whose bytes at the home it
overlaps (R407)? -/
def behind (l : Later) (x : Later) : Bool :=
  (x.typ == ptREAD) == (l.typ == ptREAD) && ((x.q = l.q && x.die = l.die) || (x.die = l.die && bitsAt x.dest.toNat 0 9 = bitsAt l.dest.toNat 0 9 &&
    field x.pre 0 8 < field l.pre 0 8 + l.data.length && field l.pre 0 8 < field x.pre 0 8 + x.data.length))

/-- The first waiting packet that may go, with those that wait before it and after it. -/
def nextToGo (m : Dev) : List Later → List Later → Option (Later × List Later)
  | _, [] => none
  | before, l :: rest =>
    if mayGo l m && before.all (fun x => !behind l x) then some (l, before ++ rest) else nextToGo m (before ++ [l]) rest

/-- Send what may go. -/
def pump : Nat → Dev → Dev
  | 0, m => m
  | fuel + 1, m =>
    match nextToGo m [] m.net.later with
    | none => m
    | some (l, rest) => pump fuel (sendLater l { m with net := { m.net with later := rest } })

/-- The bytes that a die's cache holds of a module's memory, when it holds all of them (R409). -/
def cacheHit (die job coord a n : Nat) (m : Dev) : Option (List Byte) :=
  let ls := (linesOf coord a n).map (fun l => Sparse.get [] m.net.cache (cacheKey die job l))
  if !isSet aFABRIC_CACHE_CTRL fFABRIC_CACHE_CTRL_ENABLE m || !cacheable coord a n m || ls.any List.isEmpty then none
  else some (slice ls.flatten (a % 64) n)

/-- A destination's page table as read so far: part 0 is the session's record, part 1 the header of the directory that
holds it, parts 2 + 2 i and 3 + 2 i the table block BLOCK[i] in two READs (R216, R223). -/
def pageTableKey (session member part : Nat) : Nat := (session * 64 + member) * 64 + part
def tablePart (session member part : Nat) (m : Dev) : List Byte :=
  Sparse.get [] m.piper.tables (pageTableKey session member part)

/-- What there is to read once a part is in, with the record's address: the part, the address and the length. -/
def tableNext (session member part at_ : Nat) (m : Dev) : List (Nat × Nat × Nat) :=
  match part with
  | 0 => [(1, at_ - 0x1_0000 - 128 * session, 128)]
  | 1 =>
    let rec_ := tablePart session member 0 m
    let hdr := tablePart session member 1 m
    ((List.range ((field rec_ 8 4 + 1023) / 1024)).map (fun i =>
      let b := field hdr 88 8 + 4096 * field rec_ (64 + 4 * i) 4
      [(2 + 2 * i, b, 4080), (3 + 2 * i, b + 4080, 16)])).flatten
  | _ => []

/-- A READ of the Mover or of Piper (R309, R223), unless the cache of its die answers it (R404, R409): the request goes, or what
waits for it fails under R366. -/
def askRead (w : Waiter) (die coord a n job : Nat) (m : Dev) : Dev :=
  match sendStop job false m with
  | some s => failWaiter w (sendStopped s coord job m)
  | none =>
    let t := newTag m
    let pre := fabricPrefix a n 1 0 0
    issue ⟨ptREAD, 4, die, placeWord coord (homeDie a), job, fabricArg t.1 0, pre, false, false⟩ w pre none t.2

/-- Ask for what a command or an eviction wants of lent pages and has not asked for. -/
def askPiece (job : Nat) (x : PeerPiece) (m : Dev) : Dev :=
  let at_ := lentPlace x.a m
  if m.net.reqs.any (fun r => r.waiter = .page x.die x.a x.n) || fabricParked m then m
  else
    match cacheHit x.die job at_.1 at_.2 x.n m with
    | some data => pageAnswered x.die x.a x.n 0 data m
    | none => askRead (.page x.die x.a x.n) x.die at_.1 at_.2 x.n job m
def askPeers (job : Nat) (m : Dev) : Dev := forEach m.tiers.peerWant (askPiece job) m

/-- Send every packet that may go, and ask for what is wanted of lent pages. -/
def pumpAll (m : Dev) : Dev :=
  let m1 := askPeers 0 (if m.tiers.peerOut.isEmpty then m else sendPeers .report 0 0 m)
  pump (m1.net.later.length + 1) m1

/-- A command of a ring has been performed: what it wrote to lent pages goes to the peers. -/
def sendLent (q : Nat) (m : Dev) : Dev :=
  if m.tiers.peerOut.isEmpty && m.tiers.peerGot.isEmpty then m else pumpAll (sendPeers (.copy q) q (ringJob q m) m)

/-- A command has failed: what it wrote to lent pages is dropped. -/
def dropLentWrites (m : Dev) : Dev := { m with tiers := { m.tiers with peerOut := [] } }

/-- An access was held (R309, R311, R314): of what its attempt came to, the module keeps the faults that it began and the bytes of
lent pages that it asked for. The access is performed again later. -/
def heldBy (job : Nat) (new old : Dev) : Dev :=
  let m1 := forEach (new.tiers.waitFrame.filter (fun w => !old.tiers.waitFrame.contains w)) (fun w => pageFault w.2 w.1) old
  let wants := new.tiers.peerWant.filter (fun x => !m1.tiers.peerWant.contains x)
  askPeers job { m1 with tiers := { m1.tiers with peerWant := m1.tiers.peerWant ++ wants } }

/-- Keep a part of a destination's page table. -/
def keepTable (session member part : Nat) (data : List Byte) (m : Dev) : Dev :=
  { m with piper := { m.piper with tables := m.piper.tables.upd [] (pageTableKey session member part) data } }

/-- Read one part of a destination's page table from the pool member's D0 (R223). A part that the cache holds is answered from it
(R409) and leads to the next parts at once; `n` bounds how many levels deep. -/
def askTable : Nat → Nat → Nat → Nat → Nat → Nat × Nat × Nat → Dev → Dev
  | 0, session, member, coord, job, x, m => askRead (.table session member x.1) 0 coord x.2.1 x.2.2 job m
  | n + 1, session, member, coord, job, x, m =>
    match cacheHit 0 job coord x.2.1 x.2.2 m with
    | none => askRead (.table session member x.1) 0 coord x.2.1 x.2.2 job m
    | some data =>
      let m1 := keepTable session member x.1 data m
      forEach (tableNext session member x.1 x.2.1 m1) (askTable n session member coord job) m1

/-- A part has come in from an address of a module: what it leads to is read next. -/
def tableAnswered (session member part coord a job : Nat) (data : List Byte) (m : Dev) : Dev :=
  let m1 := keepTable session member part data m
  forEach (tableNext session member part a m1) (askTable 3 session member coord job) m1

/-! ### Responses (R406) -/

/-- Answer a request: its TAG and REQ_ID, its JOB (R363), the prefix with the STATUS, and the data. -/
def respond (p : Packet) (typ status : Nat) (data : List Byte) (bad : Bool) (m : Dev) : Dev :=
  match sendStop p.job.toNat false m with
  | some s => sendStopped s (srcCoordOf p) p.job.toNat m
  | none => sendDraft ⟨typ, 5, destDieOf p, p.src, p.job.toNat, p.arg,
      fabricPrefix (fxAddr p) (if typ = ptREAD_DATA then data.length else 0) 0 status 0 ++ data, false, bad⟩ m

/-- A remote read of a protected range is refused as a region refuses it (R317, R95). -/
def protectedRefusal (d a : Nat) (m : Dev) : Dev :=
  match placeOf a with
  | .tile t off => refuseRegion (tileGate (.remote d) t m) off false m
  | .shared e off => refuseRegion (.shared e 6 31) off false m
  | _ => raise (cDIE_SEEDBED_REGION_FAULT d) m

/-- READ: the home serves a load (R405, R406). A refused read carries no data (DEDUCED, log entry 26). A request whose access is
held, or that finds the fabric parked or an earlier request of its flow still there (R407), stays with the home until it is served. -/
def serveRead (p : Packet) (m : Dev) : Dev :=
  let d := destDieOf p
  let a := fxAddr p
  let n := fxLen p
  let m1 := takePacket p m
  if fabricWaits p m then m
  else if prefixBad p then respond p ptREAD_DATA 1 [] false m1
  else if protectedAt a n m then respond p ptREAD_DATA 1 [] false (protectedRefusal d a m1)
  else
    let r := readVia (.remote d) a n m1
    match r.st with
    | .held => heldBy p.job.toNat r.m m
    | .ok => respond p ptREAD_DATA 0 r.data false r.m
    | .poison => respond p ptREAD_DATA 2 r.data true r.m
    | st => respond p ptREAD_DATA (statusOf st) [] false r.m

/-- Mark the bytes of a range as poisoned where they lie: lanes and granules, and a page of Fallow or Granary whole. -/
def poisonAt (a n : Nat) (m : Dev) : Dev :=
  forEach (piecesOf a n) (fun x m =>
    match placeOf x.1 with
    | .page range p off =>
      match pageKey range p (mapOf range p m) with
      | some key => if inField key then poisonRange (key + off) x.2 m else setMapF range p mPOISON 1 m
      | none => setMapF range p mPOISON 1 m
    | _ => poisonRange (plainAddr x.1) x.2 m) m

/-- Write bytes for a remote module, all of them or none, marked as poisoned when the packet is: the status, or 99 when the write
is held. -/
def remoteWrite (d a : Nat) (data : List Byte) (bad : Bool) (m : Dev) : Nat × Dev :=
  if canWrite (.remote d) a data.length m then
    let w := writeVia (.remote d) a data m
    if w.st = .held then (99, w.m)
    else if w.st ≠ .ok then (statusOf w.st, w.m)
    else if bad then (2, poisonAt a data.length w.m) else (0, w.m)
  else
    let r := refuseWrite (.remote d) a data.length m
    (statusOf r.st, r.m)

/-- WRITE: the home serves a store. A poisoned payload is written marked as poisoned and answered with STATUS 2. -/
def serveWrite (p : Packet) (m : Dev) : Dev :=
  let m1 := takePacket p m
  if fabricWaits p m then m
  else if prefixBad p then respond p ptCOMPLETION 1 [] false m1
  else
    let w := remoteWrite (destDieOf p) (fxAddr p) (fxData p) (isPoison p) m1
    if w.1 = 99 then heldBy p.job.toNat w.2 m
    else pumpAll (sendPeers .report 0 p.job.toNat (respond p ptCOMPLETION w.1 [] false w.2))

/-! ### The replay table (R413) -/

/-- The index of a source: 8 × (x + 4 y + 16 z) + die. -/
def sourceIndex (p : Packet) : Nat :=
  let c := srcCoordOf p
  8 * (bitsAt c 6 3 + 4 * bitsAt c 3 3 + 16 * bitsAt c 0 3) + srcDieOf p

/-- The address of the entry of a request. -/
def replayAddr (p : Packet) (m : Dev) : Nat :=
  rdF aFABRIC_REPLAY fFABRIC_REPLAY_BASE m * 65536 + 16 * (4096 * sourceIndex p + argReq p.arg % 4096)

/-- What the table says of a request: applied before, older than the window, or new. -/
inductive Replay where
  | seen (status old : Nat)
  | stale
  | fresh
  deriving DecidableEq, Repr

def replayOf (p : Packet) (m : Dev) : Replay :=
  let e := ldBytes (replayAddr p m) 16 m
  let same := field e 4 2 = p.boot.toNat
  let gap := (field e 0 4 + 2 ^ 32 - argReq p.arg) % 2 ^ 32
  if same && field e 0 4 = argReq p.arg then .seen (field e 6 1) (field e 8 8)
  else if same && 1 ≤ gap && gap ≤ 2 ^ 31 then .stale
  else .fresh

/-- Record the outcome of a request. -/
def replayPut (p : Packet) (status old : Nat) (m : Dev) : Dev :=
  stData (replayAddr p m) (toLe 4 (argReq p.arg) ++ toLe 2 p.boot.toNat ++ toLe 1 status ++ [0] ++ toLe 8 old) m

/-- An answer that is STALE: its count, its record, its cause. -/
def staleAnswer (p : Packet) (m : Dev) : Dev :=
  raise (cDIE_FABRIC_STALE (destDieOf p)) (fabricFault 3 (destDieOf p) (srcCoordOf p) 3 p.typ.toNat p.arg
    (countSat aFABRIC_STATS fFABRIC_STATS_STALE 1 m))

/-! ### Atomics (R411) -/

/-- What an atomic comes to. -/
structure AtomicRes where
  m : Dev
  status : Nat
  old : Nat
  deriving DecidableEq, Repr

/-- The new value of an operation on `w` bits. -/
def atomicOp (op w old operand compare : Nat) : Nat :=
  let x := operand % 2 ^ w
  match op with
  | 0 => (old + x) % 2 ^ w
  | 1 => x
  | 2 => if old = compare % 2 ^ w then x else old
  | 3 => old &&& x
  | 4 => old ||| x
  | 5 => max old x
  | _ => min old x

/-- Apply an atomic to one word as an agent; OP 7 to a counter. Status 99: the access is held. -/
def atomicApply (ag : Agent) (target op size operand compare : Nat) (m : Dev) : AtomicRes :=
  if op = 7 then
    if size ≠ 0 || target / 2 ^ 15 ≠ 0 then ⟨m, 1, 0⟩
    else ⟨addRef target (operand % 2 ^ 32) m, 0, arrival (refDie target) (refCounter target) m⟩
  else
    let n := if size = 1 then 8 else 4
    let inTier := match placeOf target with
      | .tile _ _ => true
      | .shared _ _ => true
      | .buffer _ _ => true
      | .fld _ => true
      | _ => false
    match judge ag target 1 true m with
    | .refuseMap => ⟨refuseMap ag m, 4, 0⟩
    | _ =>
      if !inTier || op > 7 || size > 1 || target % n ≠ 0 then ⟨m, 1, 0⟩
      else
        match judge ag target n true m with
        | .at key g off =>
          if poisoned key n m then ⟨poisonMet true target g (firstBad key n m) off m, 2, 0⟩
          else
            let old := ldN n key m
            ⟨(writeVia ag target (toLe n (atomicOp op (8 * n) old operand compare)) m).m, 0, old⟩
        | .refuseRegion g off => ⟨refuseRegion g off true m, 1, 0⟩
        | .busy => ⟨m, 99, 0⟩
        | _ => ⟨m, 1, 0⟩

/-- OP and SIZE in a request's EXTRA, OPERAND and COMPARE after the prefix. -/
def serveAtomicNew (p : Packet) (m : Dev) : AtomicRes :=
  let x := fxExtra p
  if prefixBad p || bitsAt x 16 16 ≠ 0 then ⟨m, 1, 0⟩
  else atomicApply (.remote (destDieOf p)) (fxAddr p) (bitsAt x 0 8) (bitsAt x 8 8) (field p.payload 16 8)
    (field p.payload 24 8) m

/-- The answer of an atomic: the old value in bytes 16–23. -/
def answerAtomic (p : Packet) (status old : Nat) (m : Dev) : Dev := respond p ptCOMPLETION status (toLe 8 old) false m

/-- ATOMIC: the home applies it exactly once (R413); with the table off it answers STATUS 1 (R423). -/
def serveAtomic (p : Packet) (m : Dev) : Dev :=
  let m1 := takePacket p m
  if fabricWaits p m then m
  else if !isSet aFABRIC_REPLAY fFABRIC_REPLAY_ENABLE m then answerAtomic p 1 0 m1
  else
    match replayOf p m1 with
    | .seen st old => answerAtomic p st old (countSat aFABRIC_STATS fFABRIC_STATS_REPLAYED 1 m1)
    | .stale => answerAtomic p 3 0 (staleAnswer p m1)
    | .fresh =>
      let r := serveAtomicNew p m1
      if r.status = 99 then m else answerAtomic p r.status r.old (replayPut p r.status r.old r.m)

/-! ### Chunks (R416) -/

/-- The key of a chunk being received: source, boot and REQ_ID. -/
def chunkKey (p : Packet) : Nat := (p.src.toNat * 65536 + p.boot.toNat) * 2 ^ 32 + argReq p.arg

def chunkOf (p : Packet) (m : Dev) : ChunkRx := Sparse.get ChunkRx.none m.net.chunks (chunkKey p)
def setChunk (p : Packet) (c : ChunkRx) (m : Dev) : Dev :=
  { m with net := { m.net with chunks := m.net.chunks.upd ChunkRx.none (chunkKey p) c } }

/-- Does an interval list, grown from the end of the LAST packet downwards, use every interval? -/
def joinsUp : Nat → Nat → List (Nat × Nat) → Bool
  | 0, _, got => got.isEmpty
  | fuel + 1, lo, got =>
    match got.find? (fun g => g.1 + g.2 ≥ lo && g.1 < lo) with
    | some g => joinsUp fuel g.1 (got.filter (fun h => h.1 < g.1))
    | none => (got.filter (fun h => h.1 < lo)).isEmpty

/-- Is a resend of a packet of a chunk still to come (R334)? -/
def resendDue (p : Packet) (m : Dev) : Bool :=
  m.net.retried.any (fun x => x.typ.toNat = ptCOPY && chunkKey x = chunkKey p)

/-- Have all bytes below the LAST packet that have a packet at all been written without a gap, and is no resend to come? -/
def chunkWhole (c : ChunkRx) (m : Dev) : Bool :=
  match c.last with
  | none => false
  | some p => joinsUp (c.got.length + 1) (fxAddr p) (c.got.filter (fun g => g.1 < fxAddr p)) && !resendDue p m

/-- The chunk commits with its increment, or is answered with its failure; either way the outcome is recorded. The pages that a chunk
has written whole are no longer poisoned (R308). -/
def commitChunk (c : ChunkRx) (p : Packet) (m : Dev) : Dev :=
  let x := fxExtra p
  let ref := bitsAt x 0 16
  let st := if c.status ≠ 0 then c.status else if bitAt ref 15 then 1 else 0
  let old := if st = 0 then arrival (refDie ref) (refCounter ref) m else 0
  let lo := (c.got.map (fun g => g.1)).foldl min (fxAddr p)
  let m0 := when (st = 0) (coverPages lo (fxAddr p + fxLen p - lo)) (setChunk p ChunkRx.none m)
  let m1 := when (st = 0) (addRef ref (bitsAt x 16 16)) m0
  respond p ptCOMPLETION st [] false (replayPut p st old m1)

/-- One COPY packet's bytes: written, marked when poisoned; the first failure is the chunk's. -/
def copyBytes (p : Packet) (m : Dev) : Nat × Dev :=
  if prefixBad p then (1, m)
  else
    let w := remoteWrite (destDieOf p) (fxAddr p) (fxData p) (isPoison p) m
    let c := chunkOf p w.2
    (w.1, setChunk p { c with
      got := if fxLen p = 0 then c.got else c.got ++ [(fxAddr p, fxLen p)]
      status := if c.status = 0 then w.1 else c.status } w.2)

/-- A chunk commits once its LAST packet and all its bytes are in; one that has failed is answered when its LAST packet is in. -/
def chunkSettle (p : Packet) (m : Dev) : Dev :=
  let c := chunkOf p m
  match c.last with
  | some l => if c.status ≠ 0 || chunkWhole c m then commitChunk c l m else m
  | none => m

/-- A chunk has failed: its increment is not performed, and its answer is an error (R334). -/
def chunkFails (p : Packet) (m : Dev) : Dev :=
  if p.typ.toNat ≠ ptCOPY then m
  else
    let c := chunkOf p m
    chunkSettle p (setChunk p { c with status := if c.status = 0 then 2 else c.status } m)

/-- COPY: a packet of a chunk arrives; the chunk commits once its LAST packet and all its bytes are in. `m` still holds the packet,
for a write that is held. -/
def serveCopyNew (p : Packet) (m : Dev) : Dev :=
  let w := copyBytes p (takePacket p m)
  if w.1 = 99 then heldBy p.job.toNat w.2 m
  else if fxLast p then
    let c := chunkOf p w.2
    chunkSettle p (setChunk p { c with last := some p, status := if c.status = 0 then w.1 else c.status } w.2)
  else chunkSettle p (respond p ptCOMPLETION w.1 [] false w.2)

def serveCopy (p : Packet) (m : Dev) : Dev :=
  let m1 := takePacket p m
  if fabricWaits p m then m
  else if !fxLast p then serveCopyNew p m
  else if !isSet aFABRIC_REPLAY fFABRIC_REPLAY_ENABLE m then respond p ptCOMPLETION 1 [] false m1
  else
    match replayOf p m1 with
    | .seen st _ => respond p ptCOMPLETION st [] false (countSat aFABRIC_STATS fFABRIC_STATS_REPLAYED 1 m1)
    | .stale => respond p ptCOMPLETION 3 [] false (staleAnswer p m1)
    | .fresh => serveCopyNew p m

/-! ### Completions (R408, R413, R414) -/

/-- Does a response answer a request? -/
def answers (p : Packet) (r : Request) : Bool :=
  r.die = destDieOf p && destCoordOf r.p = srcCoordOf p && r.p.arg = p.arg

/-- The old value of a KIND 5 act is written at RESULT by the Chanter that performed it, as master 9. -/
def writeResult (tile result old : Nat) (m : Dev) : Dev :=
  if result = 0xFFFFFFFF then m else (writeVia (.tile tile 9) (tl tile result) (toLe 8 old) m).m

/-- Does anything still wait for requests in this way? -/
def waiterBusy (w : Waiter) (m : Dev) : Bool :=
  m.net.reqs.any (fun r => r.waiter = w) || m.net.later.any (fun l => l.waiter = w) ||
    m.tiers.nvme.any (fun c => c.use.waits (fun x => x = w))

/-- A request that its home answered with an error. A staged record that found no home halts its ring with reason 5 (R272). -/
def requestRefused (r : Request) (status : Nat) (m : Dev) : Dev :=
  let m1 := accessFailed r.die (destCoordOf r.p) status r.p.typ.toNat r.p.arg m
  match r.waiter with
  | .update q => if status = 4 then haltRing q 5 (dropRequests (waitsFor q) (dropReq r m1)) else requestFails r m1
  | _ => requestFails r m1

/-- A request has its answer with STATUS 0, or fails with another. -/
def requestDone (r : Request) (status old : Nat) (m : Dev) : Dev :=
  if status ≠ 0 then requestRefused r status m
  else
    let m1 := dropReq r m
    match r.waiter with
    | .act _ tile result size => writeResult tile result (old % 2 ^ (8 * size)) m1
    | .fill p => if waiterBusy (.fill p) m1 then m1 else fillDone p true m1
    | _ => m1

/-- COMPLETION: the first for a request counts. -/
def completionRx (p : Packet) (m : Dev) : Dev :=
  match m.net.reqs.find? (fun r => answers p r && r.p.typ.toNat ≠ ptREAD) with
  | none => m
  | some r => pumpAll (requestDone r (fxStatus p) (field p.payload 16 8) m)

/-- ATOMIC_COMPLETION: the answer to the oldest KIND 5 act of a ring that waits for one. -/
def atomicCompletion (q status old : Nat) (m : Dev) : Dev :=
  match m.net.reqs.find? (fun r => match r.waiter with | .act s _ _ _ => s = q | _ => false) with
  | none => m
  | some r => requestDone r status old m

/-- The data of a READ of the Mover or of Piper. Poisoned bytes of a lent page come with their STATUS, and a failed read of a page
table leaves it unread. -/
def readDone (r : Request) (status : Nat) (data : List Byte) (m : Dev) : Dev :=
  let m1 := dropReq r (when (status ≠ 0) (accessFailed r.die (destCoordOf r.p) status ptREAD r.p.arg) m)
  match r.waiter with
  | .page die a n => pumpAll (pageAnswered die a n status data m1)
  | .table s k part =>
    if status ≠ 0 then m1 else tableAnswered s k part (destCoordOf r.p) (field r.pre 0 8) r.p.job.toNat data m1
  | _ => requestDone r status 0 m

/-- READ_DATA: the request has its data; it fills the lines it covers when its READ asked for it, unless an invalidation
came between (R409, R410). -/
def readDataRx (p : Packet) (m : Dev) : Dev :=
  match m.net.reqs.find? (fun r => answers p r && r.p.typ.toNat = ptREAD && !fxRow r.p) with
  | none => m
  | some r =>
    let a := field r.pre 0 8
    let coord := destCoordOf r.p
    let fill := bitAt (field r.pre 10 1) 0 && fxStatus p = 0 && isSet aFABRIC_CACHE_CTRL fFABRIC_CACHE_CTRL_ENABLE m &&
      cacheable coord a (fxLen p) m && !m.net.noFill.contains (argTag p.arg)
    readDone r (fxStatus p) (fxData p) (when fill (cacheFill r.die r.p.job.toNat coord a (fxData p)) m)

/-- FABRIC_TIMEOUT: a request of a die is sent again with the same TAG and REQ_ID, or fails after RETRIES resends. -/
def fabricTimeout (die tag : Nat) (m : Dev) : Dev :=
  match m.net.reqs.find? (fun r => r.die = die && argTag r.p.arg = tag) with
  | none => m
  | some r =>
    if r.resends < rdF aFABRIC_CTRL fFABRIC_CTRL_RETRIES m then
      let m1 := countSat aFABRIC_STATS fFABRIC_STATS_RESENDS 1 (sendAgain die r.p m)
      { m1 with net := { m1.net with reqs := m1.net.reqs.map (fun x => if x = r then { x with resends := x.resends + 1 } else x) } }
    else
      pumpAll (requestFails r (raise (cDIE_FABRIC_TIMEOUT die) (fabricFault 2 die (destCoordOf r.p) 0 r.p.typ.toNat r.p.arg m)))

/-! ### Receiving interfaces (R350, R332, R334) -/

/-- Has a resend of this packet been asked for? -/
def sameHead (p x : Packet) : Bool := x.typ = p.typ && x.src = p.src && x.arg = p.arg && x.boot = p.boot
def askedFor (p : Packet) (m : Dev) : Bool := m.net.retried.any (sameHead p)
def unask (p : Packet) (m : Dev) : Dev :=
  { m with net := { m.net with retried := m.net.retried.filter (fun x => !sameHead p x) } }

/-- The link by which a packet came in (R339); 0 for one that came by none. -/
def linkIn (p : Packet) (m : Dev) : Nat := ((m.net.arrivals.find? (fun x => x.1 = p)).map Prod.snd).getD 0

/-- The resend failed too (R334). -/
def retryFail (d link : Nat) (p : Packet) (m : Dev) : Dev :=
  unask p (raise (cDIE_WINNOW_RETRY_FAIL d) (winnowFault d 6 0 link 0 (srcCoordOf p) 0 m))

/-- Ask the sender once to send the packet again uncompressed: a RESEND with the packet's header (DEDUCED, log entry 27). -/
def askResend (p : Packet) (m : Dev) : Dev :=
  let m1 := { m with net := { m.net with retried := m.net.retried ++ [p] } }
  match sendStop p.job.toNat false m1 with
  | some s => sendStopped s (srcCoordOf p) p.job.toNat m1
  | none => sendDraft ⟨ptRESEND, 5, destDieOf p, p.src, p.job.toNat, p.arg, headerOf p 0, false, false⟩ m1

/-- Hand a packet to its unit. -/
def handUp (p : Packet) (m : Dev) : Dev := { m with net := { m.net with inbox := m.net.inbox ++ [p] } }

/-- A poisoned block of a chunk stays in staging space (R332, R334): its DECLARED bytes are written at the address that its prefix
names, marked as poisoned. A block whose prefix was not decoded names no place, and nothing is written (DEDUCED, log entry 105). -/
def stageBad (p : Packet) (x : Expanded) (m : Dev) : Dev :=
  let q := { p with payload := x.data }
  if p.typ.toNat = ptCOPY && 16 ≤ x.decoded && fxAddr q < 2 ^ 46 then
    let w := remoteWrite (destDieOf p) (fxAddr q) (fxData q) true m
    if w.1 = 2 then w.2 else m
  else m

/-- A packet that passed its checks: expanded if it is compressed, then handed to its unit. -/
def deliverGood (link : Nat) (p : Packet) (m : Dev) : Dev :=
  let d := destDieOf p
  if isZipped p then
    let x := expandBlock d link (srcCoordOf p) p.payload m
    if !x.bad then handUp { p with payload := x.data, flags := p.flags &&& 0xFE#8 } x.m
    else if askedFor p x.m then
      chunkFails p (respond p ptCOMPLETION 2 [] false (retryFail d link p (stageBad p x x.m)))
    else askResend p (stageBad p x x.m)
  else if askedFor p m then
    if isPoison p then handUp p (retryFail d link p m)
    else handUp p (unask p (countSat (aWINNOW_ERR_STATS d) fWINNOW_ERR_STATS_RECOVERED 1 m))
  else handUp p m

/-- A packet that is discarded was the resend of a poisoned block: it has failed, and its chunk with it. -/
def resendLost (d link : Nat) (p : Packet) (m : Dev) : Dev :=
  if askedFor p m then chunkFails p (retryFail d link p m) else m

/-- PACKET_DELIVER: the check code first, then membership and key (R367), then the GCM tag. -/
def packetDeliver (check : PacketCheck) (p : Packet) (m0 : Dev) : Dev :=
  let d := destDieOf p
  let j := p.job.toNat
  let link := linkIn p m0
  let m := { m0 with net := { m0.net with arrivals := m0.net.arrivals.erase (p, link) } }
  if check = .badCode then
    sendNack 1 d p (resendLost d link p (raise cWINDROW_PKT_CHECK_FAIL (windrowFault 5 0 (srcCoordOf p) j m)))
  else if !jobMember j m then sendNack 3 d p (raise cWINDROW_JOB_NOT_MEMBER (windrowFault 7 0 (srcCoordOf p) j m))
  else if isEncrypted p && !holdsJobKey (jobSlot j (keyGenOf p) m) m then
    sendNack 5 d p (raise cWINDROW_JOB_NO_KEY (windrowFault 8 0 (srcCoordOf p) j m))
  else if isEncrypted p && check = .badTag then
    sendNack 2 d p (resendLost d link p (raise cWINDROW_JOB_TAG_FAIL (windrowFault 6 0 (srcCoordOf p) j m)))
  else deliverGood link p m

/-- The header copy in a NACK or RESEND: TYPE, SRC die and ARG of what was sent. -/
def copyTyp (p : Packet) : Nat := field p.payload 0 1
def copySrc (p : Packet) : Nat := field p.payload 6 2
def copyArg (p : Packet) : BitVec 64 := BitVec.ofNat 64 (field p.payload 24 8)
def copyDest (p : Packet) : Nat := bitsAt (field p.payload 4 2) 0 9

/-- Is a chunk or marker of a lane at a die still outstanding (R350, R382): a chunk whose credit or ACK has not come back, a marker
of a phase that its lane has reached? -/
def nackNames (p : Packet) (c : Coll) (m : Dev) : Bool :=
  let arg := copyArg p
  let mine := fun l : LaneSt => l.lane = argLane arg && dieOf l.tile = bitsAt (copySrc p) 9 3
  isBound c && c.ctx = argCtx arg && c.group = argGroup arg && c.seq = argSeq arg && c.attempt = argAttempt arg &&
    c.job = field p.payload 8 1 &&
    (if copyTyp p = ptMARKER then c.lanes.any (fun l => mine l && argPhase arg ≤ l.step)
     else c.lanes.any mine && m.drone.spent.any (fun s => s.coord = copyDest p && s.arg = arg))

/-- NACK: the request, collective or SIGNAL that the header copy names fails; one that matches nothing is discarded. -/
def nackRx (p : Packet) (m : Dev) : Dev :=
  let m1 := takePacket p m
  let die := bitsAt (copySrc p) 9 3
  let arg := copyArg p
  let t := copyTyp p
  if t = ptSIGNAL then
    match m1.drone.signals.find? (sigMatch (copyDest p) die arg) with
    | some s => signalFails s (copyDest p) m1
    | none => m1
  else if t = ptCHUNK || t = ptMARKER || t = ptDISPATCH then
    match m1.drone.colls.find? (fun c => nackNames p c m1) with
    | some c => abortDetected 5 die c (copyDest p) 0 m1
    | none => m1
  else
    match m1.net.reqs.find? (fun r => r.die = die && r.p.typ.toNat = t && r.p.arg = arg) with
    | some r => pumpAll (requestFails r (accessFailed r.die (destCoordOf r.p) 0 t arg m1))
    | none => m1

/-- The source of a packet is read again and it goes uncompressed; data that can no longer be read goes marked as poisoned, so that
the destination answers the chunk with an error. A packet that may no longer be sent fails what it is part of (R366). -/
def resendFrom (r : Request) (a : Nat) (m : Dev) : Dev :=
  let n := field r.pre 8 2
  match sendStop r.p.job.toNat (protectedAt a n m) m with
  | some s => requestFails r (sendStopped s (destCoordOf r.p) r.p.job.toNat m)
  | none =>
    let x := readVia (agentMover r.die) a n m
    sendDraft ⟨r.p.typ.toNat, bitsAt r.p.vc.toNat 0 3, r.die, r.p.dest, r.p.job.toNat, r.p.arg, r.pre ++ x.data, false,
      decide (x.st ≠ .ok)⟩ x.m

/-- LINK_RESEND_REQUEST (R334). A source that must be filled first holds it back. -/
def linkResend (p : Packet) (m : Dev) : Dev :=
  let m1 := takePacket p m
  match m1.net.reqs.find? (fun r => r.die = bitsAt (copySrc p) 9 3 && r.p.typ.toNat = copyTyp p && r.p.arg = copyArg p) with
  | none => m1
  | some r =>
    match r.src with
    | none => m1
    | some a =>
      let x := readVia (agentMover r.die) a (field r.pre 8 2) m1
      if x.st = .held then heldBy r.p.job.toNat x.m m else resendFrom r a m1

/-! ### Requests whose page found no frame (R313) -/

/-- Does a request touch a page of the Granary range? -/
def touchesPage (page : Nat) (p : Packet) : Bool :=
  let n := if p.typ.toNat = ptREAD then fxLen p else (fxData p).length
  n ≠ 0 && (List.range ((fxAddr p + n - 1) / 65536 + 1 - fxAddr p / 65536)).any (fun i =>
    decide (placeOf (65536 * (fxAddr p / 65536 + i)) = .page 1 page 0))

/-- A request that waits for a page that found no frame fails: its access does. -/
def failRequest (p : Packet) (m : Dev) : Dev :=
  let t := p.typ.toNat
  let m1 := takePacket p m
  if t = ptREAD then respond p ptREAD_DATA (statusOf .noFrame) [] false m1
  else if t = ptWRITE then respond p ptCOMPLETION (statusOf .noFrame) [] false m1
  else
    let c := chunkOf p m1
    let m2 := setChunk p { c with
      last := if fxLast p then some p else c.last
      status := if c.status = 0 then statusOf .noFrame else c.status } m1
    chunkSettle p (if fxLast p then m2 else respond p ptCOMPLETION (statusOf .noFrame) [] false m2)

/-- The requests in the inbox that wait for a page fail. -/
def failHeld (page : Nat) (m : Dev) : Dev :=
  forEach (m.net.inbox.filter (fun p => (p.typ.toNat = ptREAD || p.typ.toNat = ptWRITE || p.typ.toNat = ptCOPY) &&
    !fxRow p && touchesPage page p)) failRequest m

/-! ### SIGNAL at its target (R395) -/

/-- SIGNAL_RECEIVE: the Drone of the target performs it; while the Drones are parked, or the write is held, the packet waits. -/
def serveSignal (p : Packet) (m : Dev) : Dev :=
  let w := writeVia (agentDrone (signalDie p)) (sigDest p.arg) (p.payload.drop 8) (takePacket p m)
  if droneHeld m || isParked .drone m then m
  else if isSet aDRONE_CTRL fDRONE_CTRL_ENABLE m && w.st = .held then heldBy p.job.toNat w.m m
  else pumpAll (signalReceive p m)

end Sys2Proof.Machine
end

