-- ==== Sys2Proof/Machine/Kv.lean ====
section
/-! DEFINITION. Key-value pages of a member (chapter 7): slots of a manifest (R180), the directory and its pools (R212 to
R215), session records and page tables (R216, R217), allocation and release, and the entries of a commit record (R224,
R225, R233, R234). -/
namespace Sys2Proof.Machine

/-! ### Slots (R180) -/

/-- A slot from its 32 bytes. -/
def slotOf (b : List Byte) : Slot where
  session := field b 0 2
  kind := field b 2 1
  pageLog2 := field b 3 1
  rowBase := field b 4 2
  rows := field b 6 2
  position := field b 8 4
  adapter := field b 12 2
  customer := field b 14 2
  seed := field b 16 8

/-- The 32 bytes of a slot. -/
def slotBytes (s : Slot) : List Byte :=
  toLe 2 s.session ++ toLe 1 s.kind ++ toLe 1 s.pageLog2 ++ toLe 2 s.rowBase ++ toLe 2 s.rows ++ toLe 4 s.position ++
  toLe 2 s.adapter ++ toLe 2 s.customer ++ toLe 8 s.seed ++ List.replicate 8 0

/-- The slots of a table read from memory, in order. -/
def slotsFrom (n : Nat) (b : List Byte) : List Slot := (List.range n).map (fun i => slotOf ((b.drop (32 * i)).take 32))

/-- Slots in service: PIPER_SHAPE.SLOTS within 64 to 1,024. -/
def shapeSlots (m : Dev) : Nat := max 64 (min 1024 (rdF aPIPER_SHAPE fPIPER_SHAPE_SLOTS m))

/-- DRAFT as it acts: lowered until the rows fit 1,024 (R179). -/
def shapeDraft (m : Dev) : Nat :=
  let want := rdF aPIPER_SHAPE fPIPER_SHAPE_DRAFT m
  min want (1024 / shapeSlots m - 1)

/-- The tile-local offset of the manifest, and of the exit table behind it (R180, R232). -/
def stepOffset (m : Dev) : Nat := rdF aPIPER_STEP_AREA fPIPER_STEP_AREA_TILE_OFFSET m
def exitOffset (m : Dev) : Nat := stepOffset m + 64 + 32 * shapeSlots m

/-! ### The directory (R212, R213) -/

/-- The directory of a die. -/
def kvDir (d : Nat) (m : Dev) : Nat := rdF (aDRILL_KV_DIR d) fDRILL_KV_DIR_BASE m * 65536
def kvOn (d : Nat) (m : Dev) : Bool := isSet (aDRILL_KV_DIR d) fDRILL_KV_DIR_ENABLE m

/-- A field of the header of the directory that Piper uses, D0's. -/
def kvHdr (n off : Nat) (m : Dev) : Nat := ldN n (kvDir 0 m + off) m
def setKvHdr (n off v : Nat) (m : Dev) : Dev := stN n (kvDir 0 m + off) v m

/-- Pool k: 0 the Field pool, 1 the pause pool, 40 bytes further on. -/
def kvBaseOf (k : Nat) (m : Dev) : Nat := kvHdr 8 (40 * k) m
def kvStdUnits (k : Nat) (m : Dev) : Nat := kvHdr 4 (40 * k + 8) m
def kvRidges (k : Nat) (m : Dev) : Nat := kvHdr 4 (40 * k + 12) m
def kvUnitStack (k : Nat) (m : Dev) : Nat := kvHdr 8 (40 * k + 16) m
def kvRidgeStack (k : Nat) (m : Dev) : Nat := kvHdr 8 (40 * k + 24) m
def kvUnitFree (k : Nat) (m : Dev) : Nat := kvHdr 4 (40 * k + 32) m
def kvRidgeFree (k : Nat) (m : Dev) : Nat := kvHdr 4 (40 * k + 36) m
def kvLayers (m : Dev) : Nat := kvHdr 2 80 m
def kvGroup (m : Dev) : Nat := kvHdr 1 82 m
def kvBlockBase (m : Dev) : Nat := kvHdr 8 88 m
def kvBlockStack (m : Dev) : Nat := kvHdr 8 96 m
def kvBlockFree (m : Dev) : Nat := kvHdr 4 104 m

/-- Unit u of layer l of a pool (R214). -/
def unitPlace (base std ridges l u : Nat) : Nat := base + (l * (std + 256 * ridges) + u) * 4352
def unitAddr (k l u : Nat) (m : Dev) : Nat := unitPlace (kvBaseOf k m) (kvStdUnits k m) (kvRidges k m) l u

/-- Pop an entry of a stack: its value. -/
def popStack (stack freeOff : Nat) (m : Dev) : Option (Nat × Dev) :=
  let n := kvHdr 4 freeOff m
  if n = 0 then none else some (ldN 4 (stack + 4 * (n - 1)) m, setKvHdr 4 freeOff (n - 1) m)

/-- Push an entry on a stack. -/
def pushStack (stack freeOff v : Nat) (m : Dev) : Dev :=
  let n := kvHdr 4 freeOff m
  setKvHdr 4 freeOff (n + 1) (stN 4 (stack + 4 * n) v m)

def popUnit (k : Nat) (m : Dev) : Option (Nat × Dev) := popStack (kvUnitStack k m) (40 * k + 32) m
def popRidge (k : Nat) (m : Dev) : Option (Nat × Dev) := popStack (kvRidgeStack k m) (40 * k + 36) m
def popBlock (m : Dev) : Option (Nat × Dev) := popStack (kvBlockStack m) 104 m
def pushUnit (k u : Nat) (m : Dev) : Dev := pushStack (kvUnitStack k m) (40 * k + 32) u m
def pushRidge (k r : Nat) (m : Dev) : Dev := pushStack (kvRidgeStack k m) (40 * k + 36) r m
def pushBlock (b : Nat) (m : Dev) : Dev := pushStack (kvBlockStack m) 104 b m

/-! ### Session records and page tables (R216, R217) -/

def recAddr (s : Nat) (m : Dev) : Nat := kvDir 0 m + 0x1_0000 + 128 * s
def recN (s n off : Nat) (m : Dev) : Nat := ldN n (recAddr s m + off) m
def setRec (s n off v : Nat) (m : Dev) : Dev := stN n (recAddr s m + off) v m
def recInUse (s : Nat) (m : Dev) : Bool := bitAt (recN s 1 0 m) 0
def recLog2 (s : Nat) (m : Dev) : Nat := recN s 1 1 m
def recLen (s : Nat) (m : Dev) : Nat := recN s 4 4 m
def recPages (s : Nat) (m : Dev) : Nat := recN s 4 8 m

def eVALID : Nat := 2 ^ 31
def eCOMMITTED : Nat := 2 ^ 30
def ePAUSED : Nat := 2 ^ 29

/-- The address of a page's table entry. -/
def pageEntryAddr (s j : Nat) (m : Dev) : Nat :=
  kvBlockBase m + 4096 * recN s 4 (64 + 4 * (j / 1024)) m + 4 * (j % 1024)
def pageEntry (s j : Nat) (m : Dev) : Nat := ldN 4 (pageEntryAddr s j m) m
def setPageEntry (s j v : Nat) (m : Dev) : Dev := stN 4 (pageEntryAddr s j m) v m
def entryUnit (e : Nat) : Nat := bitsAt e 0 28
def entryPaused (e : Nat) : Bool := bitAt e 29
def entryCommitted (e : Nat) : Bool := bitAt e 30
def entryValid (e : Nat) : Bool := bitAt e 31

/-- Pages of a ridge: 2^(12 − P). -/
def ridgePages (P : Nat) : Nat := 2 ^ (12 - P)

/-- Pages that hold a length, at 2^P tokens each. -/
def pagesFor (len P : Nat) : Nat := (len + 2 ^ P - 1) / 2 ^ P

/-- How many single units and ridges a run of pages takes (R215). -/
def unitsNeeded (P a b : Nat) : Nat := if P = 4 then b - a else 0
def ridgesNeeded (P a b : Nat) : Nat :=
  if P = 4 then 0 else ((List.range (b - a)).filter (fun i => (a + i) % ridgePages P = 0)).length

/-- A unit for page j of a session, from a pool: a single unit, a new ridge, or the place within the ridge of the page
that began it, whose unit is `first`. -/
def takeUnit (k P j first : Nat) (m : Dev) : Nat × Dev :=
  if P = 4 then (popUnit k m).getD (0, m)
  else if j % ridgePages P = 0 then
    match popRidge k m with
    | some r => (kvStdUnits k m + 256 * r.1, r.2)
    | none => (0, m)
  else (first + j % ridgePages P * 2 ^ (P - 4), m)

/-- Give a page's unit back: the single unit, or the ridge with the page that began it. -/
def giveUnit (k P j u : Nat) (m : Dev) : Dev :=
  if P = 4 then pushUnit k u m
  else if j % ridgePages P = 0 then pushRidge k ((u - kvStdUnits k m) / 256) m
  else m

/-- Could the stacks supply pages a to b − 1 of a session, with the table blocks that they begin? -/
def canSupply (k P a b blocks : Nat) (m : Dev) : Bool :=
  unitsNeeded P a b ≤ kvUnitFree k m && ridgesNeeded P a b ≤ kvRidgeFree k m && blocks ≤ kvBlockFree m

/-- Table blocks that pages a to b − 1 begin. -/
def blocksNeeded (a b : Nat) : Nat := ((List.range (b - a)).filter (fun i => (a + i) % 1024 = 0)).length

/-- Allocate page j of a session in the Field pool: its table block first when it begins one. -/
def allocPage (s j : Nat) (m : Dev) : Dev :=
  let m1 := if j % 1024 = 0 then
      match popBlock m with
      | some b => setRec s 4 (64 + 4 * (j / 1024)) b.1 b.2
      | none => m
    else m
  let P := recLog2 s m1
  let first := if P = 4 then 0 else entryUnit (pageEntry s (j - j % ridgePages P) m1)
  let u := takeUnit 0 P j first m1
  setRec s 4 8 (j + 1) (setPageEntry s j (eVALID + u.1) u.2)

/-- The pages that a session may hold (R217). -/
def pageLimit : Nat := 16384

/-- Allocate a session's pages up to a number (R215, R220); none at all when a stack cannot supply them, or beyond the pages that a
session may hold. -/
def allocPages (s n : Nat) (m : Dev) : Dev :=
  let a := recPages s m
  if n ≤ a then m
  else if n ≤ pageLimit && canSupply 0 (recLog2 s m) a n (blocksNeeded a n) m then
    forEach (List.range (n - a)) (fun i => allocPage s (a + i)) m
  else raise cPIPER_KV_MISMATCH m

/-- Free page j in whichever pool it lies. -/
def freePageUnit (s j : Nat) (m : Dev) : Dev :=
  let e := pageEntry s j m
  giveUnit (if entryPaused e then 1 else 0) (recLog2 s m) j (entryUnit e) m

/-- Release page j: its unit, its entry, and the table block that it began. -/
def releasePage (s j : Nat) (m : Dev) : Dev :=
  let b := recN s 4 (64 + 4 * (j / 1024)) m
  let m1 := setPageEntry s j 0 (freePageUnit s j m)
  if j % 1024 = 0 then setRec s 4 (64 + 4 * (j / 1024)) 0 (pushBlock b m1) else m1

/-- Release pages n − 1 down to c. -/
def releaseFrom (s c : Nat) (m : Dev) : Dev :=
  let n := recPages s m
  setRec s 4 8 (min c n) (forEach ((List.range (n - c)).reverse) (fun i => releasePage s (c + i)) m)

/-! ### Copies for a pause or a restore (R233, R234) -/

/-- The units allocated for the copy in progress of a session, page by page. -/
def copyUnits (s : Nat) (m : Dev) : List Nat := Sparse.get [] m.piper.copies s
def setCopyUnits (s : Nat) (us : List Nat) (m : Dev) : Dev :=
  { m with piper := { m.piper with copies := m.piper.copies.upd [] s us } }

/-- Allocate units for pages 0 to n − 1 in a pool (R215). -/
def takeUnits (k P n : Nat) (m : Dev) : List Nat × Dev :=
  (List.range n).foldl (fun (r : List Nat × Dev) j =>
    let u := takeUnit k P j (r.1.getD (j - j % ridgePages P) 0) r.2
    (r.1 ++ [u.1], u.2)) ([], m)

/-- Copy one page of every layer between pools. -/
def copyPage (P fromPool fromUnit toPool toUnit : Nat) (m : Dev) : Dev :=
  forEach (List.range (kvLayers m)) (fun l m =>
    copyRaw (unitAddr fromPool l fromUnit m) (unitAddr toPool l toUnit m) (272 * 2 ^ P) m) m

/-- Pages that a pause copies: those COMMITTED; that a restore copies: those PAUSED. -/
def copyCount (s : Nat) (paused : Bool) (m : Dev) : Nat :=
  ((List.range (recPages s m)).filter (fun j =>
    let e := pageEntry s j m
    if paused then entryPaused e else entryCommitted e)).length

/-- The member's part of a copy: units in the other pool, and the bytes. -/
def startCopy (s : Nat) (restore : Bool) (m : Dev) : Option Dev :=
  let P := recLog2 s m
  let n := copyCount s restore m
  let k := if restore then 0 else 1
  if !canSupply k P 0 n 0 m then none
  else
    let r := takeUnits k P n m
    some (setCopyUnits s r.1 (forEach (List.range n) (fun j m =>
      copyPage P (1 - k) (entryUnit (pageEntry s j m)) k (r.1.getD j 0) m) r.2))

/-- Give the units of a copy back, in descending page order. -/
def dropCopy (s k : Nat) (m : Dev) : Dev :=
  let us := copyUnits s m
  setCopyUnits s [] (forEach ((List.range us.length).reverse) (fun j => giveUnit k (recLog2 s m) j (us.getD j 0)) m)

/-- PAUSE_MAP: committed entries take their pause units, every Field page is freed. -/
def pauseMap (s : Nat) (m : Dev) : Dev :=
  let us := copyUnits s m
  let n := recPages s m
  let m1 := forEach ((List.range n).reverse) (fun j m =>
    if j < us.length then
      setPageEntry s j (eVALID + eCOMMITTED + ePAUSED + us.getD j 0) (freePageUnit s j m)
    else releasePage s j m) m
  setCopyUnits s [] (setRec s 4 8 (min us.length n) (setRec s 1 0 (recN s 1 0 m1 ||| 4) m1))

/-- RESTORE_MAP: entries take their Field units, the pause units are freed. -/
def restoreMap (s : Nat) (m : Dev) : Dev :=
  let us := copyUnits s m
  let m1 := forEach ((List.range us.length).reverse) (fun j m =>
    setPageEntry s j (eVALID + eCOMMITTED + us.getD j 0) (freePageUnit s j m)) m
  setCopyUnits s [] (setRec s 1 0 (recN s 1 0 m1 &&& 0xFB) m1)

/-! ### The commit record (R224, R225) -/

/-- Set COMMITTED on the pages that a length reaches into, and clear it on the rest. -/
def markCommitted (s len : Nat) (m : Dev) : Dev :=
  let c := pagesFor len (recLog2 s m)
  forEach (List.range (recPages s m)) (fun j m =>
    let e := pageEntry s j m
    let base := e % eCOMMITTED + (if entryValid e then eVALID else 0)
    setPageEntry s j (if j < c then base + eCOMMITTED else base) m) m

/-- Add 1 to a counter of the lead from this member's commit phase: an OP 7 atomic, local on the lead itself. -/
def reportTo (coord ref : Nat) (m : Dev) : Dev :=
  if coord = selfCoord m then addRef ref 1 m
  else
    let s := nextSeq 0 coord m
    let t := newTag s.2
    issue ⟨ptATOMIC, 4, 0, placeWord coord (refDie ref), m.piper.job, fabricArg t.1 s.1,
      fabricPrefix ref 0 0 0 7 ++ toLe 8 1 ++ toLe 8 0, false, false⟩ .report (fabricPrefix ref 0 0 0 7) none t.2

/-- One entry of a commit record at a member. -/
def applyEntry (b : List Byte) (m : Dev) : Dev :=
  let op := field b 0 1
  let s := field b 2 2
  let arg0 := field b 4 4
  let arg1 := field b 8 8
  let lead := rdF aPIPER_CTRL fPIPER_CTRL_LEAD m
  if op = 0 || 9 < op then raise cPIPER_KV_RECORD_BAD m
  else if op = 1 then
    if bitsAt arg0 0 8 = kvGroup m then
      stBytes (recAddr s m) (toLe 1 (1 + 2 * bitsAt arg0 12 1) ++ toLe 1 (bitsAt arg0 8 4) ++ List.replicate 126 0) m
    else m
  else if !recInUse s m then m
  else if op = 2 then markCommitted s arg0 (setRec s 4 4 arg0 m)
  else if op = 3 then allocPages s (pagesFor arg0 (recLog2 s m)) m
  else if op = 4 then
    match startCopy s false m with
    | some m1 => reportTo lead (bitsAt arg1 0 16) m1
    | none => raise cPIPER_KV_MISMATCH m
  else if op = 5 then pauseMap s m
  else if op = 6 then dropCopy s 1 m
  else if op = 7 then
    match startCopy s true m with
    | some m1 => reportTo lead (bitsAt arg1 0 16) m1
    | none => raise cPIPER_KV_MISMATCH m
  else if op = 8 then restoreMap s m
  else stZeros (recAddr s m) 128 (releaseFrom s 0 (dropCopy s (if bitAt (recN s 1 0 m) 2 then 0 else 1) m))

/-- Apply a commit record, entry by entry in order. -/
def applyCommitRecord (bytes : List Byte) (m : Dev) : Dev :=
  forEach (List.range (field bytes 8 4)) (fun i => applyEntry ((bytes.drop (16 + 16 * i)).take 16)) m

end Sys2Proof.Machine
end

