-- ==== Sys2Proof/Machine/Piccolo.lean ====
section
/-! DEFINITION. Grid products of commands (R114, R115) and Piccolo (R257 to R265): the adapter table, slot-group headers and
runs, and the passes that add the adapters' deltas to the base product. -/
namespace Sys2Proof.Machine

/-! ### A product's operands (R114, R116) -/

/-- The operands that GEMM and FUSED share. -/
structure Product where
  a : Nat
  w : Nat
  stride : Nat
  pitch : Nat
  k : Nat
  n : Nat
  fa : Nat
  fw : Nat
  clear : Bool
  set : Nat
  adapt : Bool
  window : Int
  deriving DecidableEq, Repr

/-- The product of a GEMM or a FUSED. -/
def productOf (e : List Byte) : Product :=
  if cmdOpcode e = opFUSED then
    ⟨field e 8 6, field e 14 6, field e 20 4, field e 28 4, field e 32 4, field e 36 2, bitsAt (field e 38 1) 0 3,
      bitsAt (field e 38 1) 4 3, bitAt (field e 41 1) 0, bitsAt (field e 41 1) 1 1, bitAt (field e 41 1) 3, 0⟩
  else
    ⟨field e 8 6, field e 14 6, field e 20 4, field e 32 4, field e 36 4, field e 40 2, bitsAt (field e 42 1) 0 3,
      bitsAt (field e 42 1) 4 3, bitAt (field e 45 1) 0, bitsAt (field e 45 1) 1 1, bitAt (field e 45 1) 3,
      signed 10 (field e 52 2)⟩

/-- The address of activation row i. -/
def rowAddr (p : Product) (t i : Nat) : Nat := opAt t p.a (p.pitch * i)

/-- The address of the weights of output column n, `off` bytes on. -/
def colAddr (p : Product) (t off n : Nat) : Nat := opAt t p.w (off + rowBytes p.fw p.k * n)

/-- Rows of the activations against the columns at weight offset `off`, into a set: the row with number i updates entry
i mod 256 (R264). -/
def baseRows (t ce rank set : Nat) (p : Product) (addr : Nat → Nat) (off : Nat) (rows : List Nat) (r : Run) : Run :=
  let as := readRows (.tile t 1) (rowBytes p.fa p.k) (rows.map addr) r
  let ws := readRows (.tile t 1) (rowBytes p.fw p.k)
    ((List.range p.n).map (colAddr p t (off + 64 * p.stride * rank))) as.1
  ws.1.eff (productCore t ce set p.clear p.fa p.fw p.k p.window ((rows.map (fun i => i % 256)).zip as.2) ws.2)

/-- The rows of group g of a command with so many rows (R115). -/
def groupRows (rows g : Nat) : List Nat := (List.range (min 256 (rows - 256 * g))).map (fun i => 256 * g + i)

/-- How many groups of 256 rows. -/
def groupCount (rows : Nat) : Nat := (rows + 255) / 256

/-! ### Slot-group headers and run lists (R255, R261) -/

/-- A slot-group header. -/
structure SlotGroup where
  site : Nat
  mode : Nat
  window : Nat
  bay : Bool
  runs : Nat
  slotStride : Nat
  tOffset : Nat
  deriving DecidableEq, Repr

/-- A header from its 32 bytes. -/
def slotGroupOf (b : List Byte) : SlotGroup :=
  ⟨field b 0 2, field b 2 1, bitsAt (field b 3 1) 0 4, bitAt (field b 3 1) 4, field b 4 4, field b 8 8, field b 16 4⟩

/-- Piccolo of a tile as an agent. -/
def agentPiccolo (t : Nat) : Agent := .tile t 4

/-- The offset of the header that a command with ADAPT of a ring uses: its own AUX, or for a FUSED the last one that a
GEMM of the ring named (R261). -/
def headerOffset (q : Nat) (e : List Byte) (m : Dev) : Option Nat :=
  if cmdOpcode e = opFUSED then
    (if Sparse.get 0 m.lastAdapt q = 0 then none else some (Sparse.get 0 m.lastAdapt q - 1))
  else some (field e 48 4)

/-- Read the header of a command on a tile. -/
def readHeader (t off : Nat) (r : Run) : Run × SlotGroup :=
  let x := r.read (agentPiccolo t) (tl t off) 32
  (x.1, slotGroupOf x.2)

/-- The runs of a list from its bytes. -/
def runsIn (b : List Byte) : List RunOf :=
  let n := min 1028 (field b 0 4)
  (List.range n).map (fun i =>
    let o := 16 + 16 * i
    RunOf.mk (field b (o + 6) 1) (field b (o + 4) 2) (field b (o + 7) 1)
      ((List.range (field b (o + 2) 2)).map (fun j => field b (16 + 16 * n + 2 * (field b o 2 + j)) 2)))

/-- Read the run list of a header on a tile. -/
def readRuns (t off : Nat) (r : Run) : Run × List RunOf :=
  let h := r.read (agentPiccolo t) (tl t off) 16
  let x := h.1.read (agentPiccolo t) (tl t off) (16 + 16 * min 1028 (field h.2 0 4) + 2 * min 1024 (field h.2 4 4))
  (x.1, runsIn x.2)

/-- Has an expert command a window without runs (R256)? Judged on the first tile that it runs on. -/
def windowEmpty (q : Nat) (e : List Byte) (m : Dev) : Bool :=
  if (cmdOpcode e = opGEMM || cmdOpcode e = opFUSED) && (productOf e).adapt then
    match headerOffset q e m, (commandTiles q e m).head? with
    | some off, some rt =>
      let h := readHeader rt.2 off (Run.start m)
      let n := h.1.read (agentPiccolo rt.2) (tl rt.2 h.2.runs) 4
      decide (h.2.mode = 1) && decide (n.1.st = .ok) && decide (leNat n.2 = 0)
    | _, _ => false
  else false

/-- The checks of a command with ADAPT before it has any effect: activations that pair with the GF4 factors (R32), a mode
of R261, under BAY the bay as A_ADDR (R263), for COMBINE expert rows in the bay (R381). A header that cannot be read is left to the command's own reads. -/
def adaptOk (q : Nat) (e : List Byte) (m : Dev) : Bool :=
  let p := productOf e
  if !p.adapt || cmdRows e = 0 then true
  else
    match headerOffset q e m with
    | none => false
    | some off =>
      isNative p.fa && (commandTiles q e m).all (fun rt =>
        let h := readHeader rt.2 off (Run.start m)
        decide (h.1.st ≠ .ok) || (decide (h.2.mode ≤ 1) &&
          (cmdOpcode e ≠ opFUSED || field e 42 1 ≠ 5 || (decide (h.2.mode = 1) && h.2.bay)) &&
          (!h.2.bay || (match hostDie m with
            | some d => p.a = rdF (aCOULTER_BAY d) fCOULTER_BAY_BASE m * 64
            | none => false))))

/-! ### The adapter table (R257, R258) -/

/-- What an adapter's entry and directory give for a site: the fault kind of R269 (0 none), and the factors when the site
has a delta. -/
structure Factor where
  kind : Nat
  delta : Bool
  rank : Nat
  a : Nat
  b : Nat
  bStride : Nat
  deriving DecidableEq, Repr

/-- No delta. -/
def Factor.none : Factor := ⟨0, false, 0, 0, 0, 0⟩

/-- Read an adapter's factors for a site as a tile's Piccolo. -/
def readFactor (t a site : Nat) (r : Run) : Run × Factor :=
  let tbl := onTile aPICCOLO_TABLE t
  if !isSet tbl fPICCOLO_TABLE_ENABLE r.m then (r, ⟨1, false, 0, 0, 0, 0⟩)
  else
    let x := r.read (agentPiccolo t) (loc (rdF tbl fPICCOLO_TABLE_BASE r.m * 64 + 64 * a)) 64
    let rank := field x.2 1 1
    if !bitAt (field x.2 0 1) 0 || 16384 ≤ a then (x.1, ⟨1, false, rank, 0, 0, 0⟩)
    else if rank < 4 || 64 < rank then (x.1, ⟨2, false, rank, 0, 0, 0⟩)
    else if field x.2 16 2 ≤ site then (x.1, Factor.none)
    else
      let y := x.1.read (agentPiccolo t) (loc (field x.2 8 8 + 16 * site)) 16
      if field y.2 0 6 = 0 then (y.1, Factor.none)
      else (y.1, ⟨0, true, rank, field y.2 0 6, field y.2 6 6, field y.2 12 4⟩)

/-- Blocks and bytes of a narrow line of B (R258). -/
def narrowBlocks (rank : Nat) : Nat := (rank + 15) / 16
def narrowBytes (rank : Nat) : Nat := 16 * ((9 * narrowBlocks rank + 15) / 16)

/-- A narrow line as a sheaf line: its blocks first, zeros beyond (R38, R258). -/
def widenLine (rank : Nat) (b : List Byte) : List Byte :=
  let n := narrowBlocks rank
  slice ((b.drop 0).take (8 * n)) 0 128 ++ slice ((b.drop (8 * n)).take n) 0 16

/-- A failing run (R265, R269). -/
def adapterFault (t site : Nat) (f : Factor) (run : RunOf) (m : Dev) : Dev :=
  recordFirst (onTile aPICCOLO_FAULT t)
    (fPICCOLO_FAULT_KIND.of f.kind ||| fPICCOLO_FAULT_ADAPTER.of run.adapter ||| fPICCOLO_FAULT_SITE.of site |||
      fPICCOLO_FAULT_ROW.of (run.rows.headD 0))
    (raise (cDIE_PICCOLO_ADAPTER_INVALID (dieOf t)) m)

/-- The command does not reach its commit act (R121). -/
def Run.fail (r : Run) : Run := ⟨r.m, r.st.join .poison⟩

/-- Count passes and adapted rows (R265). -/
def countPasses (t n : Nat) (m : Dev) : Dev := countSat (onTile aPICCOLO_STATS t) fPICCOLO_STATS_PASSES n m
def countAdapted (t n : Nat) (m : Dev) : Dev := countSat (onTile aPICCOLO_STATS t) fPICCOLO_STATS_ADAPTED_ROWS n m

/-! ### The passes of a group (R264) -/

/-- A run with the factors of its adapter. -/
structure Delta where
  run : RunOf
  f : Factor
  deriving DecidableEq, Repr

/-- The factors of a group's runs; a run that names an adapter whose entry is bad fails the command. -/
def deltasOf (t site : Nat) (runs : List RunOf) (r : Run) : Run × List Delta :=
  runs.foldl (fun (p : Run × List Delta) run =>
    if run.adapter = 0xFFFF then (p.1, p.2 ++ [⟨run, Factor.none⟩])
    else
      let x := readFactor t run.adapter site p.1
      if x.1.st = .ok && x.2.kind ≠ 0 then ((x.1.eff (adapterFault t site x.2 run)).fail, p.2)
      else (x.1, p.2 ++ [⟨run, x.2⟩])) (r, [])

/-- The adapters of a group's deltas, each once, in ascending order, with their factors. -/
def adaptersOf (ds : List Delta) : List (Nat × Factor) :=
  let live := ds.filter (fun d => d.f.delta)
  (((live.map (fun d => d.run.adapter)).eraseDups).mergeSort (fun a b => a ≤ b)).filterMap (fun a =>
    (live.find? (fun d => d.run.adapter = a)).map (fun d => (a, d.f)))

/-- Place adapters' columns side by side in sets of at most 256 columns: (adapter, factors, first column) by set. -/
def packSets : List (Nat × Factor) → Nat → List (Nat × Factor × Nat) → List (List (Nat × Factor × Nat))
  | [], _, cur => if cur.isEmpty then [] else [cur]
  | (a, f) :: rest, col, cur =>
    if col + f.rank ≤ 256 then packSets rest (col + f.rank) (cur ++ [(a, f, col)])
    else cur :: packSets rest f.rank [(a, f, 0)]

/-- The exact value of an accumulator entry as sign and magnitude in units of 2^−24 (R43). -/
def accMag (a : Acc) : Bool × Nat := (decide (a.val.toInt < 0), a.val.toInt.natAbs)

/-- A block of t from 16 accumulator entries: the one rounding of x·A (R61, R264). -/
def tBlock (as : List Acc) : QuantBlock :=
  if as.any (fun a => a.nan || a.ovf) then quantNan else quantCore false 24 (as.map accMag)

/-- The t line of a row from the columns of its adapter. -/
def tLine (t set row col rank : Nat) (m : Dev) : List QuantBlock :=
  (List.range (narrowBlocks rank)).map (fun j =>
    tBlock ((List.range 16).map (fun i =>
      if 16 * j + i < rank then accOf t set (row % 256) (col + 16 * j + i) m else Acc.zero)))

/-- Step 1 and step 2 for one set of columns: the A passes of the group's listed rows, then t for the rows whose adapter is
in the set. The Tine quantises, so t is written as master 3. -/
def aPasses (t ce : Nat) (p : Product) (addr : Nat → Nat) (h : SlotGroup) (ds : List Delta) (cols : List (Nat × Factor × Nat))
    (r : Run) : Run :=
  let other := 1 - p.set
  let listed := (ds.map (fun d => d.run.rows)).flatten
  let bytes := rowBytes 0 p.k
  let as := readRows (.tile t 1) (rowBytes p.fa p.k) (listed.map addr) r
  let ws := readRows (.tile t 1) bytes
    ((cols.map (fun c => (List.range c.2.1.rank).map (fun i => opAt t c.2.1.a (bytes * i)))).flatten) as.1
  let r1 := ws.1.eff (productCore t ce other true p.fa 0 p.k 0 ((listed.map (fun i => i % 256)).zip as.2) ws.2)
  let r2 := r1.eff (countPasses t ((p.k + 255) / 256))
  Run.each cols (fun c r =>
    Run.each (ds.filter (fun d => d.f.delta && d.run.adapter = c.1)) (fun d r =>
      Run.each d.run.rows (fun row r =>
        let bs := tLine t other row c.2.2 c.2.1.rank r.m
        (r.eff (quantCauses t bs)).write (.tile t 3) (tl t (h.tOffset + 144 * row)) (sheafBytes bs)) r) r) r2

/-- Step 4 for one run: its B lines as weights, the t lines of its rows as activations, added into SET. -/
def bPass (t ce rank : Nat) (p : Product) (h : SlotGroup) (d : Delta) (r : Run) : Run :=
  if !d.f.delta then r
  else
    let as := readRows (.tile t 1) 144 (d.run.rows.map (fun row => tl t (h.tOffset + 144 * row))) r
    let n := narrowBytes d.f.rank
    let ws := readRows (.tile t 1) n
      ((List.range p.n).map (fun i => opAt t d.f.b (64 * d.f.bStride * rank + n * i))) as.1
    ((ws.1.eff (productCore t ce p.set false 0 0 d.f.rank 0 ((d.run.rows.map (fun i => i % 256)).zip as.2)
      (ws.2.map (widenLine d.f.rank)))).eff (countPasses t 1)).eff (countAdapted t d.run.rows.length)

/-- The address of a listed row of an expert command (R263): row i of the window in the bay, at the ROW_BYTES by which the rows of the
last ROUTE were placed there (R253), or from A_ADDR on. -/
def expertAddr (p : Product) (t : Nat) (h : SlotGroup) (m : Dev) (i : Nat) : Nat :=
  if h.bay then loc (bayRowAddr ((hostDie m).getD 0) (1024 * h.window + i) m.coulter.rowBytes m) else rowAddr p t i

/-- Step 3: every row in home mode, the listed rows against their expert's weights in expert mode (R262, R263). -/
def basePasses (t ce rank rows g : Nat) (p : Product) (h : SlotGroup) (ds : List Delta) (r : Run) : Run :=
  if h.mode = 0 then baseRows t ce rank p.set p (rowAddr p t) 0 (groupRows rows g) r
  else
    Run.each ds (fun d r =>
      baseRows t ce rank p.set p (expertAddr p t h r.m) (64 * h.slotStride * d.run.slot) d.run.rows r) r

/-- The passes of one group of a command with ADAPT; the answer names the rows to drain. -/
def adaptGroup (t ce rank rows g : Nat) (p : Product) (h : SlotGroup) (runs : List RunOf) (r : Run) : Run × List Nat :=
  let x := deltasOf t h.site (runs.filter (fun u => u.quarter = g)) r
  if x.1.st ≠ .ok then (x.1, [])
  else
    let addr := fun i => if h.mode = 0 then rowAddr p t i else expertAddr p t h x.1.m i
    let r1 := Run.each (packSets (adaptersOf x.2) 0 []) (aPasses t ce p addr h x.2) x.1
    let r2 := basePasses t ce rank rows g p h x.2 r1
    (Run.each x.2 (bPass t ce rank p h) r2,
      if h.mode = 0 then groupRows rows g
      else ((x.2.map (fun d => d.run.rows)).flatten).mergeSort (fun a b => a ≤ b))

/-- The whole product of a command on a tile, each group followed by its drain: groups alternate between the sets from SET
on (R115); with ADAPT every group uses SET and the other set holds the A passes (R264, R265). -/
def runProduct (t ce rank rows : Nat) (p : Product) (header : Option Nat) (drain : Nat → List Nat → Run → Run) (r : Run) :
    Run :=
  match header with
  | none =>
    Run.each (List.range (groupCount rows)) (fun g r =>
      let set := (p.set + g) % 2
      let x := baseRows t ce rank set p (rowAddr p t) 0 (groupRows rows g) r
      if x.st = .ok then drain set (groupRows rows g) x else x) r
  | some off =>
    let h := readHeader t off r
    let runs := readRuns t h.2.runs h.1
    if runs.1.st ≠ .ok then runs.1
    else
      Run.each (List.range (groupCount rows)) (fun g r =>
        if r.st ≠ .ok then r
        else
          let x := adaptGroup t ce rank rows g p h.2 runs.2 r
          if x.1.st = .ok then drain p.set x.2 x.1 else x.1) runs.1

end Sys2Proof.Machine
end

