-- ==== Sys2Proof/Machine/Chanter.lean ====
section
/-! DEFINITION. The Chanter and the fixed engines' sequencers (chapter 4): which ring is served (R109, R131, R133), how a
command at FETCH is checked, started and finished (R110 to R119), groups and their commit acts (R120 to R125, R411, R414),
kill, halt and resume (R128 to R134). -/
namespace Sys2Proof.Machine

/-! ### Which ring is served (R109, R131) -/

/-- A ring is ready when it is enabled, not halted and not empty; an engine with no member fetches nothing (R176). -/
def ringReady (q : Nat) (m : Dev) : Bool :=
  ringEnabled q m && !ringHalted q m && decide (ringHead q m ≠ ringFetch q m) &&
    (!ringIsCe q || decide (memberCount (ringEngine q) m ≠ 0))

/-- Has a ring an open group? -/
def ringOpen (q : Nat) (m : Dev) : Bool := (dynOf q m).open_

/-- The ring of an engine whose group is open. -/
def openRing (e : Nat) (m : Dev) : Option Nat := (engineRings e).find? (fun q => ringOpen q m)

/-- Is a ring's work of the throughput class (R425)? Coulter and Drill are of the interactive class whatever the ring. -/
def ringThroughput (q : Nat) (m : Dev) : Bool :=
  !bitAt (rdF aBELLOWS_CLASS fBELLOWS_CLASS_INTERACTIVE m) (ringClass q m) && (ringIsCe q || 2 ≤ fixedKind q)

/-- The rings of an engine that could be served at a boundary: ready, not waiting there (R131), and not held by D (R426). -/
def candidates (e : Nat) (m : Dev) : List Nat :=
  (engineRings e).filter (fun q => ringReady q m && (dynOf q m).wait.isNone && !(throughputHeld m && ringThroughput q m))

/-- The turn of a class at an engine: the ring + 1 served last in it, and whether that ring's quantum has run. -/
def turnOf (e c : Nat) (m : Dev) : Nat × Bool := Sparse.get (0, false) (engDyn e m).turns c

/-- Serve the highest class; within it keep the current ring until its quantum has run, then go round robin (R109). A class keeps
its turn while a higher one is served. -/
def pickRing (e : Nat) (m : Dev) : Option Nat :=
  let cs := candidates e m
  let best := (cs.map (fun q => ringClass q m)).foldl min 3
  let top := cs.filter (fun q => ringClass q m = best)
  let t := turnOf e best m
  if t.1 = 0 then top.head?
  else if top.contains (t.1 - 1) && !t.2 then some (t.1 - 1)
  else match top.find? (fun q => t.1 ≤ q) with
    | some q => some q
    | none => top.head?

/-- Is a unit of a change set one that serves a ring, so that no group of the ring begins? An express ring is still served
(R166). -/
def holdsGroups (q : Nat) (m : Dev) (u : PlanUnit) : Bool :=
  match u with
  | .engine e => ringIsCe q && ringEngine q = e.val && decide (ringClass q m ≠ 0)
  | .fixed d k => !ringIsCe q && fixedDie q = d.val && fixedKind q = fixedNum k
  | .tile t => ringIsCe q && (ringTiles q m).contains (tileIdx t) && decide (ringClass q m ≠ 0)
  | .mover => !ringIsCe q && fixedKind q = 3
  | _ => false

/-- Does a change set keep a new group of a ring from beginning (R135, R164)? It does from the freeze on, whether its unit has
reported ready or not; a ring's own unit only once it is parked (DEDUCED, log entry 108). -/
def ringParked (q : Nat) (m : Dev) : Bool :=
  (m.plan.parked ++ m.plan.waiting).any (holdsGroups q m) ||
    m.plan.parked.any (fun u => match u with | .ring r => q = ringNum r | _ => false)

/-- May the command at FETCH of a ring start? -/
def ringCanStart (q : Nat) (m : Dev) : Bool :=
  let x := dynOf q m
  !stopNow m && ringReady q m && x.ended.isNone && x.wait.isNone && x.fence.isNone &&
    (x.open_ || (!ringParked q m && decide (openRing (ringEngine q) m = none) && decide (pickRing (ringEngine q) m = some q)))

/-- A ring is taken up in its turn: its quantum starts anew when another ring of its class was served or the last had run
(R133). -/
def takeUp (q : Nat) (m : Dev) : Dev :=
  let x := engDyn (ringEngine q) m
  setEngDyn (ringEngine q) ⟨some q, false, Sparse.upd (0, false) x.turns (ringClass q m) (q + 1, false)⟩ m

/-- A ring's quantum has run: its turn in its class ends at the next boundary. -/
def runOut (e q : Nat) (m : Dev) : Dev :=
  let x := engDyn e m
  setEngDyn e { x with
    expired := x.expired || decide (x.served = some q)
    turns := x.turns.map (fun t => if t.2.1 = q + 1 then (t.1, (q + 1, true)) else t) } m

/-- A parked compute engine that serves an express ring withdraws its ready report (R166). -/
def withdrawReady (q : Nat) (m : Dev) : Dev :=
  let mine := fun u : PlanUnit => match u with
    | .engine e => ringIsCe q && ringEngine q = e.val
    | .tile t => ringIsCe q && (ringTiles q m).contains (tileIdx t)
    | _ => false
  let us := m.plan.parked.filter mine
  if us.isEmpty then m
  else wrF aFPLAN_STATUS fFPLAN_STATUS_WAITING (min 255 (m.plan.waiting.length + us.length))
    { m with plan := { m.plan with parked := m.plan.parked.filter (fun u => !mine u), waiting := m.plan.waiting ++ us } }

/-- The group of a ring opens with its first command. -/
def openGroup (q : Nat) (m : Dev) : Dev :=
  if ringOpen q m then m else setDyn q { dynOf q m with open_ := true } (withdrawReady q (takeUp q m))

/-! ### Running a command -/

/-- What a command's work comes to: the module, and 0 or the reason its ring halts with. -/
structure Done where
  m : Dev
  reason : Nat
  deriving DecidableEq, Repr

/-- The reason of an outcome: 99 for an access that is held, so that the command is performed again once it no longer is; else the
halt's reason. -/
def reasonOf (st : AStat) (halt : Nat) : Nat :=
  match st with
  | .ok => 0
  | .held => 99
  | _ => halt

/-- A refused access or poisoned data keeps a command from its commit act: reason 2 (R121). -/
def Run.done (r : Run) : Done := ⟨r.m, reasonOf r.st 2⟩

/-- The tile that performs the act of a group that this command ends: the lead for RANK 0xFF, else the rank's (R121). -/
def actTile (q : Nat) (e : List Byte) (m : Dev) : Nat :=
  if cmdRank e = 0xFF then (leadOf (ringEngine q) m).getD 0 else (rankTile q (cmdRank e) m).getD 0

/-- Is a command a zero-work command (R125)? -/
def isZeroWork (e : List Byte) : Bool :=
  let op := cmdOpcode e
  if op = opGATHER then field e 14 4 = 0
  else if op = opMOVE then field e 20 4 = 0
  else (op = opGEMM || op = opFUSED || op = opATTEND || op = opNORM || op = opROUTE || op = opAPPEND) && cmdRows e = 0

/-- A command has been performed or handed off: FETCH passes it, and a commit word with a KIND ends the group. `z` says
whether it is a zero-work command. -/
def finishWith (q : Nat) (e : List Byte) (z : Bool) (m : Dev) : Dev :=
  let x := dynOf q m
  let control := cmdOpcode e = opWAIT || cmdOpcode e = opFENCE
  setDyn q { x with
      open_ := true
      wait := none
      fence := none
      zero := x.zero || z
      other := x.other || (!z && !control)
      overlong := false
      ended := if commitKind e = 0 then none else some (BitVec.ofNat 64 (commitWord e), actTile q e m) }
    (setFetch q ((ringFetch q m + 1) % 2 ^ 32) m)

/-- As `finishWith`, for a command whose entry alone says whether it is a zero-work command. -/
def finishCommand (q : Nat) (e : List Byte) (m : Dev) : Dev := finishWith q e (isZeroWork e) m

/-- A refused entry halts its ring, and FETCH stays on it (R118, DEDUCED, log entry 21). -/
def haltRefused (q : Nat) (m : Dev) : Dev :=
  let f := ringFetch q m
  let m1 := haltRing q 1 m
  if fRING_HEAD_REASON.get (ringRd q 2 m1) = 1 then setFetch q f m1 else m1

/-- Work of a ring, or of the bulk jobs, is held (R309, R311, R313, R314): the module keeps the faults, the reads of lent pages and the
wait for a frame that its attempt began, and the work waits for those pages. -/
def holdFor (q job : Nat) (new old : Dev) : Dev :=
  let pages := (new.tiers.waitFrame.filter (fun w => !old.tiers.waitFrame.contains w)).map (fun w => (q, w.1))
  let moves := new.tiers.waitMove.filter (fun w => !old.tiers.waitMove.contains w)
  let m1 := heldBy job new { old with tiers := { old.tiers with
    pageWaits := old.tiers.pageWaits ++ pages.filter (fun p => !old.tiers.pageWaits.contains p)
    waitMove := old.tiers.waitMove ++ moves } }
  forEach moves (fun w => makeRoom w.die w.pool) m1

/-- A command at FETCH, or a fetch, is held: the same row performs it again. -/
def holdBack (q : Nat) (new old : Dev) : Dev := holdFor q (ringJob q old) new old

/-- The command of opcode `op` at FETCH of a ring starts: fetched (reason 6), checked (reason 1), performed. A ring that
may not start, or whose entry is another opcode's, is left as it is: this row is not what happens there (DESIGN CHOICE, log entry 28). -/
def runCommand (q op : Nat) (ok : List Byte → Dev → Bool) (body : List Byte → Dev → Done) (m : Dev) : Dev :=
  if !ringCanStart q m then m
  else
    let r := fetchEntry q m
    if r.st = .held then holdBack q r.m m
    else if r.st ≠ .ok then haltRing q 6 r.m
    else if opcodes.contains (cmdOpcode r.data) && decide (cmdOpcode r.data ≠ op) then m
    else if !(entryOk r.data && rankOk q r.data r.m && ok r.data r.m) then haltRefused q r.m
    else
      let b := body r.data (openGroup q r.m)
      if b.reason = 0 then finishWith q r.data (isZeroWork r.data || windowEmpty q r.data r.m) (sendLent q b.m)
      else if b.reason = 99 then holdBack q b.m (openGroup q r.m)
      else haltRing q b.reason (dropLentWrites b.m)

/-- Every rank's share of a command, one after another, while none fails. -/
def eachRank (q : Nat) (e : List Byte) (f : Nat → Nat → Run → Run) (m : Dev) : Run :=
  (commandTiles q e m).foldl (fun r x => if r.st = .ok then f x.1 x.2 r else r) (Run.start m)

/-! ### WAIT, FENCE, COMMIT (R119) -/

/-- Has a counter reached a value? -/
def counterReached (ref value : Nat) (m : Dev) : Bool :=
  (arrival (refDie ref) (refCounter ref) m + 2 ^ 32 - value) % 2 ^ 32 < 2 ^ 31

/-- WAIT starts. It completes at once when its counter has been reached; else it waits, and one that stands at a commit
boundary leaves its engine free for other rings (R131). -/
def waitStart (q : Nat) (m : Dev) : Dev :=
  if !ringCanStart q m then m
  else
    let r := fetchEntry q m
    if r.st = .held then holdBack q r.m m
    else if r.st ≠ .ok then haltRing q 6 r.m
    else if opcodes.contains (cmdOpcode r.data) && decide (cmdOpcode r.data ≠ opWAIT) then m
    else if !(entryOk r.data && rankOk q r.data r.m) then haltRefused q r.m
    else if counterReached (field r.data 8 2) (field r.data 12 4) r.m then finishCommand q r.data (openGroup q r.m)
    else
      setDyn q { dynOf q r.m with
        wait := some (BitVec.ofNat 16 (field r.data 8 2), BitVec.ofNat 32 (field r.data 12 4),
          BitVec.ofNat 32 (field r.data 16 4)) } r.m

/-- WAIT_COMPLETE: the counter has reached VALUE; a WAIT at a boundary goes on when its ring is the one to be served there
(R109, R131). -/
def waitComplete (q : Nat) (m : Dev) : Dev :=
  let x := dynOf q m
  match x.wait with
  | none => m
  | some (c, v, _) =>
    if !counterReached c.toNat v.toNat m || (!x.open_ && !ringCanStart q (setDyn q { x with wait := none } m)) then m
    else finishCommand q (peekEntry q m) (openGroup q m)

/-- WAIT_TIMEOUT: the ring halts with reason 4. -/
def waitTimeout (q : Nat) (m : Dev) : Dev := if (dynOf q m).wait.isSome then haltRing q 4 m else m

/-- Is work that a ring's group handed off still outstanding: collectives, SIGNALs, copies and migrations? -/
def outstanding (q : Nat) (m : Dev) : Bool :=
  m.drone.colls.any (fun c => c.ring = q) || m.drone.signals.any (fun s => s.ring = q) ||
    m.net.reqs.any (fun r => waitsFor q r.waiter) || m.net.later.any (fun l => waitsFor q l.waiter) ||
    m.tiers.nvme.any (fun c => c.use.waits (waitsFor q)) || m.gathers.any (fun g => g.ring = q)

/-- Is a KIND 5 act of a ring still without its answer? -/
def actsOut (q : Nat) (m : Dev) : Bool :=
  m.net.reqs.any (fun r => match r.waiter with | .act s _ _ _ => s = q | _ => false)

/-- May a FENCE of a scope complete? -/
def fenceMet (q scope : Nat) (m : Dev) : Bool := !outstanding q m && !(scope = 2 && actsOut q m)

/-- FENCE: it completes at once when nothing is outstanding, else it waits. -/
def fenceStart (q : Nat) (m : Dev) : Dev :=
  if !ringCanStart q m then m
  else
    let r := fetchEntry q m
    if r.st = .held then holdBack q r.m m
    else if r.st ≠ .ok then haltRing q 6 r.m
    else if opcodes.contains (cmdOpcode r.data) && decide (cmdOpcode r.data ≠ opFENCE) then m
    else if !(entryOk r.data && rankOk q r.data r.m) then haltRefused q r.m
    else if fenceMet q (field r.data 8 1) r.m then finishCommand q r.data (openGroup q r.m)
    else
      let m1 := openGroup q r.m
      setDyn q { dynOf q m1 with fence := some (field r.data 8 1) } m1

/-- FENCE_COMPLETE: every earlier command has finished its writes. -/
def fenceComplete (q : Nat) (m : Dev) : Dev :=
  match (dynOf q m).fence with
  | none => m
  | some s => if fenceMet q s m then finishCommand q (peekEntry q m) m else m

/-! ### SIGNAL (R395) -/

/-- Send a SIGNAL's packet from a die to one member: its tag is counted, and the answer is awaited. -/
def signalTo (q die : Nat) (e data : List Byte) (coord : Nat) (s : SignalSt) (m : Dev) : SignalSt × Dev :=
  let key := die * 512 + coord
  let tag := Sparse.get 0 m.drone.stags key
  let arg := BitVec.ofNat 64 (tag % 2 ^ 18 + 2 ^ 18 * (field e 20 6 % 2 ^ 46))
  let m1 := { m with drone := { m.drone with stags := m.drone.stags.upd 0 key ((tag + 1) % 2 ^ 18) } }
  ({ s with left := s.left ++ [(coord, tag % 2 ^ 18)] },
    sendDraft ⟨ptSIGNAL, if ringClass q m = 0 then 0 else 1, die, placeWord coord die, ringJob q m, arg,
      toLe 2 (field e 10 2) ++ toLe 2 (field e 12 2) ++ [0, 0, 0, 0] ++ data, false, false⟩ m1)

/-- SIGNAL from one rank's tile. -/
def signalFrom (q t : Nat) (e : List Byte) (m : Dev) : Done :=
  let die := dieOf t
  let n := field e 14 2
  match groupOf (field e 8 1) m with
  | none => ⟨raise cDRONE_GROUP_INVALID (droneFault 8 die 0 (field e 8 1) (ringJob q m) 0 0 0 0 m), 5⟩
  | some g =>
    if isParked .drone m then ⟨m, 99⟩
    else if !isSet aDRONE_CTRL fDRONE_CTRL_ENABLE m then
      ⟨raise cDRONE_GROUP_INVALID (droneFault 8 die 0 (field e 8 1) (ringJob q m) 0 0 0 0 m), 5⟩
    else
      let r := (Run.start m).read (agentDrone die) (tl t (field e 16 4)) n
      if r.1.st ≠ .ok then r.1.done
      else
        match sendStop (ringJob q m) (protectedAt (tl t (field e 16 4)) n m) r.1.m with
        | some s => ⟨sendStopped s (selfCoord m) (ringJob q m) r.1.m, 9⟩
        | none =>
          let s := (List.range g.members).foldl (fun (x : SignalSt × Dev) i =>
            signalTo q die e r.2 (grpCoord g i) x.1 x.2) (⟨q, die, field e 8 1, field e 20 6 % 2 ^ 46, []⟩, r.1.m)
          ⟨setDyn q { dynOf q s.2 with bound := true }
            { s.2 with drone := { s.2.drone with signals := s.2.drone.signals ++ [s.1] } }, 0⟩

/-- SIGNAL of a ring, on each rank it names. -/
def signalBody (q : Nat) (e : List Byte) (m : Dev) : Done :=
  (commandTiles q e m).foldl (fun d x => if d.reason = 0 then signalFrom q x.2 e d.m else d) ⟨m, 0⟩

/-! ### Commit acts (R121 to R125, R411, R414) -/

/-- The agent that performs an act on a tile: its Chanter, also for a fixed engine's ring, where the tile that RANK names
stands as the command's rank (R106, R121, R414). -/
def actAgent (t : Nat) : Agent := .tile t 9

/-- KIND 1: the page-map flip. -/
def actFlip (q t : Nat) (w : Nat) (m : Dev) : Done :=
  let a := bitsAt w 0 43 * 8
  match flipRun a m with
  | some m1 => ⟨retryWaiting m1, 0⟩
  | none => ⟨flipRefused (if ringIsCe q then dieOf t else fixedDie q) a m, 5⟩

/-- The address of a session's committed length on the lead (R183). -/
def committedLenAddr (s : Nat) (m : Dev) : Nat :=
  rdF aPIPER_SESSION_BASE fPIPER_SESSION_BASE_BASE m * 65536 + 128 * s + 32

/-- KIND 2: the session's committed length grows. -/
def actAdvance (t : Nat) (w : Nat) (m : Dev) : Done :=
  let ag := actAgent t
  let grow := fun (n : Nat) (m : Dev) =>
    let a := committedLenAddr (bitsAt w 0 16) m
    let r := readVia ag a 4 m
    if r.st ≠ .ok then (⟨r.m, reasonOf r.st 5⟩ : Done)
    else
      let x := writeVia ag a (toLe 4 ((leNat r.data + n) % 2 ^ 32)) r.m
      ⟨x.m, reasonOf x.st 5⟩
  if bitAt w 27 then
    let r := readVia ag (tl t (8 * bitsAt w 28 22)) 8 m
    if r.st = .held then ⟨r.m, 99⟩
    else if r.st ≠ .ok || decide (leNat r.data ≥ 2 ^ 11) then ⟨r.m, 5⟩ else grow (leNat r.data) r.m
  else grow (bitsAt w 16 11) m

/-- KIND 3: a counter of this module grows. -/
def actCounter (w : Nat) (m : Dev) : Done := ⟨addArrival (bitsAt w 16 3) (bitsAt w 0 12) (bitsAt w 32 16) m, 0⟩

/-- Is a local address in Seedbed or the Field tier? -/
def inSeedbedOrField (a : Nat) : Bool :=
  match placeOf a with
  | .tile _ _ => true
  | .shared _ _ => true
  | .buffer _ _ => true
  | .fld _ => true
  | _ => false

/-- KIND 4: the descriptor update of R123, in one write, judged as a write or atomic (R102, R104). -/
def actUpdate (t : Nat) (w : Nat) (m : Dev) : Done :=
  let ag := actAgent t
  let r := readVia ag (tl t (16 * bitsAt w 0 21)) 24 m
  let target := field r.data 0 8
  if r.st = .held then ⟨r.m, 99⟩
  else if r.st ≠ .ok || target % 8 ≠ 0 || target ≥ 2 ^ 46 || !inSeedbedOrField target then ⟨r.m, 5⟩
  else
    match judge ag target 8 true r.m with
    | .at key g off =>
      if poisoned key 8 r.m then ⟨poisonMet true target g (firstBad key 8 r.m) off r.m, 5⟩
      else
        let mask := field r.data 16 8
        let new := (BitVec.ofNat 64 (ldN 8 key r.m) &&& ~~~ BitVec.ofNat 64 mask) |||
          (BitVec.ofNat 64 (field r.data 8 8) &&& BitVec.ofNat 64 mask)
        let x := writeVia ag target (toLe 8 new.toNat) r.m
        ⟨x.m, reasonOf x.st 5⟩
    | .refuseRegion g off => ⟨refuseRegion g off true r.m, 5⟩
    | .refuseMap => ⟨refuseMap ag r.m, 5⟩
    | .busy => ⟨r.m, 99⟩
    | _ => ⟨r.m, 5⟩

/-- Does the Chanter's RESULT lie in a write region of master 9 (R414)? -/
def resultOk (t result : Nat) (m : Dev) : Bool :=
  result = 0xFFFFFFFF ||
    (result % 8 = 0 && regionsAllow (tileRegions t 9 m) (result / 4096) ((result + 7) / 4096) true)

/-- Where a KIND 5 record's TARGET names; for OP 7 the rest of the address is 0. -/
def atomicTarget (rec_ : List Byte) (m : Dev) : Named :=
  let v := field rec_ 0 8
  match resolve v m with
  | .here a => if field rec_ 8 1 = 7 && 2 ^ 16 ≤ a then .refused else .here a
  | .there c a => if field rec_ 8 1 = 7 && 2 ^ 16 ≤ a then .refused else .there c a
  | .refused => .refused

/-- What the act of a KIND 5 comes to: 0 done, a halt's reason, or 99 when it is held or its request may not leave yet (R412). -/
def actAtomic (q t : Nat) (w : Nat) (m : Dev) : Done :=
  let ag := actAgent t
  let r := readVia ag (tl t (16 * bitsAt w 0 21)) 32 m
  let b := r.data
  let die := dieOf t
  let op := field b 8 1
  let size := field b 9 1
  let result := field b 12 4
  if r.st ≠ .ok then ⟨r.m, reasonOf r.st 5⟩
  else if !resultOk t result r.m then ⟨refuseRegion (.tile t 9) result true r.m, 5⟩
  else
    match atomicTarget b r.m with
    | .refused => ⟨accessFailed die 0 4 ptATOMIC 0 r.m, 5⟩
    | .here a =>
      let x := if field b 10 2 ≠ 0 then (⟨r.m, 1, 0⟩ : AtomicRes)
        else atomicApply ag a op size (field b 16 8) (field b 24 8) r.m
      if x.status = 99 then ⟨x.m, 99⟩
      else if x.status ≠ 0 then ⟨accessFailed die (selfCoord m) x.status ptATOMIC 0 x.m, 5⟩
      else ⟨writeResult t result x.old x.m, 0⟩
    | .there c a =>
      match sendStop (ringJob q m) false r.m with
      | some s => ⟨sendStopped s c (ringJob q m) r.m, 2⟩
      | none =>
        if fabricParked m || 1024 ≤ outstandingTo die c r.m then ⟨m, 99⟩
        else
          let s := nextSeq die c r.m
          let g := newTag s.2
          let pre := fabricPrefix a 0 0 0 (op + 256 * size + 65536 * field b 10 2)
          ⟨issue ⟨ptATOMIC, 4, die, placeWord c (if op = 7 then refDie a else homeDie a), ringJob q m, fabricArg g.1 s.1,
            pre ++ toLe 8 (field b 16 8) ++ toLe 8 (field b 24 8), false, false⟩
            (.act q t result (if size = 0 then 4 else 8)) pre none g.2, 0⟩

/-- The act of a commit word. -/
def commitAct (q t : Nat) (w : Nat) (m : Dev) : Done :=
  match bitsAt w 60 4 with
  | 1 => actFlip q t w m
  | 2 => actAdvance t w m
  | 3 => actCounter w m
  | 4 => actUpdate t w m
  | 5 => actAtomic q t w m
  | _ => ⟨m, 0⟩

/-- The committed sequence of a group at a ring's sequencer (R127). -/
def seqOf (q g : Nat) (m : Dev) : Nat :=
  if ringIsCe q then
    match leadOf (ringEngine q) m with
    | some t => rdF (aCHANTER_COLL_SEQ (dieOf t) (numOf t) g) fCHANTER_COLL_SEQ_SEQ m
    | none => 0
  else Sparse.get 0 m.fixSeq (256 * ringEngine q + g)

/-- SEQ[g] advances by one on every rank. -/
def advanceSeq (q g : Nat) (m : Dev) : Dev :=
  if ringIsCe q then
    forEach (ringTiles q m) (fun t =>
      countWrap (aCHANTER_COLL_SEQ (dieOf t) (numOf t) g) fCHANTER_COLL_SEQ_SEQ 1) m
  else { m with fixSeq := m.fixSeq.upd 0 (256 * ringEngine q + g) ((seqOf q g m + 1) % 2 ^ 32) }

/-- The instant after the act: norm-watch checks (R63), sequences, RERUN, and the boundary. -/
def commitDone (q : Nat) (m : Dev) : Dev :=
  let x := dynOf q m
  let m1 := forEach x.colls (advanceSeq q) (forEach x.watch watchCheck m)
  let m2 := setDyn q RingDyn.idle (setRerun q (ringFetch q m1) m1)
  if ringQuantum q m2 = 0 then runOut (ringEngine q) q m2 else m2

/-- Has an engine lost a rank of a ring (R121): a member's tile that is out of service? -/
def rankLost (q : Nat) (m : Dev) : Bool := (ringTiles q m).any (fun t => decide (roleOf t m = 0))

/-- GROUP_COMMIT_ACT: once every write has been acknowledged, the act of the group's KIND. A group of zero-work commands
performs only KIND 3 and is counted (R125). A ring that has lost a rank halts with reason 2. -/
def groupCommitAct (q : Nat) (m : Dev) : Dev :=
  let x := dynOf q m
  match x.ended with
  | none => m
  | some (w, t) =>
    if outstanding q m then m
    else if rankLost q m then haltRing q 2 m
    else
      let hollow := x.zero && !x.other
      let m1 := when hollow (fun m => forEach (ringTiles q m) (fun u =>
        countSat (onTile aCHANTER_STATS u) fCHANTER_STATS_EMPTY 1) m) m
      if hollow && decide (bitsAt w.toNat 60 4 ≠ 3) then commitDone q m1
      else
        let d := commitAct q t w.toNat m1
        if d.reason = 0 then commitDone q d.m
        else if d.reason = 99 then heldBy (ringJob q m) d.m m
        else haltRing q d.reason d.m

/-! ### Kills, halts and budgets (R128 to R134) -/

/-- GROUP_KILL. -/
def groupKill (q : Nat) (m : Dev) : Dev := if ringOpen q m then killRing q m else m

/-- The open ring of an engine that pre-emption may kill: not one whose collective has bound or whose SIGNAL has been sent
(R129). -/
def preemptible (e : Nat) (m : Dev) : Option Nat :=
  (openRing e m).filter (fun q => !(dynOf q m).bound && (boundOf q m).isEmpty)

/-- Is a ring of a class ready at an engine? -/
def classReady (e c : Nat) (m : Dev) : Bool := (candidates e m).any (fun q => ringClass q m = c)

/-- EXPRESS_PREEMPT: an express ring is ready and the served ring is of another class. -/
def expressPreempt (e : Nat) (m : Dev) : Dev :=
  match preemptible e m with
  | some q => if classReady e 0 m && decide (ringClass q m ≠ 0) then killRaw q m else m
  | none => m

/-- PREEMPT_WAIT_EXPIRY: an interactive ring has waited PREEMPT_WAIT on a throughput or background ring's group. -/
def preemptWaitExpiry (e : Nat) (m : Dev) : Dev :=
  match preemptible e m with
  | some q => if classReady e 1 m && decide (2 ≤ ringClass q m) then killRaw q m else m
  | none => m

/-- QUANTUM_EXPIRY: the served ring's quantum has run. -/
def quantumExpiry (e : Nat) (m : Dev) : Dev :=
  match (engDyn e m).served with
  | some q => runOut e q m
  | none => m

/-- OVERLONG: a command of an open group has run past LIMIT; once for each command (R132). It is counted on every rank's tile and
raised on every die of the engine, also for a command that names one rank (DESIGN CHOICE, log entry 106). -/
def overlongSeen (q : Nat) (m : Dev) : Dev :=
  let x := dynOf q m
  if !x.open_ || x.overlong then m
  else
    let m1 := setDyn q { x with overlong := true } m
    forEach (ringDies q m) (fun d => raise (cDIE_CHANTER_OVERLONG d))
      (forEach (ringTiles q m) (fun t => countSat (onTile aCHANTER_STATS t) fCHANTER_STATS_OVERLONG 1) m1)

/-- HARD_LIMIT_EXPIRY: the group is killed and the ring halts with reason 3. -/
def hardLimitExpiry (q : Nat) (m : Dev) : Dev := if ringOpen q m then haltRing q 3 m else m

/-- RING_HEAD_WRITE (R108, R143): HEAD takes the value, or the write is an overrun and halts the ring. -/
def ringHeadWrite (q head : Nat) (m : Dev) : Dev :=
  if (head + 2 ^ 32 - ringRerun q m) % 2 ^ 32 > 2 ^ ringSize q m then
    (if ringHalted q m then m else haltRing q 7 m)
  else setHead q head m

/-- Clear the halt of a ring. -/
def clearHalt (q : Nat) (m : Dev) : Dev :=
  ringWr q 2 (fRING_HEAD_REASON.put (fRING_HEAD_HALTED.put (ringRd q 2 m) 0) 0) m

/-- The KIND 5 acts of a ring that failed and are kept (R414). -/
def keptActs (q : Nat) (m : Dev) : List Request :=
  m.net.failed.filter (fun r => match r.waiter with | .act s _ _ _ => s = q | _ => false)
def dropKept (q : Nat) (m : Dev) : Dev :=
  { m with net := { m.net with failed := m.net.failed.filter (fun r => match r.waiter with
      | .act s _ _ _ => s ≠ q
      | _ => true) } }

/-- RING_RESUME, ACTION 1: kept records are sent again with their REQ_ID, then the group reruns. -/
def ringResume (q : Nat) (m : Dev) : Dev :=
  if !ringHalted q m then m
  else
    let m1 := forEach (keptActs q m) (fun r m =>
      let s := sendAgain r.die r.p m
      { s with net := { s.net with reqs := s.net.reqs ++ [r] } }) (dropKept q m)
    setFetch q (ringRerun q m1) (clearHalt q m1)

/-- RING_DISCARD, ACTION 2: RERUN and FETCH take HEAD. -/
def ringDiscard (q : Nat) (m : Dev) : Dev :=
  if !ringHalted q m then m
  else
    let m1 := clearHalt q (dropKept q m)
    setRerun q (ringHead q m1) (setFetch q (ringHead q m1) m1)

/-- RING_HALT_ACTION, ACTION 3. -/
def ringHaltAction (q : Nat) (m : Dev) : Dev := if ringHalted q m then m else haltRing q 8 m

/-- ARRIVAL_COUNTER_WRITE (R145): the write applies first, then the increment of the same cycle. -/
def arrivalWrite (d c value inc : Nat) (m : Dev) : Dev :=
  addArrival d c inc (wrF (aDIE_ARRIVAL d c) fDIE_ARRIVAL_COUNT value m)

/-! ### The commands -/

def execWait (q : RingRef) (s : State) : Host.Outcome State Fault Refusal :=
  .next { s with dev := waitStart (ringNum q) s.dev }
def execWaitComplete (q : RingRef) (s : State) : Host.Outcome State Fault Refusal :=
  .next { s with dev := waitComplete (ringNum q) s.dev }
def execWaitTimeout (q : RingRef) (s : State) : Host.Outcome State Fault Refusal :=
  .next { s with dev := waitTimeout (ringNum q) s.dev }
def execSignal (q : RingRef) (s : State) : Host.Outcome State Fault Refusal :=
  .next { s with dev := runCommand (ringNum q) opSIGNAL (fun _ _ => true) (signalBody (ringNum q)) s.dev }
def execFence (q : RingRef) (s : State) : Host.Outcome State Fault Refusal :=
  .next { s with dev := fenceStart (ringNum q) s.dev }
def execFenceComplete (q : RingRef) (s : State) : Host.Outcome State Fault Refusal :=
  .next { s with dev := fenceComplete (ringNum q) s.dev }
def execCommit (q : RingRef) (s : State) : Host.Outcome State Fault Refusal :=
  .next { s with dev := runCommand (ringNum q) opCOMMIT (fun _ _ => true) (fun _ m => ⟨m, 0⟩) s.dev }
def execGroupCommitAct (q : RingRef) (s : State) : Host.Outcome State Fault Refusal :=
  .next { s with dev := groupCommitAct (ringNum q) s.dev }
def execAtomicCompletion (q : RingRef) (status : BitVec 8) (old : BitVec 64) (s : State) :
    Host.Outcome State Fault Refusal :=
  .next { s with dev := atomicCompletion (ringNum q) status.toNat old.toNat s.dev }
def execGroupKill (q : RingRef) (s : State) : Host.Outcome State Fault Refusal :=
  .next { s with dev := groupKill (ringNum q) s.dev }
def execRingHeadWrite (q : RingRef) (head : BitVec 32) (s : State) : Host.Outcome State Fault Refusal :=
  .next { s with dev := ringHeadWrite (ringNum q) head.toNat s.dev }
def execRingResume (q : RingRef) (s : State) : Host.Outcome State Fault Refusal :=
  .next { s with dev := ringResume (ringNum q) s.dev }
def execRingDiscard (q : RingRef) (s : State) : Host.Outcome State Fault Refusal :=
  .next { s with dev := ringDiscard (ringNum q) s.dev }
def execRingHaltAction (q : RingRef) (s : State) : Host.Outcome State Fault Refusal :=
  .next { s with dev := ringHaltAction (ringNum q) s.dev }
def execPreemptWaitExpiry (e : EngineRef) (s : State) : Host.Outcome State Fault Refusal :=
  .next { s with dev := preemptWaitExpiry (engineNum e) s.dev }
def execExpressPreempt (e : EngineRef) (s : State) : Host.Outcome State Fault Refusal :=
  .next { s with dev := expressPreempt (engineNum e) s.dev }
def execQuantumExpiry (e : EngineRef) (s : State) : Host.Outcome State Fault Refusal :=
  .next { s with dev := quantumExpiry (engineNum e) s.dev }
def execOverlong (q : RingRef) (s : State) : Host.Outcome State Fault Refusal :=
  .next { s with dev := overlongSeen (ringNum q) s.dev }
def execHardLimitExpiry (q : RingRef) (s : State) : Host.Outcome State Fault Refusal :=
  .next { s with dev := hardLimitExpiry (ringNum q) s.dev }
def execArrivalCounterWrite (die : Die) (counter : Fin 4096) (value increment : BitVec 32) (s : State) :
    Host.Outcome State Fault Refusal :=
  .next { s with dev := arrivalWrite die.val counter.val value.toNat increment.toNat s.dev }

end Sys2Proof.Machine
end

