-- ==== Sys2Proof/Machine/Gemm.lean ====
section
/-! DEFINITION. The compute commands that multiply and normalise (chapters 2, 3, 4, 8, 13): GEMM (R114, R115), FUSED (R116,
R380, R381) and NORM (R117, R62). -/
namespace Sys2Proof.Machine

/-! ### GEMM -/

/-- The wide accumulators of reference mode (R77): the scratch region is written and read by the Tine, and what it then
holds is not defined, so it holds free bytes (DESIGN CHOICE, log entry 5). -/
def auxRegion (t aux : Nat) (r : Run) : Run :=
  let w := r.write (.tile t 3) (tl t aux) (freeBytes 1310720 r.m)
  ((w.eff (useFree 1310720)).read (.tile t 3) (tl t aux) 1310720).1

/-- Drain the rows of a group to their output rows (R81); OUT_FMT 7 drains nothing. -/
def gemmDrain (t ce : Nat) (e : List Byte) (p : Product) (set : Nat) (rows : List Nat) (r : Run) : Run :=
  if field e 43 1 = 7 then r
  else
    Run.each rows (fun i r =>
      let x := drainEntry t ce set (i % 256) p.n (field e 43 1) (isBf16 p.fa) p.window (signed 8 (field e 44 1))
        (field e 46 1) r
      x.1.write (.tile t 0) (tl t (field e 24 4 + field e 28 4 * i)) x.2) r

/-- Does a GEMM use the Tine: an epilogue, a quantised output, reference mode, or Piccolo's t? -/
def gemmTine (e : List Byte) (p : Product) : Bool :=
  field e 46 1 ≠ 0 || field e 43 1 = 5 || field e 43 1 = 6 || isBf16 p.fa || p.adapt

/-- A GEMM on one rank. -/
def gemmTile (q : Nat) (e : List Byte) (rank t : Nat) (r : Run) : Run :=
  let p := productOf e
  let r0 := if isBf16 p.fa then auxRegion t (field e 48 4) r else r
  let r1 := runProduct t (ringCe q) rank (cmdRows e) p (if p.adapt then some (field e 48 4) else none)
    (gemmDrain t (ringCe q) e p) r0
  r1.eff (when (gemmTine e p) (useTine t))

/-- A ring keeps the header that its last GEMM with ADAPT named (R261). -/
def noteAdapt (q : Nat) (e : List Byte) (m : Dev) : Dev :=
  if (productOf e).adapt then { m with lastAdapt := m.lastAdapt.upd 0 q (field e 48 4 + 1) } else m

/-- GEMM. A command with no rows does no compute and makes no write (R125); its header is kept all the same (R261). -/
def gemmBody (q : Nat) (e : List Byte) (m : Dev) : Done :=
  if cmdRows e = 0 then ⟨noteAdapt q e m, 0⟩ else ((eachRank q e (gemmTile q e) m).eff (noteAdapt q e)).done

def gemmRun (q : Nat) (m : Dev) : Dev := runCommand q opGEMM (adaptOk q) (gemmBody q) m

/-! ### FUSED -/

/-- The collective of a FUSED (R116, R379). For COMBINE, ROOT carries TOP_K and COUNT is not used (R381, R390). -/
def fusedDesc (q : Nat) (e : List Byte) (m : Dev) : CollDesc where
  op := field e 42 1
  ctype := field e 43 1
  root := field e 46 2
  count := cmdRows e * field e 36 2
  n := field e 36 2
  outFmt := field e 39 1
  shift := signed 8 (field e 40 1)
  epilogue := field e 50 1
  recvAddr := field e 24 4
  counter := field e 48 2
  express := ringClass q m = 0

/-- May the group and the Drone take the collective (R380)? The group's index and ENABLE are one cause. -/
def targetBad (group : Nat) (m : Dev) : Bool := (groupOf group m).isNone || !isSet aDRONE_CTRL fDRONE_CTRL_ENABLE m

/-- The other targets that the Drone refuses: ROOT, the work area, and results that are not whole blocks. -/
def targetRefused (d : CollDesc) (g : Grp) (m : Dev) : Bool :=
  ((d.op = 3 || d.op = 4) && decide (g.members ≤ d.root)) ||
  decide (2 ^ workLog2 m < wireSize d.ctype * (if d.op = 2 then d.count * g.members else d.count)) ||
  ((d.outFmt = 5 || d.outFmt = 6) && (List.range g.members).any (fun i => (resultSpan g d i).len % 16 ≠ 0))

/-- Drain a group of rows into the work area in COLL_TYPE form (R380); the epilogue and the shift of an L80 row wait for
the result. -/
def fusedDrain (t ce : Nat) (e : List Byte) (p : Product) (set : Nat) (rows : List Nat) (r : Run) : Run :=
  let ct := field e 43 1
  let out := if ct = 0 then 4 else ct - 1
  Run.each rows (fun i r =>
    let x := drainEntry t ce set (i % 256) p.n out false 0 (signed 8 (field e 40 1)) 0 r
    x.1.write (.tile t 0) (tl t (workOffset (field e 45 1) r.m + wireSize ct * p.n * i)) x.2) r

/-- The product of a FUSED on one rank. -/
def fusedProduct (q : Nat) (e : List Byte) (rank t : Nat) (r : Run) : Run :=
  let p := productOf e
  if cmdRows e = 0 then r
  else runProduct t (ringCe q) rank (cmdRows e) p (if p.adapt then headerOffset q e r.m else none)
    (fusedDrain t (ringCe q) e p) r

/-- What a COMBINE lane sends (R381): each listed row of its window to lane k of its SOURCE, then an end marker with the
count to every member (R251). -/
def combineQueue (q : Nat) (e : List Byte) (d : CollDesc) (g : Grp) (t : Nat) (r : Run) : Run × List Outgoing :=
  let off := (headerOffset q e r.m).getD 0
  let h := if cmdRows e = 0 then (r, slotGroupOf []) else readHeader t off r
  let runs := if cmdRows e = 0 then (h.1, []) else readRuns t h.2.runs h.1
  let rows := ((runs.2.map (fun u => u.rows)).flatten).mergeSort (fun a b => a ≤ b)
  let x := readRows (agentDrone (dieOf t)) (4 * d.n)
    (rows.map (fun i => tl t (workOffset (field e 45 1) r.m + 4 * d.n * i))) runs.1
  let chunks := (rows.zip x.2).map (fun p =>
    let rr := r.m.coulter.returns.getD (1024 * h.2.window + p.1) []
    Outgoing.mk (rrSource rr) 3 0 (rrRow rr * d.root + rrChoice rr) d.n 0 ptCHUNK true p.2)
  (x.1, chunks ++ (List.range g.members).map (fun i =>
    Outgoing.mk i 3 0 0 (chunks.filter (fun o => o.member = i)).length 1 ptMARKER false []))

/-- A lane that has not begun. -/
def newLane (lane t : Nat) (vals : Sparse Nat) (queue : List Outgoing) : LaneSt :=
  ⟨lane, t, false, 0, false, vals, [], [], [], [], queue, 0, [], [], false⟩

/-- The lane of one rank of a FUSED, once its product is in the work area. -/
def fusedLane (q : Nat) (e : List Byte) (d : CollDesc) (g : Grp) (rank t : Nat) (r : Run) : Run × LaneSt :=
  if byMarkers d.op then
    let x := combineQueue q e d g t r
    (x.1, newLane rank t [] x.2)
  else
    let x := laneInput (field e 45 1) d g t r
    (x.1, newLane rank t x.2 [])

/-- Hand a collective to the Drone: it has a name (R127) and waits to bind. `prot` says whether its data lies in a protected range
(R366). -/
def startColl (q ctx group : Nat) (d : CollDesc) (prot : Bool) (lanes : List LaneSt) (m : Dev) : Dev :=
  let x := dynOf q m
  let seq := (seqOf q group m + (x.colls.filter (fun g => g = group)).length) % 2 ^ 32
  let c : Coll := ⟨ctx, ringJob q m, group, seq, attemptOf group m, q, d, prot, fingerprint d group seq, lanes⟩
  setDyn q { x with colls := x.colls ++ [group] } { m with drone := { m.drone with colls := m.drone.colls ++ [c] } }

/-- Does the work area of a FUSED lie in a protected range on a rank (R317, R366)? -/
def fusedProtected (e : List Byte) (d : CollDesc) (ts : List (Nat × Nat)) (m : Dev) : Bool :=
  ts.any (fun x => protectedAt (tl x.2 (workOffset (field e 45 1) m)) (wireSize d.ctype * d.count) m)

/-- A target that the Drone refuses for its group (R380). -/
def groupInvalid (q die ctx group : Nat) (m : Dev) : Dev :=
  raise cDRONE_GROUP_INVALID (droneFault 8 die ctx group (ringJob q m) 0 0 0 0 m)

/-- FUSED: the target, the product, the lanes, then the collective is the Drone's. -/
def fusedBody (q : Nat) (e : List Byte) (m : Dev) : Done :=
  let d := fusedDesc q e m
  let ts := commandTiles q e m
  let die := ((ts.head?).map (fun x => dieOf x.2)).getD 0
  match groupOf (field e 44 1) m with
  | none => ⟨groupInvalid q die (field e 45 1) (field e 44 1) m, 5⟩
  | some g =>
    if targetBad (field e 44 1) m then ⟨groupInvalid q die (field e 45 1) (field e 44 1) m, 5⟩
    else if targetRefused d g m then ⟨m, 5⟩
    else
      let r := eachRank q e (fusedProduct q e) m
      let x := ts.foldl (fun (p : Run × List LaneSt) rt =>
        let y := fusedLane q e d g rt.1 rt.2 p.1
        (y.1, p.2 ++ [y.2])) (r, [])
      if x.1.st ≠ .ok then x.1.done
      else ⟨startColl q (field e 45 1) (field e 44 1) d (fusedProtected e d ts x.1.m) x.2 x.1.m, 0⟩

def fusedRun (q : Nat) (m : Dev) : Dev := runCommand q opFUSED (adaptOk q) (fusedBody q) m

/-! ### NORM (R117, PRESUMED, log entry 20) -/

/-- FP32 values of bytes. -/
def f32s (n : Nat) (b : List Byte) : List F32 := (List.range n).map (fun i => BitVec.ofNat 32 (field b (4 * i) 4))

/-- FP32 values as rows of an output format, in runs of 256 for GF4 and GI4 (R113, R81). -/
def rowsOfF32 (out : Nat) (xs : List F32) : List Byte × List QuantBlock :=
  if out = 5 || out = 6 then
    let parts := (List.range ((xs.length + 255) / 256)).map (fun i => rowOfF32 out ((xs.drop (256 * i)).take 256))
    ((parts.map Prod.fst).flatten, (parts.map Prod.snd).flatten)
  else rowOfF32 out xs

/-- The bytes of a row of WIDTH elements in an output format. -/
def outRowBytes (out width : Nat) : Nat := if out = 5 || out = 6 then 144 * ((width + 255) / 256) else fmtBytes out * width

/-- The sum of the squares of a row in the order of R84. -/
def squareSum (xs : List F32) : F32 := laneSum (xs.map (fun x => f32Mul x x))

/-- The root mean square of a slot's elements (R62). -/
def rmsOf (xs : List F32) : F32 := f32Sqrt (f32Div (squareSum xs) (f32Nat xs.length))

/-- The slots of the step's table as it lies in a tile (R180). -/
def tileSlots (t : Nat) (m : Dev) : List Slot :=
  slotsFrom (shapeSlots m) (ldBytes (tileAddr t (stepOffset m + 64)) (32 * shapeSlots m) m)

/-- Does a slot hold a row? -/
def slotHolds (row : Nat) (s : Slot) : Bool := s.kind ≠ 0 && decide (s.rowBase ≤ row) && decide (row < s.rowBase + s.rows)

/-- The slot whose rows hold a row; with no step tables the row's own number. -/
def slotOfRow (t row : Nat) (m : Dev) : Option Nat :=
  if isSet aPIPER_CTRL fPIPER_CTRL_ENABLE m then
    (List.range (shapeSlots m)).find? (fun i => ((tileSlots t m)[i]?).any (slotHolds row))
  else some (row % 1024)

/-- The norm-watch samples of a NORM on a tile: one r for each slot with a row in the command, over all its rows in order, by
ascending slot, when the command carries the flag and the tile's watch is on (R62, R63, R66; DEDUCED, log entry 96). -/
def watchOf (t : Nat) (e : List Byte) (rows : List (Nat × List F32)) (m : Dev) : List WatchItem :=
  if bitAt (field e 27 1) 0 && isSet (onTile aTILE_NORMWATCH_CTRL t) fTILE_NORMWATCH_CTRL_ENABLE m then
    let held := rows.filterMap (fun x => (slotOfRow t x.1 m).map (fun s => (s, x.2)))
    let slots := ((held.map Prod.fst).eraseDups).mergeSort (fun a b => a ≤ b)
    slots.map (fun s => ⟨t, field e 26 1, s, rmsOf ((held.filter (fun h => h.1 = s)).map Prod.snd).flatten⟩)
  else []

/-- The row that a NORM normalises: IN, or with RESIDUAL the FP32 sum of IN and the residual (DESIGN CHOICE, log entry 20). -/
def normInput (t : Nat) (e : List Byte) (row : Nat) (r : Run) : Run × List F32 :=
  let w := field e 20 4
  let ag := Agent.tile t 3
  let x := r.read ag (tl t (field e 8 4 + 4 * w * row)) (4 * w)
  if bitAt (field e 27 1) 1 then
    let y := x.1.read ag (tl t (field e 32 4 + 4 * w * row)) (4 * w)
    (y.1, ((f32s w x.2).zip (f32s w y.2)).map (fun p => f32Add p.1 p.2))
  else (x.1, f32s w x.2)

/-- The output elements of a row: each a function of the element, its GAMMA and the row's sums in the order of R84. -/
def normOutput (e : List Byte) (gamma xs : List F32) : List F32 :=
  let eps : F32 := BitVec.ofNat 32 (field e 28 4)
  (xs.zip gamma).map (fun p => Config.normElement (field e 24 1) xs.length (squareSum xs) (laneSum xs) eps p.1 p.2)

/-- The exit of a row (R232): while PIPER_CTRL.ENABLE is 1, a row whose byte of the exit table is still 0xFF and that passes the exit
test has the NORM's LAYER written there by the Tine (DESIGN CHOICE, log entry 109). -/
def exitRow (t : Nat) (e : List Byte) (row : Nat) (xs : List F32) (r : Run) : Run :=
  if isSet aPIPER_CTRL fPIPER_CTRL_ENABLE r.m && Config.exitTest (field e 26 1) xs then
    let x := r.read (.tile t 3) (tl t (exitOffset r.m + row)) 1
    if leNat x.2 = 0xFF then x.1.write (.tile t 3) (tl t (exitOffset r.m + row)) (toLe 1 (field e 26 1)) else x.1
  else r

/-- One row of a NORM on a tile: its bytes are written, and the row joins those that the norm watch samples. -/
def normRow (t : Nat) (e : List Byte) (gamma : List F32) (x : Run × List (Nat × List F32)) (row : Nat) :
    Run × List (Nat × List F32) :=
  let y := normInput t e row x.1
  let out := rowsOfF32 (field e 25 1) (normOutput e gamma y.2)
  (((exitRow t e row y.2 y.1).eff (quantCauses t out.2)).write (.tile t 3)
    (tl t (field e 12 4 + outRowBytes (field e 25 1) (field e 20 4) * row)) out.1, x.2 ++ [(row, y.2)])

/-- Samples wait for the group's commit (R63). -/
def stageWatch (q : Nat) (ws : List WatchItem) (m : Dev) : Dev :=
  setDyn q { dynOf q m with watch := (dynOf q m).watch ++ ws } m

/-- A NORM on one rank. -/
def normTile (q : Nat) (e : List Byte) (_rank t : Nat) (r : Run) : Run :=
  let w := field e 20 4
  let g := r.read (.tile t 3) (tl t (field e 16 4)) (4 * w)
  let x := (List.range (cmdRows e)).foldl (normRow t e (f32s w g.2)) (g.1, [])
  (x.1.eff (fun m => stageWatch q (watchOf t e x.2 m) m)).eff (useTine t)

/-- NORM. -/
def normBody (q : Nat) (e : List Byte) (m : Dev) : Done :=
  if cmdRows e = 0 then ⟨m, 0⟩ else (eachRank q e (normTile q e) m).done

def normRun (q : Nat) (m : Dev) : Dev := runCommand q opNORM (fun _ _ => true) (normBody q) m

/-! ### The commands -/

def execGemm (q : RingRef) (s : State) : Host.Outcome State Fault Refusal :=
  .next { s with dev := gemmRun (ringNum q) s.dev }
def execFused (q : RingRef) (s : State) : Host.Outcome State Fault Refusal :=
  .next { s with dev := fusedRun (ringNum q) s.dev }
def execNorm (q : RingRef) (s : State) : Host.Outcome State Fault Refusal :=
  .next { s with dev := normRun (ringNum q) s.dev }

end Sys2Proof.Machine
end

