-- ==== Sys2Proof/Machine/Attend.lean ====
section
/-! DEFINITION. ATTEND and APPEND (chapter 7): the step's slots on a tile, keys and values in their pages (R211, R214), bias
and mask (R230), the scores, their softmax and the weighted sum (R228, R229), and the Drill's writes (R226, R227). -/
namespace Sys2Proof.Machine

/-! ### Slots and pages as a die sees them -/

/-- The directory of a die in the place of D0's, for lookups (R212). -/
def viewDir (d : Nat) (m : Dev) : Dev := wr (aDRILL_KV_DIR 0) (rd (aDRILL_KV_DIR d) m) m

/-- Is a session on this module, as a die sees it (R216)? With the directory off every slot counts as not IN_USE. -/
def onModule (d s : Nat) (m : Dev) : Bool := kvOn d m && recInUse s (viewDir d m)

/-- The place of page j of a session in a layer, when the page is allocated. -/
def pagePlace (d s l j : Nat) (m : Dev) : Option Nat :=
  let v := viewDir d m
  let e := pageEntry s j v
  if j < recPages s v && entryValid e then some (unitAddr (if entryPaused e then 1 else 0) l (entryUnit e) v) else none

/-- The places of a token of a page: keys, key scales, values, value scales (R211). -/
def tokenPlaces (base T tok : Nat) : List (Nat × Nat) :=
  [(base + 128 * tok, 128), (base + 128 * T + 8 * tok, 8), (base + 136 * T + 128 * tok, 128), (base + 264 * T + 8 * tok, 8)]

/-- Slots of a command's table: ROWS of them from SLOT_TABLE on (DEDUCED, log entry 32). -/
def readSlots (ag : Agent) (t off n : Nat) (r : Run) : Run × List Slot :=
  let x := r.read ag (tl t off) (32 * n)
  (x.1, slotsFrom n x.2)

/-! ### The bias table (R230) -/

structure BiasHdr where
  heads : Nat
  buckets : Nat
  exact : Nat
  window : Nat
  sink : Nat
  deriving DecidableEq, Repr

def biasHdrOf (b : List Byte) : BiasHdr := ⟨field b 0 2, field b 2 2, field b 4 2, field b 8 4, field b 12 4⟩

/-- The limits of a header for a command's query heads. -/
def biasHdrOk (b : List Byte) (kvHead perKv : Nat) : Bool :=
  let h := biasHdrOf b
  1 ≤ h.buckets && h.buckets ≤ 4096 && ((List.range 12).map (fun i => 2 ^ i)).contains h.exact && zeroAt b 6 2 &&
    zeroAt b 16 48 && kvHead * perKv + perKv - 1 < h.heads

/-- The bucket of a distance. -/
def bucketOf (h : BiasHdr) (d : Nat) : Nat :=
  min (if d < h.exact then d else h.exact + bitLen d - bitLen h.exact) (h.buckets - 1)

/-- What ATTEND refuses when it starts: a mask without a table, a header that breaks its limits. A header that cannot be
read is left to the command's own read. -/
def attendStartOk (q : Nat) (e : List Byte) (m : Dev) : Bool :=
  if field e 20 6 = 0 then field e 30 1 = 0
  else (commandTiles q e m).all (fun rt =>
    let h := (Run.start m).read (.tile rt.2 3) (opAddr rt.2 (field e 20 6)) 64
    decide (h.1.st ≠ .ok) || biasHdrOk h.2 (field e 28 1) (field e 29 1))

/-! ### Scores and weights (R229) -/

/-- An E4M3 code as sign × magnitude in units of 2^−9; none for NaN. -/
def e4m3Int (c : Nat) : Option Int :=
  match decodeFloat fmtE4M3 c with
  | .fin s m k => some (if s then -((m * 2 ^ (k + 9).toNat : Nat) : Int) else ((m * 2 ^ (k + 9).toNat : Nat) : Int))
  | _ => none

/-- A byte of a list as a code. -/
def codeAt (b : List Byte) (i : Nat) : Nat := (b.getD i 0).toNat

/-- The product of E4M3 codes; none when one is NaN. -/
def codeProduct (cs : List Nat) : Option Int :=
  cs.foldl (fun p c => match p, e4m3Int c with | some a, some b => some (a * b) | _, _ => none) (some 1)

/-- A sum of products; none when one poisons. -/
def sumSome (xs : List (Option Int)) : Option Int :=
  xs.foldl (fun p x => match p, x with | some a, some b => some (a + b) | _, _ => none) (some 0)

/-- A sum of contributions in units of 2^−24, drained to FP32; a NaN operand gives NaN. -/
def drainSum (x : Option Int) : F32 :=
  match x with
  | some v => BitVec.ofNat 32 (roundInt fmtFP32 v (-24))
  | none => f32NaN

/-- The score of a query and a key, each 128 elements and 8 block scales: every block's exact contribution truncated to a
multiple of 2^−24. -/
def scoreSum (qe qs ke ks : List Byte) : Option Int :=
  sumSome ((List.range 8).map (fun g =>
    match codeProduct [codeAt qs g, codeAt ks g],
      sumSome ((List.range 16).map (fun i => codeProduct [codeAt qe (16 * g + i), codeAt ke (16 * g + i)])) with
    | some s, some v => some (scaleInt (s * v) (-12))
    | _, _ => none))

/-- A key and a value at a position. -/
structure KvTok where
  p : Nat
  k : List Byte
  ks : List Byte
  v : List Byte
  vs : List Byte
  deriving DecidableEq, Repr

/-- A block of weights in E4M3: its scale code and its element codes (R229, step 4). -/
def weightBlock (es : List F32) : Nat × List Nat :=
  let mags := es.map mag149
  let top := mags.foldl max 0
  let sc := ((List.range 0x7F).find? (fun c => e4m3Mag 149 c * 448 ≥ top)).getD 0x7E
  let cands := (List.range 0x7F).map (fun c => (e4m3Mag 9 c, c))
  (sc, (es.zip mags).map (fun x =>
    if f32IsNaN x.1 then 0x7F else if sc = 0 then 0 else nearestCode (x.2 * 2 ^ 9) (e4m3Mag 149 sc) cands))

/-- What one block of positions adds to output element i: the exact sum under the weights' scale and each value's own,
truncated once to a multiple of 2^−24 (DEDUCED, log entry 32). -/
def blockOut (w : Nat × List Nat) (ts : List KvTok) (i : Nat) : Option Int :=
  match e4m3Int w.1, sumSome ((ts.zip w.2).map (fun x => codeProduct [x.2, codeAt x.1.v i, codeAt x.1.vs (i / 16)])) with
  | some s, some v => some (scaleInt (s * v) (-12))
  | _, _ => none

/-- A rank's share of a row's attention: maximum, sum, weighted values. -/
structure Part where
  m : F32
  z : F32
  o : List F32
  deriving DecidableEq, Repr

/-- FP32 −infinity. -/
def f32NegInf : F32 := 0xFF800000#32

/-- The share of a rank with no keys. -/
def Part.none : Part := ⟨f32NegInf, 0, List.replicate 128 0⟩

/-- The share of the keys given, with their x. -/
def partOfKeys (ts : List KvTok) (xs : List F32) : Part :=
  if ts.isEmpty then Part.none
  else
    let mx := laneMax xs
    let es := xs.map (fun x => tine 4 (f32Sub x mx))
    let both := ts.zip es
    let blocks := ((ts.map (fun t => t.p / 16)).eraseDups).map (fun b => both.filter (fun x => x.1.p / 16 = b))
    ⟨mx, laneSum es, (List.range 128).map (fun i =>
      drainSum (sumSome (blocks.map (fun b => blockOut (weightBlock (b.map Prod.snd)) (b.map Prod.fst) i))))⟩

/-- exp(a − m), 0 for a share with no keys. -/
def mergeFactor (a mx : F32) : F32 := if a = f32NegInf then 0 else tine 4 (f32Sub a mx)

/-- The merge of R229. -/
def mergeParts (a b : Part) : Part :=
  let mx := f32Max a.m b.m
  let fa := mergeFactor a.m mx
  let fb := mergeFactor b.m mx
  ⟨mx, f32Add (f32Mul a.z fa) (f32Mul b.z fb),
    (a.o.zip b.o).map (fun x => f32Add (f32Mul x.1 fa) (f32Mul x.2 fb))⟩

/-! ### ATTEND -/

/-- Read the keys and values of a session's positions below `len` in pages `lo` to `hi − 1`. -/
def readKeys (t s l P len lo hi : Nat) (r : Run) : Run × List KvTok :=
  let T := 2 ^ P
  ((List.range (hi - lo)).map (fun i => lo + i)).foldl (fun (x : Run × List KvTok) j =>
    match pagePlace (dieOf t) s l j x.1.m with
    | none => x
    | some base =>
      (List.range (min T (len - T * j))).foldl (fun (y : Run × List KvTok) tok =>
        let z := (tokenPlaces base T tok).foldl (fun (w : Run × List (List Byte)) pl =>
          let q := w.1.read (.tile t 1) (loc pl.1) pl.2
          (q.1, w.2 ++ [q.2])) (y.1, [])
        (z.1, y.2 ++ [⟨T * j + tok, z.2.getD 0 [], z.2.getD 1 [], z.2.getD 2 [], z.2.getD 3 []⟩])) x) (r, [])

/-- Is a key visible to the query row at position qp (R228), under the mask (R230)? -/
def keyVisible (e : List Byte) (h : BiasHdr) (len pos qp p : Nat) : Bool :=
  let staged := bitAt (field e 36 1) 0
  let inLen := decide (p < len) || (staged && decide (pos ≤ p))
  let mode := field e 30 1
  decide (p ≤ qp) && inLen && (mode = 0 || decide (qp - p < h.window) || (mode = 2 && decide (p < h.sink)))

/-- The x of a key: the score scaled, and the bias of its distance added. -/
def keyX (t : Nat) (e : List Byte) (h : BiasHdr) (head qp : Nat) (qe qs : List Byte) (k : KvTok) (r : Run) : Run × F32 :=
  let s := scoreSum qe qs k.k k.ks
  let r0 := r.eff (when s.isNone (nanOperand t (engineOf t r.m)))
  let x := f32Mul (drainSum s) (BitVec.ofNat 32 (field e 32 4))
  if field e 20 6 = 0 then (r0, x)
  else
    let b := r0.read (.tile t 3) (opAt t (field e 20 6) (64 + 4 * (head * h.buckets + bucketOf h (qp - k.p)))) 4
    (b.1, f32Add x (BitVec.ofNat 32 (leNat b.2)))

/-- One rank's share for one row and head. A NaN among the weights, the values or their scales poisons what it contributes to
(R36). -/
def attendPart (t : Nat) (e : List Byte) (h : BiasHdr) (sl : Slot) (len row head i : Nat) (keys : List KvTok) (r : Run) :
    Run × Part :=
  let qp := sl.position + (row - sl.rowBase)
  let a := r.read (.tile t 1) (tl t (field e 8 4 + (row * field e 29 1 + i) * 192)) 136
  let ts := keys.filter (fun k => keyVisible e h len sl.position qp k.p)
  let xs := ts.foldl (fun (y : Run × List F32) k =>
    let z := keyX t e h head qp (a.2.take 128) (a.2.drop 128) k y.1
    (z.1, y.2 ++ [z.2])) (a.1, [])
  let p := partOfKeys ts xs.2
  (xs.1.eff (when (p.o.contains f32NaN) (nanOperand t (engineOf t r.m))), p)

/-- Write one head's output of a row on the tile that holds the result. -/
def attendOut (t : Nat) (e : List Byte) (row i : Nat) (xs : List F32) (r : Run) : Run :=
  let out := field e 31 1
  let w := 128 * fmtBytes out
  r.write (.tile t 3) (tl t (field e 12 4 + (row * field e 29 1 + i) * w)) (rowOfF32 out xs).1

/-- The output of a merged share: o / z, or zeros when no key was visible. -/
def attendValue (p : Part) (none_ : Bool) : List F32 :=
  if none_ then List.replicate 128 0 else p.o.map (fun o => f32Div o p.z)

/-- Has a row left at an earlier layer (R232)? The exit table is read while PIPER_CTRL.ENABLE is 1. -/
def exitedBefore (ag : Agent) (t layer row : Nat) (r : Run) : Run × Bool :=
  if isSet aPIPER_CTRL fPIPER_CTRL_ENABLE r.m then
    let x := r.read ag (tl t (exitOffset r.m + row)) 1
    (x.1, decide (leNat x.2 ≠ 0xFF) && decide (leNat x.2 < layer))
  else (r, false)

/-- The header of a command's bias table as each rank's tile reads it (R230): a tile-local table is each rank's own. -/
def readBias (e : List Byte) (ts : List (Nat × Nat)) (r : Run) : Run × List BiasHdr :=
  if field e 20 6 = 0 then (r, ts.map (fun _ => biasHdrOf []))
  else ts.foldl (fun (x : Run × List BiasHdr) tk =>
    let y := x.1.read (.tile tk.2 3) (opAddr tk.2 (field e 20 6)) 64
    (y.1, x.2 ++ [biasHdrOf y.2])) (r, [])

/-- One slot of an ATTEND over the ranks that run it, each with its header; the first of them holds the result. -/
def attendSlot (e : List Byte) (hs : List BiasHdr) (ts : List (Nat × Nat)) (sl : Slot) (r : Run) : Run :=
  let home := ((ts.head?).map Prod.snd).getD 0
  let v := viewDir (dieOf home) r.m
  let live := onModule (dieOf home) sl.session r.m
  let len := recLen sl.session v
  let P := recLog2 sl.session v
  let top := if bitAt (field e 36 1) 0 then max len (sl.position + sl.rows) else len
  let n := pagesFor top P
  let R := ts.length
  let ks := if live then ts.zipIdx.foldl (fun (x : Run × List (List KvTok)) tk =>
      let y := readKeys tk.1.2 sl.session (field e 26 2) P top (tk.2 * n / R) ((tk.2 + 1) * n / R) x.1
      (y.1, x.2 ++ [y.2])) (r, [])
    else (r, [])
  Run.each (List.range sl.rows) (fun rr r =>
    let row := sl.rowBase + rr
    let ex := exitedBefore (.tile home 3) home (field e 26 2) row r
    Run.each (List.range (field e 29 1)) (fun i r =>
      if !live || ex.2 then attendOut home e row i (List.replicate 128 0) r
      else
        let ps := (ts.zip (hs.zip ks.2)).foldl (fun (x : Run × List Part) tk =>
          let y := attendPart tk.1.2 e tk.2.1 sl len row (field e 28 1 * field e 29 1 + i) i tk.2.2 x.1
          (y.1, x.2 ++ [y.2])) (r, [])
        let whole := (ps.2.drop 1).foldl mergeParts (ps.2.headD Part.none)
        attendOut home e row i (attendValue whole (ps.2.all (fun p => decide (p = Part.none)))) ps.1) ex.1) ks.1

/-- ATTEND. -/
def attendBody (q : Nat) (e : List Byte) (m : Dev) : Done :=
  let ts := commandTiles q e m
  match ts.head? with
  | none => ⟨m, 0⟩
  | some rt =>
    if cmdRows e = 0 then ⟨m, 0⟩
    else
      let ag := Agent.tile rt.2 3
      let h := readBias e ts (Run.start m)
      let s := readSlots ag rt.2 (field e 16 4) (cmdRows e) h.1
      if s.1.st ≠ .ok then s.1.done
      else
        let r := Run.each (s.2.filter (fun sl => sl.kind ≠ 0)) (attendSlot e h.2 ts) s.1
        (Run.eff (fun m => forEach ts (fun x => useTine x.2) m) r).done

def attendRun (q : Nat) (m : Dev) : Dev := runCommand q opATTEND (attendStartOk q) (attendBody q) m

/-! ### APPEND (R226, R227) -/

/-- The first Drill fault (R240). -/
def drillFault (d kind s pos : Nat) (m : Dev) : Dev :=
  recordFirst (aDRILL_FAULT d) (fDRILL_FAULT_KIND.of kind ||| fDRILL_FAULT_SESSION.of s ||| fDRILL_FAULT_POSITION.of pos)
    (raise (if kind = 1 then cDIE_DRILL_POSITION d else cDIE_DRILL_NO_PAGE d) m)

/-- One row of keys and values into its position: the four pieces of its token. -/
def appendRow (d t : Nat) (e : List Byte) (s P pos n : Nat) (r : Run) : Run :=
  let ag := agentDrill d
  let k := r.read ag (tl t (field e 8 4 + 192 * n)) 136
  let v := k.1.read ag (tl t (field e 12 4 + 192 * n)) 136
  match pagePlace d s (field e 20 2) (pos / 2 ^ P) r.m with
  | none => v.1
  | some base =>
    let parts := [k.2.take 128, k.2.drop 128, v.2.take 128, v.2.drop 128]
    Run.each ((tokenPlaces base (2 ^ P) (pos % 2 ^ P)).zip parts) (fun x r => r.write ag (loc x.1.1) x.2) v.1

/-- One slot of an APPEND: its rows begin at row n of the inputs. -/
def appendSlot (d t : Nat) (e : List Byte) (n : Nat) (sl : Slot) (x : Run × Nat) : Run × Nat :=
  if x.2 ≠ 0 || x.1.st ≠ .ok then x
  else if !onModule d sl.session x.1.m then
    (x.1.eff (countSat (aDRILL_STATS d) fDRILL_STATS_ROWS_SKIPPED sl.rows), 0)
  else
    let v := viewDir d x.1.m
    let P := recLog2 sl.session v
    let rows := if sl.kind = 1 then min (field e 23 1) sl.rows else sl.rows
    if sl.position ≠ recLen sl.session v then (x.1.eff (drillFault d 1 sl.session sl.position), 5)
    else
      match (List.range rows).find? (fun k =>
        (pagePlace d sl.session (field e 20 2) ((sl.position + k) / 2 ^ P) x.1.m).isNone) with
      | some k => (x.1.eff (drillFault d 2 sl.session (sl.position + k)), 5)
      | none =>
        ((Run.each (List.range rows) (fun k => appendRow d t e sl.session P (sl.position + k) (n + k)) x.1).eff
          (countSat (aDRILL_STATS d) fDRILL_STATS_ROWS_WRITTEN rows), 0)

/-- APPEND on the tile that its rank names. -/
def appendBody (q : Nat) (e : List Byte) (m : Dev) : Done :=
  match (commandTiles q e m).head? with
  | none => ⟨m, 0⟩
  | some rt =>
    if cmdRows e = 0 then ⟨m, 0⟩
    else
      let d := dieOf rt.2
      let s := readSlots (agentDrill d) rt.2 (field e 16 4) (cmdRows e) (Run.start m)
      if s.1.st ≠ .ok then s.1.done
      else
        let live := s.2.filter (fun sl => sl.kind ≠ 0)
        let x := live.foldl (fun (y : (Run × Nat) × Nat) sl =>
          (appendSlot d rt.2 e y.2 sl y.1, y.2 + sl.rows)) ((s.1, 0), 0)
        if x.1.2 ≠ 0 then ⟨x.1.1.m, x.1.2⟩ else x.1.1.done

def appendRun (q : Nat) (m : Dev) : Dev := runCommand q opAPPEND (fun _ _ => true) (appendBody q) m

/-! ### The commands -/

def execAttend (q : RingRef) (s : State) : Host.Outcome State Fault Refusal :=
  .next { s with dev := attendRun (ringNum q) s.dev }
def execAppend (q : RingRef) (s : State) : Host.Outcome State Fault Refusal :=
  .next { s with dev := appendRun (ringNum q) s.dev }

end Sys2Proof.Machine
end

