-- ==== Sys2Proof/Machine/Route.lean ====
section
/-! DEFINITION. ROUTE (chapter 8): the expert map (R245, R246), scores, choices and gates (R241, R242), which rows are
routed (R243), hosts (R247) and the dispatch chunks and end markers handed to the Drone (R250, R251). -/
namespace Sys2Proof.Machine

/-! ### The expert map (R245, R246) -/

structure MapHdr where
  body : Nat
  gen : Nat
  rowBytes : Nat
  k : Nat
  gates : Nat
  deriving DecidableEq, Repr

/-- The header: SELECT chooses the body and its generation once for the whole ROUTE. -/
def mapHdrOf (b : List Byte) : MapHdr :=
  let one := bitAt (field b 0 1) 0
  ⟨if one then field b 24 8 else field b 8 8, if one then field b 20 4 else field b 16 4, field b 32 4, field b 36 4,
    field b 40 4⟩

/-- The coordinate of the host that a row takes from an entry of the map (R247). -/
def hostOf (entry : List Byte) (n source : Nat) : Nat :=
  bitsAt (field entry (2 * ((n + source) % max 1 (min 4 (field entry 8 1)))) 2) 0 9

/-! ### Scores (R241, R242) -/

/-- The format of a ROUTE's rows (DESIGN CHOICE, log entry 33). -/
def routeFmt : Nat := if Config.routeGi4 then 1 else 0

/-- A logit: the exact block-scaled dot product, rounded once to FP32. -/
def logit (k : Nat) (x w : List Byte) : F32 :=
  let c := sumContributions ((List.range ((k + 255) / 256)).map (fun l =>
    stretchSum routeFmt routeFmt (min 256 (k - 256 * l)) (slice x (144 * l) 144) (slice w (144 * l) 144)))
  if c.nan then f32NaN else BitVec.ofNat 32 (roundInt fmtFP32 c.sum (-24))

/-- The experts by descending score, equal scores by lower index; the first `k`. -/
def topChoices : Nat → List (Nat × F32) → List (Nat × F32)
  | 0, _ => []
  | k + 1, xs =>
    match xs with
    | [] => []
    | x :: rest =>
      let best := rest.foldl (fun b y => if f32Gt y.2 b.2 then y else b) x
      best :: topChoices k (xs.filter (fun y => y.1 ≠ best.1))

/-- The choices of a row and their gates. A NaN or infinite logit gives experts 0 to TOP_K − 1 and NaN gates. -/
def routeChoices (score topK : Nat) (zs : List F32) : Bool × List (Nat × F32) :=
  if zs.any (fun z => !f32Finite z) then (true, (List.range topK).map (fun e => (e, f32NaN)))
  else
    let ss := if score = 0 then softmax zs else zs.map (tine 6)
    let top := topChoices topK ((List.range ss.length).zip ss)
    let total := match top.map Prod.snd with
      | [] => (0 : F32)
      | s :: rest => rest.foldl f32Add s
    (false, top.map (fun c => (c.1, f32Div c.2 total)))

/-! ### Dispatch (R250, R251) -/

/-- A route record. -/
def routeRecord (expert layer row choice source adapter gen : Nat) : List Byte :=
  toLe 2 expert ++ toLe 2 layer ++ toLe 2 row ++ toLe 1 choice ++ toLe 1 source ++ toLe 2 adapter ++ [0, 0] ++ toLe 4 gen

/-- The pieces of a dispatch chunk, each at most 4,080 bytes, the last one owed an ACK; OFFSET is the piece's first byte
(DEDUCED, log entry 24). -/
def dispatchOut (member : Nat) (chunk : List Byte) : List Outgoing :=
  let n := (chunk.length + 4079) / 4080
  (List.range n).map (fun i =>
    Outgoing.mk member 3 0 (4080 * i) 0 0 ptDISPATCH (i + 1 = n) ((chunk.drop (4080 * i)).take 4080))

/-- What a ROUTE gathers: chunks by member, and whether a host lies outside the group. -/
structure RouteWork where
  r : Run
  chunks : List (Nat × List Byte)
  astray : Bool
  deriving DecidableEq, Repr

/-- The slot that holds a step row. -/
def slotFor (slots : List Slot) (row : Nat) : Option Slot := slots.find? (slotHolds row)

/-- Write a row's gates at GATES + 4 × (n × TOP_K + k). -/
def writeGates (ag : Agent) (t gates topK n : Nat) (gs : List F32) (r : Run) : Run :=
  r.write ag (tl t (gates + 4 * (n * topK))) ((gs.map (fun g => toLe 4 g.toNat)).flatten)

/-- One row of a ROUTE. -/
def routeRow (d t : Nat) (e : List Byte) (h : MapHdr) (g : Grp) (slots : List Slot) (ws : List (List Byte)) (n : Nat)
    (x : RouteWork) : RouteWork :=
  let ag := agentCoulter d
  let topK := field e 26 1
  let row := g.me + n * g.members
  let ex := x.r.read ag (tl t (exitOffset x.r.m + row)) 1
  let exited := decide (leNat ex.2 ≠ 0xFF) && decide (leNat ex.2 < field e 28 2)
  match slotFor slots row, exited with
  | some sl, false =>
    let a := ex.1.read ag (tl t (field e 8 4 + n * h.rowBytes)) h.rowBytes
    let cs := routeChoices (field e 27 1) topK (ws.map (logit h.k a.2))
    let r1 := writeGates ag t h.gates topK n (cs.2.map Prod.snd) (a.1.eff (when cs.1 (raise (cDIE_COULTER_SCORE_NAN d))))
    cs.2.zipIdx.foldl (fun (y : RouteWork) c =>
      let en := y.r.read ag (loc (h.body + 16 * c.1.1)) 16
      match grpIndex g (hostOf en.2 n g.me) with
      | some i => ⟨en.1, y.chunks ++ [(i, routeRecord c.1.1 (field e 28 2) n c.2 g.me sl.adapter h.gen ++ a.2)], y.astray⟩
      | none => ⟨en.1, y.chunks, true⟩) ⟨r1, x.chunks, x.astray⟩
  | _, _ => ⟨writeGates ag t h.gates topK n (List.replicate topK 0) ex.1, x.chunks, x.astray⟩

/-- The collective of a ROUTE (R390). -/
def routeDesc (q : Nat) (e : List Byte) (h : MapHdr) (m : Dev) : CollDesc where
  op := 6
  ctype := 0
  root := field e 26 1
  count := field e 24 2
  n := h.rowBytes
  outFmt := 0
  shift := 0
  epilogue := 0
  recvAddr := 0
  counter := field e 32 2
  express := ringClass q m = 0

/-- The home's combination step (R244): the gated outputs of a row's choices added by fused multiply-adds in ascending choice, no term
for a gate of +0. No command of the table performs it: a step program's Tine work does (log entry 110). -/
def combination (gates outputs : List F32) : F32 :=
  (gates.zip outputs).foldl (fun s p => if p.1 = 0 then s else f32Fma p.1 p.2 s) 0

/-- ROUTE: scored, its chunks and end markers queued, and handed to the Drone. A host outside the group is a target that
cannot take its chunk (DEDUCED, log entry 34). -/
def routeBody (q : Nat) (e : List Byte) (m : Dev) : Done :=
  match (commandTiles q e m).head? with
  | none => ⟨m, 0⟩
  | some rt =>
    let t := rt.2
    let d := dieOf t
    let ag := agentCoulter d
    let group := field e 31 1
    match groupOf group m with
    | none => ⟨groupInvalid q d (field e 30 1) group m, 5⟩
    | some g =>
      if targetBad group m then ⟨groupInvalid q d (field e 30 1) group m, 5⟩
      else
        let hd := (Run.start m).read ag (opAddr t (field e 18 6)) 64
        let h := mapHdrOf hd.2
        let rows := cmdRows e
        let sl := if rows = 0 then (hd.1, []) else readSlots ag t (stepOffset m + 64) (shapeSlots m) hd.1
        let ws := if rows = 0 then (sl.1, [])
          else readRows ag h.rowBytes ((List.range (field e 24 2)).map (fun i => opAt t (field e 12 6) (i * h.rowBytes))) sl.1
        if ws.1.st ≠ .ok then ws.1.done
        else
          let x := (List.range rows).foldl (fun y n => routeRow d t e h g sl.2 ws.2 n y) ⟨ws.1, [], false⟩
          if x.r.st ≠ .ok then x.r.done
          else if x.astray then ⟨x.r.m, 5⟩
          else
            let out := (x.chunks.map (fun c => dispatchOut c.1 c.2)).flatten ++
              (List.range g.members).map (fun i =>
                Outgoing.mk i 3 0 0 (x.chunks.filter (fun c => c.1 = i)).length 1 ptMARKER false [])
            let prot := protectedAt (tl t (field e 8 4)) (rows * h.rowBytes) x.r.m
            ⟨startColl q (field e 30 1) group (routeDesc q e h x.r.m) prot [newLane 0 t [] out] x.r.m, 0⟩

def routeRun (q : Nat) (m : Dev) : Dev := runCommand q opROUTE (fun _ _ => true) (routeBody q) m

def execRoute (q : RingRef) (s : State) : Host.Outcome State Fault Refusal :=
  .next { s with dev := routeRun (ringNum q) s.dev }

end Sys2Proof.Machine
end

