-- ==== Sys2Proof/Machine/Gleaner.lean ====
section
/-! DEFINITION. The Gleaner (chapter 9): table descriptors and homes (R271 to R273), GATHER and its scan (R274 to R277), row
requests and pooling (R278 to R280), staged updates and their apply (R281 to R284), classes and sweeps (R285, R286). -/
namespace Sys2Proof.Machine

/-! ### Descriptors and homes (R271, R272) -/

/-- The descriptor of a table as 256 bytes. -/
abbrev Desc := List Byte

def dRows (t : Desc) : Nat := field t 0 8
def dWidth (t : Desc) : Nat := field t 8 2
def dHomes (t : Desc) : Nat := field t 10 1
def dUpdatable (t : Desc) : Bool := bitAt (field t 11 1) 0
def dId (t : Desc) : Nat := field t 12 1
def dDir (t : Desc) : Nat := field t 16 8
def dHeat (t : Desc) : Nat := field t 24 8
def dMaster (t : Desc) : Nat := field t 32 8
def dPool (t : Desc) (c : Nat) : Nat := field t (40 + 8 * c) 8
def dSlots (t : Desc) (c : Nat) : Nat := field t (64 + 4 * c) 4
def dHotMin (t : Desc) : Nat := field t 76 2
def dWarmMin (t : Desc) : Nat := field t 78 2
def dStack (t : Desc) (c : Nat) : Nat := field t 80 8 + 4 * ((List.range c).map (dSlots t)).sum
def dFree (t : Desc) (c : Nat) : Nat := field t (88 + 4 * c) 4
def dStageBytes (t : Desc) : Nat := field t 100 4
def dHome (t : Desc) (i : Nat) : Nat := bitsAt (field t (128 + 2 * i) 2) 0 9
def dHomeValid (t : Desc) (i : Nat) : Bool := bitAt (field t (128 + 2 * i) 2) 15
def dStageBase (t : Desc) : Nat := field t 104 8

/-- The home die: the lowest-numbered die with HOME set. -/
def homeDieOf (m : Dev) : Option Nat := (List.range 8).find? (fun d => isSet (aGLEANER_CTRL d) fGLEANER_CTRL_HOME m)

/-- The first Gleaner fault of a die (R289), with its cause. -/
def gleanerFault (d kind table row : Nat) (m : Dev) : Dev :=
  let c := match kind with
    | 1 => cDIE_GLEANER_INDEX_RANGE d
    | 2 => cDIE_GLEANER_BAGS_BAD d
    | 3 => cDIE_GLEANER_STAGE_FULL d
    | 4 => cDIE_GLEANER_ABSENT_ROW d
    | _ => cDIE_GLEANER_NOT_HOME d
  recordFirst (aGLEANER_FAULT d) (fGLEANER_FAULT_KIND.of kind ||| fGLEANER_FAULT_TABLE_ID.of table |||
    fGLEANER_FAULT_ROW.of row) (raise c m)

/-- The local address of a table's descriptor by its registry entry at the home die. -/
def registryEntry (hd id : Nat) (r : Run) : Run × Nat :=
  let x := r.read (agentGleaner hd) (loc (rdF (aGLEANER_CTRL hd) fGLEANER_CTRL_REGISTRY r.m * 64 + 8 * id)) 8
  (x.1, leNat x.2)

/-- The home's descriptor of a table: its address and bytes; none without a home die or with an empty entry. -/
def homeTable (id : Nat) (r : Run) : Run × Option (Nat × Nat × Desc) :=
  match homeDieOf r.m with
  | none => (r, none)
  | some hd =>
    let a := registryEntry hd id r
    if a.2 = 0 then (a.1, none)
    else
      let b := a.1.read (agentGleaner hd) (loc a.2) 256
      (b.1, some (hd, a.2, b.2))

/-! ### Stored rows (R273) -/

/-- Bytes of a stored row of a class. -/
def classBytes (c width : Nat) : Nat :=
  match c with
  | 0 => 2 * width
  | 1 => width + width / 16
  | 2 => width / 256 * 144
  | _ => 0

/-- A directory entry: its class and its slot. -/
def entryClass (e : Nat) : Nat := bitsAt e 62 2
def entrySlot (e : Nat) : Nat := bitsAt e 0 32

/-- Element i of a stored row, exactly. -/
def rowElem (c width : Nat) (b : List Byte) (i : Nat) : Num :=
  match c with
  | 0 => decodeFloat fmtBF16 (field b (2 * i) 2)
  | 1 => mulNum (decodeFloat fmtE4M3 (field b i 1)) (decodeFloat fmtE4M3 (field b (width + i / 16) 1))
  | 2 =>
    let line := slice b (144 * (i / 256)) 144
    let v := gf4Half (lineCode line (i % 256))
    mulNum (.fin (decide (v < 0)) v.natAbs (-1)) (decodeFloat fmtE4M3 (lineScale line (i % 256 / 16)))
  | _ => .fin false 0 0

/-! ### Exact sums (R277, R279, R280) -/

/-- A finite number in units of 2^−u, u large enough that nothing is lost. -/
def numInt (u : Nat) (x : Num) : Int :=
  match x with
  | .fin s m k => let v : Int := ((m * 2 ^ (k + (u : Int)).toNat : Nat) : Int); if s then -v else v
  | _ => 0

/-- A wide accumulator with its special operands (R56): the exact sum in units of 2^−320. -/
structure Wide where
  sum : Int
  nan : Bool
  pos : Bool
  neg : Bool
  deriving DecidableEq, Repr

def Wide.zero : Wide := ⟨0, false, false, false⟩

/-- Add weight × element: the weight as an exact sum in units of 2^−160, or none when it is NaN or infinite. -/
def Wide.add (a : Wide) (w : Option Int) (x : Num) : Wide :=
  match w, x with
  | none, _ => { a with nan := true }
  | some _, .nan => { a with nan := true }
  | some v, .inf s =>
    if v = 0 then { a with nan := true }
    else if decide (v < 0) = s then { a with pos := true } else { a with neg := true }
  | some v, x => { a with sum := a.sum + v * numInt 160 x }

/-- Add the product of two numbers (R56): exact where both are finite, else the special operand that it is. -/
def Wide.addProduct (a : Wide) (w x : Num) : Wide :=
  match mulNum w x with
  | .fin _ _ _ => a.add (some (numInt 160 w)) x
  | p => a.add (some (2 ^ 160)) p

/-- Does the output of an accumulator become NaN? -/
def Wide.bad (a : Wide) : Bool := a.nan || (a.pos && a.neg)

/-- A wide accumulator rounded once into a format (R51, R56). -/
def Wide.round (f : FloatFmt) (a : Wide) : Nat :=
  if a.bad then f.nanCode
  else if a.pos then overflowCode f false
  else if a.neg then overflowCode f true
  else roundInt f a.sum (-320)

/-- The exact sum of FP32 weights in units of 2^−160; none when one is NaN or infinite. -/
def weightSum (ws : List F32) : Option Int :=
  sumSome (ws.map (fun w => if f32Finite w then some (numInt 160 (f32Num w)) else none))

/-- An output row in OUT_FMT, and the blocks it quantises. -/
def wideRow (out : Nat) (xs : List Wide) : List Byte × List QuantBlock :=
  if out = 5 || out = 6 then rowsOfF32 out (xs.map (fun x => BitVec.ofNat 32 (x.round fmtFP32)))
  else ((xs.map (fun x => toLe (fmtBytes out) (x.round (floatOf out)))).flatten, [])

/-! ### The scan (R275, R277) -/

/-- Does a descriptor lie where R271 has it: 64-byte aligned, in the Field tier or die-shared Seedbed? -/
def tablePlaced (a : Nat) : Bool :=
  a % 64 = 0 && (match placeOf a with
    | .fld _ => true
    | .shared _ _ => true
    | _ => false)

/-- What a GATHER refuses under R118 for its descriptor (R274, R275). -/
def gatherDescOk (e : List Byte) (t : Desc) : Bool :=
  let mode := field e 34 1
  let rows := cmdRows e
  (if mode = 1 then 1 ≤ rows && rows ≤ 1024 && rows * dWidth t ≤ 65536 else rows = 1) &&
    (mode ≤ 1 || (field e 35 1 = 0 && dUpdatable t))

/-- The check when FETCH reaches the GATHER. A descriptor that cannot be read is left to the command's own read. -/
def gatherOkNow (q : Nat) (e : List Byte) (m : Dev) : Bool :=
  match (commandTiles q e m).head? with
  | none => true
  | some rt =>
    let x := (Run.start m).read (agentGleaner (dieOf rt.2)) (opAddr rt.2 (field e 18 6)) 256
    tablePlaced (opAddr rt.2 (field e 18 6)) && (decide (x.1.st ≠ .ok) || gatherDescOk e x.2)

/-- The bag of an entry: the first bag whose end lies past it. -/
def bagOf (ends : List Nat) (n : Nat) : Nat := (ends.findIdx? (fun e => n < e)).getD 0

/-- The first bag whose end offset is wrong: one below the bag before it, or a last one other than COUNT. -/
def badBag (ends : List Nat) (count : Nat) : Option Nat :=
  match (List.range ends.length).find? (fun b => 0 < b && decide (ends.getD b 0 < ends.getD (b - 1) 0)) with
  | some b => some b
  | none => if ends.getD (ends.length - 1) 0 = count then none else some (ends.length - 1)

/-- The state of the coalescer within a list: the pass's distinct rows with their request numbers, its pairs, requests so
far, entries so far. -/
structure Scan where
  rows : List (Nat × Nat)
  pairs : List (Nat × Nat)
  asks : List Nat
  items : List GatherItem
  deriving DecidableEq, Repr

/-- One entry: a pass ends before the entry that would take it past a limit. -/
def scanEntry (mode limit row bag : Nat) (w : F32) (s : Scan) : Scan :=
  let new := !s.rows.any (fun x => x.1 = row)
  let pair := mode = 1 && !s.pairs.contains (bag, row)
  let full := (new && decide (limit ≤ s.rows.length)) || (pair && decide (65536 ≤ s.pairs.length))
  let s1 : Scan := if full then { s with rows := [], pairs := [] } else s
  let s2 : Scan := if pair then { s1 with pairs := s1.pairs ++ [(bag, row)] } else s1
  match s2.rows.find? (fun x => x.1 = row) with
  | some x => { s2 with items := s2.items ++ [⟨bag, x.2, w⟩] }
  | none =>
    { s2 with
      rows := s2.rows ++ [(row, s2.asks.length)]
      asks := s2.asks ++ [row]
      items := s2.items ++ [⟨bag, s2.asks.length, w⟩] }

/-- The distinct-row limit of a pass (R270). -/
def passLimit (width : Nat) : Nat := max 1 (16384 * 256 / width)

/-! ### Serving rows at the home (R278) -/

/-- What the home answers for a row: its STATUS, and class and stored bytes. STATUS 4 says that there is no home here;
every refusal of the row's own accesses is STATUS 1 (DESIGN CHOICE, log entry 35). -/
structure RowAnswer where
  m : Dev
  status : Nat
  cls : Nat
  data : List Byte
  deriving DecidableEq, Repr

/-- STATUS of a home's own accesses; 99 for one that is held. -/
def homeStatus (st : AStat) : Nat := match st with | .ok => 0 | .poison => 2 | .held => 99 | _ => 1

/-- NOT_HOME (R272): raised at the home die when the registry entry is empty, at the die that was asked when there is none. -/
def notHome (die id : Nat) (m : Dev) : Dev := gleanerFault ((homeDieOf m).getD die) 5 id 0 m

/-- Serve a row: the directory entry as it stands, the stored bytes, and one more on the row's heat. A row stored in a protected
range is refused to another module (R317, R406). -/
def serveRow (far : Bool) (die id row : Nat) (m : Dev) : RowAnswer :=
  let x := homeTable id (Run.start m)
  if x.1.st ≠ .ok then ⟨x.1.m, homeStatus x.1.st, 3, []⟩
  else
    match x.2 with
    | none => ⟨notHome die id x.1.m, 4, 3, []⟩
    | some (hd, _, t) =>
      let ag := agentGleaner hd
      let en := x.1.read ag (loc (dDir t + 8 * row)) 8
      let c := entryClass (leNat en.2)
      let at_ := loc (dPool t c + entrySlot (leNat en.2) * classBytes c (dWidth t))
      if en.1.st = .ok && far && c ≠ 3 && protectedAt at_ (classBytes c (dWidth t)) en.1.m then
        ⟨protectedRefusal hd at_ en.1.m, 1, c, []⟩
      else
        let b := if c = 3 then (en.1, []) else en.1.read ag at_ (classBytes c (dWidth t))
        let h := b.1.read ag (loc (dHeat t + 2 * row)) 2
        let r := h.1.write ag (loc (dHeat t + 2 * row)) (toLe 2 (satAdd 65535 (leNat h.2) 1))
        ⟨r.m, homeStatus r.st, c, if r.st = .ok then b.2 else []⟩

/-- The stamp of a module's requests (R283). -/
def stampOf (m : Dev) : Nat := if isSet aPIPER_CTRL fPIPER_CTRL_ENABLE m then m.piper.taken else 0

/-- Is a sequence number, by its low 32 bits, ahead of another? -/
def aheadOf (low seq : Nat) : Bool :=
  let gap := (low + 2 ^ 32 - seq % 2 ^ 32) % 2 ^ 32
  0 < gap && gap < 2 ^ 31

/-- Must a request with this stamp wait (R278)? It carries the stamp's low 32 bits. It waits while commit records up to the step before
are still to be applied, which they are not once the home has taken the manifest of the stamp itself (R225): a step that
committed nothing has no record. It waits too while an apply has not finished. -/
def stampWaits (low : Nat) (m : Dev) : Bool :=
  !m.gleaner.late.isEmpty || (low ≠ 0 && aheadOf low (m.gleaner.applied + 1) && aheadOf low m.piper.taken)

/-- ADDR of a row request: TABLE_ID and local row. -/
def rowWord (id row : Nat) : Nat := id % 256 * 2 ^ 40 + row % 2 ^ 40
def fxTable (p : Packet) : Nat := bitsAt (fxAddr p) 40 8
def fxLocalRow (p : Packet) : Nat := bitsAt (fxAddr p) 0 40

/-- A row request to a module: a READ with ROW on VC4, sent once the die has fewer than 4,096 of them outstanding (R270). -/
def askRow (g : GatherSt) (k die coord id row : Nat) (m : Dev) : Dev :=
  sendAfter ⟨ptREAD, g.ring, die, placeWord coord 0, ringJob g.ring m, 4,
    fabricPrefix (rowWord id row) 0 2 0 (stampOf m % 2 ^ 32), [], 0, false, 0, false, 0, .row g.ring g.id k⟩ m

/-! ### Pooling and output (R274, R279) -/

/-- The element values that a request brought. -/
def askElem (g : GatherSt) (k i : Nat) : Num :=
  let r := Sparse.get (0, []) g.rows k
  rowElem (r.1 - 1) g.width r.2 i

/-- One output element of a set of entries: the weights of each distinct row of a pass are summed exactly first. -/
def poolElem (g : GatherSt) (items : List GatherItem) (i : Nat) : Wide :=
  ((items.map (fun x => x.req)).eraseDups).foldl (fun a k =>
    a.add (weightSum ((items.filter (fun x => x.req = k)).map (fun x => x.weight))) (askElem g k i)) Wide.zero

/-- The entries of each output row: one entry a row in mode 0, a bag a row in mode 1. -/
def outputItems (g : GatherSt) : List (List GatherItem) :=
  if field g.cmd 34 1 = 0 then g.items.map (fun x => [x])
  else (List.range (cmdRows g.cmd)).map (fun b => g.items.filter (fun x => x.bag = b))

/-- The pitch of output rows (R274). -/
def gatherPitch (out width : Nat) : Nat := (outRowBytes out width + 63) / 64 * 64

/-- Write every output row: the GATHER's work is done. -/
def finishGather (g : GatherSt) (m : Dev) : Run :=
  let d := dieOf g.tile
  let out := field g.cmd 35 1
  Run.each (outputItems g).zipIdx (fun x r =>
    let xs := (List.range g.width).map (poolElem g x.1)
    let row := wideRow out xs
    let r1 := r.eff (quantCauses g.tile row.2)
    let r2 := r1.eff (when (xs.any (fun a => a.bad)) (raise (cDIE_GLEANER_NAN_ROW d)))
    r2.write (agentGleaner d) (tl g.tile (field g.cmd 24 4 + gatherPitch out g.width * x.2)) row.1) (Run.start m)

/-- Have all the rows of a GATHER arrived? -/
def gatherFull (g : GatherSt) : Bool := g.rows.length = g.asks

/-- Request one row: one of this module is served at once by its home die; a row asked of another module, or of this one before it
may be read, is a packet. A row whose HOME entry is not VALID has no home (R271, R272; DEDUCED, log entry 35). -/
def requestRow (t : Desc) (s : GatherSt × Dev × Nat) (x : Nat × Nat) : GatherSt × Dev × Nat :=
  let g := s.1
  let m := s.2.1
  let d := dieOf g.tile
  let coord := dHome t (x.1 % dHomes t)
  let row := x.1 / dHomes t
  if s.2.2 ≠ 0 then s
  else if !dHomeValid t (x.1 % dHomes t) then (g, notHome d (dId t) m, 5)
  else if coord = selfCoord m && !stampWaits (stampOf m % 2 ^ 32) m then
    let a := serveRow false d (dId t) row m
    if a.status = 0 then ({ g with rows := Sparse.upd (0, []) g.rows x.2 (a.cls + 1, a.data) }, a.m, 0)
    else (g, a.m, if a.status = 4 then 5 else if a.status = 99 then 99 else 2)
  else
    match sendStop (ringJob g.ring m) false m with
    | some st => (g, sendStopped st coord (ringJob g.ring m) m, 2)
    | none => (g, askRow g x.2 d coord (dId t) row m, 0)

/-- Request the rows of a list in order. -/
def requestRows (g : GatherSt) (t : Desc) (asks : List Nat) (m : Dev) : GatherSt × Dev × Nat :=
  let x := asks.zipIdx.foldl (requestRow t) (g, m, 0)
  (x.1, if x.2.2 = 0 then pumpAll x.2.1 else x.2.1, x.2.2)

/-! ### Staged updates (R282) -/

/-- The key of a staged record. -/
def sameKey (a b : StagedRec) : Bool :=
  a.table = b.table && a.stamp = b.stamp && a.coord = b.coord && a.die = b.die && a.tag = b.tag && a.pos = b.pos

/-- The 32-byte header of a record, in its packet and in the staging area, and its data row: stamp, TAG, mode, list position, weight
(DESIGN CHOICE, log entry 35). -/
def recordBytes (s : StagedRec) : List Byte :=
  toLe 8 s.stamp ++ toLe 2 s.tag ++ toLe 1 (if s.write then 3 else 2) ++ [0] ++ toLe 4 s.pos ++ toLe 4 s.weight.toNat ++
    List.replicate 12 0 ++ s.data

/-- Stage a record at the home: a record of the same key is replaced; one that does not fit is refused (STATUS 1). The records of a
table stand end to end at STAGE_BASE (R271, R282; the layout is a DESIGN CHOICE, log entry 35). -/
def stageRecord (die : Nat) (s : StagedRec) (m : Dev) : Nat × Dev :=
  let x := homeTable s.table (Run.start m)
  if x.1.st ≠ .ok then (homeStatus x.1.st, x.1.m)
  else
    match x.2 with
    | none => (4, notHome die s.table x.1.m)
    | some (hd, _, t) =>
      let all := x.1.m.gleaner.staged.filter (fun r => !sameKey r s) ++ [s]
      let area := ((all.filter (fun r => r.table = s.table)).map recordBytes).flatten
      if dStageBytes t < area.length then (1, gleanerFault hd 3 s.table s.row x.1.m)
      else
        let w := x.1.write (agentGleaner hd) (loc (dStageBase t)) area
        if w.st ≠ .ok then (homeStatus w.st, w.m)
        else (0, { w.m with gleaner := { w.m.gleaner with staged := all } })

/-- The record that a packet carries. -/
def recordOf (p : Packet) : StagedRec :=
  let b := fxData p
  ⟨fxTable p, field b 0 8, srcCoordOf p, srcDieOf p, field b 8 2, field b 12 4, fxLocalRow p, field b 10 1 = 3,
    BitVec.ofNat 32 (field b 16 4), b.drop 32⟩

/-- Send or stage the record of one entry. -/
def sendStaged (q die : Nat) (t : Desc) (row : Nat) (s : StagedRec) (m : Dev) : Done :=
  let coord := dHome t (row % dHomes t)
  if !dHomeValid t (row % dHomes t) then ⟨notHome die s.table m, 5⟩
  else if coord = selfCoord m then
    let x := stageRecord die s m
    ⟨x.2, if x.1 = 0 then 0 else if x.1 = 4 then 5 else if x.1 = 99 then 99 else 2⟩
  else
    match sendStop (ringJob q m) false m with
    | some st => ⟨sendStopped st coord (ringJob q m) m, 2⟩
    | none =>
      let b := recordBytes s
      let g := newTag m
      let pre := fabricPrefix (rowWord s.table s.row) b.length 2 0 (s.stamp % 2 ^ 32)
      ⟨issue ⟨ptWRITE, 4, die, placeWord coord 0, ringJob q m, fabricArg g.1 0, pre ++ b, false, false⟩ (.update q) pre none
        g.2, 0⟩

/-! ### GATHER -/

/-- The update records of a GATHER in mode 2 or 3, in list order. -/
def gatherUpdate (q t : Nat) (e : List Byte) (desc : Desc) (rows : List Nat) (ws : List F32) (r : Run) : Done :=
  let d := dieOf t
  rows.zipIdx.foldl (fun (b : Done) x =>
    if b.reason ≠ 0 then b
    else
      let y := (Run.start b.m).read (agentGleaner d) (tl t (field e 24 4 + 4 * dWidth desc * x.2)) (4 * dWidth desc)
      if y.1.st ≠ .ok then y.1.done
      else
        let write := field e 34 1 = 3
        let s : StagedRec := ⟨dId desc, stampOf y.1.m, selfCoord y.1.m, d, cmdTag e, x.2, x.1 / dHomes desc, write,
          if write then 0x3F800000#32 else ws.getD x.2 0x3F800000#32, y.2⟩
        sendStaged q d desc x.1 s y.1.m) ⟨r.m, 0⟩

/-- What the scan finds wrong, if anything: the fault's kind and place, and how many entries stand before it. The bag ends are judged
before the first entry (DESIGN CHOICE, log entry 35). -/
def scanFault (e : List Byte) (desc : Desc) (ends : List Nat) (rows : List Nat) (raw : List Nat) : Option (Nat × Nat × Nat) :=
  match (if field e 34 1 = 1 then badBag ends rows.length else none) with
  | some b => some (2, b, 0)
  | none =>
    let bad := fun x : Nat × Nat => decide (bitsAt x.2 40 24 ≠ 0) || decide (dRows desc ≤ x.1)
    match (rows.zip raw).findIdx? bad with
    | some n => some (1, rows.getD n 0, n)
    | none => none

/-- A number for a new GATHER. -/
def newGather (m : Dev) : Nat := (m.gathers.map (fun g => g.id)).foldl max 0 + 1

/-- The scan of the entries of a list in modes 0 and 1: its requests, counted and made (R277). -/
def gatherScan (q t : Nat) (e : List Byte) (desc : Desc) (ends rows : List Nat) (ws : List F32) (m : Dev) :
    GatherSt × Dev × Nat :=
  let d := dieOf t
  let s := rows.zipIdx.foldl (fun s x =>
    scanEntry (field e 34 1) (passLimit (dWidth desc)) x.1 (bagOf ends x.2) (ws.getD x.2 0x3F800000#32) s) ⟨[], [], [], []⟩
  let m1 := countSat (aGLEANER_STATS d) fGLEANER_STATS_COALESCED (rows.length - s.asks.length)
    (countSat (aGLEANER_STATS d) fGLEANER_STATS_READS s.asks.length m)
  requestRows ⟨newGather m, q, t, e, dWidth desc, s.asks.length, s.items, []⟩ desc s.asks m1

/-- Modes 0 and 1: a GATHER whose rows are all there writes its output at once. -/
def gatherRead (q t : Nat) (e : List Byte) (desc : Desc) (ends rows : List Nat) (ws : List F32) (m : Dev) : Done :=
  let x := gatherScan q t e desc ends rows ws m
  if x.2.2 ≠ 0 then ⟨x.2.1, x.2.2⟩
  else if gatherFull x.1 then (finishGather x.1 x.2.1).done
  else ⟨{ x.2.1 with gathers := x.2.1.gathers ++ [x.1] }, 0⟩

/-- A list with a bad entry or bag: the rows of the entries before it have been requested when the scan meets it (R277); the command
writes nothing and is refused (R275). -/
def gatherBad (q t : Nat) (e : List Byte) (desc : Desc) (ends rows : List Nat) (ws : List F32) (f : Nat × Nat × Nat) (m : Dev) :
    Done :=
  let x := if 2 ≤ field e 34 1 then (m, 0) else (gatherScan q t e desc ends (rows.take f.2.2) ws m).2
  if x.2 ≠ 0 then ⟨x.1, x.2⟩ else ⟨gleanerFault (dieOf t) f.1 (dId desc) f.2.1 x.1, 5⟩

/-- GATHER on the tile that its rank names. -/
def gatherBody (q : Nat) (e : List Byte) (m : Dev) : Done :=
  match (commandTiles q e m).head? with
  | none => ⟨m, 0⟩
  | some rt =>
    let count := field e 14 4
    let t := rt.2
    let ag := agentGleaner (dieOf t)
    let de := (Run.start m).read ag (opAddr t (field e 18 6)) 256
    let desc : Desc := de.2
    if de.1.st ≠ .ok then de.1.done
    else if count = 0 then ⟨m, 0⟩
    else
      let il := de.1.read ag (opAddr t (field e 8 6)) (8 * count)
      let wl := if field e 28 6 = 0 then (il.1, []) else il.1.read ag (opAddr t (field e 28 6)) (4 * count)
      let mode := field e 34 1
      let bl := if mode = 1 then wl.1.read ag (tl t (field e 36 4)) (4 * cmdRows e) else (wl.1, [])
      if bl.1.st ≠ .ok then bl.1.done
      else
        let raw := (List.range count).map (fun n => field il.2 (8 * n) 8)
        let rows := raw.map (fun v => bitsAt v 0 40)
        let ws := if field e 28 6 = 0 then [] else f32s count wl.2
        let ends := if mode = 1 then (List.range (cmdRows e)).map (fun b => field bl.2 (4 * b) 4) else []
        match scanFault e desc ends rows raw with
        | some f => gatherBad q t e desc ends rows ws f bl.1.m
        | none =>
          if 2 ≤ mode then gatherUpdate q t e desc rows ws bl.1
          else gatherRead q t e desc ends rows ws bl.1.m

def gatherRun (q : Nat) (m : Dev) : Dev := runCommand q opGATHER (gatherOkNow q) (gatherBody q) m

/-! ### Packets (R272, R278, R282) -/

/-- ROW_REQUEST: the home answers with the class and the stored bytes; a request whose stamp is ahead waits, and so does one behind an
earlier request of its flow (R407). -/
def rowRequest (p : Packet) (m : Dev) : Dev :=
  if p.typ.toNat ≠ ptREAD || !fxRow p || flowWaits p m then m
  else if prefixBad p then respond p ptREAD_DATA 1 [] false (takePacket p m)
  else if stampWaits (fxExtra p) m then m
  else
    let a := serveRow true (destDieOf p) (fxTable p) (fxLocalRow p) (takePacket p m)
    if a.status = 99 then heldBy p.job.toNat a.m m
    else respond p ptREAD_DATA a.status (if a.status = 0 then BitVec.ofNat 8 a.cls :: a.data else []) false a.m

/-- Row k has arrived for a GATHER; when it is the last one, the output is written. `old` still holds the response, for an output whose
write is held. -/
def rowIn (q id k : Nat) (b : List Byte) (m old : Dev) : Dev :=
  match m.gathers.find? (fun g => g.id = id && g.ring = q) with
  | none => m
  | some g =>
    let g1 := { g with rows := Sparse.upd (0, []) g.rows k (field b 0 1 + 1, b.drop 1) }
    if gatherFull g1 then
      let r := finishGather g1 { m with gathers := m.gathers.erase g }
      match r.st with
      | .ok => r.m
      | .held => heldBy (ringJob q old) r.m old
      | _ => haltRing q 2 r.m
    else { m with gathers := m.gathers.map (fun x => if x = g then g1 else x) }

/-- ROW_RESPONSE: the answer to a row request; STATUS 4 says that the home was not there, and halts the ring with
reason 5. -/
def rowResponse (p : Packet) (m : Dev) : Dev :=
  match m.net.reqs.find? (fun r => answers p r && (match r.waiter with | .row _ _ _ => true | _ => false)) with
  | none => m
  | some r =>
    match r.waiter with
    | .row q g k =>
      let m1 := takePacket p m
      if fxStatus p = 0 then pumpAll (rowIn q g k (fxData p) (dropReq r m1) m)
      else if fxStatus p = 4 then haltRing q 5 (accessFailed r.die (destCoordOf r.p) 4 ptREAD r.p.arg (dropReq r m1))
      else requestFails r (accessFailed r.die (destCoordOf r.p) (fxStatus p) ptREAD r.p.arg m1)
    | _ => m

/-- Does a WRITE with ROW keep the layout of a record? Its length may pass the 4,080 bytes of R405 (DESIGN CHOICE, log entry 35). -/
def recordBad (p : Packet) : Bool :=
  fxAddr p / 2 ^ 48 ≠ 0 || fxFlags p ≠ 2 || fxStatus p ≠ 0 || fxLen p ≠ (fxData p).length || fxLen p < 32

/-- UPDATE_RECORD: the home stages a record and acknowledges it, in its flow's order (R407). -/
def updateRecord (p : Packet) (m : Dev) : Dev :=
  if p.typ.toNat ≠ ptWRITE || !fxRow p || flowWaits p m then m
  else
    let m1 := takePacket p m
    if recordBad p then respond p ptCOMPLETION 1 [] false m1
    else if isPoison p then respond p ptCOMPLETION 2 [] false m1
    else
      let x := stageRecord (destDieOf p) (recordOf p) m1
      if x.1 = 99 then heldBy p.job.toNat x.2 m else respond p ptCOMPLETION x.1 [] false x.2

/-! ### The apply (R281, R284) -/

/-- A master row rounded into a class (R281): the stored bytes and the quantised blocks of class 2. -/
def roundClass (c : Nat) (master : List Byte) (m : Dev) : List Byte × List QuantBlock :=
  let n := master.length / 2
  let xs := (List.range n).map (fun i => toF32 fmtBF16 (field master (2 * i) 2))
  match c with
  | 0 => (master, [])
  | 1 =>
    let groups := (List.range (n / 16)).map (fun g =>
      let es := (xs.drop (16 * g)).take 16
      if es.any (fun x => !f32Finite x) then (0x7F, List.replicate 16 0)
      else if (es.map mag149).foldl max 0 > e4m3Mag 149 0x7E * 448 then
        ((freeAt m (17 * g)).toNat % 256, (List.range 16).map (fun i => (freeAt m (17 * g + 1 + i)).toNat % 256))
      else
        let w := weightBlock es
        (w.1, (es.zip w.2).map (fun x => if x.1.getLsbD 31 && x.2 ≠ 0 then 128 + x.2 else x.2)))
    ((groups.map (fun g => g.2.map (BitVec.ofNat 8))).flatten ++ groups.map (fun g => BitVec.ofNat 8 g.1), [])
  | 2 => rowsOfF32 5 xs
  | _ => ([], [])

/-- Records of a write in the order of which the last wins: source coordinate, source die, list position (R284). -/
def laterWrite (a b : StagedRec) : Bool :=
  decide (a.coord < b.coord) || (a.coord = b.coord && (decide (a.die < b.die) || (a.die = b.die && decide (a.pos ≤ b.pos))))

/-- The winning write. -/
def lastWrite (rs : List StagedRec) : Option StagedRec :=
  match rs.filter (fun r => r.write) with
  | [] => none
  | w :: ws => some (ws.foldl (fun b r => if laterWrite b r then r else b) w)

/-- The new master of a row: the base, and every add, summed exactly and rounded once to BF16. -/
def newMaster (width : Nat) (rs : List StagedRec) (old : List Byte) : List Byte :=
  ((List.range width).map (fun i =>
    let base : Num := match lastWrite rs with
      | some w => f32Num (BitVec.ofNat 32 (field w.data (4 * i) 4))
      | none => decodeFloat fmtBF16 (field old (2 * i) 2)
    let acc := (rs.filter (fun r => !r.write)).foldl (fun a r =>
      a.addProduct (f32Num r.weight) (f32Num (BitVec.ofNat 32 (field r.data (4 * i) 4)))) (Wide.zero.add (some (2 ^ 160)) base)
    toLe 2 (acc.round fmtBF16))).flatten

/-- Write a row's stored copy in a slot of a class; the free bytes that it may have drawn are passed. -/
def putCopy (hd : Nat) (t : Desc) (c slot : Nat) (master : List Byte) (r : Run) : Run :=
  let x := roundClass c master r.m
  let r1 := (r.eff (useFree (17 * (dWidth t / 16)))).eff (quantCauses (18 * hd) x.2)
  if c = 3 then r1 else r1.write (agentGleaner hd) (loc (dPool t c + slot * classBytes c (dWidth t))) x.1

/-- The records of one local row: the new master and its copy. A row whose own accesses fail is left as it is. -/
def applyRow (hd : Nat) (t : Desc) (row : Nat) (rs : List StagedRec) (m : Dev) : Run :=
  let ag := agentGleaner hd
  let en := (Run.start m).read ag (loc (dDir t + 8 * row)) 8
  let c := entryClass (leNat en.2)
  if en.1.st ≠ .ok then en.1
  else if c = 3 then en.1.eff (gleanerFault hd 4 (dId t) row)
  else
    let ma := en.1.read ag (loc (dMaster t + 2 * dWidth t * row)) (2 * dWidth t)
    if ma.1.st ≠ .ok then ma.1
    else
      let new := newMaster (dWidth t) rs ma.2
      putCopy hd t c (entrySlot (leNat en.2)) new (ma.1.write ag (loc (dMaster t + 2 * dWidth t * row)) new)

/-- Keep the staged records that a predicate names. -/
def keepStaged (f : StagedRec → Bool) (m : Dev) : Dev :=
  { m with gleaner := { m.gleaner with staged := m.gleaner.staged.filter f } }

/-- Apply the records of one local row; they are gone then. A row whose accesses are held keeps them: its apply has not finished. -/
def applyRecords (hd stamp : Nat) (t : Desc) (id row : Nat) (m : Dev) : Dev :=
  let mine := fun r : StagedRec => r.table = id && r.stamp = stamp && r.row = row
  let x := applyRow hd t row (m.gleaner.staged.filter mine) m
  if x.st = .held then heldBy 0 x.m m else keepStaged (fun r => !mine r) x.m

/-- The records of a stamp for one table, by ascending local row. -/
def applyTable (hd stamp : Nat) (t : Desc) (id : Nat) (m : Dev) : Dev :=
  let rs := m.gleaner.staged.filter (fun r => r.table = id && r.stamp = stamp)
  forEach (((rs.map (fun r => r.row)).eraseDups).mergeSort (fun a b => a ≤ b)) (applyRecords hd stamp t id) m

/-! ### Reclassification (R285, R286) -/

/-- The list of a table. -/
def movesOf (id : Nat) (m : Dev) : List Reclass := Sparse.get [] m.gleaner.moves id
def setMoves (id : Nat) (l : List Reclass) (m : Dev) : Dev :=
  { m with gleaner := { m.gleaner with moves := m.gleaner.moves.upd [] id l } }

/-- Local rows that a module holds of a table: those of each HOME entry that names it. -/
def localRows (t : Desc) (self : Nat) : Nat :=
  match (List.range (dHomes t)).find? (fun h => dHomeValid t h && dHome t h = self) with
  | some h => (dRows t + dHomes t - 1 - h) / dHomes t
  | none => 0

/-- Push a slot back on its class's stack; the descriptor's FREE count follows. -/
def pushSlot (hd desc : Nat) (t : Desc) (c slot : Nat) (r : Run) : Run :=
  let ag := agentGleaner hd
  let f := r.read ag (loc (desc + 88 + 4 * c)) 4
  (f.1.write ag (loc (dStack t c + 4 * leNat f.2)) (toLe 4 slot)).write ag (loc (desc + 88 + 4 * c)) (toLe 4 (leNat f.2 + 1))

/-- Pop a slot of a class; none when the stack is empty. -/
def popSlot (hd desc : Nat) (t : Desc) (c : Nat) (r : Run) : Run × Option Nat :=
  let ag := agentGleaner hd
  let f := r.read ag (loc (desc + 88 + 4 * c)) 4
  if leNat f.2 = 0 then (f.1, none)
  else
    let s := f.1.read ag (loc (dStack t c + 4 * (leNat f.2 - 1))) 4
    (s.1.write ag (loc (desc + 88 + 4 * c)) (toLe 4 (leNat f.2 - 1)), some (leNat s.2))

/-- Apply one entry: the master rounded into the new slot, the directory entry, the old slot back on its stack. An entry whose accesses
are held stays on the list. -/
def applyMove (hd desc : Nat) (t : Desc) (x : Reclass) (m : Dev) : Dev :=
  let ag := agentGleaner hd
  let en := (Run.start m).read ag (loc (dDir t + 8 * x.row)) 8
  let ma := en.1.read ag (loc (dMaster t + 2 * dWidth t * x.row)) (2 * dWidth t)
  let c := entryClass (leNat en.2)
  let r := pushSlot hd desc t c (entrySlot (leNat en.2))
    ((putCopy hd t x.cls x.slot ma.2 ma.1).write ag (loc (dDir t + 8 * x.row)) (toLe 8 (x.cls * 2 ^ 62 + x.slot % 2 ^ 32)))
  if r.st = .held then
    let m1 := heldBy 0 r.m m
    setMoves (dId t) (movesOf (dId t) m1 ++ [x]) m1
  else countSat (aGLEANER_CLASS_STATS hd) fGLEANER_CLASS_STATS_MOVED 1 r.m

/-- Shift every heat count of a table right (R286). -/
def decayHeat (hd : Nat) (t : Desc) (m : Dev) : Dev :=
  let ag := agentGleaner hd
  let k := rdF (aGLEANER_REFRESH hd) fGLEANER_REFRESH_DECAY m
  forEach (List.range (localRows t (selfCoord m))) (fun l m =>
    let h := readVia ag (loc (dHeat t + 2 * l)) 2 m
    (writeVia ag (loc (dHeat t + 2 * l)) (toLe 2 (leNat h.data / 2 ^ k)) h.m).m) m

/-- The class that a heat asks for. -/
def heatClass (t : Desc) (h : Nat) : Nat := if dHotMin t ≤ h then 0 else if dWarmMin t ≤ h then 1 else 2

/-- One local row of a sweep: listed when it moves, and whether a slot was lacking. -/
def sweepRow (hd desc : Nat) (t : Desc) (l : Nat) (x : Run × List Reclass × Bool) : Run × List Reclass × Bool :=
  let ag := agentGleaner hd
  let en := (Run.start x.1.m).read ag (loc (dDir t + 8 * l)) 8
  let h := en.1.read ag (loc (dHeat t + 2 * l)) 2
  let c := entryClass (leNat en.2)
  let want := heatClass t (leNat h.2)
  if c = 3 || want = c || h.1.st ≠ .ok then (h.1, x.2)
  else
    let s := popSlot hd desc t want h.1
    match s.2 with
    | none => (s.1.eff (countSat (aGLEANER_CLASS_STATS hd) fGLEANER_CLASS_STATS_DENIED 1), x.2.1, true)
    | some slot =>
      let ma := s.1.read ag (loc (dMaster t + 2 * dWidth t * l)) (2 * dWidth t)
      (putCopy hd t want slot ma.2 ma.1, x.2.1 ++ [⟨l, want, slot⟩], x.2.2)

/-- A sweep of a table: its local rows in ascending order, the rows that move listed. -/
def sweepTable (hd id desc : Nat) (t : Desc) (r : Run) : Dev :=
  let s := (List.range (localRows t (selfCoord r.m))).foldl (fun y l => sweepRow hd desc t l y) (r, [], false)
  let m1 := setMoves id s.2.1 s.1.m
  let m2 := when s.2.2 (raise (cDIE_GLEANER_SLOTS_SHORT hd)) m1
  if s.2.1.isEmpty then decayHeat hd t m2 else m2

/-- A sweep that has come due starts once the previous list is finished and throughput work may start (R285, R426). -/
def startDue (hd id desc : Nat) (t : Desc) (m : Dev) : Dev :=
  if m.gleaner.due.contains id && (movesOf id m).isEmpty && !throughputHeld m &&
      isSet (aGLEANER_REFRESH hd) fGLEANER_REFRESH_ENABLE m then
    sweepTable hd id desc t (Run.start { m with gleaner := { m.gleaner with due := m.gleaner.due.filter (· ≠ id) } })
  else m

/-- Is the entry a demotion: to a higher class number? -/
def isDemotion (hd : Nat) (t : Desc) (m : Dev) (x : Reclass) : Bool :=
  decide (entryClass (leNat (readVia (agentGleaner hd) (loc (dDir t + 8 * x.row)) 8 m).data) < x.cls)

/-- Up to BATCH entries of a table's list: demotions first, then promotions, each in ascending local row. -/
def applyMoves (hd id desc : Nat) (t : Desc) (m : Dev) : Dev :=
  let all := movesOf id m
  if all.isEmpty then m
  else
    let batch := max 1 (rdF (aGLEANER_REFRESH hd) fGLEANER_REFRESH_BATCH m)
    let order := all.filter (isDemotion hd t m) ++ all.filter (fun x => !isDemotion hd t m x)
    let m1 := forEach (order.take batch) (applyMove hd desc t) (setMoves id (order.drop batch) m)
    if (movesOf id m1).isEmpty then decayHeat hd t m1 else m1

/-- One table at an apply, once its descriptor is read: `f` does its part. The records of a table that is not there, or whose
descriptor cannot be read, are gone. -/
def forTable (hd stamp : Nat) (f : Nat → Nat → Desc → Dev → Dev) (id : Nat) (m : Dev) : Dev :=
  let x := homeTable id (Run.start m)
  let gone := keepStaged (fun r => !(r.table = id && r.stamp = stamp)) x.1.m
  if x.1.st = .held then heldBy 0 x.1.m m
  else if x.1.st ≠ .ok then gone
  else
    match x.2 with
    | none => gone
    | some (_, desc, t) => f id desc t (applyTable hd stamp t id x.1.m)

/-- One table at an apply: its records of the stamp, then its list, then a sweep that is due. -/
def applyOne (hd stamp id : Nat) (m : Dev) : Dev :=
  forTable hd stamp (fun id desc t m => startDue hd id desc t (applyMoves hd id desc t m)) id m

/-- A stamp whose records have not all been applied, because a row of it waits for a page, is applied further once it no longer does. -/
def noteLate (stamp : Nat) (m : Dev) : Dev :=
  let rest := m.gleaner.late.filter (· ≠ stamp)
  { m with gleaner := { m.gleaner with
      late := if m.gleaner.staged.any (fun r => r.stamp = stamp) then rest ++ [stamp] else rest } }

/-- Apply what earlier applies have had to leave. -/
def gleanRetry (m : Dev) : Dev :=
  match homeDieOf m with
  | none => m
  | some hd => forEach m.gleaner.late (fun s m =>
      noteLate s (forEach (List.range 256) (forTable hd s (fun _ _ _ m => m)) m)) m

/-- The apply of a stamp (R283): every table; the records applied, and those whose step never committed, are gone. -/
def gleanApply (hd stamp : Nat) (m : Dev) : Dev :=
  let m1 := forEach (List.range 256) (applyOne hd stamp) (gleanRetry m)
  noteLate stamp (keepStaged (fun r => r.stamp = 0 || decide (stamp ≤ r.stamp) || m1.gleaner.late.contains r.stamp) m1)

/-- The home's part of a commit record of step s (R283). -/
def gleanStep (s : Nat) (m : Dev) : Dev :=
  let m1 := match homeDieOf m with
    | some hd => gleanApply hd s m
    | none => m
  { m1 with gleaner := { m1.gleaner with applied := s } }

/-- GLEANER_APPLY written with 1 on a die: stamp-0 records and pending list entries; only the home die acts. -/
def gleanerApply (d : Nat) (m : Dev) : Dev :=
  if homeDieOf m = some d then gleanApply d 0 m else m

/-! ### Sweeps (R285) -/

/-- The sweep of a table comes due: it waits while the table's previous list is still being applied, or D = 0 stops new throughput
work (R426). -/
def sweepDue (id : Nat) (m : Dev) : Dev :=
  { m with gleaner := { m.gleaner with due := if m.gleaner.due.contains id then m.gleaner.due else m.gleaner.due ++ [id] } }

/-- GLEANER_SWEEP of a registered table. -/
def gleanerSweep (id : Nat) (m : Dev) : Dev :=
  match homeDieOf m with
  | none => m
  | some hd =>
    if !isSet (aGLEANER_REFRESH hd) fGLEANER_REFRESH_ENABLE m then m
    else if !(movesOf id m).isEmpty || throughputHeld m then sweepDue id m
    else
      let x := homeTable id (Run.start m)
      match x.2 with
      | none => m
      | some (_, desc, t) => if x.1.st ≠ .ok then x.1.m else sweepTable hd id desc t x.1

/-! ### The commands -/

def execGather (q : RingRef) (s : State) : Host.Outcome State Fault Refusal :=
  .next { s with dev := gatherRun (ringNum q) s.dev }
def execRowRequest (p : Packet) (s : State) : Host.Outcome State Fault Refusal :=
  .next { s with dev := rowRequest p s.dev }
def execRowResponse (p : Packet) (s : State) : Host.Outcome State Fault Refusal :=
  .next { s with dev := rowResponse p s.dev }
def execUpdateRecord (p : Packet) (s : State) : Host.Outcome State Fault Refusal :=
  .next { s with dev := updateRecord p s.dev }
def execGleanerApply (die : Die) (s : State) : Host.Outcome State Fault Refusal :=
  .next { s with dev := gleanerApply die.val s.dev }
def execGleanerSweep (table : Fin 256) (s : State) : Host.Outcome State Fault Refusal :=
  .next { s with dev := gleanerSweep table.val s.dev }

end Sys2Proof.Machine
end

