-- ==== Sys2Proof/Machine/Mover.lean ====
section
/-! DEFINITION. The Mover (chapters 10, 11, 14): MOVE in its three forms (R120, R315, R335 to R337), COPY_ASYNC (R415, R416),
bulk jobs (R318, R319), faults and NVMe commands (R307, R311, R313), and a lost Fallow device (R304). -/
namespace Sys2Proof.Machine

/-! ### Copying with poison -/

/-- The range and page of an operand that lies in the Fallow or Granary range, for a fault record; (0, 0) elsewhere. -/
def tierPage (a : Nat) : Nat × Nat :=
  match placeOf a with
  | .page r p _ => (r, p)
  | _ => (0, 0)

/-- The 32-byte units of a range that read as poisoned for an agent. -/
def badUnits (ag : Agent) (a n : Nat) (m : Dev) : List Nat :=
  (List.range ((n + 31) / 32)).filter (fun u => (readVia ag (a + 32 * u) (min 32 (n - 32 * u)) m).st = .poison)

/-- Read `n` bytes at one place and write them at another, whole pages at a time where they are pages; poison travels with
them and is the outcome. Bytes that cannot be told apart are poisoned all. -/
def copyPiece (ag : Agent) (src dst n : Nat) (r : Run) : Run :=
  let x := readVia ag src n r.m
  if x.st = .poison then
    let w := writeVia ag dst x.data x.m
    let bad := badUnits ag src n r.m
    let units := if bad.isEmpty then List.range ((n + 31) / 32) else bad
    ⟨if w.st = .ok then forEach units (fun u => poisonAt (dst + 32 * u) (min 32 (n - 32 * u))) w.m else w.m,
      (r.st.join x.st).join w.st⟩
  else if x.st ≠ .ok then ⟨x.m, r.st.join x.st⟩
  else
    let w := writeVia ag dst x.data x.m
    ⟨w.m, r.st.join w.st⟩

/-- The Mover's refusal of protected data (R317): its cause and its record. -/
def protectedStop (d dst : Nat) (m : Dev) : Dev :=
  tierFault 3 d (tierPage dst).1 (tierPage dst).2 (raise (cDIE_MOVER_PROTECTED d) m)

/-! ### MOVE without MIGRATE (R120, R315, R317) -/

def moveFlags (e : List Byte) : Nat := field e 24 1
def movePages (e : List Byte) : Nat := field e 20 4
/-- Page i of the source and of the destination. -/
def moveSrc (t : Nat) (e : List Byte) (i : Nat) : Nat := opAt t (field e 8 6) (65536 * i)
def moveDst (t : Nat) (e : List Byte) (i : Nat) : Nat := opAt t (field e 14 6) (65536 * i)

/-- Does a copy of pages take protected data where it may not go? -/
def pagesProtected (src dst : Nat → Nat) (n : Nat) (m : Dev) : Bool :=
  (List.range n).any (fun i => protectedAt (src i) 65536 m && !insideSafe (dst i))

/-- Copy pages, one after another, while none fails. -/
def copyPages (ag : Agent) (src dst : Nat → Nat) (n : Nat) (m : Dev) : Run :=
  (Run.start m).each (List.range n) (fun i r => if r.st = .ok then copyPiece ag (src i) (dst i) 65536 r else r)

/-- A plain MOVE on die d. -/
def movePlain (d t : Nat) (e : List Byte) (m : Dev) : Done :=
  if pagesProtected (moveSrc t e) (moveDst t e) (movePages e) m then ⟨protectedStop d (moveDst t e 0) m, 5⟩
  else (copyPages (agentMover d) (moveSrc t e) (moveDst t e) (movePages e) m).done

/-! ### Stored form (R335 to R337) -/

/-- The 64-byte header entry of page i. -/
def moveHeader (t : Nat) (e : List Byte) (i : Nat) : Nat := opAt t (field e 32 6) (64 * i)

/-- The 16 blocks of a page. -/
def blocksOf (page : List Byte) : List (List Byte) := (List.range 16).map (fun b => slice page (4096 * b) 4096)

/-- One stored block: raw when the slot holds no table or the saving test fails, and its ENCODED. -/
def storeBlock (d slot : Nat) (b : List Byte) (m : Dev) : List Byte × Nat :=
  let enc := compressBytes (slotCodes d slot m) b
  if slotValid d slot m && savingOk d 4096 enc.length m then (enc, enc.length) else (b, 4096)

/-- Blocks end to end, each padded to a multiple of 16 bytes. -/
def layBlocks (bs : List (List Byte × Nat)) : List Byte :=
  (bs.map (fun x => x.1 ++ List.replicate (alignUp x.1.length 16 - x.1.length) 0)).flatten

/-- The header entry of a stored page. -/
def storedHeader (d slot : Nat) (page : List Byte) (bs : List (List Byte × Nat)) (m : Dev) : List Byte :=
  let raw := bs.all (fun x => x.2 = 4096)
  toLe 8 (if raw then 0 else (rd (slotReg1 d slot) m).toNat) ++ toLe 8 (crc64 page) ++
    (bs.map (fun x => toLe 2 x.2)).flatten ++ List.replicate 16 0

/-- Count the stored blocks of a page. -/
def countBlocks (d : Nat) (bs : List (List Byte × Nat)) (m : Dev) : Dev :=
  let raw := (bs.filter (fun x => x.2 = 4096)).length
  countSat (aWINNOW_STATS d) fWINNOW_STATS_RAW raw
    (countSat (aWINNOW_STATS d) fWINNOW_STATS_COMPRESSED (bs.length - raw) m)

/-- COMPRESS of one page. -/
def compressPage (d t : Nat) (e : List Byte) (i : Nat) (r : Run) : Run :=
  let ag := agentMover d
  let x := r.read ag (moveSrc t e i) 65536
  if x.1.st ≠ .ok then x.1
  else
    let bs := (blocksOf x.2).map (fun b => storeBlock d (field e 38 1) b x.1.m)
    ((x.1.eff (countBlocks d bs)).write ag (moveDst t e i) (layBlocks bs)).write ag (moveHeader t e i)
      (storedHeader d (field e 38 1) x.2 bs x.1.m)

/-- A COMPRESS MOVE. -/
def moveCompress (d t : Nat) (e : List Byte) (m : Dev) : Done :=
  if (List.range (movePages e)).any (fun i => protectedAt (moveSrc t e i) 65536 m) then
    ⟨protectedStop d (moveDst t e 0) m, 5⟩
  else ((Run.start m).each (List.range (movePages e)) (fun i r =>
    if r.st = .ok then compressPage d t e i r else r)).done

/-- The slot of a die that holds a table. -/
def slotOfTable (d id : Nat) (m : Dev) : Option Nat :=
  ((List.range 15).map (fun i => i + 1)).find? (fun s => slotValid d s m && (rd (slotReg1 d s) m).toNat = id)

/-- Where block b of a stored page begins. -/
def blockStart (lens : List Nat) (b : Nat) : Nat := (((lens.take b).map (fun n => alignUp n 16))).sum

/-- The expanded bytes of a stored page and how each block ends; a length outside 1 to 4,096 cannot be trusted (R332). -/
def expandStored (d slot : Nat) (lens : List Nat) (stored : List Byte) (m : Dev) : List (List Byte × ExpandEnd) :=
  (List.range 16).map (fun b =>
    let n := lens.getD b 0
    let bytes := slice stored (blockStart lens b) n
    if n = 4096 then (bytes, .good)
    else if n = 0 || 4096 < n then (List.replicate 4096 0, .badCode)
    else expandBytes (slotCodes d slot m) 4096 bytes)

/-- The page number that a Mover's Winnow fault names. -/
def winnowPage (a : Nat) : Nat := plainAddr a / 65536 % 2 ^ 29

/-- The header entry and the stored bytes of a page, as they are read. -/
def readStored (d t : Nat) (e : List Byte) (i : Nat) (r : Run) : Run × List Byte × List Byte :=
  let h := r.read (agentMover d) (moveHeader t e i) 64
  let lens := (List.range 16).map (fun b => field h.2 (16 + 2 * b) 2)
  let x := h.1.read (agentMover d) (moveSrc t e i) (min 65536 (blockStart lens 16))
  (x.1, h.2, x.2)

/-- The slot by which a stored page is expanded: none is needed when every block is raw. -/
def storedSlot (d : Nat) (hdr : List Byte) (m : Dev) : Option Nat :=
  let raw := (List.range 16).all (fun b => field hdr (16 + 2 * b) 2 = 4096)
  if field hdr 0 8 = 0 && raw then some 0 else slotOfTable d (field hdr 0 8) m

/-- A stored page expanded and judged, with the events it raises and counts: its bytes, and whether it is poisoned. -/
def expandJudge (d dst slot : Nat) (hdr data : List Byte) (m : Dev) : List Byte × Bool × Dev :=
  let lens := (List.range 16).map (fun b => field hdr (16 + 2 * b) 2)
  let bs := expandStored d slot lens data m
  let page := (bs.map (fun b => b.1)).flatten
  let crcBad := decide (crc64 page ≠ field hdr 8 8)
  let m1 := forEach bs (fun b => expandCauses d 1 0 slot 0 (winnowPage dst) b.2) m
  (page, bs.any (fun b => b.2 ≠ .good) || crcBad,
    when crcBad (fun m => raise (cDIE_WINNOW_CRC d) (winnowFault d 5 1 0 slot 0 (winnowPage dst)
      (countSat (aWINNOW_ERR_STATS d) fWINNOW_ERR_STATS_TABLE 1 m))) m1)

/-- The retry failed: the page stays poisoned (R337). -/
def expandFailed (d dst slot : Nat) (m : Dev) : Run :=
  ⟨raise (cDIE_WINNOW_RETRY_FAIL d) (winnowFault d 6 1 0 slot 0 (winnowPage dst) m), .poison⟩

/-- A poisoned page is retried once: header and stored bytes are read and expanded again. A clean retry replaces the page. -/
def expandRetry (d t : Nat) (e : List Byte) (i slot : Nat) (m : Dev) : Run :=
  let dst := moveDst t e i
  let s := readStored d t e i (Run.start m)
  match if s.1.st = .ok then storedSlot d s.2.1 s.1.m else none with
  | none => expandFailed d dst slot s.1.m
  | some k =>
    let j := expandJudge d dst k s.2.1 s.2.2 s.1.m
    if j.2.1 then expandFailed d dst k j.2.2
    else (Run.start (countSat (aWINNOW_ERR_STATS d) fWINNOW_ERR_STATS_RECOVERED 1 j.2.2)).write (agentMover d) dst j.1

/-- EXPAND of one page (R337). A page without its table is zeros and poisoned and is not retried. -/
def expandPage (d t : Nat) (e : List Byte) (i : Nat) (r : Run) : Run :=
  let ag := agentMover d
  let dst := moveDst t e i
  let s := readStored d t e i r
  if s.1.st ≠ .ok then s.1
  else
    match storedSlot d s.2.1 s.1.m with
    | none =>
      let w := (s.1.eff (tableMismatch d 1 0 0 0 (winnowPage dst))).write ag dst (List.replicate 65536 0)
      if w.st ≠ .ok then w else ⟨poisonAt dst 65536 w.m, .poison⟩
    | some slot =>
      let j := expandJudge d dst slot s.2.1 s.2.2 s.1.m
      let w := (⟨j.2.2, s.1.st⟩ : Run).write ag dst j.1
      if !j.2.1 || w.st ≠ .ok then w else expandRetry d t e i slot (poisonAt dst 65536 w.m)

/-- An EXPAND MOVE. -/
def moveExpand (d t : Nat) (e : List Byte) (m : Dev) : Done :=
  if pagesProtected (moveSrc t e) (moveDst t e) (movePages e) m then ⟨protectedStop d (moveDst t e 0) m, 5⟩
  else ((Run.start m).each (List.range (movePages e)) (fun i r =>
    if r.st = .ok then expandPage d t e i r else r)).done

/-! ### MIGRATE (R314, R315) -/

/-- Where a MIGRATE goes: a frame of a pool, the home of Fallow pages or of Granary pages; none for a code that the range
does not have. -/
inductive Target where
  | pool (k : Nat)
  | home
  deriving DecidableEq, Repr

/-- The target of a code for pages of a range. -/
def targetOf (range code : Nat) : Option Target :=
  if code = fieldBase then some (.pool 0)
  else if code = fallowBase then some (if range = 0 then .home else .pool 1)
  else if code = fallowBase + 65536 then (if range = 1 then some (.pool 2) else none)
  else if code = granaryBase then (if range = 1 then some .home else none)
  else none

/-- WHERE of a target. -/
def Target.place : Target → Nat
  | .pool k => k + 1
  | .home => 0

/-- A migration under way: the module, the outcome as a halt reason, pages set MOVING and frames popped. -/
structure Mig where
  m : Dev
  reason : Nat
  moving : List (Nat × Nat)
  popped : List (Nat × Nat)
  deriving DecidableEq, Repr

/-- Write STAGED of a page at a place, with PIN. -/
def stagePage (range p : Nat) (e : Word) (place frame : Nat) (pin : Bool) (m : Dev) : Dev :=
  let w := mFRAME.put (mWHERE.put (mDIRTY.put (mBUSY.put (mMOVING.put (mPOISON.put (mRUN.put e 0) 0) 0) 0) 0) place) frame
  setStaged range p (mVALID.put (mPINNED.put w (if pin then 1 else 0)) 1) m

/-- Take a frame for a page, evicting when its pool has none (R313). -/
def takeFrame (d k range p : Nat) (m : Dev) : Option (Nat × Dev) :=
  match popFrame k range p m with
  | some x => some x
  | none => if poolOn k m && poolFree k m = 0 then popFrame k range p (evictOne d k m) else none

/-- The home of a page. -/
def homeOf (range p : Nat) : Nat := (if range = 0 then fallowBase else granaryBase) + 65536 * p

/-- Put a page's bytes into the frame that a STAGED word names: memory of this module, or COPY packets to the peer that lends the frame
(R315). None when no such peer is there. -/
def putFrame (d q job : Nat) (w : Waiter) (range p : Nat) (st : Word) (data : List Byte) (m : Dev) : Option Dev :=
  match pageKey range p st with
  | some key => some (stData key data m)
  | none =>
    if isSet (aTIER_PEER (bitsAt (mFRAME.get st) 29 3)) fTIER_PEER_VALID m then
      some (sendPage d job w q range p (mFRAME.get st) (mCLASS.get st) data m)
    else none

/-- A DIRTY page is written home; a Granary page by NVMe, which the migration awaits (R307, R315). -/
def migrateHome (d : Nat) (w : Waiter) (range p : Nat) (data : List Byte) (m : Dev) : Dev :=
  when (range = 1) (nvmeSend true false p (.move w) d) (stData (homeOf range p) data m)

/-- The bytes of a page that a migration copies. Those of a Granary page at its home are read by NVMe, and come later. -/
def migrateRead (d range p : Nat) (m : Dev) : ReadRes :=
  let e := mapOf range p m
  if range = 1 && mWHERE.get e = 0 then ⟨m, if mPOISON.get e = 1 then .poison else .ok, []⟩
  else readVia (agentMover d) (homeOf range p) 65536 m

/-- One page of a migration. Reason 98: no frame is free for it. -/
def migratePage (d q job : Nat) (w : Waiter) (range : Nat) (tg : Target) (pin : Bool) (p : Nat) (g : Mig) : Mig :=
  let e := mapOf range p g.m
  let far := range = 1 && mWHERE.get e = 0
  if mVALID.get e = 0 || frameGone e g.m || (range = 0 && mWHERE.get e = 0 && g.m.tiers.fallowLost) then
    { g with m := refuseMap (agentMover d) g.m, reason := 2 }
  else if mWHERE.get e = tg.place then
    { g with m := setStaged range p e (setMapF range p mMOVING 1 g.m), moving := g.moving ++ [(range, p)] }
  else
    let m1 := setMapF range p mMOVING 1 g.m
    let g1 : Mig := { g with m := m1, moving := g.moving ++ [(range, p)] }
    let x := migrateRead d range p m1
    if x.st ≠ .ok then { g1 with m := x.m, reason := reasonOf x.st 2 }
    else
      let m2 := when (!far && mDIRTY.get e = 1) (migrateHome d w range p x.data) x.m
      match tg with
      | .home =>
        if range = 0 && m2.tiers.fallowLost then { g1 with m := refuseMap (agentMover d) m2, reason := 2 }
        else { g1 with m := stagePage range p e 0 0 pin m2 }
      | .pool k =>
        if k = 2 && fTIER_CLASS_REMOTE_OK.get (classOf e m2) = 0 then { g1 with m := m2, reason := 5 }
        else
          match takeFrame d k range p m2 with
          | none => { g1 with m := m2, reason := 98 }
          | some (i, m3) =>
            let f := descFrame k i m3
            let m4 := stagePage range p e (mWHERE.get f) (mFRAME.get f) pin m3
            let g2 : Mig := { g1 with m := m4, popped := g1.popped ++ [(k, i)] }
            if far then { g2 with m := nvmeSend false false p (.move w) d m4 }
            else
              match putFrame d q job w range p (stagedOf range p m4) x.data m4 with
              | some m5 => { g2 with m := m5 }
              | none => { g2 with reason := 5 }

/-- The pages of a migration that need a frame of its pool wait for them (R313). -/
def waitFrames (d q range p n k : Nat) (m : Dev) : Dev :=
  let ps := ((List.range n).map (fun i => p + i)).filter (fun x => mWHERE.get (mapOf range x m) ≠ k + 1)
  let ws := ps.map (fun x => WaitMove.mk q range x k d)
  { m with tiers := { m.tiers with waitMove := m.tiers.waitMove ++ ws } }

/-- A migration of n pages; the first entry's RUN covers the rest. One that finds no frame waits, and is performed again (reason
99). -/
def migratePages (d q job : Nat) (w : Waiter) (range p n : Nat) (tg : Target) (pin : Bool) (m : Dev) : Mig :=
  let m0 := { m with tiers := { m.tiers with waitMove := m.tiers.waitMove.filter (fun x => x.q ≠ q) } }
  let g := (List.range n).foldl (fun g i => if g.reason = 0 then migratePage d q job w range tg pin (p + i) g else g)
    (⟨m0, 0, [], []⟩ : Mig)
  if g.reason = 98 then { g with m := waitFrames d q range p n (tg.place - 1) g.m, reason := 99 }
  else if g.reason = 0 && n ≠ 0 then { g with m := setStaged range p (mRUN.put (stagedOf range p g.m) (n - 1)) g.m }
  else g

/-- The check of R315 at FETCH: the commit word is KIND 1 and names the entry of SRC's first page in an enabled map that
holds all of SRC, and DST is a code of that range. -/
def migrateOk (t : Nat) (e : List Byte) (m : Dev) : Bool :=
  match placeOf (moveSrc t e 0) with
  | .page range p _ =>
    commitKind e = 1 && mapOn range m && bitsAt (commitWord e) 0 43 * 8 = entryAddr range p m &&
      p + movePages e ≤ rangePages range m && (targetOf range (field e 14 6)).isSome
  | _ => false

/-- Is any page of a MIGRATE's run in motion or being filled? It waits until that ends (R314). -/
def migrateWaits (t : Nat) (e : List Byte) (m : Dev) : Bool :=
  match placeOf (moveSrc t e 0) with
  | .page range p _ => (List.range (movePages e)).any (fun i =>
      mMOVING.get (mapOf range (p + i) m) = 1 || mBUSY.get (mapOf range (p + i) m) = 1)
  | _ => false

/-- A MIGRATE of a ring: what it holds stays with the ring until its group commits or is killed. -/
def moveMigrate (q d t : Nat) (e : List Byte) (m : Dev) : Done :=
  match placeOf (moveSrc t e 0) with
  | .page range p _ =>
    match targetOf range (field e 14 6) with
    | some tg =>
      let g := migratePages d q (ringJob q m) (.migrate q) range p (movePages e) tg (bitAt (moveFlags e) 3) m
      let x := dynOf q g.m
      ⟨pumpAll (setDyn q { x with moving := x.moving ++ g.moving, popped := x.popped ++ g.popped } g.m), g.reason⟩
    | none => ⟨m, 1⟩
  | _ => ⟨m, 1⟩

/-- The tile that stands for a command's rank. -/
def moverTile (q : Nat) (e : List Byte) (m : Dev) : Nat := (rankTile q (cmdRank e) m).getD 0

/-- MOVE. -/
def moveBody (q : Nat) (e : List Byte) (m : Dev) : Done :=
  let t := moverTile q e m
  let d := dieOf t
  let f := moveFlags e
  if bitAt f 2 then moveMigrate q d t e m
  else if bitAt f 0 then moveCompress d t e m
  else if bitAt f 1 then moveExpand d t e m
  else movePlain d t e m

/-- Does the MOVE at FETCH wait for a page in motion? -/
def moveWaits (q : Nat) (m : Dev) : Bool :=
  let e := peekEntry q m
  cmdOpcode e = opMOVE && bitAt (moveFlags e) 2 && migrateWaits (moverTile q e m) e m

/-- The state checks of a MOVE. -/
def moveFetchOk (q : Nat) (e : List Byte) (m : Dev) : Bool :=
  !bitAt (moveFlags e) 2 || migrateOk (moverTile q e m) e m

/-- Is the Mover that serves the command at FETCH parked (R164, R329)? -/
def moverHeld (q : Nat) (m : Dev) : Bool :=
  isParked .mover m || m.plan.parked.any (fun u => match u with
    | .fixed d .mover => d.val = dieOf (moverTile q (peekEntry q m) m)
    | _ => false)

/-- The MOVE of a ring. -/
def moveCommand (q : Nat) (m : Dev) : Dev :=
  if moverHeld q m || moveWaits q m then m else runCommand q opMOVE (moveFetchOk q) (moveBody q) m

/-! ### COPY_ASYNC (R415, R416) -/

/-- Would a copy take protected data out of the Seedbed windows and Field tiers? -/
def copyProtected (src dst n : Nat) (m : Dev) : Bool :=
  protectedAt src n m && !(insideSafe dst && insideSafe (dst + n - 1))

/-- The chunks of a range: offset and length. -/
def chunksOf (log2 n : Nat) : List (Nat × Nat) :=
  if n = 0 then [(0, 0)]
  else if log2 = 0 then [(0, n)]
  else (List.range ((n + 2 ^ log2 - 1) / 2 ^ log2)).map (fun i => (2 ^ log2 * i, min (2 ^ log2) (n - 2 ^ log2 * i)))

/-- A copy within the module: chunk by chunk, each committing with its increment. A chunk that fails has the effect of a
failed access (R406, R415, R416). -/
def copyLocal (d : Nat) (e : List Byte) (src dst : Nat) (m : Dev) : Run :=
  (Run.start m).each (chunksOf (field e 32 1) (field e 24 4)) (fun c r =>
    if r.st ≠ .ok then r
    else
      let x := if c.2 = 0 then r else copyPiece (agentMover d) (src + c.1) (dst + c.1) c.2 r
      if x.st = .ok then ⟨addRef (field e 28 2) (field e 30 2) x.m, x.st⟩
      else if x.st = .held then x
      else ⟨accessFailed d (selfCoord x.m) (statusOf x.st) ptCOPY 0 x.m, x.st⟩)

/-- One packet of a copy: its source bytes, marked when poisoned. -/
def copyPacket (q d job coord : Nat) (e : List Byte) (src dst chunk : Nat) (prot : Bool) (x : Nat × Nat × Bool) (r : Run) :
    Run :=
  let b := readVia (agentMover d) (src + x.1) x.2.1 r.m
  if b.st ≠ .ok && b.st ≠ .poison then ⟨b.m, r.st.join b.st⟩
  else
    ⟨sendAfter ⟨ptCOPY, q, d, placeWord coord (homeDie dst), job, field e 33 1,
      fabricPrefix (dst + x.1) x.2.1 (if x.2.2 then 4 else 0) 0
        (if x.2.2 then field e 28 2 + 65536 * field e 30 2 else 0),
      b.data, src + x.1, decide (b.st = .poison), field e 35 1, prot, chunk, .copy q⟩ b.m, r.st⟩

/-- A copy to another module: the packets of its chunks, in order. -/
def copyRemote (q d coord : Nat) (e : List Byte) (src dst : Nat) (m : Dev) : Run :=
  let n := field e 24 4
  let prot := protectedAt src n m
  (Run.start m).each (chunksOf (field e 32 1) n) (fun c r =>
    let k := newChunk r.m
    (⟨k.2, r.st⟩ : Run).each (copyCuts c.2) (fun x =>
      copyPacket q d (ringJob q m) coord e (src + c.1) (dst + c.1) k.1 prot x))

/-- COPY_ASYNC. -/
def copyBody (q : Nat) (e : List Byte) (m : Dev) : Done :=
  let d := dieOf (moverTile q e m)
  match resolve (field e 8 8) m with
  | .refused => ⟨accessFailed d 0 4 ptCOPY 0 m, 2⟩
  | .there c _ => ⟨raise (cDIE_FABRIC_COPY_SRC d) (fabricFault 4 d c 0 ptCOPY 0 m), 5⟩
  | .here src =>
    match resolve (field e 16 8) m with
    | .refused => ⟨accessFailed d 0 4 ptCOPY 0 m, 2⟩
    | .here dst =>
      if copyProtected src dst (field e 24 4) m then ⟨protectedStop d dst m, 5⟩
      else (copyLocal d e src dst m).done
    | .there c dst =>
      if copyProtected src dst (field e 24 4) m then ⟨protectedStop d dst m, 5⟩
      else
        match sendStop (ringJob q m) (protectedAt src (field e 24 4) m) m with
        | some s => ⟨sendStopped s c (ringJob q m) m, 2⟩
        | none =>
          let r := copyRemote q d c e src dst m
          if r.st = .ok then ⟨pumpAll r.m, 0⟩ else r.done

/-- The COPY_ASYNC of a ring. -/
def copyCommand (q : Nat) (m : Dev) : Dev :=
  if moverHeld q m then m else runCommand q opCOPY (fun _ _ => true) (copyBody q) m

/-! ### Bulk jobs (R318, R319) -/

/-- The Mover that the model charges with bulk jobs (DESIGN CHOICE, log entry 36). -/
def bulkDie : Nat := 0

def jobState (n : Nat) (m : Dev) : Dev := wrF aTIER_JOB_STATUS fTIER_JOB_STATUS_STATE n m
def jobQueued (m : Dev) : Dev := wrF aTIER_JOB_STATUS fTIER_JOB_STATUS_QUEUED m.tiers.jobs.length m

/-- The number by which bulk jobs wait for pages and send packets, beside the 256 rings. -/
def bulkRing : Nat := 256

/-- Start the next job when none runs. -/
def startJob (m : Dev) : Dev :=
  match m.tiers.running, m.tiers.jobs with
  | none, j :: rest =>
    jobQueued (jobState 1 (wrF aTIER_JOB_STATUS fTIER_JOB_STATUS_ENTRY 0
      { m with tiers := { m.tiers with running := some j, jobs := rest, stopAsked := false, bulk := none, bulkFailed := false } }))
  | _, _ => m

/-- BULK_JOB_SUBMIT. -/
def submitJob (counter : BitVec 16) (list : Nat) (m : Dev) : Dev :=
  if m.tiers.running.isSome && decide (4 ≤ m.tiers.jobs.length) then raise cTIER_JOB_QUEUE_FULL m
  else startJob (jobQueued { m with tiers := { m.tiers with jobs := m.tiers.jobs ++ [⟨counter, list⟩] } })

/-- BULK_JOB_STOP. -/
def stopJob (m : Dev) : Dev :=
  if m.tiers.running.isSome then { m with tiers := { m.tiers with stopAsked := true } } else m

/-- Is a bulk entry well formed? COMPRESS and EXPAND need a header array, which an entry does not name. -/
def bulkEntryOk (b : List Byte) : Bool :=
  let f := field b 20 1
  field b 0 8 % 65536 = 0 && field b 8 8 % 65536 = 0 && 1 ≤ field b 16 4 && field b 16 4 ≤ 2 ^ 24 &&
    (f = 0 || f = 4 || f = 12)

/-- What the work of an entry comes to: the module, 0 or the reason it fails (99: it is held), and what it holds. -/
abbrev BulkWork := Mig

/-- The migration of an entry. It waits while a page of it is in motion or being filled (R314). -/
def bulkMigrate (range p n : Nat) (tg : Target) (pin : Bool) (m : Dev) : BulkWork :=
  if !mapOn range m || rangePages range m < p + n then ⟨m, 5, [], []⟩
  else if (List.range n).any (fun i => mMOVING.get (mapOf range (p + i) m) = 1 || mBUSY.get (mapOf range (p + i) m) = 1) then
    ⟨m, 99, [], []⟩
  else migratePages bulkDie bulkRing 0 .bulk range p n tg pin m

/-- The work of an entry begins: a copy, or a migration. -/
def bulkWork (b : List Byte) (m : Dev) : BulkWork :=
  let src := field b 0 8
  let dst := field b 8 8
  let n := field b 16 4
  let f := field b 20 1
  if !bulkEntryOk b then ⟨m, 5, [], []⟩
  else if f = 0 then
    let at_ := fun (base i : Nat) => loc (base + 65536 * i)
    if pagesProtected (at_ src) (at_ dst) n m then ⟨protectedStop bulkDie (loc dst) m, 5, [], []⟩
    else
      let r := copyPages (agentMover bulkDie) (at_ src) (at_ dst) n m
      ⟨r.m, reasonOf r.st 2, [], []⟩
  else
    match placeOf (loc src), targetOf (match placeOf (loc src) with | .page range _ _ => range | _ => 0) dst with
    | .page range p _, some tg => bulkMigrate range p n tg (bitAt f 3) m
    | _, _ => ⟨m, 5, [], []⟩

/-- The act of an entry: its flip, unless FLIP is 0. -/
def bulkAct (b : List Byte) (m : Dev) : Bool × Dev :=
  let a := field b 24 8
  if a = 0 then (true, m)
  else
    match flipRun a m with
    | some m1 => (true, retryWaiting m1)
    | none => (false, flipRefused bulkDie a m)

/-- A job ends: its state, and the next begins. -/
def endJob (st : Nat) (m : Dev) : Dev :=
  startJob (jobState st { m with tiers := { m.tiers with
    running := none, stopAsked := false, bulk := none, bulkFailed := false } })

/-- An entry fails: what it holds is given back, its packets and commands are dropped, and the job stops (R319). -/
def bulkFails (moving popped : List (Nat × Nat)) (m : Dev) : Dev :=
  let drop := fun w : Waiter => decide (w = .bulk)
  let m1 := dropRequests drop { m with tiers := { m.tiers with
    nvme := m.tiers.nvme.filter (fun c => !c.use.waits drop)
    pageWaits := m.tiers.pageWaits.filter (fun x => x.1 ≠ bulkRing)
    waitMove := m.tiers.waitMove.filter (fun x => x.q ≠ bulkRing) } }
  endJob 2 (raise cTIER_JOB_FAULT (undoPages moving popped m1))

/-- The entry under way has done its work: its act, its increment, and the next entry or the job's end. -/
def bulkCommit (j : Job) (n i : Nat) (b : List Byte) (moving popped : List (Nat × Nat)) (m : Dev) : Dev :=
  let x := bulkAct b m
  if !x.1 then bulkFails moving popped x.2
  else
    let stay := if field b 24 8 = 0 then moving else []
    let m1 := wrF aTIER_JOB_STATUS fTIER_JOB_STATUS_ENTRY (i + 1) (addRef j.counter.toNat 1
      { x.2 with tiers := { x.2.tiers with bulk := none, kept := x.2.tiers.kept ++ stay } })
    if n ≤ i + 1 then endJob 0 m1
    else if m1.tiers.stopAsked then endJob 3 m1
    else m1

/-- The entry at ENTRY, once what it awaits is in: it commits, or the job fails. -/
def bulkSettle (j : Job) (n i : Nat) (b : List Byte) (held : List (Nat × Nat) × List (Nat × Nat)) (m : Dev) : Dev :=
  if m.tiers.bulkFailed then bulkFails held.1 held.2 m
  else if waiterBusy .bulk m then m
  else bulkCommit j n i b held.1 held.2 { m with tiers := { m.tiers with bulk := some held } }

/-- The work of the entry begins: it is held, it fails, or it goes on to what it awaits. -/
def bulkBegin (j : Job) (n i : Nat) (b : List Byte) (m : Dev) : Dev :=
  let w := bulkWork b m
  if w.reason = 99 then holdFor bulkRing 0 w.m m
  else if w.reason ≠ 0 then bulkFails w.moving w.popped (dropLentWrites w.m)
  else
    let m1 := pumpAll (sendPeers .bulk bulkRing 0 { w.m with tiers := { w.m.tiers with bulk := some (w.moving, w.popped) } })
    bulkSettle j n i b (w.moving, w.popped) m1

/-- BULK_ENTRY_COMMIT: the entry at ENTRY is performed and commits, or the job fails. A job whose header is not 1 to 65,536
entries fails at its first. No entry begins while D = 0 holds throughput work (R426) or the Mover is parked (R164). -/
def bulkEntryCommit (o : EntryOutcome) (m : Dev) : Dev :=
  match m.tiers.running with
  | none => m
  | some j =>
    let i := rdF aTIER_JOB_STATUS fTIER_JOB_STATUS_ENTRY m
    let h := readVia (agentMover bulkDie) (j.list * 64) 4 m
    let n := leNat h.data
    let b := readVia (agentMover bulkDie) (j.list * 64 + 16 + 32 * i) 32 h.m
    let held := m.tiers.bulk.getD ([], [])
    if m.tiers.bulk.isNone && (throughputHeld m || isParked .mover m) then m
    else if h.st = .held || b.st = .held then holdFor bulkRing 0 b.m m
    else if h.st ≠ .ok || b.st ≠ .ok || n = 0 || 65536 < n || o = .failed || m.tiers.bulkFailed then bulkFails held.1 held.2 b.m
    else if m.tiers.bulk.isSome then bulkSettle j n i b.data held b.m
    else bulkBegin j n i b.data b.m

/-! ### Faults and NVMe commands (R307, R311, R313) -/

/-- The home of a faulting page has been read, or could not be: a local frame takes the bytes, a lent one has them sent to its peer,
and the entry flips when they are there. -/
def fillRead (die page : Nat) (ok : Bool) (m : Dev) : Dev :=
  match m.tiers.filling.find? (fun f => f.1 = page) with
  | none => m
  | some f =>
    let st := entryAt (mapOf 1 page m) (descFrame (f.2 / 2 ^ 28) (f.2 % 2 ^ 28) m)
    if waiterBusy (.fill page) m then m
    else if !ok || (pageKey 1 page st).isSome then fillDone page ok m
    else
      let m1 := { m with tiers := { m.tiers with nvme := m.tiers.nvme.filter (fun c => !(c.page = page && c.use = .fill)) } }
      match putFrame die 0 0 (.fill page) 1 page st (ldBytes (homeOf 1 page) 65536 m) m1 with
      | some m2 => m2
      | none => fillDone page false m1

/-- The die whose Mover fills a page. -/
def fillDie (page : Nat) (m : Dev) : Nat :=
  ((m.tiers.nvme.find? (fun c => c.page = page && c.use = .fill)).map (fun c => c.die)).getD 0

/-- Those that wait for a page or a frame in vain: a ring halts with reason 2, a bulk entry fails (R313). -/
def waitFails (q : Nat) (m : Dev) : Dev :=
  if q = bulkRing then
    { m with tiers := { m.tiers with
      bulkFailed := true
      pageWaits := m.tiers.pageWaits.filter (fun x => x.1 ≠ bulkRing)
      waitMove := m.tiers.waitMove.filter (fun x => x.q ≠ bulkRing) } }
  else haltRing q 2 m

/-- NO_FRAME_TIMEOUT: no frame came within TIER_FAULT_LIMIT for a fault, whose accesses fail, or for a migration. -/
def noFrameTimeout (page : Nat) (m : Dev) : Dev :=
  match m.tiers.waitFrame.find? (fun w => w.1 = page), m.tiers.waitMove.find? (fun w => w.page = page) with
  | some w, _ =>
    let rings := ((m.tiers.pageWaits.filter (fun x => x.2 = page)).map (fun x => x.1)).eraseDups
    let m1 := noFrame w.2 1 page (setMapF 1 page mBUSY 0 { m with tiers := { m.tiers with
      waitFrame := m.tiers.waitFrame.filter (fun x => x.1 ≠ page)
      pageWaits := m.tiers.pageWaits.filter (fun x => x.2 ≠ page) } })
    forEach rings waitFails (failHeld page m1)
  | none, some w => waitFails w.q (noFrame w.die w.range w.page m)
  | none, none => m

/-- A write-back has ended: the page is at its home and its frame free, or it stays in its frame, DIRTY. -/
def writeBackDone (die page : Nat) (ok : Bool) (m : Dev) : Dev :=
  let e := mapOf 1 page m
  if !ok then dropLent page (setMapF 1 page mMOVING 0 m)
  else
    match findFrame e m with
    | some (k, i) =>
      let m1 := match lentBytes die page m with
        | some data => if mWHERE.get e = 3 then stData (homeOf 1 page) data m else writeHome 1 page e m
        | none => writeHome 1 page e m
      retryWaiting (dropLent page (evictEnd k i m1))
    | none => dropLent page (setMapF 1 page mMOVING 0 m)

/-- The home of a page that migrates has been read: its bytes go to the frame that its STAGED names; a failed read poisons the page and
fails the migration (R307). -/
def moveRead (c : NvmeCmd) (w : Waiter) (ok : Bool) (m : Dev) : Dev :=
  if !ok then failWaiter w (setMapF 1 c.page mPOISON 1 m)
  else
    match putFrame c.die (w.group.getD bulkRing) ((w.group.map (fun q => ringJob q m)).getD 0) w 1 c.page (stagedOf 1 c.page m)
      (ldBytes (homeOf 1 c.page) 65536 m) m with
    | some m1 => m1
    | none => failWaiter w m

/-- An NVMe command has ended for good. A write-back to a device with a volatile write cache is followed by its Flush, before the
page counts as written (R307). -/
def nvmeEnd (c : NvmeCmd) (ok : Bool) (m : Dev) : Dev :=
  let m1 := nvmeTakeOut c m
  if c.write && !c.flush && ok && homeVwc c.page m then nvmeSend true true c.page c.use c.die m1
  else
    match c.use with
    | .fill => fillRead c.die c.page ok m1
    | .evict => writeBackDone c.die c.page ok m1
    | .move w => if c.write then (if ok then m1 else failWaiter w m1) else moveRead c w ok m1

/-- NVME_COMPLETION: success ends the command; an error is retried once, then the command has failed. -/
def nvmeCompletion (id : Nat) (st : NvmeStatus) (m : Dev) : Dev :=
  match m.tiers.nvme.find? (fun c => c.id = id && c.sent) with
  | none => m
  | some c =>
    if st = .success then nvmeEnd c true m
    else if c.retried then nvmeEnd c false (tierFault 4 c.die 1 c.page (raise cTIER_NVME_CMD_ERROR m))
    else emit (nvmeOut c m) { m with tiers := { m.tiers with
      nvme := m.tiers.nvme.map (fun x => if x = c then { x with retried := true } else x) } }

/-- NVME_TIMEOUT: the command is aborted (admin opcode 08h, PRESUMED, log entry 98). -/
def nvmeTimeout (id : Nat) (m : Dev) : Dev :=
  match m.tiers.nvme.find? (fun c => c.id = id && c.sent) with
  | none => m
  | some c =>
    nvmeEnd c false (tierFault 4 c.die 1 c.page (raise cTIER_NVME_TIMEOUT
      (emit (.nvmeAdmin 0x08 (controllerOf c.page m / 4) (controllerOf c.page m % 4)) m)))

/-! ### A lost Fallow device (R304) -/

/-- The pages of a range whose entries are VALID and at a place. -/
def pagesAt (range place : Nat) (m : Dev) : List Nat :=
  if !mapOn range m then []
  else (List.range (rangePages range m)).filter (fun p =>
    mVALID.get (mapOf range p m) = 1 && mWHERE.get (mapOf range p m) = place)

/-- What becomes of the pages when the Fallow tier is lost. -/
def fallowLoss (m : Dev) : Dev :=
  let m1 := forEach (pagesAt 0 0 m) (fun p => setMapF 0 p mPOISON 1) m
  let m2 := forEach (pagesAt 0 1 m1) (fun p => setMapF 0 p mPINNED 1) m1
  let m3 := forEach (pagesAt 1 2 m2) (fun p => setMapF 1 p mPOISON 1) m2
  { m3 with tiers := { m3.tiers with fallowLost := true } }

/-- Take a device out of service: its bit leaves UP, CXL and NVME of its port. -/
def dropDevice (port device : Nat) (m : Dev) : Dev :=
  let off := aPCIE_PORT port
  let out := fun (f : Fld) (m : Dev) => wrF off f (bitsAt (rdF off f m) 0 4 &&& (15 - 2 ^ device)) m
  out fPCIE_PORT_NVME (out fPCIE_PORT_CXL (out fPCIE_PORT_UP m))

/-- Is a device a Fallow device in use: a CXL device that a way of the enabled decoder names (R302, R304)? -/
def isFallowDevice (port device : Nat) (m : Dev) : Bool :=
  isSet aTIER_FALLOW_DECODE fTIER_FALLOW_DECODE_ENABLE m && bitAt (rdF (aPCIE_PORT port) fPCIE_PORT_CXL m) device &&
    (List.range (fallowWays m)).any (fun w => wayDevice w m = 4 * port + device)

/-! ### The commands -/

def execMove (q : RingRef) (s : State) : Host.Outcome State Fault Refusal :=
  .next { s with dev := moveCommand (ringNum q) s.dev }
def execCopyAsync (q : RingRef) (s : State) : Host.Outcome State Fault Refusal :=
  .next { s with dev := copyCommand (ringNum q) s.dev }
def execPageFault (die : Die) (page : Nat) (s : State) : Host.Outcome State Fault Refusal :=
  .next { s with dev := pumpAll (pageFault die.val page s.dev) }
def execPageFaultFill (page : Nat) (ok : Bool) (s : State) : Host.Outcome State Fault Refusal :=
  .next { s with dev := pumpAll (gleanRetry (fillRead (fillDie page s.dev) page ok s.dev)) }
def execNoFrameTimeout (page : Nat) (s : State) : Host.Outcome State Fault Refusal :=
  .next { s with dev := pumpAll (noFrameTimeout page s.dev) }
def execNvmeCompletion (id : Nat) (status : NvmeStatus) (s : State) : Host.Outcome State Fault Refusal :=
  .next { s with dev := pumpAll (gleanRetry (nvmeCompletion id status s.dev)) }
def execNvmeTimeout (id : Nat) (s : State) : Host.Outcome State Fault Refusal :=
  .next { s with dev := pumpAll (gleanRetry (nvmeTimeout id s.dev)) }
def execBulkJobSubmit (counter : BitVec 16) (list : BitVec 40) (s : State) : Host.Outcome State Fault Refusal :=
  .next { s with dev := submitJob counter list.toNat s.dev }
def execBulkJobStop (s : State) : Host.Outcome State Fault Refusal := .next { s with dev := stopJob s.dev }
def execBulkEntryCommit (outcome : EntryOutcome) (s : State) : Host.Outcome State Fault Refusal :=
  .next { s with dev := bulkEntryCommit outcome s.dev }

end Sys2Proof.Machine
end

