-- ==== Sys2Proof/Machine/Network.lean ====
section
/-! DEFINITION. The commands of the grid, the Seedbed and Field banks, the Windrow links and routers, the Drones and the
memory fabric: each asks the operation of its chapter's file. A packet of another type than its command takes changes
nothing (DESIGN CHOICE, log entry 29). -/
namespace Sys2Proof.Machine

/-- Do `f` when a packet is of a type. -/
def forType (t : Nat) (p : Packet) (f : Packet → Dev → Dev) (m : Dev) : Dev := if p.typ.toNat = t then f p m else m

/-- A request is served by the home's unit, which takes it; a ROW request is the Gleaner's (R278, R282). -/
def serveTaken (f : Packet → Dev → Dev) (p : Packet) (m : Dev) : Dev := if fxRow p then m else f p m

/-- READ_DATA is the Gleaner's when a row waits for it (R278). -/
def readDataTaken (p : Packet) (m : Dev) : Dev :=
  if m.net.reqs.any (fun r => answers p r && fxRow r.p) then m else gleanRetry (readDataRx p (takePacket p m))

/-- A source's END marker of a ROUTE (R252). -/
def routeEnd (p : Packet) (m : Dev) : Dev := if preKind p = 1 then markerRx p m else m

/-! ### Grid, Seedbed, Field -/

def execGridPass (t : TileId) (pass : PassSpec) (s : State) : Host.Outcome State Fault Refusal :=
  .next { s with dev := gridPass (tileIdx t) pass s.dev }
def execAccDrain (t : TileId) (drain : DrainSpec) (s : State) : Host.Outcome State Fault Refusal :=
  .next { s with dev := accDrain (tileIdx t) drain s.dev }
def execGridSelftestStart (t : TileId) (s : State) : Host.Outcome State Fault Refusal :=
  .next { s with dev := selfTestStart (tileIdx t) s.dev }
def execGridSelftestDone (t : TileId) (failed : List (Fin 258)) (logic : Bool) (s : State) :
    Host.Outcome State Fault Refusal :=
  .next { s with dev := selfTestDone (tileIdx t) failed logic s.dev }
def execSeedbedAccess (bank : BankRef) (reqs : List BankReq) (s : State) : Host.Outcome State Fault Refusal :=
  .next { s with dev := seedbedAccess bank reqs s.dev }
def execEccWriteback (bank : BankRef) (s : State) : Host.Outcome State Fault Refusal :=
  .next { s with dev := eccWriteback bank s.dev }
def execFieldAccess (req : FieldReq) (s : State) : Host.Outcome State Fault Refusal :=
  .next { s with dev := fieldAccess req s.dev }
def execScrubPass (stack : Fin 32) (faults : List ScrubFault) (s : State) : Host.Outcome State Fault Refusal :=
  .next { s with dev := scrubPass stack.val faults s.dev }

/-! ### Links and routers -/

def execTrainingStart (l : Fin 36) (s : State) : Host.Outcome State Fault Refusal :=
  .next { s with dev := trainingStart l.val s.dev }
def execCredit (l : Fin 36) (freed : List (BitVec 32)) (s : State) : Host.Outcome State Fault Refusal :=
  .next { s with dev := creditReceived l.val freed s.dev }
def execPacketRoute (die : Die) (arrival : Option (Fin 36)) (p : Packet) (s : State) : Host.Outcome State Fault Refusal :=
  .next { s with dev := packetRoute die.val (arrival.map Fin.val) p s.dev }
def execPacketDeliver (check : PacketCheck) (p : Packet) (s : State) : Host.Outcome State Fault Refusal :=
  .next { s with dev := packetDeliver check p s.dev }
def execNack (p : Packet) (s : State) : Host.Outcome State Fault Refusal :=
  .next { s with dev := forType ptNACK p nackRx s.dev }
def execLinkResendRequest (p : Packet) (s : State) : Host.Outcome State Fault Refusal :=
  .next { s with dev := forType ptRESEND p linkResend s.dev }

/-! ### Drones and the host Coulter -/

def execDispatch (p : Packet) (s : State) : Host.Outcome State Fault Refusal :=
  .next { s with dev := forType ptDISPATCH p (chunkRx true) s.dev }
def execRouteEndMarker (p : Packet) (s : State) : Host.Outcome State Fault Refusal :=
  .next { s with dev := forType ptMARKER p routeEnd s.dev }
def execCollectiveBind (q : RingRef) (lane : Fin 128) (s : State) : Host.Outcome State Fault Refusal :=
  .next { s with dev := collectiveBind (ringNum q) lane.val s.dev }
def execChunk (p : Packet) (residueOk : Bool) (s : State) : Host.Outcome State Fault Refusal :=
  .next { s with dev := forType ptCHUNK p (chunkRx residueOk) s.dev }
def execMarker (p : Packet) (s : State) : Host.Outcome State Fault Refusal :=
  .next { s with dev := forType ptMARKER p markerRx s.dev }
def execCollectiveComplete (q : RingRef) (s : State) : Host.Outcome State Fault Refusal :=
  .next { s with dev := collectiveComplete (ringNum q) s.dev }
def execAbort (p : Packet) (s : State) : Host.Outcome State Fault Refusal :=
  .next { s with dev := forType ptABORT p abortRx s.dev }
def execDroneWatchdog (q : Watched) (s : State) : Host.Outcome State Fault Refusal :=
  .next { s with dev := droneWatchdog (ringNum q.ring) (q.context.map (fun k => k.val)) s.dev }
def execSignalReceive (p : Packet) (s : State) : Host.Outcome State Fault Refusal :=
  .next { s with dev := forType ptSIGNAL p serveSignal s.dev }

/-! ### The memory fabric -/

def execRead (p : Packet) (s : State) : Host.Outcome State Fault Refusal :=
  .next { s with dev := forType ptREAD p (serveTaken serveRead) s.dev }
def execWrite (p : Packet) (s : State) : Host.Outcome State Fault Refusal :=
  .next { s with dev := forType ptWRITE p (serveTaken serveWrite) s.dev }
def execAtomic (p : Packet) (s : State) : Host.Outcome State Fault Refusal :=
  .next { s with dev := forType ptATOMIC p serveAtomic s.dev }
def execCopy (p : Packet) (s : State) : Host.Outcome State Fault Refusal :=
  .next { s with dev := forType ptCOPY p serveCopy s.dev }
def execReadData (p : Packet) (s : State) : Host.Outcome State Fault Refusal :=
  .next { s with dev := forType ptREAD_DATA p readDataTaken s.dev }
def execCompletion (p : Packet) (s : State) : Host.Outcome State Fault Refusal :=
  .next { s with dev := forType ptCOMPLETION p (fun p m => gleanRetry (completionRx p (takePacket p m))) s.dev }
def execFabricTimeout (die : Die) (tag : BitVec 32) (s : State) : Host.Outcome State Fault Refusal :=
  .next { s with dev := fabricTimeout die.val tag.toNat s.dev }
def execCacheInvalidate (s : State) : Host.Outcome State Fault Refusal :=
  .next { s with dev := cacheInvalidate s.dev }

end Sys2Proof.Machine
end

