-- ==== Sys2Proof/Machine/FieldPlan.lean ====
section
/-! DEFINITION. The Field Plan's shadows and its loader (chapter 5): shadow writes (R149 to R152), the container and its
checks (R157 to R162), microcode strips (R135, R160) and table images (R327, R358, R374). -/
namespace Sys2Proof.Machine

/-! ### Targets (R159) -/

/-- The first offset of a target's block and its size; none for a value that names no block. -/
def targetBlock (t : Nat) : Option (Nat × Nat) :=
  if t < 10 then some (0x10000 * t, 0x10000)
  else if 0x10 ≤ t && t < 0xA0 then some (0x100000 * (1 + (t - 0x10) / 18) + 0x8000 * ((t - 0x10) % 18), 0x8000)
  else if 0xA0 ≤ t && t < 0xA8 then some (0x100000 * (1 + (t - 0xA0)) + 0xF0000, 0x10000)
  else if 0xC0 ≤ t && t < 0xE0 then some (0x900000 + 0x10000 * (t - 0xC0), 0x10000)
  else none

/-- The target and the offset within its block of a register. -/
def targetOfReg (off : Nat) : Nat × Nat :=
  if off < 0x100000 then (off / 0x10000, off % 0x10000)
  else if off < 0x900000 then
    let d := off / 0x100000 - 1
    let o := off % 0x100000
    if o < 0x90000 then (0x10 + 18 * d + o / 0x8000, o % 0x8000) else (0xA0 + d, o % 0x10000)
  else (0xC0 + (off - 0x900000) / 0x10000, off % 0x10000)

/-- The tile of a tile target. -/
def targetTile (t : Nat) : Option Nat := if 0x10 ≤ t && t < 0xA0 then some (t - 0x10) else none

/-! ### Status and faults (R173 to R175) -/

def planState (m : Dev) : Nat := rdF aFPLAN_STATUS fFPLAN_STATUS_STATE m
def setPlanState (n : Nat) (m : Dev) : Dev := wrF aFPLAN_STATUS fFPLAN_STATUS_STATE n m
def planResult (n : Nat) (m : Dev) : Dev := wrF aFPLAN_STATUS fFPLAN_STATUS_RESULT n m

/-- Report the counts of FPLAN_STATUS. -/
def planCounts (m : Dev) : Dev :=
  wrF aFPLAN_STATUS fFPLAN_STATUS_WAITING (min 255 m.plan.waiting.length)
    (wrF aFPLAN_STATUS fFPLAN_STATUS_STAGED (m.plan.staged % 2 ^ 24) m)

/-- Record the first load or commit fault (R175). -/
def fplanFault (phase cause strip group target off : Nat) (m : Dev) : Dev :=
  recordFirst aFPLAN_FAULT (fFPLAN_FAULT_PHASE.of phase ||| fFPLAN_FAULT_CAUSE.of cause ||| fFPLAN_FAULT_STRIP.of strip |||
    fFPLAN_FAULT_GROUP.of group ||| fFPLAN_FAULT_TARGET.of target ||| fFPLAN_FAULT_OFFSET.of off) m

/-- The causes of FPLAN_FAULT.CAUSE 1 to 14. -/
def fplanCause (c : Nat) : Cause :=
  match c with
  | 1 => cFPLAN_LOAD_SIGNATURE
  | 2 => cFPLAN_LOAD_FORMAT
  | 3 => cFPLAN_LOAD_KIND
  | 4 => cFPLAN_LOAD_BASE_MISMATCH
  | 5 => cFPLAN_LOAD_TARGET
  | 6 => cFPLAN_LOAD_FIELD_NOT_SHADOWED
  | 7 => cFPLAN_SHADOW_DIRECT_REFUSED
  | 8 => cFPLAN_SHADOW_WRITE_BUSY
  | 9 => cFPLAN_COMMIT_BUSY
  | 10 => cFPLAN_COMMIT_GROUP_INCOMPLETE
  | 11 => cFPLAN_COMMIT_GROUP_INCONSISTENT
  | 12 => cFPLAN_COMMIT_NOT_OFFLINE
  | 13 => cFPLAN_COMMIT_TIMEOUT
  | _ => cFPLAN_COMMIT_BLOCK_LOST

/-- A fault with its cause. -/
def planFaults (phase cause strip group target off : Nat) (m : Dev) : Dev :=
  raise (fplanCause cause) (fplanFault phase cause strip group target off m)

/-! ### Shadows (R149, R152) -/

/-- The shadow of a register: the bits written and the mask of them since the last commit. -/
def shadowOf (off : Nat) (m : Dev) : Word × Word := Sparse.get (0, 0) m.shadow off
def setShadow (off : Nat) (x : Word × Word) (m : Dev) : Dev := { m with shadow := m.shadow.upd (0, 0) off x }

/-- The frozen bits of a register. -/
def frozenAt (off : Nat) (m : Dev) : Word := if m.plan.frozen then Sparse.get 0 m.plan.frozenMask off else 0

/-- The value that the shadows hold: written bits over the active value. -/
def shadowValue (off : Nat) (m : Dev) : Word :=
  let s := shadowOf off m
  (rd off m &&& ~~~ s.2) ||| (s.1 &&& s.2)

/-- Is the change set empty? -/
def changeSetEmpty (m : Dev) : Bool := m.shadow.isEmpty && m.plan.stagedTables.isEmpty

/-- One more shadow write: STAGED counts it, STATE leaves 0. -/
def countStaged (m : Dev) : Dev :=
  let m1 := planCounts { m with plan := { m.plan with staged := m.plan.staged + 1 } }
  if planState m1 = 0 then setPlanState 2 m1 else m1

/-- Write bits of a shadow. Bits of the frozen change set are not written: WRITE_BUSY (R152). -/
def stageBits (off : Nat) (value mask : Word) (m : Dev) : Dev :=
  let busy := mask &&& frozenAt off m
  let free := mask &&& ~~~ busy
  let s := shadowOf off m
  let t := targetOfReg off
  let m1 := when (busy ≠ 0) (planFaults 3 8 0 0 t.1 t.2) m
  if free = 0 then m1
  else countStaged (setShadow off ((s.1 &&& ~~~ free) ||| (value &&& free), s.2 ||| free) m1)

/-! ### Epoch records (R198 to R200, R320) -/

/-- The address of an epoch's record, and its PIN_COUNT. -/
def epochRec (e : Nat) (m : Dev) : Nat := rdF (aTIER_EPOCH_REC e) fTIER_EPOCH_REC_ADDR m * 64
def epochPins (e : Nat) (m : Dev) : Nat := ldN 4 (epochRec e m) m

/-- The epoch whose VALID a shadow write would clear while sessions are pinned to it (R200). -/
def pinnedClear (off : Nat) (value mask : Word) (m : Dev) : Bool :=
  (List.range 8).any (fun e => off = aPIPER_EPOCH0 e && mask.getLsbD 63 && !value.getLsbD 63 &&
    isSet off fPIPER_EPOCH0_VALID m && decide (0 < epochPins e m))

/-- A write of RWS bits as a unit performs it: one that would clear VALID of a pinned epoch is discarded (R200), one of job 0's entry
is ignored (R370). -/
def stageWrite (off : Nat) (value mask : Word) (m : Dev) : Dev :=
  if pinnedClear off value mask m then raise cPIPER_EPOCH_PINNED m
  else if off = aWINDROW_JOB 0 then m
  else stageBits off value mask m

/-! ### The container (R157 to R161) -/

/-- The strips of a container: `n` of them that fill the bytes given. -/
def cutStrips : Nat → List Byte → Option (List (List Byte))
  | 0, bs => if bs.isEmpty then some [] else none
  | n + 1, bs =>
    let len := field bs 0 4
    if len < 32 || len % 8 ≠ 0 || bs.length < len then none
    else (cutStrips n (bs.drop len)).map (fun rest => bs.take len :: rest)

def sTarget (s : List Byte) : Nat := field s 4 1
def sKind (s : List Byte) : Nat := field s 5 1
def sCount (s : List Byte) : Nat := field s 8 4
def sGroup (s : List Byte) : Nat := field s 12 2
def sTable (s : List Byte) : Nat := field s 14 2
def sTableOffset (s : List Byte) : Nat := field s 16 4
def sPayload (s : List Byte) : List Byte := slice s 32 (sCount s)

/-- The 24-byte records of a kind 0 strip. -/
def sRecords (s : List Byte) : List (List Byte) := (List.range (sCount s)).map (fun i => slice s (32 + 24 * i) 24)
def rOffset (r : List Byte) : Nat := field r 0 2
def rGroup (r : List Byte) : Nat := field r 2 2
def rValue (r : List Byte) : Word := BitVec.ofNat 64 (field r 8 8)
def rMask (r : List Byte) : Word := BitVec.ofNat 64 (field r 16 8)

/-- Is a Winnow table image in the form of R327? -/
def winnowImageOk (b : List Byte) : Bool :=
  let lens := codeLens b
  field b 0 4 = 0x54575A47 && field b 4 2 = 1 && field b 6 2 = 267 && (slice b 20 44).all (· = 0) &&
    (slice b 198 58).all (· = 0) && (lens.take 256).all (· ≠ 0) &&
    ((lens.map (fun l => if l = 0 then 0 else 2 ^ (15 - l))).sum ≤ 2 ^ 15)

/-- Is a strip in the form of R159 and R160, and its table image in the form its chapter asks? -/
def stripFormOk (s : List Byte) : Bool :=
  let k := sKind s
  let len := field s 0 4
  (slice s 20 12).all (· = 0) &&
  (if k = 0 then
    len = 32 + 24 * sCount s && sGroup s = 0 && sTable s = 0 && sTableOffset s = 0 &&
      (sRecords s).all (fun r => rOffset r % 8 = 0 && field r 4 4 = 0)
  else if k = 1 then
    len = 32 + (sCount s + 7) / 8 * 8 && sTableOffset s % 8 = 0 &&
    (if 0xA0 ≤ sTarget s && sTarget s < 0xA8 && 1 ≤ sTable s && sTable s ≤ 15 then
      sCount s = 256 && sTableOffset s = 0 && winnowImageOk (sPayload s)
    else if 0xA0 ≤ sTarget s && sTarget s < 0xA8 && sTable s = 16 then sCount s = 2056 && sTableOffset s = 0
    else if sTarget s = 6 && sTable s = 1 then
      sTableOffset s % 160 = 0 && sCount s % 160 = 0 && sTableOffset s + sCount s ≤ 40960
    else true)
  else
    k = 2 && len = 32 + (sCount s + 7) / 8 * 8 && sCount s ≤ 0x40000 && sTable s = 0 && sTableOffset s = 0)

/-- The group table: GROUP and MEMBERS. -/
def groupTable (n : Nat) (c : List Byte) : List (Nat × Nat) :=
  (List.range n).map (fun i => (field c (64 + 8 * i) 2, field c (68 + 8 * i) 4))

/-- The declared groups that records and strips join, one for each member. -/
def groupUses (ss : List (List Byte)) : List Nat :=
  (ss.map (fun s => if sKind s = 0 then (sRecords s).map rGroup else [sGroup s])).flatten.filter (· ≠ 0)

/-- Are the header, the group table and the signature block in form (R157, R158, R161)? -/
def headerOk (c : List Byte) : Bool :=
  let sig := field c 40 4
  let ng := field c 36 4
  field c 0 4 = 0x50465A47 && field c 4 2 = 1 && field c 6 1 ≤ 1 && field c 7 1 ≤ 1 &&
    (field c 6 1 = 1 || field c 16 8 = 0) && field c 28 1 = 0xB0 && field c 29 3 = 0 && (slice c 44 20).all (· = 0) &&
    1 ≤ field c 32 4 && field c 32 4 ≤ 4096 && ng ≤ 4096 && sig % 8 = 0 && sig + 2048 = c.length &&
    c.length ≤ 12 * 2 ^ 20 && 64 + 8 * ng ≤ sig &&
    (groupTable ng c).all (fun g => g.1 ≠ 0) && (List.range ng).all (fun i => field c (66 + 8 * i) 2 = 0) &&
    ((groupTable ng c).map (fun g => g.1)).eraseDups.length = ng &&
    1 ≤ field c sig 2 && field c sig 2 ≤ 1462 && (slice c (sig + 3) 5).all (· = 0) &&
    (slice c (sig + 72 + field c sig 2) (1976 - field c sig 2)).all (· = 0)

/-- The strips of a container whose header is in form. -/
def containerStrips (c : List Byte) : Option (List (List Byte)) :=
  let from_ := 64 + 8 * field c 36 4
  cutStrips (field c 32 4) (slice c from_ (field c 40 4 - from_))

/-- Does a public-key slot hold a plan-signing key? ROLE 2 signs Field Plans (R466). -/
def planKey (slot : Nat) (m : Dev) : Bool :=
  slot < 6 && isSet (aSCARE_PUBSLOT slot) fSCARE_PUBSLOT_VALID m && rdF (aSCARE_PUBSLOT slot) fSCARE_PUBSLOT_ROLE m = 2

/-- Step 1 of R162: the digest, the key and the signature's verdict. -/
def planSigned (c : List Byte) (signatureOk : Bool) (m : Dev) : Bool :=
  let sig := field c 40 4
  sig + 2048 ≤ c.length && slice c (sig + 8) 64 = shake256 64 (c.take sig) && planKey (field c (sig + 2) 1) m && signatureOk

/-- Why a load is refused: the cause's number and what FPLAN_FAULT records. -/
structure LoadErr where
  cause : Nat
  strip : Nat
  group : Nat
  target : Nat
  off : Nat
  deriving DecidableEq, Repr

/-- The register of a record, if its offset names one in the strip's block. -/
def recordReg (s r : List Byte) : Option Nat :=
  match targetBlock (sTarget s) with
  | some (base, size) =>
    if rOffset r < size && (locate (base + rOffset r)).isSome then some (base + rOffset r) else none
  | none => none

/-- The RWS bits of a register. -/
def rwsMask (off : Nat) : Word :=
  match locate off with
  | some p => BitVec.ofNat 64 p.name.info.rws
  | none => 0

/-- Does a strip name a block, its registers and its table? -/
def stripTargetErr (i : Nat) (s : List Byte) (m : Dev) : Option LoadErr :=
  let bad := fun off => some (⟨5, i, sGroup s, sTarget s, off⟩ : LoadErr)
  if (targetBlock (sTarget s)).isNone then bad 0
  else if sKind s = 0 then
    match (sRecords s).find? (fun r => (recordReg s r).isNone) with
    | some r => bad (rOffset r)
    | none => none
  else if sKind s = 1 then
    if (0xA0 ≤ sTarget s && sTarget s < 0xA8 && 1 ≤ sTable s && sTable s ≤ 16) || (sTarget s = 6 && sTable s = 1) then none
    else bad 0
  else
    match targetTile (sTarget s) with
    | some t => if roleOf t m = 0 then bad 0 else none
    | none => bad 0

/-- Does a record's MASK cover a bit that is not RWS? -/
def stripMaskErr (i : Nat) (s : List Byte) : Option LoadErr :=
  if sKind s ≠ 0 then none
  else
    match (sRecords s).find? (fun r => match recordReg s r with
      | some off => decide (rMask r &&& ~~~ rwsMask off ≠ 0)
      | none => false) with
    | some r => some ⟨6, i, rGroup r, sTarget s, rOffset r⟩
    | none => none

/-- The index of the first strip for which a check answers. -/
def firstErr (f : Nat → List Byte → Option LoadErr) (ss : List (List Byte)) : Option LoadErr :=
  (List.range ss.length).findSome? (fun i => f i (ss.getD i []))

/-- The checks of R162 on a container, in its order: the first refusal, or the strips. Where several checks of a step of R162 fail,
the first in this order is reported, and a record or strip of a GROUP that the group table does not declare is a fault of FORMAT
(DESIGN CHOICE, log entry 112). -/
def checkContainer (c : List Byte) (signatureOk : Bool) (m : Dev) : LoadErr ⊕ List (List Byte) :=
  if !planSigned c signatureOk m then .inl ⟨1, 0, 0, 0, 0⟩
  else if !headerOk c then .inl ⟨2, 0, 0, 0, 0⟩
  else
    match containerStrips c with
    | none => .inl ⟨2, 0, 0, 0, 0⟩
    | some ss =>
      let gs := groupTable (field c 36 4) c
      let uses := groupUses ss
      let form := firstErr (fun i s => if stripFormOk s then none else some ⟨2, i, sGroup s, sTarget s, 0⟩) ss
      match form with
      | some e => .inl e
      | none =>
        match gs.find? (fun g => (uses.filter (· = g.1)).length ≠ g.2) with
        | some g => .inl ⟨2, 0, g.1, 0, 0⟩
        | none =>
          if uses.any (fun u => gs.all (fun g => g.1 ≠ u)) then .inl ⟨2, 0, 0, 0, 0⟩
          else if field c 6 1 = 0 && m.plan.booted then .inl ⟨3, 0, 0, 0, 0⟩
          else if field c 6 1 = 1 && BitVec.ofNat 64 (field c 16 8) ≠ rd aFPLAN_ACTIVE_ID m then .inl ⟨4, 0, 0, 0, 0⟩
          else
            match firstErr (fun i s => stripTargetErr i s m) ss with
            | some e => .inl e
            | none =>
              match firstErr stripMaskErr ss with
              | some e => .inl e
              | none => .inr ss

/-! ### Writing the shadows of a container -/

/-- The inactive microcode bank of a tile. -/
def otherBank (t : Nat) (m : Dev) : Nat := 1 - rdF (onTile aCHANTER_UCODE t) fCHANTER_UCODE_SELECT m

/-- A verified microcode image goes into the inactive bank (R135, R160). The spec does not say where an image carries its
version: a free value (DESIGN CHOICE, log entry 5). -/
def loadUcode (t : Nat) (img : List Byte) (m : Dev) : Dev :=
  let b := otherBank t m
  let reg := onTile aCHANTER_UCODE t
  let v := (drawFree m).toNat % 2 ^ 16
  let m1 := useFree 1 { m with plan := { m.plan with ucode := m.plan.ucode.upd [] (2 * t + b) img } }
  if b = 0 then wrF reg fCHANTER_UCODE_A_VALID 1 (wrF reg fCHANTER_UCODE_VERSION_A v m1)
  else wrF reg fCHANTER_UCODE_B_VALID 1 (wrF reg fCHANTER_UCODE_VERSION_B v m1)

/-- Stage a strip. -/
def stageStrip (s : List Byte) (m : Dev) : Dev :=
  if sKind s = 0 then
    forEach (sRecords s) (fun r m =>
      match recordReg s r with
      | some off => stageWrite off (rValue r) (rMask r) m
      | none => m) m
  else if sKind s = 1 then
    countStaged { m with plan := { m.plan with
      stagedTables := m.plan.stagedTables ++ [(tableKey (sTarget s) (sTable s) (sTableOffset s), sPayload s)] } }
  else
    match targetTile (sTarget s) with
    | some t => loadUcode t (sPayload s) m
    | none => m

/-! ### Loading (R162, R164) -/

/-- LOAD: the container that FPLAN_SOURCE names; refused while a load or a commit is under way. -/
def fplanLoad (m : Dev) : Dev :=
  if planState m = 1 || planState m = 3 then planResult 2 (planFaults 1 9 0 0 0 0 m)
  else setPlanState 1 { m with plan := { m.plan with
    loading := some (rdF aFPLAN_SOURCE fFPLAN_SOURCE_ADDR m * 64, rdF aFPLAN_SOURCE fFPLAN_SOURCE_LENGTH m * 8) } }

/-- STATE after a load: staged, or nothing staged. -/
def restState (m : Dev) : Dev := setPlanState (if changeSetEmpty m then 0 else 2) m

/-- The measurement M of HEADLAND_MEASURE as 32 bytes, and its extension by an item's DIGEST (R470). -/
def measurement (m : Dev) : List Byte := ((List.range 4).map (fun i => toLe 8 (rd (aHEADLAND_MEASURE i) m).toNat)).flatten
def extendM (digest : List Byte) (m : Dev) : Dev :=
  let x := shake256 32 (measurement m ++ digest)
  forEach (List.range 4) (fun i => wr (aHEADLAND_MEASURE i) (BitVec.ofNat 64 (field x (8 * i) 8))) m

/-- A container has been checked: its shadows are written, or it is refused and changes none. One that holds microcode
alone takes part in no change set (R174). -/
def loadChecked (c : List Byte) (signatureOk : Bool) (m : Dev) : Dev :=
  match checkContainer c signatureOk m with
  | .inl e =>
    let m1 := when (decide (e.cause = 1)) (raise cSCARECROW_VERIFY_FAIL) m
    planResult 2 (restState (planFaults 1 e.cause e.strip e.group e.target e.off m1))
  | .inr ss =>
    let joins := ss.any (fun s => sKind s ≠ 2)
    let m1 := forEach ss stageStrip { m with plan := { m.plan with
      container := if joins then some (BitVec.ofNat 64 (field c 8 8), BitVec.ofNat 32 (field c 24 4), decide (field c 7 1 = 1))
        else m.plan.container } }
    planResult 1 (restState (extendM (slice c (field c 40 4 + 8) 64) m1))

/-- The load ends. A container that cannot be read is refused as one whose digest does not match; one that a page fault keeps from
being read is still loading. -/
def fplanLoadDone (signatureOk : Bool) (m : Dev) : Dev :=
  match m.plan.loading with
  | none => m
  | some (a, n) =>
    let r := readVia .headland a n { m with plan := { m.plan with loading := none } }
    if r.st = .held then heldBy 0 r.m m
    else loadChecked (if r.st = .ok then r.data else []) signatureOk r.m

end Sys2Proof.Machine
end

