-- ==== Sys2Proof/Machine/PlanCommit.lean ====
section
/-! DEFINITION. The commit of a change set (chapter 5): agreement groups (R153, R156, R176), offline conditions (R146, R167,
R511), the units that park (R147, R164 to R166), evictions (R21, R295), and the apply act with what each committed field
does (R80, R96, R135, R143, R170, R302, R321, R329, R352, R371, R375, R410, R428, R472). -/
namespace Sys2Proof.Machine

/-! ### The frozen change set -/

/-- The bits of a register that the frozen change set writes, and the value it will take. -/
def frozenMask (off : Nat) (m : Dev) : Word := Sparse.get 0 m.plan.frozenMask off
def frozenValue (off : Nat) (m : Dev) : Word :=
  (rd off m &&& ~~~ frozenMask off m) ||| ((shadowOf off m).1 &&& frozenMask off m)

/-- A field's value after the commit, whether the change set writes all of it, and whether it changes. -/
def nextF (off : Nat) (f : Fld) (m : Dev) : Nat := f.get (frozenValue off m)
def writesF (off : Nat) (f : Fld) (m : Dev) : Bool := f.mask &&& ~~~ frozenMask off m = 0
def changesF (off : Nat) (f : Fld) (m : Dev) : Bool := nextF off f m ≠ rdF off f m

/-- The registers of the change set, and those whose value changes. -/
def frozenRegs (m : Dev) : List Nat := m.plan.frozenMask.keys
def changedRegs (m : Dev) : List Nat := (frozenRegs m).filter (fun o => frozenValue o m ≠ rd o m)

/-- The registers of a name among a list, with their places. -/
def regsNamed (n : RegName) (os : List Nat) : List (Nat × RegPlace) :=
  os.filterMap (fun o => match locate o with
    | some p => if p.name = n then some (o, p) else none
    | none => none)

/-! ### Membership (R153, R176) -/

/-- The engine of a tile before and after the commit. -/
def oldEngine (t : Nat) (m : Dev) : Option Nat :=
  if isSet (aFPLAN_MEMBER t) fFPLAN_MEMBER_VALID m then some (rdF (aFPLAN_MEMBER t) fFPLAN_MEMBER_ENGINE m) else none
def newEngine (t : Nat) (m : Dev) : Option Nat :=
  if nextF (aFPLAN_MEMBER t) fFPLAN_MEMBER_VALID m = 1 then some (nextF (aFPLAN_MEMBER t) fFPLAN_MEMBER_ENGINE m) else none
def newRole (t : Nat) (m : Dev) : Nat := nextF (aFPLAN_MEMBER t) fFPLAN_MEMBER_ROLE m

/-- Does a tile's membership or rank change? -/
def memberChanges (t : Nat) (m : Dev) : Bool :=
  oldEngine t m ≠ newEngine t m || ((newEngine t m).isSome && changesF (aFPLAN_MEMBER t) fFPLAN_MEMBER_RANK m)

/-- The engines whose membership changes. -/
def affectedEngines (m : Dev) : List Nat :=
  (((List.range 144).filter (fun t => memberChanges t m)).flatMap (fun t =>
    (oldEngine t m).toList ++ (newEngine t m).toList)).eraseDups

/-- Does the change set write VALID, ENGINE and RANK of a tile? -/
def memberWritten (t : Nat) (m : Dev) : Bool :=
  let o := aFPLAN_MEMBER t
  writesF o fFPLAN_MEMBER_VALID m && writesF o fFPLAN_MEMBER_ENGINE m && writesF o fFPLAN_MEMBER_RANK m

/-- The tiles that belong to an engine before or after the commit, and those after it. -/
def engineTilesAround (e : Nat) (m : Dev) : List Nat :=
  (List.range 144).filter (fun t => oldEngine t m = some e || newEngine t m = some e)
def engineTilesAfter (e : Nat) (m : Dev) : List Nat := (List.range 144).filter (fun t => newEngine t m = some e)

/-- Is an engine consistent after the commit: ranks 0 to n − 1, each once, every member with ROLE 1 or 3? -/
def engineConsistent (e : Nat) (m : Dev) : Bool :=
  let ts := engineTilesAfter e m
  let ranks := ts.map (fun t => nextF (aFPLAN_MEMBER t) fFPLAN_MEMBER_RANK m)
  (List.range ts.length).all (fun r => (ranks.filter (· = r)).length = 1) &&
    ts.all (fun t => newRole t m = 1 || newRole t m = 3)

/-- Does a tile take ROLE 3, or another tile to replace, in this commit? -/
def standsIn (t : Nat) (m : Dev) : Bool :=
  newRole t m = 3 && (changesF (aFPLAN_MEMBER t) fFPLAN_MEMBER_ROLE m || changesF (aFPLAN_MEMBER t) fFPLAN_MEMBER_REPLACES m)

/-- The tile that a tile replaces after the commit. -/
def replacedBy (t : Nat) (m : Dev) : Nat := 18 * dieOf t + nextF (aFPLAN_MEMBER t) fFPLAN_MEMBER_REPLACES m

/-- Every tile that stands in names a tile of its die that has ROLE 0 in the same change set (R176). -/
def standInsOk (m : Dev) : Bool :=
  (List.range 144).all (fun t => !standsIn t m ||
    (nextF (aFPLAN_MEMBER t) fFPLAN_MEMBER_REPLACES m < 18 && newRole (replacedBy t m) m = 0))

/-! ### Agreement groups (R153, R156) -/

/-- The outcome of a group's checks. -/
inductive GroupCheck where
  | ok | incomplete | inconsistent
  deriving DecidableEq, Repr

/-- Engine membership. A tile whose ROLE alone changes is judged with its engine. -/
def membershipCheck (m : Dev) : GroupCheck :=
  let es := affectedEngines m
  let touched := ((regsNamed .FPLAN_MEMBER (changedRegs m)).filterMap (fun x => newEngine x.2.i m) ++ es).eraseDups
  if es.any (fun e => (engineTilesAround e m).any (fun t => !memberWritten t m)) then .incomplete
  else if touched.any (fun e => !engineConsistent e m) || !standInsOk m then .inconsistent
  else .ok

/-- Microcode select: every rank of an engine, all equal. -/
def ucodeCheck (m : Dev) : GroupCheck :=
  let touched := (regsNamed .CHANTER_UCODE (frozenRegs m)).map (fun x => x.2.unit)
  let ranks := (touched.filterMap (fun t => oldEngine t m)).eraseDups.map (fun e => members e m)
  let reg := fun t => onTile aCHANTER_UCODE t
  if ranks.any (fun ts => ts.any (fun t => !writesF (reg t) fCHANTER_UCODE_SELECT m)) then .incomplete
  else if ranks.any (fun ts => ts.any (fun t => nextF (reg t) fCHANTER_UCODE_SELECT m ≠
      nextF (reg (ts.headD t)) fCHANTER_UCODE_SELECT m)) then .inconsistent
  else .ok

/-- Ring placement of one ring: BASE and CTRL at `base` and `base` + 8. -/
def ringPairCheck (base : Nat) (m : Dev) : GroupCheck :=
  let s := nextF (base + 8) fRING_CTRL_SIZE_LOG2 m
  let size := if 6 ≤ s && s ≤ 16 then s else 6
  if frozenMask base m = 0 || frozenMask (base + 8) m = 0 then .incomplete
  else if nextF base fRING_BASE_BASE m % 2 ^ size ≠ 0 then .inconsistent
  else .ok

/-- The first of two checks that does not pass. -/
def GroupCheck.and (a b : GroupCheck) : GroupCheck := if a = .ok then b else a

/-- Ring placement. -/
def ringsCheck (m : Dev) : GroupCheck :=
  let os := frozenRegs m
  let bases := ((regsNamed .RING_BASE os ++ regsNamed .FIX_RING_BASE os).map (fun (x : Nat × RegPlace) => x.1) ++
    (regsNamed .RING_CTRL os ++ regsNamed .FIX_RING_CTRL os).map (fun (x : Nat × RegPlace) => x.1 - 8)).eraseDups
  let cs : List GroupCheck := bases.map (fun b => ringPairCheck b m)
  if cs.any (· = GroupCheck.incomplete) then .incomplete
  else if cs.any (· = GroupCheck.inconsistent) then .inconsistent else .ok

/-- Port of a link after the commit, and before. -/
def newPort (l : Nat) (m : Dev) : Nat := nextF (aWINDROW_LINK_CTRL l) fWINDROW_LINK_CTRL_PORT m
def oldPort (l : Nat) (m : Dev) : Nat := rdF (aWINDROW_LINK_CTRL l) fWINDROW_LINK_CTRL_PORT m

/-- The ports that gain or lose a link. -/
def affectedPorts (m : Dev) : List Nat :=
  (((List.range 36).filter (fun l => newPort l m ≠ oldPort l m)).flatMap (fun l => [oldPort l m, newPort l m])).eraseDups.filter
    (· < 12)

/-- Port bundling: the PORT of every link of an affected port, and the port's weights. One link names one port, so each link
is in at most one. -/
def portsCheck (m : Dev) : GroupCheck :=
  let ps := affectedPorts m
  let links := (List.range 36).filter (fun l => ps.contains (oldPort l m) || ps.contains (newPort l m))
  if links.any (fun l => !writesF (aWINDROW_LINK_CTRL l) fWINDROW_LINK_CTRL_PORT m) ||
      ps.any (fun p => frozenMask (aWINDROW_VC_WEIGHT p) m = 0) then .incomplete
  else .ok

/-- The last staged routing image of a die. -/
def stagedRouting (d : Nat) (m : Dev) : Option (List Byte) :=
  ((m.plan.frozenTables.filter (fun x => x.1 = tableKey (0xA0 + d) 16 0)).getLast?).map (fun x => x.2)

/-- Routing: the tables of all eight routers, one generation. -/
def routingCheck (m : Dev) : GroupCheck :=
  let imgs := (List.range 8).filterMap (fun d => stagedRouting d m)
  if imgs.isEmpty then .ok
  else if imgs.length ≠ 8 then .incomplete
  else if imgs.any (fun b => field b 0 4 ≠ field (imgs.headD []) 0 4) then .inconsistent
  else .ok

/-- The built-in groups, in the order of R153. -/
def groupChecks (m : Dev) : List GroupCheck := [membershipCheck m, ucodeCheck m, ringsCheck m, portsCheck m, routingCheck m]

/-- The first failing group and what is wrong with it. -/
def failingGroup (m : Dev) : Option (Nat × GroupCheck) :=
  (List.range 5).findSome? (fun i =>
    let c := (groupChecks m).getD i .ok
    if c = .ok then none else some (i, c))

/-! ### Offline conditions (R146, R321, R373, R511) -/

/-- Does a spare of its die stand in for a tile? -/
def hasStandIn (t : Nat) (m : Dev) : Bool :=
  (List.range 18).any (fun n =>
    let o := aFPLAN_MEMBER (18 * dieOf t + n)
    rdF o fFPLAN_MEMBER_ROLE m = 3 && rdF o fFPLAN_MEMBER_REPLACES m = numOf t)

/-- A tile is offline when its ROLE is 0 and, if it was active, a spare stands in for it. -/
def tileOffline (t : Nat) (m : Dev) : Bool :=
  roleOf t m = 0 && (!Sparse.get false m.plan.wasActive t || hasStandIn t m)

/-- A link is out of service in DISABLED, or while it rests in DOWN without ENABLE. -/
def linkOffline (l : Nat) (m : Dev) : Bool :=
  linkState l m = 7 || (linkState l m = 0 && !isSet (aWINDROW_LINK_CTRL l) fWINDROW_LINK_CTRL_ENABLE m)

/-- A stack is out of service, or RETIRING with no access outstanding. -/
def stackOffline (s : Nat) (m : Dev) : Bool := !stackUp s m || isSet (aHARROW_CTRL s) fHARROW_CTRL_RETIRING m

/-- Does the change set stand a spare in for tile t in the way of R511? -/
def pairFor (t : Nat) (m : Dev) : Bool :=
  newRole t m = 0 && (List.range 18).any (fun n =>
    let u := 18 * dieOf t + n
    roleOf u m = 2 && newRole u m = 3 && nextF (aFPLAN_MEMBER u) fFPLAN_MEMBER_REPLACES m = numOf t)

/-- ROLE and REPLACES of a tile: a tile that stands active leaves only when a spare stands in for it in the same change set,
a spare that stands in keeps its role; a spare standing spare serves no engine and counts as out of service (DEDUCED, log entry
41). -/
def roleOffline (t : Nat) (m : Dev) : Bool :=
  match roleOf t m with
  | 0 => tileOffline t m
  | 1 => pairFor t m
  | 2 => true
  | _ => false

/-- Is the offline condition of a changed register met? -/
def offlineOk (o : Nat) (p : RegPlace) (m : Dev) : Bool :=
  match p.name with
  | .FPLAN_MEMBER => roleOffline p.i m
  | .TILE_GRID_COLMAP => tileOffline p.unit m
  | .BELLOWS_TILE_CLOCK => tileOffline p.unit m
  | .BELLOWS_TILE_CAL => tileOffline p.unit m
  | .WINDROW_COORD => (List.range 36).all (fun l => linkOffline l m)
  | .WINDROW_APPLIANCE => (List.range 36).all (fun l => linkOffline l m)
  | .WINDROW_LINK_CTRL => linkOffline p.i m
  | .BELLOWS_HBM_RATE => (List.range 32).all (fun s =>
      bitsAt (rd o m).toNat (2 * s) 2 = bitsAt (frozenValue o m).toNat (2 * s) 2 || stackOffline s m)
  | .HARROW_CTRL => stackOffline p.unit m
  | .PCIE_PORT => rdF o fPCIE_PORT_UP m = 0
  | _ => true

/-- The first changed register whose offline condition does not hold. -/
def notOffline (m : Dev) : Option Nat :=
  (changedRegs m).find? (fun o => match locate o with
    | some p => ((rd o m ^^^ frozenValue o m) &&& BitVec.ofNat 64 p.name.info.offline) ≠ 0 && !offlineOk o p m
    | none => false)

/-! ### Units that park (R146, R147) -/

def dieFin (d : Nat) : Die := Fin.ofNat 8 d
def tileIdOf (t : Nat) : TileId := ⟨Fin.ofNat 8 (dieOf t), Fin.ofNat 18 (numOf t)⟩
def engineUnit (e : Nat) : PlanUnit := .engine (Fin.ofNat 16 e)

/-- The engine unit of a tile, if it is a member. -/
def tileEngineUnit (t : Nat) (m : Dev) : List PlanUnit := ((oldEngine t m).map engineUnit).toList

/-- The ring unit of a ring of a tile. -/
def tileRingUnit (t r : Nat) (m : Dev) : List PlanUnit :=
  ((oldEngine t m).map (fun e => PlanUnit.ring (.ce (Fin.ofNat 16 e) (Fin.ofNat 8 r)))).toList

/-- A fixed engine by its number. -/
def fixedOfNum (k : Nat) : FixedEngine :=
  match k with
  | 0 => .coulter
  | 1 => .drill
  | 2 => .gleaner
  | _ => .mover

/-- The units that a changed register of class boundary or drain parks. -/
def unitsOfReg (o : Nat) (p : RegPlace) (m : Dev) : List PlanUnit :=
  match p.name with
  | .FPLAN_MEMBER => (if memberChanges p.i m then (oldEngine p.i m).toList ++ (newEngine p.i m).toList else []).map engineUnit
  | .TILE_NORMWATCH_CTRL => [.tile (tileIdOf p.unit)]
  | .TILE_SEEDBED_REGION => [.tileMaster (tileIdOf p.unit) (Fin.ofNat 10 p.i)]
  | .CHANTER_BUDGET => tileEngineUnit p.unit m
  | .CHANTER_UCODE => tileEngineUnit p.unit m
  | .RING_BASE => tileRingUnit p.unit p.i m
  | .RING_CTRL => tileRingUnit p.unit p.i m
  | .PICCOLO_TABLE => [.tile (tileIdOf p.unit)]
  | .FIX_RING_BASE => [.ring (.fixed (dieFin p.unit) (fixedOfNum p.i) (Fin.ofNat 4 p.j))]
  | .FIX_RING_CTRL => [.ring (.fixed (dieFin p.unit) (fixedOfNum p.i) (Fin.ofNat 4 p.j))]
  | .COULTER_HOST => [.fixed (dieFin p.unit) .coulter]
  | .COULTER_BAY => [.fixed (dieFin p.unit) .coulter]
  | .COULTER_OVERFLOW => [.fixed (dieFin p.unit) .coulter]
  | .COULTER_RUNS => [.fixed (dieFin p.unit) .coulter]
  | .DRILL_KV_DIR => [.fixed (dieFin p.unit) .drill]
  | .GLEANER_CTRL => [.fixed (dieFin p.unit) .gleaner]
  | .DIE_SHARED_REGION => [.sharedMaster (dieFin p.unit) (Fin.ofNat 8 p.i)]
  | .WINDROW_PORT => [.port (Fin.ofNat 12 p.i)]
  | .WINDROW_LINK_CTRL => ([oldPort p.i m, newPort p.i m].filter (· < 12)).map (fun x => .port (Fin.ofNat 12 x))
  | .WINDROW_JOB => [.windrow]
  | .DRONE_CTRL => [.drone]
  | .DRONE_AREA => [.drone]
  | .FABRIC_REPLAY => [.fabric]
  | .FABRIC_CACHE_RANGE => [.fabric]
  | .STILE_ENDPOINT => [.stile]
  | .STILE_RING => [.stile]
  | .ETH_PORT => [.ethPort (Fin.ofNat 2 p.i)]
  | .INTAKE_CTRL => [.intake]
  | .INTAKE_CONN_BASE => [.intake]
  | .PIPER_CTRL => [.piper]
  | .PIPER_SHAPE => [.piper]
  | .PIPER_SESSION_BASE => [.piper]
  | .PIPER_BUCKET_BASE => [.piper]
  | .PIPER_STEP_AREA => [.piper]
  | .PIPER_EPOCH0 => [.piper]
  | .PIPER_EPOCH1 => [.piper]
  | .HARROW_CTRL => [.stack (Fin.ofNat 32 p.unit)]
  | _ => if aTIER_FALLOW_DECODE ≤ o && o < 0xA0000 then [.mover] else [.other]

/-- The bytes of a table image from a key on. -/
def putTable (x : Nat × List Byte) (tb : Sparse Byte) : Sparse Byte :=
  (List.range x.2.length).foldl (fun tb i => tb.upd 0 (x.1 + i) (x.2.getD i 0)) tb

/-- The units that a staged table image parks: routers for routing tables, a die's links and its Mover for the Winnow slots of the die
(R329), the Drones for group entries. An image that changes no byte imposes no condition (R148). -/
def unitsOfTable (x : Nat × List Byte) (m : Dev) : List PlanUnit :=
  let target := x.1 / 2 ^ 24 / 32
  let table := x.1 / 2 ^ 24 % 32
  if (List.range x.2.length).all (fun i => Sparse.get 0 m.plan.tables (x.1 + i) = x.2.getD i 0) then []
  else if target = 6 then [.drone] else if table = 16 then [.windrow]
  else
    .fixed (dieFin (target - 0xA0)) .mover ::
      ((List.range 36).filter (fun l => linkDie l = target - 0xA0)).map (fun l => .link (Fin.ofNat 36 l))

/-- The units of the changed register fields among some bits (R148: only fields that change impose a condition). -/
def unitsOfRegs (bits : RegInfo → Nat) (m : Dev) : List PlanUnit :=
  (changedRegs m).flatMap (fun o => match locate o with
    | some p => if (rd o m ^^^ frozenValue o m) &&& BitVec.ofNat 64 (bits p.name.info) = 0 then [] else unitsOfReg o p m
    | none => [])

/-- Every unit that must park for the frozen change set. -/
def unitsToPark (m : Dev) : List PlanUnit :=
  (unitsOfRegs (fun i => i.boundary ||| i.drain) m ++ m.plan.frozenTables.flatMap (fun x => unitsOfTable x m)).eraseDups

/-- Must a unit be idle for the frozen change set, and not only stand at a boundary (R146)? -/
def mustDrain (u : PlanUnit) (m : Dev) : Bool := (unitsOfRegs (fun i => i.drain) m).contains u

/-- The groups whose entry the frozen change set changes (R374). -/
def changedGroups (m : Dev) : List Nat :=
  let xs := m.plan.frozenTables.filter (fun x => x.1 / 2 ^ 24 = 6 * 32 + 1)
  let tb := xs.foldl (fun tb x => putTable x tb) m.plan.tables
  (List.range 256).filter (fun g => (List.range 160).any (fun i =>
    Sparse.get 0 tb (tableKey 6 1 (160 * g + i)) ≠ Sparse.get 0 m.plan.tables (tableKey 6 1 (160 * g + i))))

/-- No ring of an engine has an open group. -/
def engineAtBoundary (e : Nat) (m : Dev) : Bool := (engineRings e).all (fun q => !ringOpen q m)

/-- No ring of a fixed engine has an open group, and nothing handed to it is under way. -/
def fixedIdle (d k : Nat) (m : Dev) : Bool :=
  engineAtBoundary (16 + 4 * d + k) m && (k ≠ 2 || m.gathers.all (fun g => dieOf g.tile ≠ d)) &&
    (k ≠ 3 || m.net.later.all (fun l => l.die ≠ d))

/-- Has a port a packet in flight? -/
def portIdle (p : Nat) (m : Dev) : Bool :=
  (List.range 36).all (fun l => oldPort l m ≠ p || ((linkOf l m).queue.isEmpty && (linkOf l m).retryBuf.isEmpty))

/-- The ring whose request, GATHER, SIGNAL or collective waits for an answer (R111, R414). -/
def Waiter.ring (w : Waiter) : Option Nat :=
  match w with
  | .copy q => some q
  | .act q _ _ _ => some q
  | .row q _ _ => some q
  | .update q => some q
  | .migrate q => some q
  | .bulk | .fill _ | .page _ _ _ | .table _ _ _ | .report => none

/-- Has an engine work outstanding that its rings handed off (R146)? -/
def engineDetached (e : Nat) (m : Dev) : Bool :=
  let mine := fun q : Nat => decide (ringEngine q = e)
  m.gathers.any (fun g => mine g.ring) || m.drone.signals.any (fun x => mine x.ring) || m.drone.colls.any (fun c => mine c.ring) ||
    m.net.later.any (fun l => mine l.q) || m.net.reqs.any (fun r => (r.waiter.ring.map mine).getD false)

/-- Does a KIND 5 act whose old value goes to a tile wait for its answer, or for its ring to send it again (R414)? -/
def actOutstanding (t : Nat) (m : Dev) : Bool :=
  (m.net.reqs ++ m.net.failed).any (fun r => match r.waiter with
    | .act _ u _ _ => u = t
    | _ => false)

/-- Is a Mover copying on a die: a COPY_ASYNC, a migration or a fill whose packets wait for their answers or to be sent? -/
def moverCopies (d : Nat) (m : Dev) : Bool :=
  m.net.later.any (fun l => l.die = d) || m.net.reqs.any (fun r => r.die = d && (match r.waiter with
    | .copy _ | .migrate _ | .bulk | .fill _ => true
    | _ => false))

/-- Is a collective open with a lane on one of some tiles? -/
def droneBusy (on : Nat → Bool) (m : Dev) : Bool := m.drone.colls.any (fun c => c.lanes.any (fun l => on l.tile && !l.done))

/-- Has a master of a tile an access outstanding (R92, R146)? Accesses of a command are over when its row is. -/
def tileMasterIdle (t k : Nat) (m : Dev) : Bool :=
  match k with
  | 2 => !droneBusy (fun u => u = t) m
  | 6 => m.gathers.all (fun g => g.tile ≠ t)
  | 7 => !moverCopies (dieOf t) m
  | 9 => !actOutstanding t m
  | _ => true

/-- Has a die-shared master an access outstanding (R294)? -/
def sharedMasterIdle (d k : Nat) (m : Dev) : Bool :=
  match k with
  | 1 => !droneBusy (fun u => dieOf u = d) m
  | 4 => m.gathers.all (fun g => dieOf g.tile ≠ d)
  | 5 => !moverCopies d m
  | _ => true

/-- Is the Mover idle: no command, no page being filled, no bulk job, no NVMe command under way? -/
def moverIdle (m : Dev) : Bool :=
  (List.range 8).all (fun d => fixedIdle d 3 m && !moverCopies d m) && m.tiers.filling.isEmpty && m.tiers.running.isNone &&
    m.tiers.nvme.isEmpty

/-- Is no ATOMIC and no chunk of a COPY outstanding to or from the module (R413, R416)? -/
def replayIdle (m : Dev) : Bool :=
  let either := fun p : Packet => decide (p.typ.toNat = ptATOMIC ∨ p.typ.toNat = ptCOPY)
  m.net.reqs.all (fun r => !either r.p) && m.net.inbox.all (fun p => !either p) && m.net.chunks.isEmpty

/-- Are the Drones at their condition: no collective open, or for group entries none on a changed group (R374, R398)? -/
def dronesIdle (m : Dev) : Bool :=
  if mustDrain .drone m then m.drone.colls.isEmpty && m.drone.signals.isEmpty
  else
    let gs := changedGroups m
    m.drone.colls.all (fun c => !gs.contains c.group) && m.drone.signals.all (fun x => !gs.contains x.group)

/-- Does a unit stand at its condition (R146, and the notes of the units' own chapters)? -/
def unitAtCondition (u : PlanUnit) (m : Dev) : Bool :=
  match u with
  | .engine e => engineAtBoundary e.val m && !(mustDrain u m && engineDetached e.val m)
  | .fixed d k => fixedIdle d.val (fixedNum k) m
  | .tile t => ((oldEngine (tileIdx t) m).map (fun e => engineAtBoundary e m && !(mustDrain u m && engineDetached e m))).getD true
  | .tileMaster t k => tileMasterIdle (tileIdx t) k.val m
  | .sharedMaster d k => sharedMasterIdle d.val k.val m
  | .ring q => !ringEnabled (ringNum q) m || (!ringOpen (ringNum q) m && ringHead (ringNum q) m = ringFetch (ringNum q) m)
  | .piper => m.piper.step.isNone && !(mustDrain u m && isSet aPIPER_CTRL fPIPER_CTRL_ENABLE m)
  | .port p => portIdle p.val m
  | .drone => dronesIdle m
  | .mover => if mustDrain u m then moverIdle m else (List.range 8).all (fun d => engineAtBoundary (16 + 4 * d + 3) m)
  | .fabric => !mustDrain u m || replayIdle m
  | .stile => (List.range 8).all (fun r =>
      rdF (aSTILE_RING_PTR r) fSTILE_RING_PTR_FETCH m = rdF (aSTILE_RING_PTR r) fSTILE_RING_PTR_RERUN m)
  | _ => true

/-! ### Evictions (R21, R295) -/

/-- The die-shared regions that name a tile: master and region numbers. -/
def regionsNaming (t : Nat) (m : Dev) : List (Nat × Nat) :=
  ((List.range 8).flatMap (fun k => (List.range 8).map (fun r => (k, r)))).filter (fun x =>
    let v := rd (aDIE_SHARED_REGION (dieOf t) x.1 x.2) m
    fDIE_SHARED_REGION_VALID.get v = 1 && fDIE_SHARED_REGION_TILE.get v = numOf t)

/-- The spares that take ROLE 3 in this commit while regions name them. -/
def evictedTiles (m : Dev) : List Nat :=
  (List.range 144).filter (fun t => newRole t m = 3 && roleOf t m ≠ 3 && (regionsNaming t m).length ≠ 0)

/-- Zero the rows of one region of a tile. -/
def zeroRegion (t : Nat) (x : Nat × Nat) (m : Dev) : Dev :=
  let v := rd (aDIE_SHARED_REGION (dieOf t) x.1 x.2) m
  let lo := fDIE_SHARED_REGION_BASE.get v
  let hi := min 5119 (fDIE_SHARED_REGION_LIMIT.get v)
  if hi < lo then m else stData (tileAddr t (4096 * lo)) (List.replicate (4096 * (hi + 1 - lo)) 0) m

/-- The Mover writes zeros over every region that names an evicted tile. -/
def zeroEvicted (m : Dev) : Dev :=
  forEach (evictedTiles m) (fun t m => forEach (regionsNaming t m) (zeroRegion t) m) m

/-- Clear VALID on the regions that name a tile. -/
def endRegions (t : Nat) (m : Dev) : Dev :=
  forEach (regionsNaming t m) (fun x => wrF (aDIE_SHARED_REGION (dieOf t) x.1 x.2) fDIE_SHARED_REGION_VALID 0) m

/-! ### The apply act -/

/-- The ring registers and the committed sequences of a tile, in offsets. -/
def tileRingOffs (t : Nat) : List Nat := (List.range 8).flatMap (fun r => (List.range 4).map (fun k => tileRingReg t r k))

/-- A tile drops its engine's ring registers. -/
def dropRings (t : Nat) (m : Dev) : Dev := forEach (tileRingOffs t) (fun o => wr o (resetWord o)) m

/-- A tile takes the ring registers, and the sequences that all ranks hold alike (R144), of another. -/
def takeRings (src t : Nat) (m : Dev) : Dev :=
  let m1 := forEach ((List.range 8).flatMap (fun r => (List.range 4).map (fun k => (r, k)))) (fun x m =>
    wr (tileRingReg t x.1 x.2) (rd (tileRingReg src x.1 x.2) m) m) m
  forEach (List.range 256) (fun g m => wr (aCHANTER_COLL_SEQ (dieOf t) (numOf t) g)
    (rd (aCHANTER_COLL_SEQ (dieOf src) (numOf src) g) m) m) m1

/-- Every shadow of the frozen change set becomes active; shadows written since the freeze stay (R152). -/
def applyShadows (m : Dev) : Dev :=
  let fz := m.plan.frozenMask
  let m1 := forEach fz.keys (fun o m => wr o (frozenValue o m) m) m
  { m1 with shadow := fz.keys.foldl (fun s o =>
      let x := Sparse.get ((0, 0) : Word × Word) s o
      let mk := x.2 &&& ~~~ Sparse.get 0 fz o
      s.upd (0, 0) o (if mk = 0 then (0, 0) else (x.1, mk))) m1.shadow }

/-- Every staged image of the frozen change set becomes active. -/
def applyTables (m : Dev) : Dev :=
  { m with plan := { m.plan with
      tables := m.plan.frozenTables.foldl (fun tb x => putTable x tb) m.plan.tables
      stagedTables := m.plan.stagedTables.drop m.plan.frozenTables.length } }

/-- Has a tile failed its self-test: more than two failed columns, or a fault outside them (R80)? A tile whose sweep failed at
1,750 MHz stays out of service too (R429). -/
def gridFailed (t : Nat) (m : Dev) : Bool :=
  let v := rd (onTile aTILE_GRID_SELFTEST t) m
  let c := rd (onTile aBELLOWS_TILE_CAL t) m
  fTILE_GRID_SELFTEST_DONE.get v = 1 && (fTILE_GRID_SELFTEST_LOGIC_FAIL.get v = 1 || 2 < fTILE_GRID_SELFTEST_FAIL_COUNT.get v) ||
    fBELLOWS_TILE_CAL_DONE.get c = 1 && fBELLOWS_TILE_CAL_FOUND_MHZ.get c = 0

/-- TILE_ID.ROLE and CHANTER_ENGINE report the committed membership (R98, R137, R176). A tile that failed its self-test stays out of
service, whatever role the plan gives it (R80; DEDUCED, log entry 111). -/
def reportMember (t : Nat) (m : Dev) : Dev :=
  let v := rd (aFPLAN_MEMBER t) m
  let role := if gridFailed t m then 0 else fFPLAN_MEMBER_ROLE.get v
  let e := fFPLAN_MEMBER_ENGINE.get v
  let w := if fFPLAN_MEMBER_VALID.get v = 1 then
      fCHANTER_ENGINE_MEMBER.of 1 ||| fCHANTER_ENGINE_RANKS.of (memberCount e m) |||
        fCHANTER_ENGINE_RANK.of (fFPLAN_MEMBER_RANK.get v) ||| fCHANTER_ENGINE_ENGINE.of e
    else 0
  let m1 := wr (onTile aCHANTER_ENGINE t) w (wrF (onTile aTILE_ID t) fTILE_ID_ROLE role m)
  if role = 1 || role = 3 then { m1 with plan := { m1.plan with wasActive := m1.plan.wasActive.upd false t true } } else m1

/-- Membership (R170): `o` is the module before the apply, `m` after it. -/
def applyMembers (o m : Dev) : Dev :=
  let joins := (List.range 144).filter (fun t => (newEngine t o).isSome && newEngine t o ≠ oldEngine t o)
  let m1 := forEach joins (fun t m =>
    let e := (newEngine t o).getD 0
    let stay := (members e m).filter (fun u => oldEngine u o = some e)
    match stay.head? with
    | some u => takeRings u t m
    | none => match leadOf e m with
      | some u => if u = t then m else takeRings u t m
      | none => m) m
  forEach (List.range 144) reportMember m1

/-- Rings enabled in this commit: FETCH and RERUN take HEAD (R143). `reg` is the offset of RING_CTRL. -/
def ringEnables (reg : Nat) (m : Dev) : Dev :=
  let h := fRING_HEAD_HEAD.get (rd (reg + 8) m)
  wr (reg + 16) (fRING_PTR_FETCH.of h ||| fRING_PTR_RERUN.of h) m

/-- The tiles that take a ring register written on a tile: every rank when the tile is the lead, which forwards it (the
register table of chapter 4). -/
def ringCopies (t : Nat) (m : Dev) : List Nat :=
  match oldEngine t m with
  | some e => if leadOf e m = some t then members e m else [t]
  | none => [t]

/-- A link's ENABLE has committed (R352). -/
def linkEnableSet (l : Nat) (m : Dev) : Dev :=
  if isSet (aWINDROW_LINK_CTRL l) fWINDROW_LINK_CTRL_ENABLE m then (if linkState l m = 7 then setState l 0 m else m)
  else setState l 7 m

/-- An epoch's fields have committed (R199, R472). -/
def epochSet (e : Nat) (m : Dev) : Dev :=
  let r := aPIPER_EPOCH0 e
  let sc := aSCARE_EPOCH e
  if isSet r fPIPER_EPOCH0_VALID m then
    if isSet sc fSCARE_EPOCH_VERIFIED m && rdF sc fSCARE_EPOCH_MODEL_ID m = rdF r fPIPER_EPOCH0_MODEL_ID m then m
    else raise cSCARECROW_MODEL_UNVERIFIED (wrF r fPIPER_EPOCH0_VALID 0 m)
  else wrF sc fSCARE_EPOCH_VERIFIED 0 m

/-- DRAINED: set with its cause when a RETIRING epoch has no pin left (R199). -/
def drainCheck (e : Nat) (m : Dev) : Dev :=
  let r := aPIPER_EPOCH0 e
  if isSet r fPIPER_EPOCH0_RETIRING m && !isSet r fPIPER_EPOCH0_DRAINED m && epochPins e m = 0 then
    raise cPIPER_EPOCH_DRAINED (wrF r fPIPER_EPOCH0_DRAINED 1 m)
  else m

/-- Enabling a Stile ring sets FETCH and RERUN to its HEAD word (R143, R419, R424). -/
def stileRingEnables (r : Nat) (m : Dev) : Dev :=
  let h := peekN 4 (rdF (aSTILE_RING_HEAD r) fSTILE_RING_HEAD_HEAD_ADDR m * 8) m
  wr (aSTILE_RING_PTR r) (fSTILE_RING_PTR_RERUN.of h ||| fSTILE_RING_PTR_FETCH.of h) m

/-- A committed region that turns inconsistent, or is set VALID so, raises its cause (R96, R295): `old` is its value before. It is
judged before the evictions of the commit clear any VALID. -/
def regionJudged (o : Nat) (p : RegPlace) (old : Word) (m : Dev) : Dev :=
  let v := rd o m
  match p.name with
  | .TILE_SEEDBED_REGION =>
    let bad := fun w => fTILE_SEEDBED_REGION_VALID.get w = 1 && !tileRegionValid w
    when (bad v && !bad old) (raise (cDIE_SEEDBED_REGION_INVALID (dieOf p.unit))) m
  | .DIE_SHARED_REGION =>
    let bad := fun w => fDIE_SHARED_REGION_VALID.get w = 1 && !sharedRegionValid p.unit w m
    when (bad v && !bad old) (raise (cDIE_SEEDBED_REGION_INVALID p.unit)) m
  | _ => m

/-- Program HDM decoder 0 of the device of a way: one way from device address 0 (R302). -/
def programWay (w : Nat) (m : Dev) : Dev :=
  emit (.hdm (wayDevice w m / 4) (wayDevice w m % 4) (rdF aTIER_FALLOW_DECODE fTIER_FALLOW_DECODE_WAY_PAGES m * 65536)) m

/-- The Fallow decoder has committed: the devices of its ways are programmed when it is enabled. -/
def fallowDecoded (o m : Dev) : Dev :=
  when (isSet aTIER_FALLOW_DECODE fTIER_FALLOW_DECODE_ENABLE m &&
      (rd aTIER_FALLOW_DECODE m ≠ rd aTIER_FALLOW_DECODE o || rd aTIER_FALLOW_WAYS m ≠ rd aTIER_FALLOW_WAYS o))
    (forEach (List.range (fallowWays m)) programWay) m

/-- Links that may no longer train go DOWN (R352). -/
def linksJudged (m : Dev) : Dev :=
  forEach (List.range 36) (fun l m =>
    if linkUp l m && !canTrain l m then linkGoesDown l m
    else if (linkState l m = 1 || linkState l m = 2) && !canTrain l m then linkFalls l 0 m else m) m

/-- What a committed register does beside taking its value: `old` is its value before. -/
def committedReg (o : Nat) (p : RegPlace) (old : Word) (m : Dev) : Dev :=
  match p.name with
  | .TILE_GRID_COLMAP =>
    when (257 < rdF o fTILE_GRID_COLMAP_FAIL0 m && isSet o fTILE_GRID_COLMAP_FAIL0_VALID m ||
        257 < rdF o fTILE_GRID_COLMAP_FAIL1 m && isSet o fTILE_GRID_COLMAP_FAIL1_VALID m)
      (raise (cDIE_GRID_COLMAP_INVALID (dieOf p.unit))) m
  | .PCIE_PORT => slotsJudged m
  | .RING_BASE => forEach (ringCopies p.unit m) (fun t m => wr (tileRingReg t p.i 0) (rd o m) m) m
  | .RING_CTRL => forEach (ringCopies p.unit m) (fun t m =>
      let c := tileRingReg t p.i 1
      when (fRING_CTRL_ENABLE.get old = 0 && isSet o fRING_CTRL_ENABLE m) (ringEnables c) (wr c (rd o m) m)) m
  | .FIX_RING_CTRL => when (fRING_CTRL_ENABLE.get old = 0 && isSet o fRING_CTRL_ENABLE m) (ringEnables o) m
  | .WINDROW_COORD => when (isSet o fWINDROW_COORD_VALID m && !coordOk (rd o m)) (raise cWINDROW_COORD_INVALID) m
  | .WINDROW_LINK_CTRL => when (fWINDROW_LINK_CTRL_ENABLE.get old ≠ rdF o fWINDROW_LINK_CTRL_ENABLE m ||
      linkState p.i m = 7) (linkEnableSet p.i) (wrF (aWINDROW_LINK_STATUS p.i) fWINDROW_LINK_STATUS_PORT (linkPort p.i m) m)
  | .FABRIC_CACHE_RANGE => when (rd o m ≠ old) cacheInvalidate m
  | .HARROW_CTRL => when (fHARROW_CTRL_IN_SERVICE.get old = 1 && !isSet o fHARROW_CTRL_IN_SERVICE m)
      (forEach (List.range 3) dropGone) m
  | .BELLOWS_TILE_CLOCK =>
    let f := rdF o fBELLOWS_TILE_CLOCK_FMAX_MHZ m
    let m1 := wrF (onTile aTILE_ID p.unit) fTILE_ID_FMAX_MHZ f m
    when (f < 1750 || 2100 < f) (raise cBELLOWS_CAL_RANGE) m1
  | .PIPER_SHAPE =>
    when (1024 < shapeSlots m * (1 + rdF o fPIPER_SHAPE_DRAFT m)) (raise cPIPER_SHAPE_CLAMPED) m
  | .PIPER_CTRL =>
    let m1 := wrF aPIPER_STEP fPIPER_STEP_STATE (rdF o fPIPER_CTRL_ENABLE m) m
    if fPIPER_CTRL_ENABLE.get old = 0 && isSet o fPIPER_CTRL_ENABLE m then
      { m1 with plan := { m1.plan with restart := true } }
    else m1
  | .PIPER_EPOCH0 =>
    let m1 := epochSet p.i m
    if isSet o fPIPER_EPOCH0_RETIRING m1 then drainCheck p.i m1 else wrF o fPIPER_EPOCH0_DRAINED 0 m1
  | .STILE_RING => when (fSTILE_RING_ENABLE.get old = 0 && isSet o fSTILE_RING_ENABLE m) (stileRingEnables p.i) m
  | .ETH_PORT => when (!isSet o fETH_PORT_ENABLE m) (wrF o fETH_PORT_UP 0) m
  | .DRONE_CTRL =>
    if fDRONE_CTRL_ENABLE.get old = 0 && isSet o fDRONE_CTRL_ENABLE m then { m with drone := { m.drone with spent := [] } } else m
  | _ => m

/-- Microcode select (R135): an engine whose SELECT names a bank that is not valid on some rank keeps the old bank. -/
def ucodeSelected (o : Dev) (t : Nat) (m : Dev) : Dev :=
  let ts := ((oldEngine t o).map (fun e => members e o)).getD [t]
  let good := ts.all (fun u =>
    let r := onTile aCHANTER_UCODE u
    if rdF r fCHANTER_UCODE_SELECT m = 0 then isSet r fCHANTER_UCODE_A_VALID m else isSet r fCHANTER_UCODE_B_VALID m)
  let r := onTile aCHANTER_UCODE t
  if good then m
  else raise (cDIE_CHANTER_UCODE_REJECT (dieOf t)) (wrF r fCHANTER_UCODE_SELECT (rdF r fCHANTER_UCODE_SELECT o) m)

/-- The microcode registers of the change set; a rejected bank is put back after every rank has been judged. -/
def ucodeAct (o m : Dev) : Dev :=
  let ts := ((frozenRegs o).filterMap (fun x => match locate x with
    | some p => if p.name = .CHANTER_UCODE then some p.unit else none
    | none => none)).filter (fun t => rdF (onTile aCHANTER_UCODE t) fCHANTER_UCODE_SELECT m ≠
      rdF (onTile aCHANTER_UCODE t) fCHANTER_UCODE_SELECT o)
  forEach (ts.filter (fun t => ucodeSelected o t m ≠ m)) (fun t m' =>
    let r := onTile aCHANTER_UCODE t
    raise (cDIE_CHANTER_UCODE_REJECT (dieOf t)) (wrF r fCHANTER_UCODE_SELECT (rdF r fCHANTER_UCODE_SELECT o) m')) m

/-- What a committed table image does: a Winnow slot reports its table (R329); a group entry that fails R375 raises its
cause. -/
def committedTable (x : Nat × List Byte) (m : Dev) : Dev :=
  let target := x.1 / 2 ^ 24 / 32
  let table := x.1 / 2 ^ 24 % 32
  if target = 6 then
    let g0 := x.1 % 2 ^ 24 / 160
    when ((List.range (x.2.length / 160)).any (fun i =>
        bitAt (field (grpBytes (g0 + i) m) 0 1) 0 && !grpOk (grpBytes (g0 + i) m) (selfCoord m)))
      (raise cDRONE_GROUP_INVALID) m
  else if table < 16 then
    let d := target - 0xA0
    wr (slotReg1 d table) (BitVec.ofNat 64 (field x.2 8 8))
      (wr (slotReg0 d table) (fWINNOW_SLOT0_VALID.of 1 ||| fWINNOW_SLOT0_GENERATION.of (field x.2 16 4)) m)
  else m

/-- The regions that name tiles whose ROLE the commit changes (R295). -/
def endNamed (o m : Dev) : Dev :=
  let evicted := evictedTiles o
  let ended := (List.range 144).filter (fun t => roleOf t o = 2 && (newRole t o = 0 || newRole t o = 1) &&
    (regionsNaming t m).length ≠ 0)
  let m1 := forEach (evicted ++ ended) endRegions m
  let m2 := forEach ((evicted.map dieOf).eraseDups) (fun d => raise (cDIE_SEEDBED_EVICTED d)) m1
  forEach ((ended.map dieOf).eraseDups) (fun d => raise (cDIE_SEEDBED_REGION_INVALID d)) m2

/-- Reports of step 7: the plan in force, the counts, the result (R164, R174). -/
def applyReports (m : Dev) : Dev :=
  let m1 := countWrap aFPLAN_ACTIVE fFPLAN_ACTIVE_COMMITS 1 m
  let m2 := match m1.plan.container with
    | some (id, gen, direct) => wr aFPLAN_ACTIVE_ID id (wrF aFPLAN_ACTIVE fFPLAN_ACTIVE_DIRECT_ALLOWED (if direct then 1 else 0)
        (wrF aFPLAN_ACTIVE fFPLAN_ACTIVE_PLAN_GENERATION gen.toNat m1))
    | none => m1
  let m3 := { m2 with plan := { m2.plan with
    container := none, frozen := false, frozenMask := [], frozenTables := [], frozenStaged := 0, waiting := [], parked := [],
    zeroing := false, staged := m2.plan.staged - m2.plan.frozenStaged } }
  planCounts (planResult 3 (restState m3))

/-- The apply act (R164, step 6): every shadow of the change set at once, and what the committed fields do. -/
def applyPlan (o : Dev) : Dev :=
  let leavers := (List.range 144).filter (fun t => (oldEngine t o).isSome && newEngine t o ≠ oldEngine t o)
  let fresh := (List.range 144).filter (fun t => newEngine t o ≠ oldEngine t o)
  let m1 := applyTables (applyShadows (forEach leavers dropRings o))
  let m2 := applyMembers o (forEach fresh (fun t m =>
    forEach (List.range 256) (fun g => wr (aCHANTER_COLL_SEQ (dieOf t) (numOf t) g) 0) m) m1)
  let judged := forEach (frozenRegs o) (fun off m => match locate off with
    | some p => regionJudged off p (rd off o) m
    | none => m) m2
  let m3 := ucodeAct o (endNamed o judged)
  let m4 := forEach (frozenRegs o) (fun off m => match locate off with
    | some p => committedReg off p (rd off o) m
    | none => m) m3
  applyReports (linksJudged (fallowDecoded o (forEach o.plan.frozenTables committedTable m4)))

/-! ### The commands of chapter 5 -/

/-- The commit ends without an apply: parked units resume, the change set stays staged. -/
def unfreeze (m : Dev) : Dev :=
  planCounts { m with plan := { m.plan with
    frozen := false, frozenMask := [], frozenTables := [], frozenStaged := 0, waiting := [], parked := [], zeroing := false } }

/-- Every unit that a change set held goes on: packets that waited for a parked port or link start, and what waited to be sent goes
out (R164, step 7; R167). -/
def unitsResume (m : Dev) : Dev := pumpAll (forEach (List.range 36) drainQueue m)

/-- A commit refused or failed (R156, R167). -/
def commitEnds (result cause group target off : Nat) (m : Dev) : Dev :=
  unitsResume (planResult result (restState (planFaults 2 cause 0 group target off (unfreeze m))))

/-- The commit has ended with its apply. -/
def planApplied (m : Dev) : Dev := unitsResume (applyPlan m)

/-- Every unit is ready: the zeroing of evicted regions, or the apply. -/
def allReady (m : Dev) : Dev :=
  if (evictedTiles m).isEmpty then planApplied m else { m with plan := { m.plan with zeroing := true } }

/-- COMMIT (R164, steps 1 to 4). -/
def fplanCommit (m : Dev) : Dev :=
  if planState m = 1 || planState m = 3 then planResult 4 (planFaults 2 9 0 0 0 0 m)
  else if changeSetEmpty m then planResult 3 m
  else
    let m1 := setPlanState 3 { m with plan := { m.plan with
      frozen := true
      frozenMask := m.shadow.map (fun x => (x.1, x.2.2))
      frozenTables := m.plan.stagedTables
      frozenStaged := m.plan.staged } }
    match failingGroup m1 with
    | some (i, c) => commitEnds 4 (if c = .incomplete then 10 else 11) (0xFF00 + i) 0 0 m1
    | none =>
      match notOffline m1 with
      | some o => commitEnds 4 12 0 (targetOfReg o).1 (targetOfReg o).2 m1
      | none =>
        let us := unitsToPark m1
        let m2 := planCounts { m1 with plan := { m1.plan with waiting := us } }
        if us.isEmpty then allReady m2 else m2

/-- The parked units that have taken up work again withdraw their ready report: the apply waits until all units are ready at
the same time (R166). -/
def withdrawUnready (m : Dev) : Dev :=
  let us := m.plan.parked.filter (fun u => !unitAtCondition u m)
  { m with plan := { m.plan with waiting := m.plan.waiting ++ us, parked := m.plan.parked.filter (fun u => !us.contains u) } }

/-- UNIT_READY: a unit that stands at its condition parks and reports ready; the last one lets the apply go on. -/
def unitReady (u : PlanUnit) (m : Dev) : Dev :=
  if !m.plan.frozen || !m.plan.waiting.contains u || !unitAtCondition u m then m
  else
    let m0 := { m with plan := { m.plan with waiting := m.plan.waiting.erase u, parked := m.plan.parked ++ [u] } }
    let m1 := planCounts (if m0.plan.waiting.isEmpty then withdrawUnready m0 else m0)
    if m1.plan.waiting.isEmpty && !m1.plan.zeroing then allReady m1 else m1

/-- EVICTION_ZEROING_DONE: the regions are zeros, and the apply follows if every unit is ready still (R164, R166). -/
def evictionZeroed (m : Dev) : Dev :=
  if !m.plan.zeroing then m
  else
    let m1 := planCounts (withdrawUnready m)
    if m1.plan.waiting.isEmpty then planApplied (zeroEvicted m1) else m1

/-- FPLAN_COMMIT_TIMEOUT (R167). -/
def fplanTimeout (m : Dev) : Dev := if m.plan.frozen then commitEnds 5 13 0 0 0 m else m

/-- Did a unit of the change set go out of service between two states: a port that lost its last link (R355), an Ethernet port that
lost its own? -/
def unitLost (o m : Dev) (u : PlanUnit) : Bool :=
  match u with
  | .port p => (portLinks p.val o).any (fun l => linkUp l o) && (portLinks p.val o).all (fun l => !linkUp l m)
  | .link l => linkUp l.val o && !linkUp l.val m
  | .ethPort e => isSet (aETH_PORT e.val) fETH_PORT_UP o && !isSet (aETH_PORT e.val) fETH_PORT_UP m
  | _ => false

/-- Has a commit in progress lost a unit of its set since `o` (R167)? -/
def blockLost (o m : Dev) : Bool := m.plan.frozen && (m.plan.waiting ++ m.plan.parked).any (unitLost o m)

/-- ABORT (R169): every shadow takes its active value. An ABORT while a container is being loaded lets the load go on: it stages its
shadows when it ends (DESIGN CHOICE, log entry 112). -/
def fplanAbort (m : Dev) : Dev :=
  let m1 := unitsResume (unfreeze m)
  let m2 := { m1 with shadow := [], plan := { m1.plan with stagedTables := [], container := none, staged := 0 } }
  planCounts (planResult 6 (if planState m2 = 1 then m2 else setPlanState 0 m2))

end Sys2Proof.Machine
end

