-- ==== Sys2Proof/Machine/Sessions.lean ====
section
/-! DEFINITION. What the slice lead keeps in memory (chapters 6, 7): session descriptors (R183), token buckets (R190 to
R192), connection records and outgoing messages (R201 to R208), the ledger and its mirrors (R213, R218 to R220), summary
buffers (R236), and the acts that end a turn or take a session out of service (R184, R186). -/
namespace Sys2Proof.Machine

/-! ### Descriptors (R183, R186) -/

def sFREE : Nat := 0
def sQUEUED : Nat := 1
def sPREFILL : Nat := 2
def sSHIPPING : Nat := 3
def sDECODE : Nat := 4
def sIDLE : Nat := 5
def sPAUSED : Nat := 6
def sSUMMARY : Nat := 7
def sCLOSING : Nat := 8

/-- A field of a table entry: its first byte and how many. -/
structure TableField where
  off : Nat
  size : Nat
  deriving DecidableEq, Repr

def dCUSTOMER : TableField := ⟨2, 2⟩
def dADAPTER : TableField := ⟨4, 2⟩
def dEPOCH : TableField := ⟨6, 1⟩
def dEND_REASON : TableField := ⟨7, 1⟩
def dHANDLE : TableField := ⟨8, 8⟩
def dREQUEST_ID : TableField := ⟨16, 8⟩
def dCOMMIT_SEQ : TableField := ⟨24, 4⟩
def dLAST_TOKEN : TableField := ⟨28, 4⟩
def dCOMMITTED_LEN : TableField := ⟨32, 4⟩
def dTURN_START : TableField := ⟨36, 4⟩
def dPROMPT_LEN : TableField := ⟨40, 4⟩
def dPROMPT_DONE : TableField := ⟨44, 4⟩
def dMAX_NEW : TableField := ⟨48, 4⟩
def dGENERATED : TableField := ⟨52, 4⟩
def dPAGE_TABLE : TableField := ⟨56, 8⟩
def dLAST_STEP : TableField := ⟨64, 8⟩
def dIDLE_SINCE : TableField := ⟨72, 8⟩
def dSTATE_ADDR : TableField := ⟨80, 8⟩
def dEXPIRY : TableField := ⟨88, 8⟩
def dSEED : TableField := ⟨96, 8⟩
def dTEMPERATURE : TableField := ⟨104, 2⟩
def dTOP_P : TableField := ⟨106, 2⟩
def dTOP_K : TableField := ⟨108, 2⟩
def dCONN : TableField := ⟨110, 2⟩
def dCANCEL_SEQ : TableField := ⟨112, 4⟩
def dPROMPT_ADDR : TableField := ⟨120, 8⟩

/-- The address of a session's descriptor. -/
def sessAddr (s : Nat) (m : Dev) : Nat := rdF aPIPER_SESSION_BASE fPIPER_SESSION_BASE_BASE m * 65536 + 128 * s
def dGet (f : TableField) (s : Nat) (m : Dev) : Nat := ldN f.size (sessAddr s m + f.off) m
def dSet (f : TableField) (s v : Nat) (m : Dev) : Dev := stN f.size (sessAddr s m + f.off) v m

/-- Byte 0: STATE [3:0], CANCEL [4], ROLLBACK [5], PRIVILEGED [6]; byte 1: CLASS [1:0], PAGE_LOG2 [7:4]. -/
def flagByte (s : Nat) (m : Dev) : Nat := ldN 1 (sessAddr s m) m
def setFlagByte (s v : Nat) (m : Dev) : Dev := stN 1 (sessAddr s m) v m
def stateOf (s : Nat) (m : Dev) : Nat := flagByte s m % 16
def setStateOf (s n : Nat) (m : Dev) : Dev := setFlagByte s (flagByte s m / 16 * 16 + n) m
def cancelOf (s : Nat) (m : Dev) : Bool := bitAt (flagByte s m) 4
def rollbackOf (s : Nat) (m : Dev) : Bool := bitAt (flagByte s m) 5
def sessClass (s : Nat) (m : Dev) : Nat := ldN 1 (sessAddr s m + 1) m % 4
def logOf (s : Nat) (m : Dev) : Nat := ldN 1 (sessAddr s m + 1) m / 16

/-- Set CANCEL and ROLLBACK, or clear both. -/
def setCancel (s : Nat) (c rollback : Bool) (m : Dev) : Dev :=
  let v := flagByte s m
  setFlagByte s (v / 64 * 64 + (if rollback then 32 else 0) + (if c then 16 else 0) + v % 16) m

/-- The sessions whose descriptor is not FREE, ascending. The byte that holds the state of any other descriptor is 0 in its
low half, and one that is not listed in memory is 0. -/
def sessions (m : Dev) : List Nat :=
  let b := sessAddr 0 m
  ((m.mem.filter (fun c => decide (b ≤ c.1 ∧ c.1 < b + 0x80_0000 ∧ (c.1 - b) % 128 = 0))).map (fun c => (c.1 - b) / 128)).filter
    (fun s => stateOf s m ≠ sFREE)

/-- The lowest FREE index. -/
def lowestFree (m : Dev) : Option Nat :=
  let used := sessions m
  ((List.range (used.length + 1)).find? (fun s => !used.contains s)).filter (· < 65536)

/-- A session in a turn: states 1 to 4. -/
def inTurn (s : Nat) (m : Dev) : Bool := 1 ≤ stateOf s m && stateOf s m ≤ 4

/-! ### Epochs and their pins (R198, R199, R320) -/

def setPins (e n : Nat) (m : Dev) : Dev := stN 4 (epochRec e m) n m
def pin (e : Nat) (m : Dev) : Dev := setPins e (epochPins e m + 1) m

/-- A pin is released; a RETIRING epoch without one is drained. -/
def unpin (e : Nat) (m : Dev) : Dev := drainCheck e (setPins e (epochPins e m - 1) m)

def contextLimit (e : Nat) (m : Dev) : Nat := ldN 4 (epochRec e m + 4) m

/-- The epoch that a MODEL_ID names: DEFAULT_EPOCH for 0; none when no resident epoch has it or it is retiring. -/
def epochFor (model : Nat) (m : Dev) : Option Nat :=
  let ok := fun e => isSet (aPIPER_EPOCH0 e) fPIPER_EPOCH0_VALID m && !isSet (aPIPER_EPOCH0 e) fPIPER_EPOCH0_RETIRING m
  if model = 0 then
    let e := rdF aPIPER_CTRL fPIPER_CTRL_DEFAULT_EPOCH m
    if ok e then some e else none
  else (List.range 8).find? (fun e => ok e && rdF (aPIPER_EPOCH0 e) fPIPER_EPOCH0_MODEL_ID m = model)

/-! ### Token buckets (R190 to R192) -/

def bucketAddr (b : Nat) (m : Dev) : Nat := rdF aPIPER_BUCKET_BASE fPIPER_BUCKET_BASE_BASE m * 65536 + 32 * b
def bucketLevel (b : Nat) (m : Dev) : Int := signed 64 (ldN 8 (bucketAddr b m + 8) m)
def setBucketLevel (b : Nat) (v : Int) (m : Dev) : Dev := stN 8 (bucketAddr b m + 8) (v % 2 ^ 64).toNat m

/-- Refill in whole ticks of 160 counts (R191). -/
def refill (b : Nat) (m : Dev) : Dev :=
  let a := bucketAddr b m
  let last : Int := ldN 8 (a + 16) m
  let ticks : Int := ((m.time.toNat : Int) - last) / 160
  let level := min (bucketLevel b m + ticks * (ldN 4 a m : Int)) ((ldN 4 (a + 4) m : Int) * 2 ^ 24)
  setBucketLevel b level (stN 8 (a + 16) ((last + ticks * 160) % 2 ^ 64).toNat m)

/-- A slot is formed: its rows are charged at once (R192). -/
def charge (b rows : Nat) (m : Dev) : Dev :=
  let m1 := setBucketLevel b (bucketLevel b m - (rows : Int) * 2 ^ 24) m
  stN 8 (bucketAddr b m + 24) (satAdd (2 ^ 64 - 1) (ldN 8 (bucketAddr b m + 24) m) rows) m1

/-! ### The Intake's outgoing side (R201, R202, R206, R208) -/

def kKEY_SLOT : TableField := ⟨1, 1⟩
def kFLAGS : TableField := ⟨2, 1⟩
def kCUSTOMER_LO : TableField := ⟨4, 2⟩
def kCUSTOMER_HI : TableField := ⟨6, 2⟩
def kPEER_ADDR : TableField := ⟨8, 16⟩
def kPEER_PORT : TableField := ⟨24, 2⟩
def kREQUEST_CREDITS : TableField := ⟨26, 2⟩
def kTX_NEXT : TableField := ⟨32, 8⟩
def kRX_NEXT : TableField := ⟨40, 8⟩
def kTX_ACKED : TableField := ⟨48, 8⟩
def kPEER_CREDIT : TableField := ⟨56, 4⟩

/-- The address of a connection record. -/
def connAddr (c : Nat) (m : Dev) : Nat := rdF aINTAKE_CONN_BASE fINTAKE_CONN_BASE_BASE m * 65536 + 64 * c
def kGet (f : TableField) (c : Nat) (m : Dev) : Nat := ldN f.size (connAddr c m + f.off) m
def kSet (f : TableField) (c v : Nat) (m : Dev) : Dev := stN f.size (connAddr c m + f.off) v m
def connOpen (c : Nat) (m : Dev) : Bool := ldN 1 (connAddr c m) m = 1

def connOf (c : Nat) (m : Dev) : ConnSt := Sparse.get ConnSt.idle m.piper.conns c
def setConn (c : Nat) (x : ConnSt) (m : Dev) : Dev :=
  { m with piper := { m.piper with conns := m.piper.conns.upd ConnSt.idle c x } }

/-- The value that a CREDIT field extends to: S with S mod 2^32 = CREDIT and acked ≤ S < acked + 2^31 (R206). -/
def extendCredit (acked credit : Nat) : Option Nat :=
  let s := acked / 2 ^ 32 * 2 ^ 32 + credit % 2 ^ 32
  let s := if acked ≤ s then s else s + 2 ^ 32
  if s < acked + 2 ^ 31 then some s else none

/-- May the next reliable message leave: the front end's credit reaches it, and fewer than 4,096 are unacknowledged. -/
def maySend (c : Nat) (m : Dev) : Bool :=
  (connOf c m).unacked.length < 4096 &&
    (match extendCredit (kGet kTX_ACKED c m) (kGet kPEER_CREDIT c m) with
     | some s => kGet kTX_NEXT c m ≤ s
     | none => false)

/-- The header of a message from the module (R201): it acknowledges what has been taken and grants 1,024 messages beyond
the last one processed. -/
def intakeHeader (typ len c seq request : Nat) (m : Dev) : List Byte :=
  let rx := kGet kRX_NEXT c m
  toLe 1 1 ++ toLe 1 typ ++ toLe 2 len ++ toLe 4 c ++ toLe 8 seq ++ toLe 8 rx ++ toLe 4 (rx + 1023) ++ toLe 4 0 ++
    toLe 8 request

/-- The key of a connection: that of its key slot, if it holds an Intake key (R201, R466). -/
def connKey (c : Nat) (m : Dev) : Option (List Byte) :=
  let k := Sparse.get KeySlot.empty m.keys (kGet kKEY_SLOT c m)
  if k.usage = 1 then some (toLe 32 k.key.toNat) else none

/-- Send a message with a sequence number: the header, and the payload sealed with the header as authenticated data. In the nonce, the
connection's number has bit 31 set (R201). Without a key the bytes of the cipher are free (DESIGN CHOICE, log entry 4). -/
def sendMsg (c seq : Nat) (o : OutMsg) (m : Dev) : Dev :=
  let header := intakeHeader o.typ o.payload.length c seq o.request m
  match connKey c m with
  | some key => emit (.intake c (header ++ gcmSeal key (toLe 4 (c + 2 ^ 31) ++ toLe 8 seq) header o.payload)) m
  | none => useFree (o.payload.length + 16) (emit (.intake c (header ++ freeBytes (o.payload.length + 16) m)) m)

/-- Send the oldest waiting message while credit lasts. -/
def pumpConn : Nat → Nat → Dev → Dev
  | 0, _, m => m
  | fuel + 1, c, m =>
    match (connOf c m).queue with
    | [] => m
    | o :: rest =>
      if maySend c m then
        let seq := kGet kTX_NEXT c m
        let m1 := sendMsg c seq o m
        let x := connOf c m1
        pumpConn fuel c (kSet kTX_NEXT c (seq + 1) (setConn c { x with queue := rest, unacked := x.unacked ++ [(seq, o)] } m1))
      else m

/-- After the queue has changed: full at 4,096 with its cause, no longer full at 3,072 (R206). -/
def judgeQueue (c : Nat) (m : Dev) : Dev :=
  let x := connOf c m
  if 4096 ≤ x.queue.length && !x.full then raise cINTAKE_FLOW_QUEUE_FULL (setConn c { x with full := true } m)
  else if x.full && x.queue.length ≤ 3072 then setConn c { x with full := false } m
  else m

/-- Send what may be sent. -/
def pumpOut (c : Nat) (m : Dev) : Dev := judgeQueue c (pumpConn (connOf c m).queue.length c m)

/-- Queue a reliable message on an open connection. -/
def queueMsg (c : Nat) (o : OutMsg) (m : Dev) : Dev :=
  if connOpen c m then
    let x := connOf c m
    pumpOut c (setConn c { x with queue := x.queue ++ [o] } m)
  else m

/-- An ACK message, in its own sequence space (R202). -/
def sendAck (c : Nat) (m : Dev) : Dev :=
  let x := connOf c m
  sendMsg c (2 ^ 63 + x.ackSeq) ⟨0x7F, 0, []⟩ (setConn c { x with ackSeq := x.ackSeq + 1 } m)

def sendRefuse (c request reason : Nat) (m : Dev) : Dev := queueMsg c ⟨0x84, request, toLe 1 reason⟩ m

def sendAccept (s : Nat) (m : Dev) : Dev :=
  let e := dGet dEPOCH s m
  queueMsg (dGet dCONN s m) ⟨0x81, dGet dREQUEST_ID s m,
    toLe 8 (dGet dHANDLE s m) ++ toLe 4 e ++ toLe 4 (rdF (aPIPER_EPOCH0 e) fPIPER_EPOCH0_MODEL_ID m)⟩ m

/-- TOKENS of a session: POSITION counts from the turn's first token. -/
def sendTokens (s : Nat) (out : List Nat) (m : Dev) : Dev :=
  queueMsg (dGet dCONN s m) ⟨0x82, dGet dREQUEST_ID s m,
    toLe 4 (dGet dCOMMIT_SEQ s m) ++ toLe 4 (dGet dGENERATED s m - out.length) ++ toLe 4 out.length ++
      (out.map (toLe 4)).flatten⟩ m

/-- The payload of a turn's END. -/
def endPayload (s : Nat) (m : Dev) : List Byte :=
  toLe 4 (dGet dEND_REASON s m) ++ toLe 4 (dGet dCOMMIT_SEQ s m) ++ toLe 4 (dGet dGENERATED s m)

/-- END of a turn; it is kept, so that it can be sent again. -/
def sendEnd (s : Nat) (m : Dev) : Dev :=
  queueMsg (dGet dCONN s m) ⟨0x83, dGet dREQUEST_ID s m, endPayload s m⟩
    { m with piper := { m.piper with ends := m.piper.ends.upd [] s (endPayload s m) } }

/-- END of the last turn again, unchanged (R189). -/
def resendEnd (s : Nat) (m : Dev) : Dev :=
  let p := Sparse.get [] m.piper.ends s
  queueMsg (dGet dCONN s m) ⟨0x83, dGet dREQUEST_ID s m, if p.isEmpty then endPayload s m else p⟩ m

/-! ### The ledger and the mirrors (R213, R218 to R220) -/

def lGROUP : TableField := ⟨0, 1⟩
def lFLAGS : TableField := ⟨1, 1⟩
def lCOUNTER : TableField := ⟨2, 2⟩
def lPAGES : TableField := ⟨4, 4⟩

def ledgerAddr (s : Nat) (m : Dev) : Nat := kvDir 0 m + 0x81_0000 + 32 * s
def lGet (f : TableField) (s : Nat) (m : Dev) : Nat := ldN f.size (ledgerAddr s m + f.off) m
def lSet (f : TableField) (s v : Nat) (m : Dev) : Dev := stN f.size (ledgerAddr s m + f.off) v m
def isPausing (s : Nat) (m : Dev) : Bool := bitAt (lGet lFLAGS s m) 0
def isRestoring (s : Nat) (m : Dev) : Bool := bitAt (lGet lFLAGS s m) 1

/-- The mirror of group g that pages of 2^P tokens come from: units or ridges, of the Field pool or the pause pool. -/
def mirrorOff (g : Nat) (pause : Bool) (P : Nat) : Nat :=
  132 + 16 * g + 4 * ((if pause then 2 else 0) + (if P = 4 then 0 else 1))
def mirror (g : Nat) (pause : Bool) (P : Nat) (m : Dev) : Nat := kvHdr 4 (mirrorOff g pause P) m
def setMirror (g : Nat) (pause : Bool) (P n : Nat) (m : Dev) : Dev := setKvHdr 4 (mirrorOff g pause P) n m

/-- Units or ridges that pages a to b − 1 take (R215). -/
def kvNeed (P a b : Nat) : Nat := if P = 4 then b - a else ridgesNeeded P a b

def takeMirror (s : Nat) (pause : Bool) (n : Nat) (m : Dev) : Dev :=
  let g := lGet lGROUP s m
  setMirror g pause (logOf s m) (mirror g pause (logOf s m) m - n) m
def giveMirror (s : Nat) (pause : Bool) (n : Nat) (m : Dev) : Dev :=
  let g := lGet lGROUP s m
  setMirror g pause (logOf s m) (mirror g pause (logOf s m) m + n) m

/-- Units or ridges of the pages that a session holds in the Field, and of those that a pause or a restore copies: the pages
that its committed length reaches into. -/
def heldUnits (s : Nat) (m : Dev) : Nat := kvNeed (logOf s m) 0 (lGet lPAGES s m)
def copiedPages (s : Nat) (m : Dev) : Nat := min (lGet lPAGES s m) (pagesFor (dGet dCOMMITTED_LEN s m) (logOf s m))
def copiedUnits (s : Nat) (m : Dev) : Nat := kvNeed (logOf s m) 0 (copiedPages s m)

/-! ### Counters of the lead (R213, R233) -/

/-- A counter that no copy uses, by its offset from COUNTER_FIRST. -/
def spareCounter (m : Dev) : Option Nat :=
  let used := m.piper.counters.map (fun x => x.2)
  ((List.range (used.length + 1)).find? (fun k => !used.contains k)).filter (· < kvHdr 2 216 m)

def counterRef (k : Nat) (m : Dev) : Nat := kvHdr 2 214 m + k

/-- A session takes a counter, which is written to 0. -/
def takeCounter (s k : Nat) (m : Dev) : Dev :=
  let r := counterRef k m
  lSet lCOUNTER s k (wrF (aDIE_ARRIVAL (refDie r) (refCounter r)) fDIE_ARRIVAL_COUNT 0
    { m with piper := { m.piper with counters := m.piper.counters ++ [(s, k)] } })

def dropCounter (s : Nat) (m : Dev) : Dev :=
  { m with piper := { m.piper with counters := m.piper.counters.filter (fun x => x.1 ≠ s) } }

/-- Have all GROUP_SIZE modules of a session's group reported to its counter? -/
def groupReported (s : Nat) (m : Dev) : Bool :=
  let r := counterRef (lGet lCOUNTER s m) m
  kvHdr 2 222 m ≤ arrival (refDie r) (refCounter r) m

/-! ### Commit-record entries (R224) -/

def addEntry (op s arg0 arg1 : Nat) (m : Dev) : Dev :=
  { m with piper := { m.piper with
      entries := m.piper.entries ++ [toLe 1 op ++ toLe 1 0 ++ toLe 2 s ++ toLe 4 arg0 ++ toLe 8 arg1] } }

/-! ### Summary buffers (R236) -/

def summaryAddr (s : Nat) (m : Dev) : Nat := kvHdr 8 224 m + 16384 * s
def sumN (k s : Nat) (m : Dev) : Nat := ldN 4 (summaryAddr s m + 4 * k) m
def setSum (k s v : Nat) (m : Dev) : Dev := stN 4 (summaryAddr s m + 4 * k) v m

/-- One folded token: header words 0 HEAD_COUNT, 1 TAIL_COUNT, 2 TAIL_NEXT, 3 TOTAL; token i at word 4 + i. -/
def foldToken (s tok : Nat) (m : Dev) : Dev :=
  let head := kvHdr 2 204 m
  let tail := kvHdr 2 206 m
  let m1 := setSum 3 s (sumN 3 s m + 1) m
  if sumN 0 s m < head then setSum 0 s (sumN 0 s m + 1) (setSum (4 + sumN 0 s m) s tok m1)
  else if tail = 0 then m1
  else
    let next := sumN 2 s m
    setSum 1 s (min tail (sumN 1 s m + 1)) (setSum 2 s ((next + 1) % tail) (setSum (4 + head + next) s tok m1))

/-- The token at position k of a turn: prompt tokens, then delivered ones. A position committed beyond the delivered tokens
has none that the spec states: a free value. -/
def turnToken (s k : Nat) (m : Dev) : Nat :=
  if k < dGet dPROMPT_LEN s m + dGet dGENERATED s m then ldN 4 (dGet dPROMPT_ADDR s m + 4 * k) m
  else ((drawFree m).setWidth 32).toNat

/-- Fold the turn's committed positions. -/
def foldTurn (s : Nat) (m : Dev) : Dev :=
  forEach (List.range (dGet dCOMMITTED_LEN s m - dGet dTURN_START s m)) (fun k m =>
    useFree 1 (foldToken s (turnToken s k m) m)) m

/-- The summary's tokens in order, with SEP where tokens were dropped (R237). -/
def summaryTokens (s : Nat) (m : Dev) : List Nat :=
  let head := kvHdr 2 204 m
  let tail := kvHdr 2 206 m
  let hc := sumN 0 s m
  let tc := sumN 1 s m
  let start := if tc < tail then 0 else sumN 2 s m
  (List.range hc).map (fun i => sumN (4 + i) s m) ++
    (if hc + tc < sumN 3 s m then [kvHdr 4 208 m] else []) ++
    (List.range tc).map (fun i => sumN (4 + head + (start + i) % tail) s m)

/-! ### Acts that end a turn or move a session (R186, R235) -/

/-- A turn ends: the session is IDLE with its reason, the turn is folded into its summary buffer, END is queued. -/
def endTurn (s reason : Nat) (m : Dev) : Dev :=
  let m1 := dSet dIDLE_SINCE s m.time.toNat (dSet dEND_REASON s reason (setStateOf s sIDLE (setCancel s false false m)))
  let m2 := if m.piper.ships.any (fun x => x.session = s) then
      dropCounter s { m1 with piper := { m1.piper with ships := m1.piper.ships.filter (fun x => x.session ≠ s) } }
    else m1
  sendEnd s (foldTurn s m2)

/-- Give a session's pages back to the mirrors, with those of a copy in progress. -/
def releaseMirror (s : Nat) (m : Dev) : Dev :=
  let m1 := if stateOf s m = sPAUSED then
      when (isRestoring s m) (giveMirror s false (heldUnits s m)) (giveMirror s true (heldUnits s m) m)
    else when (isPausing s m) (giveMirror s true (copiedUnits s m)) (giveMirror s false (heldUnits s m) m)
  dropCounter s (lSet lPAGES s 0 (lSet lFLAGS s 0 m1))

/-- A session that is IDLE or PAUSED moves to SUMMARY. -/
def toSummary (s : Nat) (m : Dev) : Dev :=
  let m1 := releaseMirror s m
  let m2 := dSet dEXPIRY s 0 (dSet dSTATE_ADDR s (summaryAddr s m1) (setStateOf s sSUMMARY m1))
  unpin (dGet dEPOCH s m) (addEntry 9 s 0 0 m2)

/-- A session whose pages are all released leaves for FREE. -/
def freeSession (s : Nat) (m : Dev) : Dev := setStateOf s sFREE m

/-- A session that is IDLE, PAUSED or SUMMARY moves to CLOSING; one without pages goes on to FREE. -/
def closeNow (s : Nat) (m : Dev) : Dev :=
  let m0 := { m with piper := { m.piper with
    closing := m.piper.closing.filter (fun x => x ≠ s), waiting := m.piper.waiting.filter (fun x => x.1 ≠ s) } }
  if stateOf s m = sSUMMARY then freeSession s (setStateOf s sCLOSING m0)
  else addEntry 9 s 0 0 (dSet dEXPIRY s 0 (setStateOf s sCLOSING (releaseMirror s m0)))

/-- A turn ends, and the session that a CLOSE has reached closes (R186); of another, `next` follows. -/
def turnOver (s reason : Nat) (next : Dev → Dev) (m : Dev) : Dev :=
  let m1 := endTurn s reason m
  if m.piper.closing.contains s then closeNow s m1 else next m1

/-- The members have released the pages of the CLOSING sessions. -/
def closingFreed (m : Dev) : Dev :=
  forEach ((sessions m).filter (fun s => stateOf s m = sCLOSING)) (fun s m =>
    unpin (dGet dEPOCH s m) (freeSession s m)) m

end Sys2Proof.Machine
end

