-- ==== Sys2Proof/Machine/Admission.lean ====
section
/-! DEFINITION. Admission at the slice lead (chapters 6, 7): adapters (R257, R259), REQUEST and PROMPT_MORE (R185, R204, R205), summaries
(R235, R237), pauses and restores (R221, R233, R234). -/
namespace Sys2Proof.Machine

/-! ### Adapters (R257, R259) -/

/-- The tiles that take the manifest: those in service as active or standing in. -/
def activeTiles (m : Dev) : List Nat := (List.range 144).filter (fun t => roleOf t m = 1 || roleOf t m = 3)

/-- The table entry of an adapter. -/
def adapterBytes (a : Nat) (m : Dev) : List Byte :=
  let t := (activeTiles m).headD 0
  ldBytes (rdF (onTile aPICCOLO_TABLE t) fPICCOLO_TABLE_BASE m * 64 + 64 * a) 64 m
def adapterValid (a : Nat) (m : Dev) : Bool := a = 0xFFFF || (a < 16384 && bitAt (field (adapterBytes a m) 0 1) 0)

/-- May a session of an epoch and a customer name an adapter? -/
def adapterFor (a epoch customer : Nat) (m : Dev) : Bool :=
  let b := adapterBytes a m
  a = 0xFFFF || (adapterValid a m && field b 2 1 = epoch &&
    (!bitAt (field b 0 1) 1 || (field b 4 2 ≤ customer && customer ≤ field b 6 2)))

/-! ### Prompt tokens (R182, R205) -/

/-- Prompt tokens of a session that have arrived, its summary's among them, and how many are the summary's. -/
def arrivedOf (s : Nat) (m : Dev) : Nat := (Sparse.get (0, 0) m.piper.arrived s).1
def summaryOf (s : Nat) (m : Dev) : Nat := (Sparse.get (0, 0) m.piper.arrived s).2
def setArrived (s n k : Nat) (m : Dev) : Dev :=
  { m with piper := { m.piper with arrived := m.piper.arrived.upd (0, 0) s (n, k) } }

/-- The smallest of a list by a key, the earliest of equals. -/
def leastBy (key : Nat → Nat) : List Nat → Option Nat
  | [] => none
  | x :: xs => match leastBy key xs with
    | none => some x
    | some y => if key y < key x then some y else some x

/-! ### REQUEST (R185, R204) -/

def rqHandle (p : List Byte) : Nat := field p 0 8
def rqModel (p : List Byte) : Nat := field p 8 4
def rqCustomer (p : List Byte) : Nat := field p 12 2
def rqAdapter (p : List Byte) : Nat := field p 14 2
def rqClass (p : List Byte) : Nat := field p 16 1
def rqPrivileged (p : List Byte) : Bool := bitAt (field p 17 1) 0
def rqPageLog2 (p : List Byte) : Nat := field p 18 1
def rqMaxNew (p : List Byte) : Nat := field p 20 4
def rqTotal (p : List Byte) : Nat := field p 24 4
def rqCount (p : List Byte) : Nat := field p 48 4

/-- The session that a handle names, when its generation is the descriptor's and the session is in use. -/
def handleSession (h : Nat) (m : Dev) : Option Nat :=
  let s := h % 65536
  if dGet dHANDLE s m = h && stateOf s m ≠ sFREE && stateOf s m ≠ sCLOSING then some s else none

/-- Turns of a connection in states 1 to 4. -/
def connTurns (c : Nat) (m : Dev) : Nat := ((sessions m).filter (fun s => inTurn s m && dGet dCONN s m = c)).length

/-- Reason 2: the customer, or PRIVILEGED, is not the connection's to name. -/
def customerRefused (c : Nat) (p : List Byte) (m : Dev) : Bool :=
  rqCustomer p < kGet kCUSTOMER_LO c m || kGet kCUSTOMER_HI c m < rqCustomer p ||
    (rqPrivileged p && !bitAt (kGet kFLAGS c m) 0)

/-- Why a turn on a session of an epoch with so many tokens before its prompt is refused, 0 for not (reasons 3, 5, 8). -/
def turnRefused (c epoch before : Nat) (p : List Byte) (m : Dev) : Nat :=
  if !adapterFor (rqAdapter p) epoch (rqCustomer p) m then 3
  else if contextLimit epoch m < rqTotal p + before then 5
  else if kGet kREQUEST_CREDITS c m ≤ connTurns c m then 8
  else 0

/-- Why a REQUEST for a new session is refused beyond that (reasons 1, 2, 4, 5). -/
def newRefused (c : Nat) (p : List Byte) (m : Dev) : Nat :=
  if (lowestFree m).isNone then 1
  else if customerRefused c p m then 2
  else match epochFor (rqModel p) m with
    | none => 4
    | some e =>
      if rqPageLog2 p < 4 || 12 < rqPageLog2 p || (4 < rqPageLog2 p && !rqPrivileged p) then 5
      else turnRefused c e 0 p m

/-- Write tokens of a payload behind the turn's prompt so far. -/
def storeTokens (s first n : Nat) (bs : List Byte) (m : Dev) : Dev :=
  stBytes (dGet dPROMPT_ADDR s m + 4 * first) (slice bs 0 (4 * n)) m

/-- A turn is admitted: the descriptor's fields of the turn, its first tokens behind `k` summary tokens. -/
def admitTurn (s k : Nat) (x : IntakeMsg) (m : Dev) : Dev :=
  let p := x.payload
  let n := min (rqCount p) (rqTotal p)
  let m1 := dSet dREQUEST_ID s x.requestId.toNat (dSet dCUSTOMER s (rqCustomer p) (dSet dADAPTER s (rqAdapter p) m))
  let m2 := stN 1 (sessAddr s m + 1) (logOf s m * 16 + rqClass p % 4) m1
  let m3 := dSet dTURN_START s (dGet dCOMMITTED_LEN s m2) (dSet dPROMPT_LEN s (k + rqTotal p) (dSet dPROMPT_DONE s 0
    (dSet dMAX_NEW s (rqMaxNew p) (dSet dGENERATED s 0 (dSet dEND_REASON s 0 m2)))))
  let m4 := dSet dSEED s (field p 40 8) (dSet dTEMPERATURE s (field p 30 2) (dSet dTOP_P s (field p 32 2)
    (dSet dTOP_K s (field p 28 2) (dSet dCONN s x.conn.toNat m3))))
  let m5 := setArrived s (k + n) k (storeTokens s k n (p.drop 64) m4)
  sendAccept s (setStateOf s sQUEUED (setCancel s false false m5))

/-- The group with the most free pages of a kind; a tie goes to the lower (R219). -/
def pickGroup (P : Nat) (m : Dev) : Nat :=
  (leastBy (fun g => 2 ^ 32 - mirror g false P m) (List.range (kvHdr 1 128 m))).getD 0

/-- The OPEN entry and the ledger of a session that takes a group. -/
def openSession (s : Nat) (m : Dev) : Dev :=
  let P := logOf s m
  let g := pickGroup P m
  let priv := if bitAt (flagByte s m) 6 then 1 else 0
  addEntry 1 s (g + 256 * P + 4096 * priv) 0 (lSet lPAGES s 0 (lSet lFLAGS s 0 (lSet lGROUP s g m)))

/-- A new session: its descriptor anew, but for the generation and the prompt buffer that the firmware gave it. -/
def admitNew (s e : Nat) (x : IntakeMsg) (m : Dev) : Dev :=
  let p := x.payload
  let gen := (dGet dHANDLE s m / 65536 + 1) % 2 ^ 48
  let m1 := stZeros (sessAddr s m) 120 m
  let m2 := setFlagByte s (if rqPrivileged p then 64 else 0) (stN 1 (sessAddr s m + 1) (rqPageLog2 p * 16) m1)
  let m3 := dSet dHANDLE s (gen * 65536 + s) (dSet dEPOCH s e (dSet dPAGE_TABLE s (ledgerAddr s m2) m2))
  admitTurn s 0 x (openSession s (pin e (stZeros (summaryAddr s m3) 16 m3)))

/-- A REQUEST on a SUMMARY session (R237): its summary goes ahead of the prompt. -/
def reexpand (s e : Nat) (x : IntakeMsg) (m : Dev) : Dev :=
  let toks := summaryTokens s m
  let m1 := stBytes (dGet dPROMPT_ADDR s m) ((toks.map (toLe 4)).flatten) m
  let m2 := dSet dCOMMITTED_LEN s 0 (dSet dEPOCH s e (pin e (stZeros (summaryAddr s m1) 16 m1)))
  admitTurn s toks.length x (openSession s m2)

/-- Handle a REQUEST on a SUMMARY session: it may be refused under R198 and R204. -/
def requestOnSummary (s : Nat) (x : IntakeMsg) (m : Dev) : Dev :=
  let c := x.conn.toNat
  match epochFor (rqModel x.payload) m with
  | none => sendRefuse c x.requestId.toNat 4 m
  | some e =>
    let r := turnRefused c e (summaryTokens s m).length x.payload m
    if r ≠ 0 then sendRefuse c x.requestId.toNat r m else reexpand s e x m

/-! ### Restores (R234) -/

/-- The REQUEST that waits for a session's restore, taken from the list. -/
def takeWaiting (s : Nat) (m : Dev) : List (Nat × IntakeMsg) × Dev :=
  ((m.piper.waiting.filter (fun w => w.1 = s)).map (fun w => w.2),
    { m with piper := { m.piper with waiting := m.piper.waiting.filter (fun w => w.1 ≠ s) } })

/-- PROMPT_MORE (R205). -/
def promptMore (x : IntakeMsg) (m : Dev) : Dev :=
  let c := x.conn.toNat
  let rid := x.requestId.toNat
  let p := x.payload
  match handleSession (field p 0 8) m with
  | none => sendRefuse c rid 7 m
  | some s =>
    if m.piper.waiting.any (fun w => w.1 = s && w.2.1 = 1 && w.2.2.requestId = x.requestId) then
      { m with piper := { m.piper with waiting := m.piper.waiting ++ [(s, 2, x)] } }
    else if dGet dREQUEST_ID s m ≠ rid || !inTurn s m then sendRefuse c rid 7 m
    else if field p 8 4 ≠ arrivedOf s m - summaryOf s m then turnOver s 5 id (sendRefuse c rid 5 m)
    else
      let n := min (field p 12 4) (dGet dPROMPT_LEN s m - arrivedOf s m)
      setArrived s (arrivedOf s m + n) (summaryOf s m) (storeTokens s (arrivedOf s m) n (p.drop 16) m)

/-- The messages that waited for a session are handled once its REQUEST can be: from PAUSED the turn is admitted, from
SUMMARY it re-expands. -/
def handleWaiting (s : Nat) (m : Dev) : Dev :=
  let w := takeWaiting s m
  forEach w.1 (fun (y : Nat × IntakeMsg) m =>
    if y.1 = 1 then
      (if stateOf s m = sSUMMARY then requestOnSummary s y.2 m else admitTurn s 0 y.2 m)
    else promptMore y.2 m) w.2

/-! ### Falling to SUMMARY (R235) -/

/-- A session that is IDLE or PAUSED moves to SUMMARY; a REQUEST that waits for it re-expands there (R199, R233 to R235). -/
def sumUp (s : Nat) (m : Dev) : Dev := handleWaiting s (toSummary s m)

/-! ### Pausing (R221, R233) -/

/-- Sessions of a group in a state. -/
def groupSessions (g st : Nat) (m : Dev) : List Nat :=
  (sessions m).filter (fun s => stateOf s m = st && lGet lGROUP s m = g)

/-- Move the group's PAUSED sessions to SUMMARY in ascending EXPIRY until the pause mirror holds `need`. -/
def makePauseRoom : Nat → Nat → Nat → Nat → Dev → Dev
  | 0, _, _, _, m => m
  | fuel + 1, g, P, need, m =>
    if need ≤ mirror g true P m then m
    else match leastBy (fun s => dGet dEXPIRY s m) ((groupSessions g sPAUSED m).filter (fun s => !isRestoring s m)) with
      | none => m
      | some s => makePauseRoom fuel g P need (raise cPIPER_KV_FALLBACK (sumUp s m))

/-- Step 1 of a pause: PAUSING, a counter, the pause mirror, the PAUSE_COPY. Without pages or a counter nothing starts. -/
def pauseStart (s : Nat) (m : Dev) : Dev :=
  let g := lGet lGROUP s m
  let P := logOf s m
  let need := copiedUnits s m
  match spareCounter m with
  | none => m
  | some k =>
    let m1 := makePauseRoom (groupSessions g sPAUSED m).length g P need m
    if need ≤ mirror g true P m1 then
      addEntry 4 s 0 (counterRef k m1) (takeMirror s true need (lSet lFLAGS s 1 (takeCounter s k m1)))
    else m1

/-- A pause is given up: PAUSE_DROP, and the session stays IDLE with its pages. -/
def pauseDrop (s : Nat) (m : Dev) : Dev :=
  addEntry 6 s 0 0 (dropCounter s (lSet lFLAGS s 0 (giveMirror s true (copiedUnits s m) m)))

/-- What the group's PAUSING sessions will give back to the Field mirror of pages of 2^P tokens. -/
def pausingCover (g P : Nat) (m : Dev) : Nat :=
  (((groupSessions g sIDLE m).filter (fun s => isPausing s m && (logOf s m = 4) = (P = 4))).map (fun s => heldUnits s m)).sum

/-- Pause the group's IDLE sessions in ascending IDLE_SINCE until they cover a shortfall (R221). -/
def pauseToCover : Nat → List Nat → Nat → Nat → Nat → Dev → Dev
  | 0, _, _, _, _, m => m
  | fuel + 1, tried, g, P, short, m =>
    if short ≤ pausingCover g P m then m
    else
      let cands := (groupSessions g sIDLE m).filter (fun s => !isPausing s m && !tried.contains s && (logOf s m = 4) = (P = 4))
      match leastBy (fun s => dGet dIDLE_SINCE s m) cands with
      | none => m
      | some s => pauseToCover fuel (s :: tried) g P short (pauseStart s m)

/-- A slot or a restore lacks Field pages: `need` of them in the mirror of group g. -/
def fieldShort (g P need : Nat) (m : Dev) : Dev :=
  pauseToCover (groupSessions g sIDLE m).length [] g P (need - mirror g false P m) m

/-- Start the restore of a PAUSED session for which a REQUEST waits. It waits on while IDLE sessions are being paused for it
or no counter is to be had; with nothing left to pause it falls to SUMMARY, as it may to make room for those being paused. -/
def restoreStart (s : Nat) (m : Dev) : Dev :=
  let g := lGet lGROUP s m
  let P := logOf s m
  let need := heldUnits s m
  if mirror g false P m < need then
    let m1 := fieldShort g P need m
    if stateOf s m1 ≠ sPAUSED || (groupSessions g sIDLE m1).any (fun t => isPausing t m1) then m1 else sumUp s m1
  else match spareCounter m with
    | none => m
    | some k => addEntry 7 s 0 (counterRef k m) (takeMirror s false need (lSet lFLAGS s 2 (takeCounter s k m)))

/-- Restores that still wait to start are tried again. -/
def retryRestores (m : Dev) : Dev :=
  forEach ((m.piper.waiting.map (fun w => w.1)).eraseDups) (fun s m =>
    if stateOf s m = sPAUSED && !isRestoring s m then restoreStart s m else m) m

/-- A REQUEST that names a session. One that reaches a PAUSING session ends the pause before it is handled (R233). -/
def requestNamed (s : Nat) (x : IntakeMsg) (m : Dev) : Dev :=
  let c := x.conn.toNat
  let rid := x.requestId.toNat
  let p := x.payload
  let m0 := if stateOf s m = sIDLE && isPausing s m then pauseDrop s m else m
  if inTurn s m0 || m0.piper.waiting.any (fun w => w.1 = s) then sendRefuse c rid 6 m0
  else if customerRefused c p m0 then sendRefuse c rid 2 m0
  else
    if stateOf s m0 = sSUMMARY then requestOnSummary s x m0
    else
      let r := turnRefused c (dGet dEPOCH s m0) (dGet dCOMMITTED_LEN s m0) p m0
      if r ≠ 0 then sendRefuse c rid r m0
      else if stateOf s m0 = sIDLE then admitTurn s 0 x m0
      else restoreStart s { m0 with piper := { m0.piper with waiting := m0.piper.waiting ++ [(s, 1, x)] } }

/-- REQUEST: a new session for handle 0, else the session that it names. -/
def request (x : IntakeMsg) (m : Dev) : Dev :=
  let c := x.conn.toNat
  let rid := x.requestId.toNat
  let p := x.payload
  if rqHandle p = 0 then
    let r := newRefused c p m
    if r = 1 then sendRefuse c rid 1 (raise cPIPER_SESSION_TABLE_FULL m)
    else if r ≠ 0 then sendRefuse c rid r m
    else match lowestFree m, epochFor (rqModel p) m with
      | some s, some e => admitNew s e x m
      | _, _ => m
  else match handleSession (rqHandle p) m with
    | none => sendRefuse c rid 7 m
    | some s => requestNamed s x m

end Sys2Proof.Machine
end

