-- ==== Sys2Proof/Machine/Piper.lean ====
section
/-! DEFINITION. Piper's steps (chapters 6, 7): the member's side of a manifest (R180, R181, R220, R232, R262) and of a commit
record (R225), and the lead's boundary: session commit acts (R187), hand-offs (R195 to R197), forming a step (R178, R182,
R200, R220 to R222), ratio control (R193, R194) and rebuilt sessions (R517). -/
namespace Sys2Proof.Machine

/-! ### Roles (R177) -/

def piperRole (m : Dev) : Nat := rdF aPIPER_CTRL fPIPER_CTRL_ROLE m
def piperOn (m : Dev) : Bool := isSet aPIPER_CTRL fPIPER_CTRL_ENABLE m && !stopNow m
def isLead (m : Dev) : Bool := piperOn m && piperRole m = 1
def isPoolLead (m : Dev) : Bool := piperOn m && piperRole m = 3
def isMember (m : Dev) : Bool := piperOn m && (piperRole m = 2 || piperRole m = 4)
def setStepState (n : Nat) (m : Dev) : Dev := wrF aPIPER_STEP fPIPER_STEP_STATE n m

/-- Is Piper held by a Field Plan commit: asked to stand at its boundary, or parked there (R164)? -/
def piperHeld (m : Dev) : Bool := m.plan.frozen && (m.plan.waiting.contains .piper || m.plan.parked.contains .piper)

/-! ### A member takes a manifest (R178 step 6) -/

/-- The ring that a run names: of the engine of a tile, or of a die's fixed engine (R181). -/
def runRing (run : List Byte) (m : Dev) : Option Nat :=
  let target := field run 0 1
  let r := field run 1 1
  match targetTile target with
  | some t => if r < 8 then (oldEngine t m).map (fun e => 8 * e + r) else none
  | none => if 0xA0 ≤ target && target < 0xA8 && r / 16 < 4 && r % 16 < 4 then
      some (128 + 16 * (target - 0xA0) + 4 * (r / 16) + r % 16)
    else none

/-- Free entries of a ring (R108). -/
def ringRoom (q : Nat) (m : Dev) : Nat := 2 ^ ringSize q m - (ringHead q m + 2 ^ 32 - ringRerun q m) % 2 ^ 32

/-- What a run's copy comes to: the module, the run's rest where room was lacking, and how its accesses went. -/
structure Copied where
  m : Dev
  left : Option (List Byte)
  st : AStat
  deriving DecidableEq, Repr

/-- Copy what there is room for of one run. A run that names no ring is passed over. -/
def copyRun (run : List Byte) (m : Dev) : Copied :=
  match runRing run m with
  | none => ⟨m, none, .ok⟩
  | some q =>
    let count := field run 4 4
    let addr := field run 8 8
    let k := min count (ringRoom q m)
    let r := readVia .headland (loc addr) (64 * k) m
    let w := Run.each (List.range k) (fun i r' => r'.write .headland (loc (entryAt64 q (ringHead q m + i) m))
      ((r.data.drop (64 * i)).take 64)) ⟨r.m, r.st⟩
    if w.st ≠ .ok then ⟨w.m, none, w.st⟩
    else
      let m1 := setHead q ((ringHead q m + k) % 2 ^ 32) w.m
      let m2 := { m1 with piper := { m1.piper with
        rings := if m1.piper.rings.contains q then m1.piper.rings else m1.piper.rings ++ [q] } }
      ⟨m2, if k < count then some (run.take 4 ++ toLe 4 (count - k) ++ toLe 8 (addr + 64 * k)) else none, .ok⟩

/-- Copy runs in order until one lacks room, which the member counts and waits for. A held access leaves the run to be copied again; a
refused one ends the copy: the step that needed it fails (R93). -/
def copyRuns : List (List Byte) → Dev → Dev
  | [], m => { m with piper := { m.piper with runs := [] } }
  | run :: rest, m =>
    let x := copyRun run m
    if x.st = .held then { heldBy 0 x.m m with piper := { m.piper with runs := run :: rest } }
    else if x.st ≠ .ok then { x.m with piper := { x.m.piper with runs := [] } }
    else match x.left with
      | none => copyRuns rest x.m
      | some left => countSat aPIPER_STEP fPIPER_STEP_RING_WAITS 1
          { x.m with piper := { x.m.piper with runs := left :: rest } }

/-- Read the step program at an address: its runs. None when there is none, it cannot be read, RUNS is outside 1 to 64, or its ROWS is
not the committed shape's (R181, R320). -/
def readProgram (addr : Nat) (m : Dev) : ReadRes :=
  let r := readVia .headland (loc addr) 16 m
  let runs := field r.data 0 4
  if addr = 0 then ⟨m, .ok, []⟩
  else if r.st ≠ .ok || runs = 0 || 64 < runs || field r.data 4 4 ≠ shapeSlots m * (1 + shapeDraft m) then ⟨r.m, r.st, []⟩
  else readVia .headland (loc (addr + 16)) (16 * runs) r.m

/-- Run a step program: its runs go into their rings, whose job is the step's (R363). -/
def startProgram (runs : List Byte) (m : Dev) : Dev :=
  let m1 := copyRuns ((List.range (runs.length / 16)).map (fun i => (runs.drop (16 * i)).take 16)) m
  { m1 with piper := { m1.piper with job := (m1.piper.rings.head?.map (fun q => ringJob q m1)).getD m1.piper.job } }

/-- The home run list of a step: one run per adapter and 256-row group (R262). -/
def homeRuns (slots : List Slot) : List Byte :=
  runListBytes (runsOf ((slots.filter (fun s => s.kind ≠ 0 && s.adapter ≠ 0xFFFF)).flatMap (fun s =>
    (List.range s.rows).map (fun i => RunRow.mk 0 s.adapter (s.rowBase + i)))))

/-- Write the manifest, the exit table and the home run list into every active tile (R180, R232, R262). -/
def writeManifest (bytes : List Byte) (slots : List Slot) (m : Dev) : Run :=
  Run.each (activeTiles m) (fun t r =>
    ((r.write .piper (tl t (stepOffset m)) bytes).write .piper (tl t (exitOffset m)) (List.replicate 1024 0xFF)).write
      .piper (tl t (exitOffset m + 1024)) (homeRuns slots)) (Run.start m)

/-- Kill the rings of the step so that they rerun: an open group under R128, and a ring that an aborted collective halted. -/
def killStep (m : Dev) : Dev :=
  forEach m.piper.rings (fun q m =>
    let m1 := if ringOpen q m then killRing q m else m
    if ringHalted q m1 && fRING_HEAD_REASON.get (ringRd q 2 m1) = 9 then ringResume q m1 else m1) m

/-- A manifest is in force: pages are allocated for its slots (R220), its program runs. -/
def obeyManifest (seq : Nat) (slots : List Slot) (m : Dev) (runs : List Byte) : Dev :=
  let m1 := { m with piper := { m.piper with taken := seq, rings := [], runs := [] } }
  let m2 := forEach (slots.filter (fun s => s.kind ≠ 0 && recInUse s.session m1)) (fun s m =>
    allocPages s.session (pagesFor (s.position + s.rows) (recLog2 s.session m)) m) m1
  setStepState 2 (startProgram runs m2)

/-- A manifest at a member. One that comes again with the STEP_SEQ in force has the member kill and rerun its step rings
(R188). The read caches drop their lines before the slot table is written, while INVAL_AT_STEP is 1 (R410). A refused write ends the
step's work here: the manifest is not in force, and the step fails (R93, R188); while an access is held, the manifest waits to be
taken. -/
def takeManifest (bytes : List Byte) (m : Dev) : Dev :=
  let seq := field bytes 0 8
  if seq = m.piper.taken && seq ≠ 0 then killStep m
  else
    let b := slice bytes 0 (64 + 32 * shapeSlots m)
    let slots := slotsFrom (shapeSlots m) (b.drop 64)
    let w := writeManifest b slots (when (isSet aFABRIC_CACHE_CTRL fFABRIC_CACHE_CTRL_INVAL_AT_STEP m) cacheInvalidate m)
    let r := readProgram (field b 16 8) w.m
    if w.st = .held || r.st = .held then heldBy 0 r.m m
    else if w.st ≠ .ok then w.m
    else obeyManifest seq slots r.m (if r.st = .ok then r.data else [])

/-- A commit record at a member: its entries, then the Gleaner's updates of its step (R225, R283). -/
def takeRecord (bytes : List Byte) (m : Dev) : Dev :=
  let seq := field bytes 0 8
  let m1 := applyCommitRecord bytes m
  let m2 := if seq = m1.gleaner.applied then m1 else gleanStep seq m1
  wrF aPIPER_STEP fPIPER_STEP_STEP_SEQ seq m2

/-! ### Session commit acts (R187) -/

/-- Deliver tokens of a turn: written behind its prompt (R236), counted, sent. -/
def deliver (s : Nat) (out : List Nat) (m : Dev) : Dev :=
  if out.isEmpty then m
  else
    let g := dGet dGENERATED s m
    let m1 := forEach (List.range out.length) (fun i m =>
      stN 4 (dGet dPROMPT_ADDR s m + 4 * (dGet dPROMPT_LEN s m + g + i)) (out.getD i 0) m) m
    sendTokens s out (dSet dGENERATED s (g + out.length) (dSet dLAST_TOKEN s (out.getLastD 0) m1))

/-- The part of every act: COMMIT_SEQ and LAST_STEP. -/
def actCounts (seq s : Nat) (m : Dev) : Dev :=
  dSet dLAST_STEP s seq (dSet dCOMMIT_SEQ s ((dGet dCOMMIT_SEQ s m + 1) % 2 ^ 32) m)

/-- Does the pending cancel take effect in the act just counted? -/
def cancelNow (s : Nat) (m : Dev) : Bool :=
  cancelOf s m && (dGet dCANCEL_SEQ s m + 1) % 2 ^ 32 = dGet dCOMMIT_SEQ s m

/-- An act of a step: the module, and the sessions whose COMMITTED_LEN it has set, in order. -/
structure Acts where
  m : Dev
  set : List Nat
  deriving DecidableEq, Repr

/-- The cancel takes effect: rolled back or not, the turn ends as cancelled, and a session to be closed closes. -/
def cancelAct (s : Nat) (a : Acts) : Acts :=
  let roll := rollbackOf s a.m
  let m1 := if roll then dSet dCOMMITTED_LEN s (dGet dTURN_START s a.m) a.m else a.m
  ⟨turnOver s 3 id m1, if roll then a.set ++ [s] else a.set⟩

/-- commit_slot of R187 for a non-empty slot. A turn that has ended or closed since the step was formed has its tokens
discarded. -/
def commitSlot (seq : Nat) (sl : Slot) (r : SlotResult) (a : Acts) : Acts :=
  let s := sl.session
  let m := actCounts seq s a.m
  if cancelNow s m then cancelAct s ⟨m, a.set⟩
  else if !inTurn s m || stateOf s m = sSHIPPING then ⟨m, a.set⟩
  else
    let len := dGet dCOMMITTED_LEN s m
    let toks := r.tokens.map (fun t => t.toNat)
    let m1 := if sl.kind = 1 then dSet dCOMMITTED_LEN s (len + r.accepted + 1) m
      else setStateOf s (if sl.kind = 3 then sDECODE else sPREFILL)
        (dSet dPROMPT_DONE s (dGet dPROMPT_DONE s m + sl.rows) (dSet dCOMMITTED_LEN s (len + sl.rows) m))
    let out1 := if sl.kind = 1 then toks.take (r.accepted + 1) else if sl.kind = 3 then toks.take 1 else []
    let out2 := match r.stop with
      | some k => out1.take (k + 1)
      | none => out1
    let out := out2.take (dGet dMAX_NEW s m1 - dGet dGENERATED s m1)
    let m2 := deliver s out m1
    let stopped : Bool := match r.stop with
      | some k => decide (k < out.length)
      | none => false
    let m3 := if stopped then endTurn s 1 m2
      else if dGet dGENERATED s m2 = dGet dMAX_NEW s m2 then endTurn s 2 m2 else m2
    ⟨m3, a.set ++ [s]⟩

/-- The act of a session that holds an empty slot for a cancel (R189). -/
def commitCancel (seq s : Nat) (a : Acts) : Acts :=
  let m := actCounts seq s a.m
  if cancelNow s m then cancelAct s ⟨m, a.set⟩ else ⟨m, a.set⟩

/-- The hand-off of a turn that every attention module has reported and whose record has arrived (R196). -/
def commitHandoff (seq : Nat) (sh : Shipment) (a : Acts) : Acts :=
  let s := sh.session
  match sh.token with
  | none => a
  | some tok =>
    if !groupReported s a.m || stateOf s a.m ≠ sSHIPPING then a
    else
      let m := actCounts seq s a.m
      if cancelNow s m then cancelAct s ⟨m, a.set⟩
      else
        let m1 := dropCounter s { m with piper := { m.piper with ships := m.piper.ships.filter (fun x => x.session ≠ s) } }
        let m2 := dSet dPROMPT_DONE s (dGet dPROMPT_LEN s m1)
          (dSet dCOMMITTED_LEN s (dGet dTURN_START s m1 + dGet dPROMPT_LEN s m1) (setStateOf s sDECODE m1))
        let m3 := deliver s ([tok].take (dGet dMAX_NEW s m2 - dGet dGENERATED s m2)) m2
        ⟨if dGet dGENERATED s m3 = dGet dMAX_NEW s m3 then endTurn s 2 m3 else m3, a.set ++ [s]⟩

/-- The commit record: an ADVANCE for every session whose length the acts set, then the entries that wait. It goes to every
member, this module among them, and the pages of CLOSING sessions are then free. -/
def leadRecord (seq : Nat) (set : List Nat) (m : Dev) : Dev :=
  let adv := set.map (fun s => toLe 1 2 ++ toLe 1 0 ++ toLe 2 s ++ toLe 4 (dGet dCOMMITTED_LEN s m) ++ toLe 8 0)
  let es := adv ++ m.piper.entries
  let bytes := toLe 8 seq ++ toLe 4 es.length ++ toLe 4 0 ++ es.flatten
  closingFreed (takeRecord bytes (emit (.piper 1 m.piper.job bytes) { m with piper := { m.piper with entries := [] } }))

/-- The commit record goes out ahead of what the acts since `o` have sent: the TOKENS and END messages of R178's step 4, and the hand-off
requests, which follow the allocation that the record carries (R195). -/
def recordFirstOut (o : Dev) (seq : Nat) (set : List Nat) (m : Dev) : Dev :=
  let n := o.out.length
  let m1 := leadRecord seq set { m with out := m.out.take n }
  { m1 with out := m1.out ++ m.out.drop n }

/-! ### Forming a step (R178 step 5, R182) -/

/-- Largest prompt chunk. -/
def chunkMax (m : Dev) : Nat := max 16 (min 1024 (rdF aPIPER_SHAPE fPIPER_SHAPE_CHUNK_MAX m))

/-- Does a turn go to the pool (R195)? -/
def forPool (s : Nat) (m : Dev) : Bool :=
  isSet aPIPER_CTRL fPIPER_CTRL_PREFILL_POOL m && stateOf s m = sQUEUED &&
    rdF aPIPER_SHAPE fPIPER_SHAPE_POOL_MIN m ≤ dGet dPROMPT_LEN s m - dGet dPROMPT_DONE s m

/-- The line of R182 that a session stands in; 4 for none. -/
def lineOf (s : Nat) (m : Dev) : Nat :=
  let slow := if sessClass s m = 1 then 0 else 1
  if stateOf s m = sDECODE then slow
  else if (stateOf s m = sQUEUED || stateOf s m = sPREFILL) && !forPool s m &&
    dGet dPROMPT_DONE s m < arrivedOf s m then 2 + slow
  else 4

/-- May a session hold a slot, whatever the epoch: a line, a bucket that is not negative, an outgoing queue that is not full, no
cancel pending? -/
def mayServe (s : Nat) (m : Dev) : Bool :=
  lineOf s m < 4 && !cancelOf s m && 0 ≤ bucketLevel (dGet dCUSTOMER s m) m && !(connOf (dGet dCONN s m) m).full

/-- The sessions of an epoch that may hold a slot, in the order of R182. -/
def fillOrder (e : Nat) (ss : List Nat) (m : Dev) : List Nat :=
  (ss.filter (fun s => dGet dEPOCH s m = e)).mergeSort (fun a b =>
    decide (lineOf a m * 2 ^ 64 + dGet dLAST_STEP a m ≤ lineOf b m * 2 ^ 64 + dGet dLAST_STEP b m))

/-- A step being filled: the module, slots so far, rows used, and the groups that lacked pages. -/
structure Filling where
  m : Dev
  slots : List Slot
  rows : Nat
  lacking : List Nat
  deriving DecidableEq, Repr

/-- Form the slot of a session with so many rows. -/
def formSlot (s rows pages : Nat) (f : Filling) : Filling :=
  let m := f.m
  let pos := dGet dCOMMITTED_LEN s m
  let kind := if stateOf s m = sDECODE then 1 else if dGet dPROMPT_DONE s m + rows = dGet dPROMPT_LEN s m then 3 else 2
  let slot : Slot := ⟨s, kind, logOf s m, f.rows, rows, pos, dGet dADAPTER s m, dGet dCUSTOMER s m,
    (dGet dSEED s m + pos) % 2 ^ 64⟩
  let held := lGet lPAGES s m
  let m1 := lSet lPAGES s (max held pages) (takeMirror s false (kvNeed (logOf s m) held pages) m)
  ⟨charge (dGet dCUSTOMER s m) rows m1, f.slots ++ [slot], f.rows + rows, f.lacking⟩

/-- Try one session: its adapter is checked again (R259), then rows and pages (R217, R220, R221). -/
def trySlot (limit total : Nat) (s : Nat) (f : Filling) : Filling :=
  let m := f.m
  if limit ≤ f.slots.length then f
  else if !adapterValid (dGet dADAPTER s m) m then
    { f with m := raise cPIPER_ADAPTER_INVALID (turnOver s 5 id m) }
  else
    let rows := if stateOf s m = sDECODE then 1 + shapeDraft m
      else min (min (chunkMax m) (total - f.rows)) (arrivedOf s m - dGet dPROMPT_DONE s m)
    if rows = 0 || total < f.rows + rows then f
    else
      let pages := pagesFor (dGet dCOMMITTED_LEN s m + rows) (logOf s m)
      let g := lGet lGROUP s m
      let need := kvNeed (logOf s m) (lGet lPAGES s m) pages
      if pageLimit < pages then f
      else if need ≤ mirror g false (logOf s m) m then formSlot s rows pages f
      else { f with m := fieldShort g (logOf s m) need m, lacking := f.lacking ++ [g] }

/-- Sessions whose cancel waits for the next step's act. -/
def pendingCancels (m : Dev) : List Nat :=
  (sessions m).filter (fun s => cancelOf s m && inTurn s m && stateOf s m ≠ sSHIPPING)

/-- The rung whose programs the next step uses: the one a committing move reaches, else RUNG (R194). -/
def programRung (m : Dev) : Nat :=
  match m.piper.move with
  | some mv => if mv.loaded then (if mv.up then mv.rung + 1 else mv.rung - 1) else rdF aPIPER_RATIO fPIPER_RATIO_RUNG m
  | none => rdF aPIPER_RATIO fPIPER_RATIO_RUNG m

/-- The address of an epoch's step program for the committed shape and the rung; 0 when none matches (R320). -/
def programFor (e : Nat) (m : Dev) : Nat :=
  let a := epochRec e m
  let n := min 32 (ldN 1 (a + 10) m)
  match (List.range n).find? (fun i => ldN 2 (a + 32 + 16 * i) m = shapeSlots m && ldN 1 (a + 34 + 16 * i) m = shapeDraft m &&
      ldN 1 (a + 35 + 16 * i) m = programRung m) with
  | some i => ldN 8 (a + 40 + 16 * i) m
  | none => 0

/-- The bytes of a step's manifest (R180). -/
def manifestBytes (st : StepSt) (m : Dev) : List Byte :=
  toLe 8 st.seq ++ toLe 2 st.slots.length ++ toLe 1 st.epoch ++ List.replicate 5 0 ++ toLe 8 st.program ++
    List.replicate 40 0 ++ slice ((st.slots.map slotBytes).flatten ++
      (st.cancels.map (fun s => slotBytes ⟨s, 0, 0, 0, 0, 0, 0, 0, 0⟩)).flatten) 0 (32 * shapeSlots m)

/-- The step goes out: the done counter is written to 0, the manifest to every member, this module among them. -/
def launch (st : StepSt) (m : Dev) : Dev :=
  let r := rdF aPIPER_STEP_AREA fPIPER_STEP_AREA_DONE m
  let m1 := wrF (aDIE_ARRIVAL (refDie r) (refCounter r)) fDIE_ARRIVAL_COUNT 0
    (wrF aPIPER_STEP fPIPER_STEP_RERUNS 0 { m with piper := { m.piper with
      step := some st, formed := st.seq, lastEpoch := st.epoch } })
  let m2 := takeManifest (manifestBytes st m1) m1
  emit (.piper 2 m2.piper.job (manifestBytes st m1)) m2

/-- The sequence of the next step. -/
def nextStepSeq (m : Dev) : Nat := (m.piper.formed + 1) % 2 ^ 40

/-- A slice lead forms its next step: refills, the epoch's turn (R200), slots, cancels. Nothing goes out when there is
neither a slot nor a cancel. -/
def formStep (m : Dev) : Dev :=
  let turns := (sessions m).filter (fun s => inTurn s m)
  let m1 := forEach ((turns.map (fun s => dGet dCUSTOMER s m)).eraseDups) refill m
  let ready := turns.filter (fun s => mayServe s m1)
  let cancels := (pendingCancels m1).take (shapeSlots m1)
  let e := ((List.range 8).map (fun i => (m1.piper.lastEpoch + 1 + i) % 8)).find? (fun e =>
    ready.any (fun s => dGet dEPOCH s m1 = e))
  let f := (fillOrder (e.getD 8) ready m1).foldl (fun f s =>
    trySlot (shapeSlots m1 - cancels.length) (shapeSlots m1 * (1 + shapeDraft m1)) s f) ⟨m1, [], 0, []⟩
  if f.slots.isEmpty && cancels.isEmpty then setStepState 1 f.m
  else
    let m2 := { f.m with piper := { f.m.piper with
      short := (List.range 4).foldl (fun x g => x.upd 0 g (if f.lacking.contains g then Sparse.get 0 x g + 1 else 0))
        f.m.piper.short } }
    let ep := e.getD (dGet dEPOCH (cancels.headD 0) m2)
    launch ⟨nextStepSeq m2, ep, f.slots, cancels, programFor ep m2⟩ m2

/-- The page size of a session handed off, from its record on the first of its destinations once that has been read (R216, R223);
until then a free value. -/
def poolPageLog2 (h : Handoff) (row : Nat) (m : Dev) : Nat :=
  match tablePart h.session.toNat 0 0 m with
  | [] => ((freeAt m row).setWidth 4).toNat
  | r => field r 1 1 % 16

/-- A pool lead's slots: the prompts taken, in order of arrival (R195). A hand-off request carries no customer: 0. -/
def poolSlots (m : Dev) : List (Handoff × Nat) → Nat → Nat → List Slot
  | [], _, _ => []
  | (h, done) :: rest, left, row =>
    let rows := min (min (chunkMax m) left) (h.promptLen.toNat - done)
    if rows = 0 then poolSlots m rest left row
    else ⟨h.session.toNat, if done + rows = h.promptLen.toNat then 3 else 2, poolPageLog2 h row m, row, rows,
        h.turnStart.toNat + done, h.adapter.toNat, 0, (h.sampleSeed.toNat + done) % 2 ^ 64⟩ ::
      poolSlots m rest (left - rows) (row + rows)

/-- A pool lead forms its next step: the prompts of one epoch in turn. -/
def formPool (m : Dev) : Dev :=
  match ((List.range 8).map (fun i => (m.piper.lastEpoch + 1 + i) % 8)).find? (fun e =>
      m.piper.pool.any (fun x => x.1.epoch.toNat = e && x.2 < x.1.promptLen.toNat)) with
  | none => setStepState 1 m
  | some e =>
    let slots := (poolSlots m (m.piper.pool.filter (fun x => x.1.epoch.toNat = e)) (shapeSlots m * (1 + shapeDraft m)) 0).take
      (shapeSlots m)
    launch ⟨nextStepSeq m, e, slots, [], programFor e m⟩ (useFree 1024 m)

/-- A prompt chunk of a pool step has committed: after its last chunk the hand-off record goes to the decode lead. -/
def commitPool (sl : Slot) (r : SlotResult) (m : Dev) : Dev :=
  let m1 := { m with piper := { m.piper with pool := m.piper.pool.map (fun x =>
    if x.1.session.toNat = sl.session then (x.1, x.2 + sl.rows) else x) } }
  if sl.kind = 3 then
    emit (.piper 4 m.piper.job (toLe 2 sl.session ++ toLe 4 (r.tokens.headD 0).toNat))
      { m1 with piper := { m1.piper with pool := m1.piper.pool.filter (fun x => x.1.session.toNat ≠ sl.session) } }
  else m1

/-! ### Shipping to the pool (R195, R223) -/

/-- The destination page list (R223): the global address of the session's record on each module of the group, in order of KV_HEAD. The
lead's own is known when it is of the group; those on other modules are not the lead's to know: free values. -/
def pageList (s : Nat) (m : Dev) : List Byte :=
  ((List.range (kvHdr 2 222 m)).map (fun i =>
    if kvGroup m = lGet lGROUP s m && kvHdr 1 83 m = i then toLe 8 (globalOf (selfCoord m) (recAddr s m))
    else toLe 8 (freeAt m i).toNat)).flatten

/-- The bytes of a hand-off request. -/
def handoffBytes (s : Nat) (m : Dev) : List Byte :=
  toLe 2 s ++ toLe 1 (dGet dEPOCH s m) ++ toLe 2 (dGet dADAPTER s m) ++ toLe 4 (dGet dTURN_START s m) ++
    toLe 4 (dGet dPROMPT_LEN s m) ++ toLe 8 (dGet dPROMPT_ADDR s m) ++
    toLe 8 ((dGet dSEED s m + dGet dCOMMITTED_LEN s m) % 2 ^ 64) ++ pageList s m

/-- A turn whose whole prompt has arrived goes to the pool once its pages and a counter are to be had. -/
def shipTurn (s : Nat) (m : Dev) : Dev :=
  let P := logOf s m
  let len := dGet dTURN_START s m + dGet dPROMPT_LEN s m
  let held := lGet lPAGES s m
  let need := kvNeed P held (pagesFor len P)
  let g := lGet lGROUP s m
  if arrivedOf s m < dGet dPROMPT_LEN s m || cancelOf s m || pageLimit < pagesFor len P then m
  else if mirror g false P m < need then fieldShort g P need m
  else match spareCounter m with
    | none => m
    | some k =>
      let m1 := lSet lPAGES s (max held (pagesFor len P)) (takeMirror s false need (takeCounter s k m))
      let m2 := useFree (kvHdr 2 222 m1)
        (emit (.piper 3 m1.piper.job (handoffBytes s m1)) (addEntry 3 s len 0 (setStateOf s sSHIPPING m1)))
      { m2 with piper := { m2.piper with ships := m2.piper.ships ++ [⟨s, none⟩] } }

def shipTurns (m : Dev) : Dev := forEach ((sessions m).filter (fun s => forPool s m)) shipTurn m

/-! ### Ratio control (R193, R194) -/

/-- Load the container of a ladder entry, on this module; every other module of the slice is told to, as it is to commit and to abort.
No command brings the lead what came of it there: the results of its own loader stand for all (DESIGN CHOICE, log entry 113). -/
def startMove (up : Bool) (rung : Nat) (m : Dev) : Dev :=
  if planState m = 1 || planState m = 3 then m
  else
    let w := rd (aPIPER_LADDER rung (if up then 0 else 1)) m
    let m1 := emit (.piper 5 m.piper.job [BitVec.ofNat 8 (if up then 1 else 0), BitVec.ofNat 8 rung]) (wr aFPLAN_SOURCE w m)
    fplanLoad { m1 with piper := { m1.piper with move := some ⟨up, rung, false⟩ } }

/-- Prompt tokens that have arrived and are not committed, in whole units of 1,024. -/
def promptQueue (m : Dev) : Nat :=
  (((sessions m).filter (fun s => 1 ≤ stateOf s m && stateOf s m ≤ 3)).map (fun s =>
    arrivedOf s m - dGet dPROMPT_DONE s m)).sum / 1024

def ratioCheck (m : Dev) : Dev :=
  if m.piper.sinceRatio < max 1 (rdF aPIPER_RATIO fPIPER_RATIO_INTERVAL m) then m
  else
    let m1 := { m with piper := { m.piper with sinceRatio := 0 } }
    let rung := rdF aPIPER_RATIO fPIPER_RATIO_RUNG m1
    if !isSet aPIPER_RATIO fPIPER_RATIO_ENABLE m1 || m1.piper.move.isSome then m1
    else if rdF aPIPER_RATIO fPIPER_RATIO_HIGH m1 < promptQueue m1 && rung < rdF aPIPER_RATIO fPIPER_RATIO_TOP m1 then
      startMove true rung m1
    else if promptQueue m1 < rdF aPIPER_RATIO fPIPER_RATIO_LOW m1 && 0 < rung then startMove false rung m1
    else m1

def endMove (m : Dev) : Dev := { m with piper := { m.piper with move := none } }

/-- The move is aborted, here and on every other module. -/
def abortMove (m : Dev) : Dev := endMove (fplanAbort (emit (.piper 8 m.piper.job []) m))

/-- What the Field Plan's results do to a move: a refused load ends it, off the ladder when its cause is the base; a commit
moves the rung or ends it. `cause` is the cause of the load just refused, 0 for none. -/
def ratioReact (cause : Nat) (m : Dev) : Dev :=
  match m.piper.move with
  | none => m
  | some mv =>
    let result := rdF aFPLAN_STATUS fFPLAN_STATUS_RESULT m
    if !mv.loaded then
      if cause = 0 then m
      else
        let m1 := abortMove m
        if cause = 4 then raise cPIPER_RATIO_OFF_LADDER (wrF aPIPER_RATIO fPIPER_RATIO_ENABLE 0 m1) else m1
    else if m.plan.frozen then m
    else if result = 3 then endMove (wrF aPIPER_RATIO fPIPER_RATIO_RUNG (if mv.up then mv.rung + 1 else mv.rung - 1) m)
    else raise cPIPER_RATIO_COMMIT_FAIL (abortMove m)

/-- At a boundary a move whose load is done commits. -/
def ratioBoundary (m : Dev) : Dev :=
  match m.piper.move with
  | some mv =>
    if !mv.loaded && m.plan.loading.isNone && rdF aFPLAN_STATUS fFPLAN_STATUS_RESULT m = 1 then
      ratioReact 0 (fplanCommit (emit (.piper 7 m.piper.job []) { m with piper := { m.piper with
        move := some { mv with loaded := true } } }))
    else m
  | none => m

/-! ### The step boundary -/

/-- Sessions marked for rebuild while ENABLE was 0 move to SUMMARY (R517). -/
def rebuild (m : Dev) : Dev :=
  forEach ((sessions m).filter (fun s => dGet dSTATE_ADDR s m = 1 && stateOf s m ≠ sCLOSING)) (fun s m =>
    if stateOf s m = sSUMMARY then dSet dSTATE_ADDR s (summaryAddr s m) m
    else if inTurn s m then turnOver s 5 (sumUp s) m
    else sumUp s m) { m with plan := { m.plan with restart := false } }

/-- The retire limit of an epoch: every session pinned to it moves to SUMMARY (R199). -/
def retireEpoch (e : Nat) (m : Dev) : Dev :=
  let ss := (sessions m).filter (fun s => dGet dEPOCH s m = e && 1 ≤ stateOf s m && stateOf s m ≤ 6)
  if ss.isEmpty then m
  else raise cPIPER_EPOCH_FORCED_SUMMARY (countSat (aPIPER_EPOCH0 e) fPIPER_EPOCH0_FORCED ss.length
    (forEach ss (fun s m => if inTurn s m then turnOver s 4 (sumUp s) m else sumUp s m) m))

/-- A group stays short of pages with no IDLE session left: one session's turn ends (R222). -/
def kvShortAct (g : Nat) (m : Dev) : Dev :=
  let ss := (sessions m).filter (fun s => inTurn s m && lGet lGROUP s m = g)
  let slow := ss.filter (fun s => sessClass s m ≠ 1)
  match leastBy (fun s => 2 ^ 32 - lGet lPAGES s m) (if slow.isEmpty then ss else slow) with
  | none => m
  | some s => raise cPIPER_KV_SHORT (turnOver s 5 (sumUp s) m)

/-- The EXPIRY of a PAUSED session has passed, RESTORING or not: it moves to SUMMARY (R235). -/
def expireAct (s : Nat) (m : Dev) : Dev := if stateOf s m = sPAUSED && dGet dEXPIRY s m ≠ 0 then sumUp s m else m

/-- One act put off to the boundary: 1 an epoch's retire limit, 2 a group short of pages, 3 an EXPIRY. -/
def dueAct (d : Nat × Nat) (m : Dev) : Dev :=
  match d.1 with
  | 1 => retireEpoch d.2 m
  | 2 => kvShortAct d.2 m
  | _ => expireAct d.2 m

/-- Acts put off to the boundary. -/
def dueActs (m : Dev) : Dev := forEach m.piper.due dueAct { m with piper := { m.piper with due := [] } }

/-- PAUSE_AFTER, TTL and SHORT_STEPS of the directory, and as they apply: as they stood at the last step boundary (R213). -/
def headerLimits (m : Dev) : List Nat := [kvHdr 4 196 m, kvHdr 4 200 m, kvHdr 2 212 m]
def limitOf (i : Nat) (m : Dev) : Nat := (m.piper.limits[i]?).getD ((headerLimits m).getD i 0)
def latchLimits (m : Dev) : Dev := { m with piper := { m.piper with limits := headerLimits m } }

/-- The boundary's acts before the commit record, with the sessions whose length they set. Restores that could not start are tried
again. -/
def boundaryActs (seq : Nat) (a : Acts) : Acts :=
  let m1 := latchLimits a.m
  let m2 := if m1.plan.restart then rebuild m1 else m1
  let b := m2.piper.ships.foldl (fun b sh => commitHandoff seq sh b) ⟨m2, a.set⟩
  ⟨shipTurns (retryRestores (dueActs b.m)), b.set⟩

/-- The last committed step. -/
def lastStep (m : Dev) : Nat := rdF aPIPER_STEP fPIPER_STEP_STEP_SEQ m

/-- After the commit record: a move's commit, and the next step unless Piper is held. -/
def afterRecord (m : Dev) : Dev :=
  let m1 := ratioBoundary m
  if piperHeld m1 then setStepState 1 m1 else formStep m1

/-- A boundary with no step in flight: acts, a commit record when there is anything to say, the next step. -/
def boundary (m : Dev) : Dev :=
  if m.piper.step.isSome || piperHeld m then m
  else if isLead m then
    let a := boundaryActs (lastStep m) ⟨m, []⟩
    afterRecord (if a.set.isEmpty && a.m.piper.entries.isEmpty then a.m else recordFirstOut m (lastStep m) a.set a.m)
  else if isPoolLead m then formPool { m with plan := { m.plan with restart := false } }
  else m

/-- Has the done counter reached MEMBERS? -/
def stepDone (m : Dev) : Bool :=
  let r := rdF aPIPER_STEP_AREA fPIPER_STEP_AREA_DONE m
  rdF aPIPER_CTRL fPIPER_CTRL_MEMBERS m ≤ arrival (refDie r) (refCounter r) m

/-- The results of a step's slots; a slot without one accepts nothing. -/
def resultAt (rs : List SlotResult) (i : Nat) : SlotResult := rs.getD i ⟨0, [], none⟩

/-- STEP_COMMIT: steps 2 to 6 of R178. Without a step in flight it is a boundary. -/
def stepCommit (rs : List SlotResult) (m : Dev) : Dev :=
  match m.piper.step with
  | none => boundary m
  | some st =>
    if !stepDone m then m
    else
      let m0 := setStepState 3 { m with piper := { m.piper with step := none, sinceRatio := m.piper.sinceRatio + 1 } }
      if isPoolLead m then
        let m1 := forEach (List.range st.slots.length) (fun i m => match st.slots[i]? with
          | some sl => commitPool sl (resultAt rs i) m
          | none => m) m0
        let m2 := leadRecord st.seq [] m1
        if piperHeld m2 then setStepState 1 m2 else formPool m2
      else
        let a := (List.range st.slots.length).foldl (fun a i => match st.slots[i]? with
          | some sl => commitSlot st.seq sl (resultAt rs i) a
          | none => a) ⟨m0, []⟩
        let b := boundaryActs st.seq (st.cancels.foldl (fun a s => commitCancel st.seq s a) a)
        afterRecord (recordFirstOut m st.seq b.set b.m)

/-! ### STEP_TIMEOUT (R188, R516) -/

/-- Does the frozen change set take ENABLE to 0? -/
def disabling (m : Dev) : Bool :=
  m.plan.frozen && piperOn m && fPIPER_CTRL_ENABLE.get (frozenValue aPIPER_CTRL m) = 0

/-- STEP_TIMEOUT: nothing once the done counter stands at MEMBERS. The member of the lead itself kills and reruns its rings too, or takes
the manifest that it could not take before. -/
def stepTimeout (m : Dev) : Dev :=
  match m.piper.step with
  | none => m
  | some st =>
    if stepDone m then m
    else if disabling m then
      let m1 := killStep (emit (.piper 6 m.piper.job (toLe 8 st.seq)) m)
      setStepState 1 { m1 with piper := { m1.piper with step := none } }
    else if rdF aPIPER_STEP fPIPER_STEP_RERUNS m < rdF aPIPER_STEP_LIMIT fPIPER_STEP_LIMIT_RERUN_MAX m then
      raise cPIPER_STEP_TIMEOUT (countSat aPIPER_STEP fPIPER_STEP_RERUNS 1
        (takeManifest (manifestBytes st m) (emit (.piper 2 m.piper.job (manifestBytes st m)) m)))
    else
      let m1 := raise cPIPER_STEP_RERUN_LIMIT { m with piper := { m.piper with step := none } }
      let m2 := if isPoolLead m then
          { m1 with piper := { m1.piper with pool := m1.piper.pool.filter (fun x =>
            !st.slots.any (fun sl => sl.session = x.1.session.toNat)) } }
        else forEach st.slots (fun sl m =>
          if inTurn sl.session m then turnOver sl.session 5 id m else m) m1
      boundary m2

/-- RING_ROOM_FREED: the ring that lacked room has some again. -/
def ringRoomFreed (m : Dev) : Dev :=
  match m.piper.runs with
  | [] => m
  | run :: rest =>
    match runRing run m with
    | some q => if ringRoom q m = 0 then m else copyRuns (run :: rest) m
    | none => copyRuns rest m

end Sys2Proof.Machine
end

