-- ==== Sys2Proof/Machine/Intake.lean ====
section
/-! DEFINITION. The Intake's messages (chapter 6, R201 to R208), the lead's session port (R184 to R186, R189, R198, R204,
R205), pauses and restores (R233 to R237), and the commands of chapters 6 and 7 and of the Field Plan, whose results Piper
follows. -/
namespace Sys2Proof.Machine

/-! ### Receiving a message (R202, R206) -/

/-- MAX_PAYLOAD, where a value outside 1,024 to 8,192 acts as the nearest limit. -/
def maxPayload (m : Dev) : Nat := max 1024 (min 8192 (rdF aINTAKE_CTRL fINTAKE_CTRL_MAX_PAYLOAD m))

/-- Is byte i of a payload of a type one that R203 lists? -/
def payloadListed (typ : Nat) (p : List Byte) (i : Nat) : Bool :=
  match typ with
  | 1 => i < 19 || (20 ≤ i && i < 34) || (40 ≤ i && i < 52) || (64 ≤ i && i < 64 + 4 * field p 48 4)
  | 2 => i < 16 + 4 * field p 12 4
  | 3 => i < 9
  | 4 => i < 8
  | _ => false

/-- Is every reserved byte of a payload 0? -/
def payloadClean (typ : Nat) (p : List Byte) : Bool :=
  (List.range p.length).all (fun i => payloadListed typ p i || p.getD i 0 = 0)

/-- A header that R202 discards: version, length, connection, source, reserved bytes. -/
def headerBad (x : IntakeMsg) (m : Dev) : Bool :=
  let c := x.conn.toNat
  x.version ≠ 1 || maxPayload m < x.length.toNat || 1024 ≤ c || !connOpen c m ||
    x.srcAddr.toNat ≠ kGet kPEER_ADDR c m || x.srcPort.toNat ≠ kGet kPEER_PORT c m || x.reserved ≠ 0

def intakeMalformed (m : Dev) : Dev :=
  raise cINTAKE_FRAME_MALFORMED (countSat aINTAKE_STATS fINTAKE_STATS_MALFORMED 1 m)
def intakeTagFail (m : Dev) : Dev :=
  raise cINTAKE_AUTH_TAG_FAIL (countSat aINTAKE_STATS fINTAKE_STATS_TAG_FAIL 1 m)

/-- What a message acknowledges and grants: an ACK of messages that were sent advances TX_ACKED. -/
def peerAck (x : IntakeMsg) (m : Dev) : Dev :=
  let c := x.conn.toNat
  let a := x.ack.toNat
  let m1 := if kGet kTX_ACKED c m < a && a ≤ kGet kTX_NEXT c m then
      let s := connOf c m
      kSet kTX_ACKED c a (setConn c { s with unacked := s.unacked.filter (fun u => a ≤ u.1) } m)
    else m
  pumpOut c (kSet kPEER_CREDIT c x.credit.toNat m1)

/-- Receive a message of a type: what R202 discards is counted; an ACK is taken; a reliable message is accepted in order and
`act` performed. While Piper does not run as a slice lead the module accepts no reliable message. -/
def receive (typ : Nat) (x : IntakeMsg) (act : Nat → Dev → Dev) (m : Dev) : Dev :=
  let c := x.conn.toNat
  if !isSet aINTAKE_CTRL fINTAKE_CTRL_ENABLE m || stopNow m then m
  else if headerBad x m then intakeMalformed m
  else if !x.tagOk || x.payload.length ≠ x.length.toNat then intakeTagFail m
  else if !payloadClean typ x.payload then intakeMalformed m
  else if typ = 0x7F then peerAck x m
  else if x.seq.toNat < kGet kRX_NEXT c m then sendAck c m
  else if x.seq.toNat ≠ kGet kRX_NEXT c m || !isLead m then m
  else boundary (act c (peerAck x (kSet kRX_NEXT c (x.seq.toNat + 1) m)))

/-! ### CANCEL and CLOSE (R186, R189) -/

/-- Mark a turn for cancellation at its next act. -/
def markCancel (s : Nat) (rollback : Bool) (m : Dev) : Dev :=
  dSet dCANCEL_SEQ s (dGet dCOMMIT_SEQ s m) (setCancel s true rollback m)

def cancel (x : IntakeMsg) (m : Dev) : Dev :=
  match handleSession (field x.payload 0 8) m with
  | none => sendRefuse x.conn.toNat x.requestId.toNat 7 m
  | some s =>
    if dGet dREQUEST_ID s m ≠ x.requestId.toNat then sendRefuse x.conn.toNat x.requestId.toNat 7 m
    else if inTurn s m then markCancel s (bitAt (field x.payload 8 1) 0) m
    else resendEnd s m

def close (x : IntakeMsg) (m : Dev) : Dev :=
  match handleSession (field x.payload 0 8) m with
  | none => sendRefuse x.conn.toNat x.requestId.toNat 7 m
  | some s =>
    if inTurn s m then
      let m1 := markCancel s true m
      { m1 with piper := { m1.piper with closing := s :: m1.piper.closing.filter (fun y => y ≠ s) } }
    else closeNow s (if stateOf s m = sIDLE && isPausing s m then pauseDrop s m else m)

/-! ### Connections (R202, R208) -/

/-- The unacknowledged messages go out again, the oldest first. -/
def retransmit (c : Nat) (m : Dev) : Dev :=
  if connOpen c m then forEach (connOf c m).unacked (fun u => sendMsg c u.1 u.2) m else m

def openConn (c : Nat) (m : Dev) : Dev :=
  if connOpen c m then m else setConn c ConnSt.idle (stN 1 (connAddr c m) 1 m)

/-- Closing a connection: its turns end with reason 6 and their sessions close. -/
def closeConn (c : Nat) (m : Dev) : Dev :=
  if !connOpen c m then m
  else
    let m1 := setConn c ConnSt.idle (stN 1 (connAddr c m) 0 m)
    boundary (forEach ((sessions m1).filter (fun s => inTurn s m1 && dGet dCONN s m1 = c)) (fun s m =>
      closeNow s (endTurn s 6 m)) m1)

/-! ### Pauses and the rest of the lead's acts -/

/-- An act of the slice lead, and the boundary that stands open when no step is in flight. -/
def leadAct (f : Dev → Dev) (m : Dev) : Dev := if isLead m then boundary (f m) else m

def pauseAfter (s : Nat) (m : Dev) : Dev :=
  if stateOf s m = sIDLE && !isPausing s m && limitOf 0 m ≠ 0 then pauseStart s m else m

/-- Steps 3 and 4 of a pause. -/
def pauseComplete (s : Nat) (m : Dev) : Dev :=
  if stateOf s m = sIDLE && isPausing s m && groupReported s m then
    let pages := copiedPages s m
    let m1 := giveMirror s false (heldUnits s m) m
    let m2 := dSet dEXPIRY s ((m.time.toNat + limitOf 1 m * 156250) % 2 ^ 64) (dSet dSTATE_ADDR s (summaryAddr s m)
      (setStateOf s sPAUSED (lSet lFLAGS s 0 (lSet lPAGES s pages m1))))
    retryRestores (addEntry 5 s 0 0 (dropCounter s m2))
  else m

def restoreComplete (s : Nat) (m : Dev) : Dev :=
  if stateOf s m = sPAUSED && isRestoring s m && groupReported s m then
    let m1 := dropCounter s (dSet dEXPIRY s 0 (lSet lFLAGS s 0 (giveMirror s true (heldUnits s m) m)))
    handleWaiting s (addEntry 8 s 0 0 m1)
  else m

/-- A copy passes COPY_LIMIT: a pause is dropped, a restore falls back to SUMMARY and its REQUEST is handled there. -/
def copyTimeout (s : Nat) (m : Dev) : Dev :=
  if stateOf s m = sIDLE && isPausing s m then raise cPIPER_KV_COPY_TIMEOUT (pauseDrop s m)
  else if stateOf s m = sPAUSED && isRestoring s m then raise cPIPER_KV_COPY_TIMEOUT (sumUp s m)
  else m

/-- Put an act off to the next boundary, once. -/
def putOff (k v : Nat) (m : Dev) : Dev :=
  if m.piper.due.contains (k, v) then m else { m with piper := { m.piper with due := m.piper.due ++ [(k, v)] } }

def pauseExpiry (s : Nat) (m : Dev) : Dev := if stateOf s m = sPAUSED && dGet dEXPIRY s m ≠ 0 then putOff 3 s m else m

def retireDeadline (e : Nat) (m : Dev) : Dev :=
  if isSet (aPIPER_EPOCH0 e) fPIPER_EPOCH0_RETIRING m && rd (aPIPER_EPOCH1 e) m ≠ 0 && 0 < epochPins e m then putOff 1 e m
  else m

/-- Could a session be paused for the pages of its group's turns: IDLE, of the page kind of one of them, not PAUSING, with a counter and
pause pages to be had? -/
def canPause (g s : Nat) (m : Dev) : Bool :=
  stateOf s m = sIDLE && lGet lGROUP s m = g && !isPausing s m && isPausing s (pauseStart s m) &&
    (sessions m).any (fun t => inTurn t m && lGet lGROUP t m = g && (logOf t m = 4) = (logOf s m = 4))

def kvShort (g : Nat) (m : Dev) : Dev :=
  if max 1 (limitOf 2 m) ≤ Sparse.get 0 m.piper.short g && (sessions m).all (fun s => !canPause g s m) then putOff 2 g m else m

/-- A pool module or a destination is lost before the hand-off commits (R197). -/
def shipLost (s : Nat) (m : Dev) : Dev :=
  if stateOf s m = sSHIPPING then
    raise cPIPER_SHIP_LOST (dropCounter s (setStateOf s sQUEUED
      { m with piper := { m.piper with ships := m.piper.ships.filter (fun x => x.session ≠ s) } }))
  else m

/-- The hand-off record arrives at the decode lead. -/
def handoffRecord (s tok : Nat) (m : Dev) : Dev :=
  { m with piper := { m.piper with ships := m.piper.ships.map (fun x =>
      if x.session = s then { x with token := some tok } else x) } }

/-- Read the page tables of a turn's destinations, which begin with the session's records (R223). -/
def readTables (h : Handoff) (m : Dev) : Dev :=
  forEach (List.range h.pages.length) (fun k m => match resolve (h.pages.getD k 0).toNat m with
    | .there c a => askTable 3 h.session.toNat k c m.piper.job (0, a, 128) m
    | _ => m) m

def handoffRequest (h : Handoff) (m : Dev) : Dev :=
  if isPoolLead m then boundary (readTables h { m with piper := { m.piper with pool := m.piper.pool ++ [(h, 0)] } }) else m

/-- A CXL or NVMe device is lost (R304): the sessions paused in Fallow fall to SUMMARY with their copies. -/
def deviceLost (port device : Nat) (m : Dev) : Dev :=
  if isFallowDevice port device m then
    let m1 := fallowLoss (tierFault 5 0 0 0 (raise cTIER_CXL_DEVICE_LOST (dropDevice port device m)))
    leadAct (fun m => forEach ((sessions m).filter (fun s => stateOf s m = sPAUSED)) (fun s m =>
      sumUp s m) m) m1
  else dropDevice port device m

/-! ### The commands of chapters 6 and 7 -/

def execStepCommit (results : List SlotResult) (s : State) : Host.Outcome State Fault Refusal :=
  .next { s with dev := stepCommit results s.dev }
def execManifest (bytes : List Byte) (s : State) : Host.Outcome State Fault Refusal :=
  .next { s with dev := when (isMember s.dev) (takeManifest bytes) s.dev }
def execRingRoomFreed (s : State) : Host.Outcome State Fault Refusal := .next { s with dev := ringRoomFreed s.dev }
def execCommitRecord (bytes : List Byte) (s : State) : Host.Outcome State Fault Refusal :=
  .next { s with dev := when (isMember s.dev) (fun m => setStepState 1 (takeRecord bytes m)) s.dev }
def execStepTimeout (s : State) : Host.Outcome State Fault Refusal := .next { s with dev := stepTimeout s.dev }
def execRequest (x : IntakeMsg) (s : State) : Host.Outcome State Fault Refusal :=
  .next { s with dev := receive 1 x (fun _ => request x) s.dev }
def execPromptMore (x : IntakeMsg) (s : State) : Host.Outcome State Fault Refusal :=
  .next { s with dev := receive 2 x (fun _ => promptMore x) s.dev }
def execCancel (x : IntakeMsg) (s : State) : Host.Outcome State Fault Refusal :=
  .next { s with dev := receive 3 x (fun _ => cancel x) s.dev }
def execClose (x : IntakeMsg) (s : State) : Host.Outcome State Fault Refusal :=
  .next { s with dev := receive 4 x (fun _ => close x) s.dev }
def execAck (x : IntakeMsg) (s : State) : Host.Outcome State Fault Refusal :=
  .next { s with dev := receive 0x7F x (fun _ m => m) s.dev }
def execIntakeRetransmit (conn : Fin 1024) (s : State) : Host.Outcome State Fault Refusal :=
  .next { s with dev := retransmit conn.val s.dev }
def execConnectionOpen (conn : Fin 1024) (s : State) : Host.Outcome State Fault Refusal :=
  .next { s with dev := openConn conn.val s.dev }
def execConnectionClose (conn : Fin 1024) (s : State) : Host.Outcome State Fault Refusal :=
  .next { s with dev := closeConn conn.val s.dev }
def execRatioCheck (s : State) : Host.Outcome State Fault Refusal :=
  .next { s with dev := when (isLead s.dev) ratioCheck s.dev }
def execHandoffRequest (h : Handoff) (s : State) : Host.Outcome State Fault Refusal :=
  .next { s with dev := handoffRequest h s.dev }
def execHandoffRecord (session : BitVec 16) (token : BitVec 32) (s : State) : Host.Outcome State Fault Refusal :=
  .next { s with dev := leadAct (handoffRecord session.toNat token.toNat) s.dev }
def execShipLost (session : BitVec 16) (s : State) : Host.Outcome State Fault Refusal :=
  .next { s with dev := leadAct (shipLost session.toNat) s.dev }
def execRetireDeadline (epoch : Fin 8) (s : State) : Host.Outcome State Fault Refusal :=
  .next { s with dev := leadAct (retireDeadline epoch.val) s.dev }
def execPauseAfterExpiry (session : BitVec 16) (s : State) : Host.Outcome State Fault Refusal :=
  .next { s with dev := leadAct (pauseAfter session.toNat) s.dev }
def execPauseComplete (session : BitVec 16) (s : State) : Host.Outcome State Fault Refusal :=
  .next { s with dev := leadAct (pauseComplete session.toNat) s.dev }
def execRestoreComplete (session : BitVec 16) (s : State) : Host.Outcome State Fault Refusal :=
  .next { s with dev := leadAct (restoreComplete session.toNat) s.dev }
def execCopyTimeout (session : BitVec 16) (s : State) : Host.Outcome State Fault Refusal :=
  .next { s with dev := leadAct (copyTimeout session.toNat) s.dev }
def execPauseExpiry (session : BitVec 16) (s : State) : Host.Outcome State Fault Refusal :=
  .next { s with dev := leadAct (pauseExpiry session.toNat) s.dev }
def execKvShort (group : Fin 4) (s : State) : Host.Outcome State Fault Refusal :=
  .next { s with dev := leadAct (kvShort group.val) s.dev }
def execDeviceLost (port device : Fin 4) (s : State) : Host.Outcome State Fault Refusal :=
  .next { s with dev := deviceLost port.val device.val s.dev }

/-! ### The commands of chapter 5, which Piper follows (R194, R517) -/

/-- After a command of the Field Plan: a move of ratio control follows its result, and a boundary may stand open. -/
def planRow (cause : Nat) (f : Dev → Dev) (m : Dev) : Dev := boundary (ratioReact cause (f m))

/-- The cause for which the load about to end will be refused, 0 for none. -/
def loadCause (signatureOk : Bool) (m : Dev) : Nat :=
  match m.plan.loading with
  | none => 0
  | some (a, n) =>
    let r := readVia .headland a n m
    if r.st = .held then 0
    else match checkContainer (if r.st = .ok then r.data else []) signatureOk r.m with
      | .inl e => e.cause
      | .inr _ => 0

def execFplanLoad (s : State) : Host.Outcome State Fault Refusal := .next { s with dev := fplanLoad s.dev }
def execFplanLoadDone (signatureOk : Bool) (s : State) : Host.Outcome State Fault Refusal :=
  .next { s with dev := planRow (loadCause signatureOk s.dev) (fplanLoadDone signatureOk) s.dev }
def execFplanCommit (s : State) : Host.Outcome State Fault Refusal := .next { s with dev := planRow 0 fplanCommit s.dev }
def execUnitReady (unit : PlanUnit) (s : State) : Host.Outcome State Fault Refusal :=
  .next { s with dev := planRow 0 (unitReady unit) s.dev }
def execEvictionZeroingDone (s : State) : Host.Outcome State Fault Refusal :=
  .next { s with dev := planRow 0 evictionZeroed s.dev }
def execFplanCommitTimeout (s : State) : Host.Outcome State Fault Refusal :=
  .next { s with dev := planRow 0 fplanTimeout s.dev }
def execFplanAbort (s : State) : Host.Outcome State Fault Refusal := .next { s with dev := planRow 0 fplanAbort s.dev }

end Sys2Proof.Machine
end

