-- ==== Sys2Proof/Machine/Links.lean ====
section
/-! DEFINITION. The commands of the Windrow links (chapter 12) that can take a link out of service, which ends a Field Plan commit
that holds the link or its port (R167). -/
namespace Sys2Proof.Machine

/-- Do what a command does to a link or port. A commit in progress that loses a unit of its set by it ends with BLOCK_LOST. -/
def linkRow (f : Dev → Dev) (m : Dev) : Dev :=
  if blockLost m (f m) then planRow 0 (commitEnds 5 14 0 0 0) (f m) else f m

/-! ### The commands -/

def execIdent (l : Fin 36) (r : IdentRecord) (s : State) : Host.Outcome State Fault Refusal :=
  .next { s with dev := linkRow (identReceived l.val r) s.dev }
def execLaneLoss (l : Fin 36) (lane : Fin 4) (s : State) : Host.Outcome State Fault Refusal :=
  .next { s with dev := linkRow (laneLoss l.val lane.val) s.dev }
def execLane (l : Fin 36) (mask : BitVec 4) (step : BitVec 8) (s : State) : Host.Outcome State Fault Refusal :=
  .next { s with dev := linkRow (laneHandshake l.val mask.toNat step.toNat) s.dev }
def execLinkDown (l : Fin 36) (why : LinkLoss) (s : State) : Host.Outcome State Fault Refusal :=
  .next { s with dev := linkRow (linkDownEvent l.val why) s.dev }
def execSequencedFlit (l : Fin 36) (check : FlitCheck) (f : Flit) (s : State) : Host.Outcome State Fault Refusal :=
  .next { s with dev := linkRow (sequencedFlit l.val check f) s.dev }
def execRetry (l : Fin 36) (fseq : BitVec 12) (s : State) : Host.Outcome State Fault Refusal :=
  .next { s with dev := linkRow (retryReceived l.val fseq) s.dev }
def execLinkRetrain (l : Fin 36) (s : State) : Host.Outcome State Fault Refusal :=
  .next { s with dev := linkRow (linkRetrain l.val) s.dev }
def execLinkTakeOut (l : Fin 36) (s : State) : Host.Outcome State Fault Refusal :=
  .next { s with dev := linkRow (linkTakeOut l.val) s.dev }
def execLaneRecalibrate (l : Fin 36) (lane : Fin 4) (s : State) : Host.Outcome State Fault Refusal :=
  .next { s with dev := linkRow (laneRecalibrate l.val lane.val) s.dev }

end Sys2Proof.Machine
end

