-- ==== Sys2Proof/Machine/Stile.lean ====
section
/-! DEFINITION. The Stile gateways (chapter 14, R417 to R422): rings and their HEAD words, entries started and completed,
refusals, queue-pair errors, rates. -/
namespace Sys2Proof.Machine

/-! ### Endpoints (R418) -/

def epAddr (n : Nat) (m : Dev) : Nat := rdF aSTILE_ENDPOINT fSTILE_ENDPOINT_BASE m * 16384 + 64 * n
/-- A field of an endpoint record. -/
def epGet (n o k : Nat) (m : Dev) : Nat := peekN k (epAddr n m + o) m
def epValid (n : Nat) (m : Dev) : Bool := bitAt (epGet n 0 1 m) 0
def epRecord (n : Nat) (m : Dev) : Bool := bitAt (epGet n 0 1 m) 1
def epError (n : Nat) (m : Dev) : Bool := bitAt (epGet n 0 1 m) 2
def setEpError (n : Nat) (m : Dev) : Dev := (writeVia .headland (epAddr n m) [BitVec.ofNat 8 (Nat.lor (epGet n 0 1 m) 4)] m).m

/-! ### Entries (R419) -/

def seOp (e : List Byte) : Nat := field e 0 1
def seFence (e : List Byte) : Bool := bitAt (field e 1 1) 0
def seEndpoint (e : List Byte) : Nat := field e 2 2
def seBytes (e : List Byte) : Nat := field e 4 4
def seLocal (e : List Byte) : Nat := loc (field e 8 8)
def seRemote (e : List Byte) : Nat := field e 16 8
def seCounter (e : List Byte) : Nat := field e 24 2
def seResult (e : List Byte) : Nat := loc (field e 48 8)
def seTag (e : List Byte) : Nat := field e 56 8

/-! ### Rings (R419, R420) -/

def stFetch (r : Nat) (m : Dev) : Nat := rdF (aSTILE_RING_PTR r) fSTILE_RING_PTR_FETCH m
def stRerun (r : Nat) (m : Dev) : Nat := rdF (aSTILE_RING_PTR r) fSTILE_RING_PTR_RERUN m
def stHalted (r : Nat) (m : Dev) : Bool := isSet (aSTILE_RING_HEAD r) fSTILE_RING_HEAD_HALTED m
/-- SIZE_LOG2, where a value outside 6 to 12 acts as 6. -/
def stSize (r : Nat) (m : Dev) : Nat :=
  let s := rdF (aSTILE_RING r) fSTILE_RING_SIZE_LOG2 m
  if 6 ≤ s && s ≤ 12 then s else 6
def stEntryAddr (r c : Nat) (m : Dev) : Nat := rdF (aSTILE_RING r) fSTILE_RING_BASE m * 64 + 64 * (c % 2 ^ stSize r m)
def stHeadAddr (r : Nat) (m : Dev) : Nat := rdF (aSTILE_RING_HEAD r) fSTILE_RING_HEAD_HEAD_ADDR m * 8
/-- The producer's count: the low 32 bits of the HEAD word. -/
def stHead (r : Nat) (m : Dev) : Nat := peekN 4 (stHeadAddr r m) m
/-- How far count b lies beyond count a, modulo 2^32. -/
def countGap (a b : Nat) : Nat := (b + 2 ^ 32 - a % 2 ^ 32) % 2 ^ 32

/-- Does Stile serve a ring? A parked Stile starts nothing (R164). -/
def stServes (r : Nat) (m : Dev) : Bool :=
  isSet aSTILE_ENDPOINT fSTILE_ENDPOINT_ENABLE m && isSet (aSTILE_RING r) fSTILE_RING_ENABLE m && !stHalted r m && !stopNow m &&
    !isParked .stile m

/-- The ring halts (R422). -/
def stHalt (r : Nat) (m : Dev) : Dev :=
  raise cSTILE_RING_HALT (wrF (aSTILE_RING_HEAD r) fSTILE_RING_HEAD_HALTED 1 m)

/-- The record of a failed or refused entry (R422, R424). -/
def stRecord (kind r syndrome : Nat) (e : List Byte) (m : Dev) : Dev :=
  recordFirst aSTILE_FAULT (fSTILE_FAULT_KIND.of kind ||| fSTILE_FAULT_RING.of r ||| fSTILE_FAULT_ENDPOINT.of (seEndpoint e) |||
    fSTILE_FAULT_SYNDROME.of syndrome ||| fSTILE_FAULT_TAG.of (seTag e)) m

def stFail (kind r syndrome : Nat) (e : List Byte) (m : Dev) : Dev := stHalt r (stRecord kind r syndrome e m)

/-! ### Starting an entry (R420 to R422) -/

/-- Is an entry refused (R422)? -/
def stRefused (e : List Byte) (m : Dev) : Bool :=
  let ep := seEndpoint e
  let n := seBytes e
  seOp e = 0 || 4 < seOp e || 255 < ep || (if seOp e ≤ 2 then n = 0 || 2 ^ 30 < n else n ≠ 8) ||
    epGet ep 40 8 m < seRemote e + n || !epValid ep m || epError ep m

/-- The messages of a PUT or GET: offset and bytes of each, at most 1 MiB. -/
def stMessages (n : Nat) : List (Nat × Nat) :=
  (List.range ((n + 0xFFFFF) / 0x100000)).map (fun i => (0x100000 * i, min 0x100000 (n - 0x100000 * i)))

/-- The Stile record (R421). SEQ counts the records sent before it (DEDUCED, log entry 71). -/
def stileRecord (e data : List Byte) (seq : Nat) (m : Dev) : List Byte :=
  [0x47#8, 0x5A#8, 0x53#8, 0x54#8] ++ toLe 2 1 ++ toLe 2 (rdF aWINDROW_COORD fWINDROW_COORD_COORD m) ++ toLe 8 (seTag e) ++
    toLe 8 (seRemote e) ++ toLe 8 (seBytes e) ++ toLe 8 (crc64 data) ++ toLe 8 seq ++
    toLe 8 (rd (aHEADLAND_ID_DIGEST 0) m).toNat ++ toLe 8 0

def stSend (ep op remote : Nat) (bs : List Byte) (m : Dev) : Dev := emit (.stile ep op ((epGet ep 32 8 m + remote) % 2 ^ 64) bs) m

def noteStarted (r c : Nat) (e : List Byte) (m : Dev) : Dev :=
  { m with stile := { m.stile with started := m.stile.started ++ [⟨r, c, e⟩] } }

/-- Send the messages of a PUT whose data is `data`, and the record where the endpoint asks for one. -/
def sendPut (e data : List Byte) (m : Dev) : Dev :=
  let ep := seEndpoint e
  let m1 := forEach (stMessages data.length) (fun (x : Nat × Nat) => stSend ep 1 (seRemote e + x.1) (slice data x.1 x.2)) m
  if epRecord ep m then
    let seq := Sparse.get 0 m.stile.records ep
    let m2 := emit (.stile ep 5 0 (stileRecord e data seq m)) m1
    { m2 with stile := { m2.stile with records := m2.stile.records.upd 0 ep (seq + 1) } }
  else m1

/-- Start an entry: a refusal halts the ring. A PUT whose data cannot be read, and an entry whose local target does not take
writes, are refused too (DEDUCED, log entry 70). -/
def startEntry (r c : Nat) (e : List Byte) (m : Dev) : Dev :=
  if stRefused e m then stFail 1 r 0 e (raise cSTILE_XFER_REFUSED m)
  else if seOp e = 1 then
    if protectedAt (seLocal e) (seBytes e) m then stFail 2 r 0 e (raise cSTILE_XFER_PROTECTED m)
    else
      let d := readVia .headland (seLocal e) (seBytes e) m
      if d.st ≠ .ok then stFail 1 r 0 e (raise cSTILE_XFER_REFUSED d.m)
      else sendPut e d.data (noteStarted r c e d.m)
  else if seOp e = 2 then
    if !canWrite .headland (seLocal e) (seBytes e) m then stFail 1 r 0 e (raise cSTILE_XFER_REFUSED m)
    else forEach (stMessages (seBytes e)) (fun (x : Nat × Nat) => stSend (seEndpoint e) 2 (seRemote e + x.1) (toLe 8 x.2))
      (noteStarted r c e m)
  else if field e 48 1 % 8 ≠ 0 || !canWrite .headland (seResult e) 8 m then
    stFail 1 r 0 e (raise cSTILE_XFER_REFUSED m)
  else if seOp e = 3 then stSend (seEndpoint e) 3 (seRemote e) (slice e 32 8) (noteStarted r c e m)
  else stSend (seEndpoint e) 4 (seRemote e) (slice e 40 8 ++ slice e 32 8) (noteStarted r c e m)

/-- The access that keeps an entry from being started, if it is held (R311): the read of a PUT's data. -/
def stWaits (e : List Byte) (m : Dev) : Option Dev :=
  if seOp e ≠ 1 || stRefused e m || protectedAt (seLocal e) (seBytes e) m then none
  else
    let d := readVia .headland (seLocal e) (seBytes e) m
    if d.st = .held then some (heldBy 0 d.m m) else none

/-- Entries of a ring now under way. -/
def stRunning (r : Nat) (m : Dev) : Nat := (m.stile.started.filter (fun x => x.ring = r)).length

/-- Has the entry of a count been started or completed already? So after a retry from RERUN (DEDUCED, log entry 72). -/
def stHandled (r c : Nat) (m : Dev) : Bool :=
  m.stile.started.any (fun x => x.ring = r && x.count = c) || m.stile.done.contains (r, c)

def setStFetch (r n : Nat) (m : Dev) : Dev := wrF (aSTILE_RING_PTR r) fSTILE_RING_PTR_FETCH n m
def setStRerun (r n : Nat) (m : Dev) : Dev := wrF (aSTILE_RING_PTR r) fSTILE_RING_PTR_RERUN n m

/-- Start entries of a ring in order, at most 64 under way and none while D is 0 (R426); a FENCE waits until RERUN has reached it. The entry stays at FETCH
when it is refused. -/
def stStart : Nat → Nat → Dev → Dev
  | 0, _, m => m
  | fuel + 1, r, m =>
    let c := stFetch r m
    if stHalted r m || c = stHead r m || throughputHeld m then m
    else if stHandled r c m then stStart fuel r (setStFetch r (c + 1) m)
    else if 64 ≤ stRunning r m then m
    else
      let q := readVia .headland (stEntryAddr r c m) 64 m
      if q.st = .held then heldBy 0 q.m m
      else if q.st ≠ .ok then stFail 1 r 0 q.data q.m
      else if seFence q.data && c ≠ stRerun r q.m then q.m
      else match stWaits q.data q.m with
        | some m1 => m1
        | none =>
          let m1 := startEntry r c q.data q.m
          if stHalted r m1 then m1 else stStart fuel r (setStFetch r (c + 1) m1)

/-- Serve one ring: its HEAD word is read; one that overruns the ring halts it (R108). -/
def stServe (r : Nat) (m : Dev) : Dev :=
  if !stServes r m then m
  else
    let q := readVia .headland (stHeadAddr r m) 8 m
    if q.st = .held then heldBy 0 q.m m
    else if q.st ≠ .ok then q.m
    else if 2 ^ stSize r m < countGap (stRerun r m) (stHead r m) then stHalt r q.m
    else stStart 4096 r q.m

/-- An endpoint found without VALID: its rate and its count of records start anew, and its entries that have not completed
fail (R418). -/
def dropEndpoint (n : Nat) (m : Dev) : Dev :=
  let mine := m.stile.started.filter (fun x => seEndpoint x.entry = n)
  let m1 := { m with stile := { m.stile with
    started := m.stile.started.filter (fun x => seEndpoint x.entry ≠ n)
    records := m.stile.records.upd 0 n 0
    cut := m.stile.cut.upd 0 n 0 } }
  forEach mine (fun x => stFail 1 x.ring 0 x.entry) m1

/-- The endpoints of which Stile keeps anything. -/
def stEndpoints (m : Dev) : List Nat :=
  (m.stile.started.map (fun x => seEndpoint x.entry) ++ m.stile.records.keys ++ m.stile.cut.keys).eraseDups

def stilePoll (m : Dev) : Dev :=
  if stopNow m then m
  else forEach (List.range 8) stServe (forEach ((stEndpoints m).filter (fun n => !epValid n m)) dropEndpoint m)

/-! ### Completion -/

/-- RERUN passes the completed prefix. -/
def stPass : Nat → Nat → Dev → Dev
  | 0, _, m => m
  | fuel + 1, r, m =>
    let c := stRerun r m
    if m.stile.done.contains (r, c) then
      stPass fuel r (setStRerun r (c + 1) { m with stile := { m.stile with done := m.stile.done.filter (fun x => x ≠ (r, c)) } })
    else m

/-- The entry of (ring, count) is no longer under way. -/
def stDrop (r c : Nat) (m : Dev) : Dev :=
  { m with stile := { m.stile with started := m.stile.started.filter (fun x => !(x.ring = r && x.count = c)) } }

/-- What the entry's answers write: the data of a GET, the old value of an atomic (R420). -/
def stTake (e data : List Byte) (m : Dev) : WriteRes :=
  match seOp e with
  | 1 => ⟨m, .ok⟩
  | 2 => writeVia .headland (seLocal e) (slice data 0 (seBytes e)) m
  | _ => writeVia .headland (seResult e) (slice data 0 8) m

/-- Is a count one that RERUN has still to pass? A discarded entry's is not. -/
def stAhead (r c : Nat) (m : Dev) : Bool := countGap (stRerun r m) c < 2 ^ 31

/-- STILE_ENTRY_COMPLETE: the answers are written, then the entry is counted. An entry of an endpoint whose VALID has been cleared
fails with the others (R418). -/
def stileComplete (r c : Nat) (data : List Byte) (m : Dev) : Dev :=
  match m.stile.started.find? (fun x => x.ring = r && x.count = c) with
  | none => m
  | some x =>
    if stopNow m then m
    else if !epValid (seEndpoint x.entry) m then dropEndpoint (seEndpoint x.entry) m
    else
      let w := stTake x.entry data (stDrop r c m)
      if w.st = .held then heldBy 0 w.m m
      else if w.st ≠ .ok then stFail 1 r 0 x.entry w.m
      else
        let m1 := addRef (seCounter x.entry) 1 w.m
        if stAhead r c m1 then stPass 4096 r { m1 with stile := { m1.stile with done := m1.stile.done ++ [(r, c)] } } else m1

/-- A queue pair exhausts its retries or receives a NAK other than RNR (R422). -/
def stileQpError (n syndrome : Nat) (m : Dev) : Dev :=
  let mine := m.stile.started.filter (fun x => seEndpoint x.entry = n)
  if mine.isEmpty then m
  else if !epValid n m then dropEndpoint n m
  else
    let m1 := raise cSTILE_QP_ERROR (setEpError n { m with stile := { m.stile with
      started := m.stile.started.filter (fun x => seEndpoint x.entry ≠ n) } })
    forEach mine (fun x => stFail 3 x.ring syndrome x.entry) m1

/-! ### Rates (R417), in 65,536ths of line rate -/

def qpRate (n : Nat) (m : Dev) : Nat := 65536 - Sparse.get 0 m.stile.cut n
def setRate (n v : Nat) (m : Dev) : Dev := { m with stile := { m.stile with cut := m.stile.cut.upd 0 n (65536 - v) } }
def cnp (n : Nat) (m : Dev) : Dev := if epValid n m then setRate n (qpRate n m / 2) m else m
def rateRecovery (n : Nat) (m : Dev) : Dev := setRate n (min 65536 (qpRate n m + 4096)) m

/-! ### The actions of STILE_RING_HEAD (R422) and the commit of ENABLE -/

/-- ACTION 1 retries a halted ring from RERUN; ACTION 2 skips it to HEAD. Neither does anything to a ring that runs (R134). -/
def stileResume (r : Nat) (m : Dev) : Dev :=
  if stHalted r m then setStFetch r (stRerun r m) (wrF (aSTILE_RING_HEAD r) fSTILE_RING_HEAD_HALTED 0 m) else m
def stileDiscard (r : Nat) (m : Dev) : Dev :=
  if stHalted r m then
    let m1 := wrF (aSTILE_RING_HEAD r) fSTILE_RING_HEAD_HALTED 0 m
    setStFetch r (stHead r m) (setStRerun r (stHead r m)
      { m1 with stile := { m1.stile with done := m1.stile.done.filter (fun x => x.1 ≠ r) } })
  else m

/-! ### The commands -/

def execStilePoll (s : State) : Host.Outcome State Fault Refusal := .next { s with dev := stilePoll s.dev }
def execStileEntryComplete (ring : Fin 8) (entry : BitVec 32) (data : List Byte) (s : State) :
    Host.Outcome State Fault Refusal := .next { s with dev := stileComplete ring.val entry.toNat data s.dev }
def execStileQpError (endpoint : Fin 256) (syndrome : BitVec 4) (s : State) : Host.Outcome State Fault Refusal :=
  .next { s with dev := stileQpError endpoint.val syndrome.toNat s.dev }
def execCnp (endpoint : Fin 256) (s : State) : Host.Outcome State Fault Refusal :=
  .next { s with dev := cnp endpoint.val s.dev }
def execStileRingResume (ring : Fin 8) (s : State) : Host.Outcome State Fault Refusal :=
  .next { s with dev := stileResume ring.val s.dev }
def execStileRingDiscard (ring : Fin 8) (s : State) : Host.Outcome State Fault Refusal :=
  .next { s with dev := stileDiscard ring.val s.dev }
def execRateRecovery (endpoint : Fin 256) (s : State) : Host.Outcome State Fault Refusal :=
  .next { s with dev := rateRecovery endpoint.val s.dev }

end Sys2Proof.Machine
end

