-- ==== Sys2Proof/Machine/Bellows.lean ====
section
/-! DEFINITION. Bellows (chapter 15): the control period, power classes and tile clocks, the cap, temperature, supply voltage,
stops in order, clock calibration. -/
namespace Sys2Proof.Machine

/-! ### Stops in order (R442 to R444) -/

/-- A tensor link or Ethernet port whose transmitter turns off: what it held is lost. A DISABLED link stays so. -/
def linkSilent (l : Nat) (m : Dev) : Dev :=
  if linkState l m = 7 then m else setLink l LinkDyn.idle (setLanes l 0 (setState l 0 m))

/-- A sweep that a stop ends: DONE with FOUND_MHZ 0 and no cause (R444). -/
def sweepEnds (t found : Nat) (m : Dev) : Dev :=
  let r := onTile aBELLOWS_TILE_CAL t
  let m1 := wrF r fBELLOWS_TILE_CAL_FOUND_MHZ found (wrF r fBELLOWS_TILE_CAL_DONE 1 m)
  { m1 with bellows := { m1.bellows with sweeping := m1.bellows.sweeping.upd false t false } }

/-- What stops at once: groups are killed, a Field Plan commit fails with BLOCK_LOST, sweeps end, links and ports fall silent. -/
def stopWork (m : Dev) : Dev :=
  let m1 := if m.plan.frozen then commitEnds 5 14 0 0 0 m else m
  let m2 := forEach ((List.range 256).filter (fun q => ringOpen q m1)) killRing m1
  let m3 := forEach (m2.bellows.sweeping.keys) (fun t => sweepEnds t 0) m2
  forEach (List.range 2) (fun e => wrF (aETH_PORT e) fETH_PORT_UP 0) (forEach (List.range 36) linkSilent m3)

/-- A reason to stop: the first sets REASON and starts the stop; later ones change nothing but their own cause. Reason 0 is
the assertion of RESET_N, which leaves REASON (R503). -/
def beginStop (reason : Nat) (m : Dev) : Dev :=
  if stopNow m then m
  else
    let m1 := wrF aBELLOWS_STOP fBELLOWS_STOP_STOPPING 1 (stopWork m)
    if reason = 0 then m1 else wrF aBELLOWS_STOP fBELLOWS_STOP_REASON reason m1

/-- Every tile clock stands still. -/
def clocksStop (m : Dev) : Dev :=
  forEach (List.range 144) (fun t m =>
    let r := onTile aBELLOWS_TILE_CLOCK t
    wrF r fBELLOWS_TILE_CLOCK_LIMIT 4 (wrF r fBELLOWS_TILE_CLOCK_CUR_MHZ 0 m)) m

/-- The end of the fall. -/
def stopped (m : Dev) : Dev :=
  wrF aBELLOWS_STOP fBELLOWS_STOP_STOPPED 1 (wrF aBELLOWS_STOP fBELLOWS_STOP_STOPPING 0 (clocksStop m))

/-! ### Power classes and clocks (R425 to R428) -/

/-- The ring that a tile's Chanter serves, or served last. -/
def servedRing (t : Nat) (m : Dev) : Option Nat :=
  match oldEngine t m with
  | none => none
  | some e => (engDyn e m).served

/-- Does a tile belong to the interactive class (R425)? One that never served a ring is in the throughput class. -/
def interactive (t : Nat) (m : Dev) : Bool :=
  match servedRing t m with
  | some q => bitAt (rdF aBELLOWS_CLASS fBELLOWS_CLASS_INTERACTIVE m) (ringClass q m)
  | none => false

/-- FMAX_MHZ as it acts (R428), in steps of 25 MHz. -/
def fmaxOf (t : Nat) (m : Dev) : Nat :=
  let f := rdF (onTile aBELLOWS_TILE_CLOCK t) fBELLOWS_TILE_CLOCK_FMAX_MHZ m
  if f < 1750 || 2100 < f then 1750 else f / 25 * 25

/-- The throughput ceiling, 500 to 2,100 in steps of 25 MHz. -/
def throughputMhz (m : Dev) : Nat :=
  max 500 (min 2100 (rdF aBELLOWS_THROUGHPUT fBELLOWS_THROUGHPUT_MHZ m)) / 25 * 25

/-- The thermal limit of a tile: FMAX less the steps that heat has taken, not below 500 (R436). -/
def thermalMhz (t : Nat) (m : Dev) : Nat := max 500 (fmaxOf t m - 25 * Sparse.get 0 m.bellows.heat t)

/-- The cap limit of a tile, not below 1,750 for an interactive one (R433). -/
def capMhz (t : Nat) (m : Dev) : Nat :=
  let c := Sparse.get 2100 m.bellows.cut t
  if interactive t m then max 1750 c else c

/-- The frequency of a tile and what sets it: the lowest of its limits, the first of them in the order of LIMIT (R427). -/
def clockOf (t : Nat) (m : Dev) : Nat × Nat :=
  let pick := fun (best x : Nat × Nat) => if x.1 < best.1 then x else best
  let a := (fmaxOf t m, 0)
  let b := if interactive t m then a else pick a (throughputMhz m, 1)
  pick (pick b (thermalMhz t m, 2)) (capMhz t m, 3)

/-- Set the clock of a tile for the coming period; a tile being swept is clocked by its sweep (R429). -/
def setClock (t : Nat) (m : Dev) : Dev :=
  if Sparse.get false m.bellows.sweeping t then m
  else
    let c := clockOf t m
    let v := fBELLOWS_TILE_CLOCK_LIMIT.put (fBELLOWS_TILE_CLOCK_CLASS.put (fBELLOWS_TILE_CLOCK_CUR_MHZ.put
      (rd (onTile aBELLOWS_TILE_CLOCK t) m) c.1) (if interactive t m then 1 else 0)) c.2
    wr (onTile aBELLOWS_TILE_CLOCK t) v m

/-! ### The target (R433, R434) -/

/-- The rack cap as it acts. -/
def capW (m : Dev) : Nat := max 1500 (min 3400 (rdF aBELLOWS_CAP fBELLOWS_CAP_CAP_W m))

/-- The target: the lowest of the cap, BRAKE_W while BRAKE_N is asserted, and the shed level. -/
def targetW (m : Dev) : Nat :=
  let a := capW m
  let b := if isSet aBELLOWS_STATE fBELLOWS_STATE_BRAKE m then min a (rdF aBELLOWS_CAP fBELLOWS_CAP_BRAKE_W m) else a
  match m.bellows.shed with
  | some s => min b s
  | none => b

def dutyD (m : Dev) : Nat := rdF aBELLOWS_STATE fBELLOWS_STATE_D m
def setD (n : Nat) (m : Dev) : Dev := wrF aBELLOWS_STATE fBELLOWS_STATE_D n m

/-- Must D be 0: a shed, or hot coolant (R436, R439)? -/
def dutyHeld (m : Dev) : Bool := m.bellows.shed.isSome || m.bellows.inletHot || m.bellows.outletHot

def setCut (t c : Nat) (m : Dev) : Dev := { m with bellows := { m.bellows with cut := m.bellows.cut.upd 2100 t c } }

/-- A free frequency from `lo` to below `hi`, in steps of 25 MHz (DESIGN CHOICE, log entry 75). -/
def freeBelow (lo hi : Nat) (m : Dev) : Nat := lo + 25 * ((drawFree m).toNat % ((hi - lo) / 25))

/-- A free frequency above `lo`, up to `hi`, in steps of 25 MHz. -/
def freeAbove (lo hi : Nat) (m : Dev) : Nat := hi - 25 * ((drawFree m).toNat % ((hi - lo) / 25))

/-- Lower the clock of each throughput tile that can give (R433, step 2). -/
def cutThroughput (m : Dev) : Dev :=
  forEach ((List.range 144).filter (fun t => !interactive t m && 525 ≤ (clockOf t m).1)) (fun t m =>
    useFree 1 (setCut t (freeBelow 500 (clockOf t m).1 m) m)) m

/-- The hottest interactive tile whose clock is above 1,750 MHz, by the last sample. -/
def hottestInteractive (m : Dev) : Option Nat :=
  ((List.range 144).filter (fun t => interactive t m && 1775 ≤ (clockOf t m).1)).foldl (fun (best : Option Nat) t =>
    match best with
    | none => some t
    | some b => if m.bellows.tileC.getD b (-128) < m.bellows.tileC.getD t (-128) then some t else some b) none

/-- Power above the target: the first step that can still give gives (R433). The amounts are free (DESIGN CHOICE, log entry 75). -/
def lowerPower (m : Dev) : Dev :=
  if dutyD m ≠ 0 then useFree 1 (setD ((drawFree m).toNat % dutyD m) m)
  else if (List.range 144).any (fun t => !interactive t m && 525 ≤ (clockOf t m).1) then cutThroughput m
  else match hottestInteractive m with
    | some t => useFree 1 (setCut t (freeBelow 1750 (clockOf t m).1 m) m)
    | none => m

/-- Power below the target: the steps are taken back in the opposite order (DESIGN CHOICE, log entry 75). -/
def raisePower (m : Dev) : Dev :=
  match (List.range 144).find? (fun t => interactive t m && Sparse.get 2100 m.bellows.cut t ≠ 2100) with
  | some t => useFree 1 (setCut t (freeAbove (capMhz t m) 2100 m) m)
  | none =>
    if (List.range 144).any (fun t => Sparse.get 2100 m.bellows.cut t ≠ 2100) then
      forEach ((List.range 144).filter (fun t => Sparse.get 2100 m.bellows.cut t ≠ 2100)) (fun t m =>
        useFree 1 (setCut t (freeAbove (capMhz t m) 2100 m) m)) m
    else if dutyHeld m || 256 ≤ dutyD m then m
    else useFree 1 (setD (256 - (drawFree m).toNat % (256 - dutyD m)) m)

/-- The cap in a period (R433). -/
def capStep (p : Nat) (m : Dev) : Dev :=
  let floor := rdF aBELLOWS_POWER fBELLOWS_POWER_FLOOR_W m
  let below := decide (targetW m < floor)
  let m1 := when (below && !isSet aBELLOWS_STATE fBELLOWS_STATE_FLOOR m) (raise cBELLOWS_CAP_BELOW_FLOOR) m
  let m2 := wrF aBELLOWS_STATE fBELLOWS_STATE_FLOOR (if below then 1 else 0) m1
  if max (targetW m) floor < p then lowerPower m2 else if p < targetW m then raisePower m2 else m2

/-- Energy of W × periods of 1.024 µs, in millijoules, to the nearest. -/
def milliJoules (w : Nat) : Nat := (w * 1024 + 500000) / 1000000

/-- Energy above the target (R434). -/
def overcapStep (p : Nat) (m : Dev) : Dev :=
  let was := isSet aBELLOWS_STATE fBELLOWS_STATE_OVERCAP m
  if targetW m < p then
    let before := if was then m.bellows.excess else 0
    let after := before + (p - targetW m)
    let m1 := when (!was) (fun m => countSat aBELLOWS_OVERCAP fBELLOWS_OVERCAP_EVENTS 1 (raise cBELLOWS_CAP_OVERCAP m)) m
    let m2 := countSat aBELLOWS_OVERCAP fBELLOWS_OVERCAP_TOTAL_MJ (milliJoules after - milliJoules before)
      (wrF aBELLOWS_OVERCAP fBELLOWS_OVERCAP_LAST_MJ (min 65535 (milliJoules after)) m1)
    wrF aBELLOWS_STATE fBELLOWS_STATE_OVERCAP 1 { m2 with bellows := { m2.bellows with excess := after } }
  else wrF aBELLOWS_STATE fBELLOWS_STATE_OVERCAP 0 m

/-! ### Supply voltage (R439 to R441) -/

/-- The thresholds of R439 in the order of its table, in units of 10 mV: value, and the value that clears. -/
def supplyRow (i : Nat) : Nat × Nat :=
  match i with
  | 0 => (5600, 5550)
  | 1 => (4600, 4650)
  | 2 => (4500, 4550)
  | 3 => (4450, 4500)
  | _ => (4200, 4250)

def supplyCause (i : Nat) : Cause :=
  match i with
  | 0 => cBELLOWS_SUPPLY_HIGH
  | 1 => cBELLOWS_SUPPLY_LOW
  | 2 => cBELLOWS_SUPPLY_SHED
  | 3 => cBELLOWS_SUPPLY_NVM_DEFER
  | _ => cBELLOWS_SUPPLY_STOP

/-- Is row i in force, when the last four voltages sum to `v`? -/
def supplyNow (i v : Nat) (was : Bool) : Bool :=
  let r := supplyRow i
  if i = 0 then (if was then 4 * r.2 < v else 4 * r.1 < v) else if was then v < 4 * r.2 else v < 4 * r.1

/-- A threshold is passed: its cause, and its action. -/
def supplyEnter (i p throughput : Nat) (m : Dev) : Dev :=
  let m1 := raise (supplyCause i) m
  match i with
  | 2 => setD 0 { m1 with bellows := { m1.bellows with shed := some (p - throughput) } }
  | 4 => beginStop 1 m1
  | _ => m1

/-- A threshold clears: only its own action is undone. -/
def supplyLeave (i : Nat) (m : Dev) : Dev := if i = 2 then { m with bellows := { m.bellows with shed := none } } else m

def supplyRowStep (v p throughput i : Nat) (m : Dev) : Dev :=
  let was := m.bellows.supply.contains i
  let now := supplyNow i v was
  if was = now then m
  else if now then supplyEnter i p throughput { m with bellows := { m.bellows with supply := m.bellows.supply ++ [i] } }
  else supplyLeave i { m with bellows := { m.bellows with supply := m.bellows.supply.filter (· ≠ i) } }

/-- SAG, as the thresholds in force say. -/
def sagBits (m : Dev) : Nat :=
  (if m.bellows.supply.contains 2 then 1 else 0) + (if m.bellows.supply.contains 3 then 2 else 0) +
    (if m.bellows.supply.contains 4 then 4 else 0)

/-- Compare the average of the last four voltages with every threshold. -/
def supplyStep (cv p throughput : Nat) (m : Dev) : Dev :=
  let m1 := { m with bellows := { m.bellows with volts := (cv :: m.bellows.volts).take 4 } }
  if m1.bellows.volts.length < 4 then m1
  else
    let m2 := forEach (List.range 5) (supplyRowStep m1.bellows.volts.sum p throughput) m1
    wrF aBELLOWS_STATE fBELLOWS_STATE_SAG (sagBits m2) m2

/-! ### The control period (R427) -/

/-- THERMAL: a tile's clock or a stack's issue is limited by heat. -/
def setThermal (m : Dev) : Dev :=
  wrF aBELLOWS_STATE fBELLOWS_STATE_THERMAL (if m.bellows.heat.isEmpty && m.bellows.throttled.isEmpty then 0 else 1) m

def measured (x : Measure) (m : Dev) : Dev :=
  wr aBELLOWS_POWER (fBELLOWS_POWER_INPUT_W.of x.inputW.toNat ||| fBELLOWS_POWER_FLOOR_W.of x.floorW.toNat |||
    fBELLOWS_POWER_THROUGHPUT_W.of x.throughputW.toNat ||| fBELLOWS_POWER_INPUT_CV.of x.inputCv.toNat) m

/-- Pace holds and ballast of the period (R431). -/
def slopeCounts (x : Measure) (m : Dev) : Dev :=
  forEach (x.ballast.filter (· < 144)) (fun t => countSat (onTile aBELLOWS_TILE_STATS t) fBELLOWS_TILE_STATS_BALLAST 1)
    (forEach (x.pace.filter (fun p => p.1 < 144)) (fun p =>
      countSat (onTile aBELLOWS_TILE_STATS p.1) fBELLOWS_TILE_STATS_PACE p.2) m)

/-- One control period. Once the module has stopped, Bellows only measures. -/
def controlPeriod (x : Measure) (m : Dev) : Dev :=
  let m1 := measured x m
  if isSet aBELLOWS_STOP fBELLOWS_STOP_STOPPED m then m1
  else
    let p := x.inputW.toNat
    let m2 := supplyStep x.inputCv.toNat p x.throughputW.toNat (slopeCounts x m1)
    let m3 := capStep p (overcapStep p m2)
    let m4 := when (dutyHeld m3) (setD 0) m3
    forEach (List.range 144) setClock (setThermal m4)

/-! ### Temperature (R436) -/

/-- A threshold of BELLOWS_THERM in signed degrees. -/
def therm (f : Fld) (m : Dev) : Int := signed 8 (rdF aBELLOWS_THERM f m)
def tileCrit (m : Dev) : Int := min 115 (therm fBELLOWS_THERM_TILE_CRIT_C m)
def hbmCrit (m : Dev) : Int := min 105 (therm fBELLOWS_THERM_HBM_CRIT_C m)

/-- A signed byte. -/
def byteOf (x : Int) : Nat := (x % 256).toNat

def setHeat (t n : Nat) (m : Dev) : Dev := { m with bellows := { m.bellows with heat := m.bellows.heat.upd 0 t n } }
def setCool (t n : Nat) (m : Dev) : Dev := { m with bellows := { m.bellows with cool := m.bellows.cool.upd 0 t n } }

/-- A tile's hottest near sensor: a hot tile loses 25 MHz, a cool one regains 25 MHz at every tenth sample in a row. -/
def tileHeat (t : Nat) (c : Int) (m : Dev) : Dev :=
  let h := Sparse.get 0 m.bellows.heat t
  let limit := therm fBELLOWS_THERM_TILE_THROTTLE_C m
  if limit ≤ c then
    let m1 := when (h = 0) (raise cBELLOWS_THERM_TILE_LIMIT) m
    setCool t 0 (setHeat t (min (h + 1) ((fmaxOf t m - 500) / 25)) m1)
  else if c < limit - 2 && h ≠ 0 then
    let k := Sparse.get 0 m.bellows.cool t + 1
    if 10 ≤ k then setCool t 0 (setHeat t (h - 1) m) else setCool t k m
  else setCool t 0 m

/-- A stack's sensors. -/
def stackHeat (s : Nat) (c : Int) (m : Dev) : Dev :=
  let wasHot := Sparse.get false m.bellows.hot s
  let wasSlow := Sparse.get false m.bellows.throttled s
  let slowAt := therm fBELLOWS_THERM_HBM_THROTTLE_C m
  let hot := decide (therm fBELLOWS_THERM_HBM_HOT_C m ≤ c)
  let slow := decide (slowAt ≤ c) || (wasSlow && !decide (c < slowAt - 2))
  let m1 := when ((hot && !wasHot) || (slow && !wasSlow)) (raise cBELLOWS_THERM_HBM_HOT) m
  { m1 with bellows := { m1.bellows with
      hot := m1.bellows.hot.upd false s hot
      throttled := m1.bellows.throttled.upd false s slow } }

/-- The hottest of a list of readings and its index. -/
def hottest (xs : List Int) : Option (Int × Nat) :=
  (List.range xs.length).foldl (fun (best : Option (Int × Nat)) i =>
    let c := xs.getD i 0
    match best with
    | none => some (c, i)
    | some b => if b.1 < c then some (c, i) else some b) none

/-- The readings as BELLOWS_TEMP shows them. -/
def showTemps (tileC stackC : List Int) (m : Dev) : Dev :=
  let m1 := withSome (hottest tileC) (fun (x : Int × Nat) m =>
    wrF aBELLOWS_TEMP fBELLOWS_TEMP_DIE (dieOf x.2) (wrF aBELLOWS_TEMP fBELLOWS_TEMP_DIE_MAX (byteOf x.1) m)) m
  withSome (hottest stackC) (fun (x : Int × Nat) m =>
    wrF aBELLOWS_TEMP fBELLOWS_TEMP_STACK x.2 (wrF aBELLOWS_TEMP fBELLOWS_TEMP_HBM_MAX (byteOf x.1) m)) m1

/-- Every 10 µs: `tileC` is the hottest of the four sensors nearest to each tile, `stackC` that of each stack. -/
def thermalSample (tileC0 stackC0 : List Int) (m : Dev) : Dev :=
  let tileC := tileC0.take 144
  let stackC := stackC0.take 32
  let m1 := showTemps tileC stackC { m with bellows := { m.bellows with tileC := tileC } }
  let m2 := forEach (List.range tileC.length) (fun t => tileHeat t (tileC.getD t 0)) m1
  let m3 := setThermal (forEach (List.range stackC.length) (fun s => stackHeat s (stackC.getD s 0)) m2)
  let m4 := when (tileC.any (fun c => tileCrit m ≤ c)) (fun m => beginStop 2 (raise cBELLOWS_THERM_CRITICAL m)) m3
  when (stackC.any (fun c => hbmCrit m ≤ c)) (fun m => beginStop 3 (raise cBELLOWS_THERM_CRITICAL m)) m4

/-- Every 1 ms: hot coolant holds D at 0 until both readings are 2 °C below their limits. -/
def coolantSample (inlet outlet : Int) (m : Dev) : Dev :=
  let iMax := therm fBELLOWS_THERM_INLET_MAX_C m
  let oMax := therm fBELLOWS_THERM_OUTLET_MAX_C m
  let cool := decide (inlet ≤ iMax - 2 ∧ outlet ≤ oMax - 2)
  let iHot := decide (iMax ≤ inlet)
  let oHot := decide (oMax ≤ outlet)
  let m1 := wrF aBELLOWS_TEMP fBELLOWS_TEMP_OUTLET (byteOf outlet) (wrF aBELLOWS_TEMP fBELLOWS_TEMP_INLET (byteOf inlet) m)
  let m2 := when (iHot && !m.bellows.inletHot) (raise cBELLOWS_COOLANT_INLET_HIGH) m1
  let m3 := when (oHot && !m.bellows.outletHot) (raise cBELLOWS_COOLANT_OUTLET_HIGH) m2
  let m4 := { m3 with bellows := { m3.bellows with
      inletHot := iHot || (m.bellows.inletHot && !cool)
      outletHot := oHot || (m.bellows.outletHot && !cool) } }
  let m5 := when (dutyHeld m4) (setD 0) m4
  when (decide (therm fBELLOWS_THERM_OUTLET_CRIT_C m ≤ outlet)) (fun m =>
    beginStop 4 (raise cBELLOWS_COOLANT_OUTLET_CRIT m)) m5

/-! ### The remaining events of chapter 15 -/

/-- A CAP_W write during the fall of a stop is ignored (R444). -/
def capWrite (cap brake : Nat) (m : Dev) : Dev :=
  if isSet aBELLOWS_STOP fBELLOWS_STOP_STOPPING m then m
  else wr aBELLOWS_CAP (fBELLOWS_CAP_CAP_W.of cap ||| fBELLOWS_CAP_BRAKE_W.of brake) m

def brakeAssert (m : Dev) : Dev :=
  if isSet aBELLOWS_STATE fBELLOWS_STATE_BRAKE m then m
  else
    let m1 := wrF aBELLOWS_STATE fBELLOWS_STATE_BRAKE 1 (raise cBELLOWS_BRAKE_ASSERTED m)
    { m1 with power := { m1.power with brakeLow := true } }

/-- BRAKE_N is released. -/
def brakeRelease (m : Dev) : Dev :=
  let m1 := wrF aBELLOWS_STATE fBELLOWS_STATE_BRAKE 0 m
  { m1 with power := { m1.power with brakeLow := false } }

/-- The input is lost, or falls faster than the fall of a stop: the clocks stop at once (R443). -/
def inputLoss (m : Dev) : Dev := stopped (beginStop 1 (raise cBELLOWS_SUPPLY_STOP m))

/-- BELLOWS_TILE_CAL.START (R429): ignored while ROLE is not 0. -/
def sweepStart (t : Nat) (m : Dev) : Dev :=
  if roleOf t m ≠ 0 || stopNow m || Sparse.get false m.bellows.sweeping t then m
  else
    let m1 := wrF (onTile aBELLOWS_TILE_CAL t) fBELLOWS_TILE_CAL_DONE 0 m
    { m1 with bellows := { m1.bellows with sweeping := m1.bellows.sweeping.upd false t true } }

/-- The result of a sweep whose first `passed` steps passed: the highest, less GUARD_MHZ, never below 1,750; 0 when the test
fails at 1,750. -/
def foundMhz (passed guard : Nat) : Nat := if passed = 0 then 0 else max 1750 (1750 + 25 * (min passed 15 - 1) - guard)

/-- A sweep ends. It has run the grid self-test on the tile, which leaves what that leaves (R101). -/
def sweepDone (t passed : Nat) (m : Dev) : Dev :=
  if !Sparse.get false m.bellows.sweeping t then m
  else
    let g := rdF (onTile aBELLOWS_TILE_CAL t) fBELLOWS_TILE_CAL_GUARD_MHZ m
    when (passed = 0) (raise cBELLOWS_CAL_FAIL) (sweepEnds t (foundMhz passed g) (testLeaves t m))

/-! ### The commands -/

def execControlPeriod (x : Measure) (s : State) : Host.Outcome State Fault Refusal :=
  .next { s with dev := controlPeriod x s.dev }
def execThermalSample (tileC stackC : List Int) (s : State) : Host.Outcome State Fault Refusal :=
  .next { s with dev := thermalSample tileC stackC s.dev }
def execCoolantSample (inlet outlet : Int) (s : State) : Host.Outcome State Fault Refusal :=
  .next { s with dev := coolantSample inlet outlet s.dev }
def execDroop (t : TileId) (s : State) : Host.Outcome State Fault Refusal :=
  .next { s with dev := countSat (onTile aBELLOWS_TILE_STATS (tileIdx t)) fBELLOWS_TILE_STATS_DROOP 1 s.dev }
def execCapWrite (cap brake : BitVec 16) (s : State) : Host.Outcome State Fault Refusal :=
  .next { s with dev := capWrite cap.toNat brake.toNat s.dev }
def execBrakeAssert (s : State) : Host.Outcome State Fault Refusal := .next { s with dev := brakeAssert s.dev }
def execBrakeRelease (s : State) : Host.Outcome State Fault Refusal :=
  .next { s with dev := brakeRelease s.dev }
def execInputLoss (s : State) : Host.Outcome State Fault Refusal := .next { s with dev := inputLoss s.dev }
def execCalSweepStart (t : TileId) (s : State) : Host.Outcome State Fault Refusal :=
  .next { s with dev := sweepStart (tileIdx t) s.dev }
def execCalSweepDone (t : TileId) (passed : Nat) (s : State) : Host.Outcome State Fault Refusal :=
  .next { s with dev := sweepDone (tileIdx t) passed s.dev }

end Sys2Proof.Machine
end

