-- ==== Sys2Proof/Machine/Nvm.lean ====
section
/-! DEFINITION. The NVM (chapter 16, R452 to R458): partitions and footers, STORE, APPEND, the log; firmware images and their
verification (R468). -/
namespace Sys2Proof.Machine

/-! ### Bytes and partitions (R452, R453) -/

/-- `n` bytes of NVM from offset `a`. -/
def nvmBytes (a n : Nat) (m : Dev) : List Byte := (List.range n).map (fun i => Sparse.get (0 : Byte) m.nvm.bytes (a + i))
def nvmN (n a : Nat) (m : Dev) : Nat := leNat (nvmBytes a n m)
def nvmPut (a : Nat) (bs : List Byte) (m : Dev) : Dev := { m with nvm := { m.nvm with bytes := memPut m.nvm.bytes a bs } }

/-- A partition kept as two copies or halves: offsets of the two, size of one, and the number of its first footer. Code 1 is
the Keys partition; 2 to 5 are those of HEADLAND_NVM_CTRL. -/
structure NvmPart where
  at0 : Nat
  at1 : Nat
  size : Nat
  footer : Nat
  deriving DecidableEq, Repr

def nvmPart (code : Nat) : Option NvmPart :=
  match code with
  | 1 => some ⟨0x010000, 0x018000, 0x8000, 0⟩
  | 2 => some ⟨0x0800000, 0x1000000, 0x800000, 6⟩
  | 3 => some ⟨0x1800000, 0x2400000, 0xC00000, 8⟩
  | 4 => some ⟨0x0200000, 0x0400000, 0x200000, 4⟩
  | 5 => some ⟨0x0100000, 0x0180000, 0x80000, 2⟩
  | _ => none

def NvmPart.copy (p : NvmPart) (c : Nat) : Nat := if c = 0 then p.at0 else p.at1

/-- The offset of a footer. -/
def footerAt (k : Nat) : Nat := 0x1000 + 64 * k
def ftGen (k : Nat) (m : Dev) : Nat := nvmN 4 (footerAt k + 4) m
def ftState (k : Nat) (m : Dev) : Nat := nvmN 1 (footerAt k + 8) m
def ftLength (k : Nat) (m : Dev) : Nat := nvmN 4 (footerAt k + 12) m

/-- Is a copy valid (R453)? A GENERATION of 0 means that it is empty. -/
def copyValid (p : NvmPart) (c : Nat) (m : Dev) : Bool :=
  let k := p.footer + c
  nvmBytes (footerAt k) 4 m = [0x47#8, 0x5A#8, 0x4E#8, 0x56#8] && ftGen k m ≠ 0 && ftLength k m ≤ p.size &&
    nvmBytes (footerAt k + 16) 32 m = shake256 32 (nvmBytes (p.copy c) (ftLength k m) m)

/-- The generation of a copy, 0 when it is not valid. -/
def copyGen (p : NvmPart) (c : Nat) (m : Dev) : Nat := if copyValid p c m then ftGen (p.footer + c) m else 0

/-- The valid copy with the higher generation. -/
def bestCopy (p : NvmPart) (m : Dev) : Option Nat :=
  let g0 := copyGen p 0 m
  let g1 := copyGen p 1 m
  if g0 = 0 && g1 = 0 then none else if g0 < g1 then some 1 else some 0

/-- The content of a copy. -/
def nvmCopy (p : NvmPart) (c : Nat) (m : Dev) : List Byte := nvmBytes (p.copy c) (ftLength (p.footer + c) m) m

/-- The content of the half that a read of a two-half partition takes; empty when neither is valid. -/
def halfBytes (code : Nat) (m : Dev) : List Byte :=
  match nvmPart code with
  | none => []
  | some p =>
    match bestCopy p m with
    | some c => nvmCopy p c m
    | none => []

/-- HEADLAND_NVM_GEN of a partition code. -/
def genReg (code : Nat) : Nat := aHEADLAND_NVM_GEN (code - 2)
def refreshGen (code : Nat) (m : Dev) : Dev :=
  match nvmPart code with
  | none => m
  | some p => wr (genReg code)
      (fHEADLAND_NVM_GEN_GEN0.of (copyGen p 0 m) ||| fHEADLAND_NVM_GEN_GEN1.of (copyGen p 1 m)) m
def refreshGens (m : Dev) : Dev := forEach [2, 3, 4, 5] refreshGen m

/-- A footer (R453). -/
def footerBytes (gen state : Nat) (content : List Byte) : List Byte :=
  [0x47#8, 0x5A#8, 0x4E#8, 0x56#8] ++ toLe 4 gen ++ toLe 1 state ++ toLe 3 0 ++ toLe 4 content.length ++ shake256 32 content ++
    toLe 16 0

/-- Write a copy and its footer. -/
def writeCopy (p : NvmPart) (c gen state : Nat) (content : List Byte) (m : Dev) : Dev :=
  nvmPut (footerAt (p.footer + c)) (footerBytes gen state content) (nvmPut (p.copy c) content m)

/-- Set the STATE byte of a firmware footer. -/
def setFtState (c st : Nat) (m : Dev) : Dev := nvmPut (footerAt (6 + c) + 8) (toLe 1 st) m

/-- Are NVM writes refused because of the input voltage (R439, R440)? -/
def nvmDefer (m : Dev) : Bool := m.bellows.supply.contains 3

/-! ### The Keys partition (R465) -/

/-- The Keys half in force, 32 KiB. -/
def keysHalf (m : Dev) : List Byte := slice (halfBytes 1 m) 0 0x8000

/-- A list with bytes replaced from an offset. -/
def patch (bs : List Byte) (o : Nat) (x : List Byte) : List Byte := bs.take o ++ x ++ bs.drop (o + x.length)

/-- Store a new Keys half in the half not in force, one generation up (R454). -/
def storeKeys (half : List Byte) (m : Dev) : Dev :=
  match nvmPart 1 with
  | none => m
  | some p =>
    let g0 := copyGen p 0 m
    let g1 := copyGen p 1 m
    writeCopy p (if g0 ≤ g1 then 0 else 1) (max g0 g1 + 1) 2 half m

def kBootCount (m : Dev) : Nat := field (keysHalf m) 0 8
def kSecFloor (m : Dev) : Nat := field (keysHalf m) 8 4
def kOwned (m : Dev) : Bool := bitAt (field (keysHalf m) 12 4) 0
def kWrapSeq (w : Nat) (m : Dev) : Nat := field (keysHalf m) (16 + 4 * w) 4
def kWrapKey (w : Nat) (m : Dev) : List Byte := slice (keysHalf m) (0x40 + 32 * w) 32
def kPublicKey (m : Dev) : List Byte := slice (keysHalf m) 0x1000 1793
def kPrivateKey (m : Dev) : List Byte := slice (keysHalf m) 0x100 2305
def kCertified (m : Dev) : Bool := field (keysHalf m) 0x1800 2 ≠ 0

/-- A public slot of the half: its 4 KiB. -/
def kSlot (i : Nat) (m : Dev) : List Byte := slice (keysHalf m) (0x2000 + 0x1000 * i) 0x1000

/-- SCARE_PUBSLOT shows the public slots (R477). -/
def showSlots (m : Dev) : Dev :=
  forEach (List.range 6) (fun i m =>
    let e := kSlot i m
    wr (aSCARE_PUBSLOT i)
      (if field e 0 1 = 1 then fSCARE_PUBSLOT_VALID.of 1 ||| fSCARE_PUBSLOT_ROLE.of (field e 1 1) |||
        fSCARE_PUBSLOT_AUTHORITY.of (field e 2 1) ||| fSCARE_PUBSLOT_KEY_ID.of (leNat (shake256 4 (slice e 32 1793)))
      else 0) m) m

/-! ### Firmware images (R468) -/

def fwGen (c : List Byte) : Nat := field c 8 4
def fwVersion (c : List Byte) : Nat := field c 12 4
/-- The DIGEST in the signature block of an image or container. -/
def signedDigest (sigOff : Nat) (c : List Byte) : List Byte := slice c (sigOff + 8) 64
def fwDigest (c : List Byte) : List Byte := signedDigest (field c 20 4) c

/-- Does a public slot hold a key of a role? -/
def roleKey (slot role : Nat) (m : Dev) : Bool :=
  slot < 6 && isSet (aSCARE_PUBSLOT slot) fSCARE_PUBSLOT_VALID m && rdF (aSCARE_PUBSLOT slot) fSCARE_PUBSLOT_ROLE m = role

/-- Does the signature block at `sig` end the bytes and carry their digest, under a key of the role (R161)? -/
def signedBy (role sig : Nat) (c : List Byte) (signatureOk : Bool) (m : Dev) : Bool :=
  sig + 2048 = c.length && signedDigest sig c = shake256 64 (c.take sig) && roleKey (field c (sig + 2) 1) role m && signatureOk

/-- Is a firmware image's header in form? -/
def fwHeaderOk (c : List Byte) : Bool :=
  c.take 4 = [0x47#8, 0x5A#8, 0x46#8, 0x57#8] && field c 4 2 = 1 && field c 6 1 = 0xB0 && field c 7 1 = 0 &&
    field c 16 4 = c.length && (slice c 24 40).all (· = 0) && 64 ≤ field c 20 4 && c.length ≤ 0x800000

/-- Does an image verify? -/
def fwVerifies (c : List Byte) (signatureOk : Bool) (m : Dev) : Bool :=
  fwHeaderOk c && signedBy 1 (field c 20 4) c signatureOk m && kSecFloor m ≤ fwVersion c

/-- Does a Field Plan container pass the checks of a STORE: those of R162 but for KIND (R455)? -/
def planStorable (c : List Byte) (signatureOk : Bool) (m : Dev) : Bool :=
  match checkContainer c signatureOk { m with plan := { m.plan with booted := false } } with
  | .inl _ => false
  | .inr _ => true

/-! ### Lane settings in the Calibration partition (R514) -/

/-- A lane's record: VALID, what training or recalibration found (`settings` are bytes 1 to 10 of it), and BOOT_COUNT. -/
def laneRecord (settings : List Byte) (m : Dev) : List Byte :=
  [1#8] ++ slice settings 0 6 ++ [0#8] ++ slice settings 7 4 ++ toLe 4 0 ++ toLe 8 (kBootCount m) ++ toLe 8 0

/-- Store lanes' records in the half not in force, one generation up, unless NVM writes are refused. -/
def storeLanes (xs : List (Nat × List Byte)) (m : Dev) : Dev :=
  match nvmPart 4 with
  | none => m
  | some p =>
    if xs.isEmpty || nvmDefer m then m
    else
      let old := halfBytes 4 m
      let half := xs.foldl (fun h x => patch h (0x400 + 32 * x.1) (laneRecord x.2 m)) (slice old 0 (max 0x1F00 old.length))
      refreshGen 4 (writeCopy p (if copyGen p 0 m ≤ copyGen p 1 m then 0 else 1) (max (copyGen p 0 m) (copyGen p 1 m) + 1) 2
        half m)

/-- Have a lane's settings been stored since the module booted? -/
def laneStored (i : Nat) (m : Dev) : Bool :=
  let r := slice (halfBytes 4 m) (0x400 + 32 * i) 32
  bitAt (field r 0 1) 0 && decide (field r 16 8 = kBootCount m)

/-- Lanes have trained: those that had not since the boot have their settings stored; what training found is free. -/
def bootTrained (lanes : List Nat) (m : Dev) : Dev :=
  let new := lanes.filter (fun i => !laneStored i m)
  useFree (11 * new.length) (storeLanes (new.zipIdx.map (fun x => (x.1, freeBytes 11 { m with free := m.free + 11 * x.2 }))) m)

/-- TRAINING_DONE of a link: once it has trained, its lanes' settings are stored when this is the boot's training (R514). -/
def linkTrained (l lanes : Nat) (peerFec : Bool) (m : Dev) : Dev :=
  let m1 := trainingDone l lanes peerFec m
  when (linkState l m = 1 && linkState l m1 = 2) (bootTrained ((setBits 4 (lanesUp l m1)).map (fun j => 4 * l + j))) m1

/-! ### STORE (R454, R455) -/

def nvmState (n : Nat) (m : Dev) : Dev := wrF aHEADLAND_NVM_STATUS fHEADLAND_NVM_STATUS_STATE n m
def nvmResult (n : Nat) (m : Dev) : Dev := wrF aHEADLAND_NVM_STATUS fHEADLAND_NVM_STATUS_RESULT n m
def nvmPages (n : Nat) (m : Dev) : Dev := wrF aHEADLAND_NVM_STATUS fHEADLAND_NVM_STATUS_PAGES n m

/-- The copy that a STORE writes: the one not in use for firmware and Field Plan, the half of the lower generation else. -/
def targetCopy (code : Nat) (p : NvmPart) (m : Dev) : Nat :=
  match code with
  | 2 => 1 - rdF aHEADLAND_FW_STATUS fHEADLAND_FW_STATUS_RUNNING m
  | 3 => 1 - rdF aHEADLAND_BOOT fHEADLAND_BOOT_PLAN_COPY m
  | _ => if copyGen p 0 m ≤ copyGen p 1 m then 0 else 1

/-- What HEADLAND_NVM_SRC names. -/
def nvmSource (m : Dev) : ReadRes :=
  readVia .headland (rdF aHEADLAND_NVM_SRC fHEADLAND_NVM_SRC_ADDR m * 64) (rdF aHEADLAND_NVM_SRC fHEADLAND_NVM_SRC_LENGTH m * 8) m

/-- Is the content one that the partition takes? -/
def contentOk (code : Nat) (c : List Byte) (imageOk : Bool) (m : Dev) : Bool :=
  match code with
  | 2 => fwVerifies c imageOk m
  | 3 => planStorable c imageOk m
  | _ => true

/-- Start a STORE of content into a partition, or answer why not. -/
def startStore (code gen : Nat) (content : List Byte) (imageOk : Bool) (m : Dev) : Dev :=
  match nvmPart code with
  | none => nvmResult 4 m
  | some p =>
    if code < 2 || gen ≤ copyGen p 0 m || gen ≤ copyGen p 1 m || p.size < content.length || !contentOk code content imageOk m then
      nvmResult 4 m
    else if nvmDefer m then nvmResult 2 m
    else nvmState 1 (nvmResult 0 (nvmPages 0 { m with nvm := { m.nvm with
      store := some ⟨code, targetCopy code p m, gen, content.length, content⟩ } }))

/-- STORE. Its source is read as it stands when the STORE begins (DESIGN CHOICE, log entry 78). While a page fault holds the read, the
command has no effect but the fault, and is given again (R311; DESIGN CHOICE, log entry 17). -/
def nvmStore (imageOk : Bool) (m : Dev) : Dev :=
  if m.nvm.store.isSome then nvmResult 3 m
  else
    let r := nvmSource m
    if r.st = .held then heldBy 0 r.m m
    else if r.st ≠ .ok then nvmResult 4 r.m
    else startStore (rdF aHEADLAND_NVM_CTRL fHEADLAND_NVM_CTRL_PARTITION m)
      (rdF aHEADLAND_NVM_CTRL fHEADLAND_NVM_CTRL_GENERATION m) r.data imageOk r.m

/-- A STORE that ends before its directory page: some of its pages are written, how many is free (DESIGN CHOICE, log entry 78). -/
def storeStops (j : StoreJob) (p : NvmPart) (result : Nat) (m : Dev) : Dev :=
  let k := (drawFree m).toNat % ((j.length + 4095) / 4096 + 1)
  let m1 := useFree 1 (nvmPut (p.copy j.copy) (j.data.take (4096 * k)) m)
  refreshGen j.partition (nvmPages k (nvmResult result m1))

/-- The STORE ends: committed by its directory page, DEFERRED by the input voltage, or failed by a page that twice fails its
write-verify. -/
def storeComplete (writeOk : Bool) (m : Dev) : Dev :=
  match m.nvm.store with
  | none => m
  | some j =>
    match nvmPart j.partition with
    | none => m
    | some p =>
      let m1 := nvmState 0 { m with nvm := { m.nvm with store := none } }
      if nvmDefer m1 then storeStops j p 2 m1
      else if !writeOk then raise cHEADLAND_NVM_STORE_FAIL (storeStops j p 5 m1)
      else refreshGen j.partition (nvmPages ((j.length + 4095) / 4096) (nvmResult 1
        (writeCopy p j.copy j.gen (if j.partition = 2 then 0 else 2) j.data m1)))

/-! ### The log (R458) -/

/-- APPEND: the first 16 bytes of the record are the module's. -/
def appendLog (m : Dev) : Dev :=
  if m.nvm.store.isSome then nvmResult 3 m
  else if nvmDefer m then nvmResult 2 m
  else
    let r := readVia .headland (rdF aHEADLAND_NVM_SRC fHEADLAND_NVM_SRC_ADDR m * 64) 64 m
    if r.st = .held then heldBy 0 r.m m
    else if r.st ≠ .ok then nvmResult 4 r.m
    else nvmResult 1 (addLog (toLe 8 (wallClock r.m).toNat ++ toLe 8 r.m.time.toNat ++ r.data.drop 16) r.m)

/-- Gathered records are written at the log's next slots; not while NVM writes are refused. -/
def logPageWrite (m : Dev) : Dev :=
  if nvmDefer m then m
  else
    let m1 := forEach m.nvm.gathered (fun r m =>
      let k := m.nvm.logNext
      let m' := nvmPut (0x3000000 + 64 * k) r m
      { m' with nvm := { m'.nvm with logNext := (k + 1) % 262144 } }) m
    { m1 with nvm := { m1.nvm with gathered := [] } }

/-! ### The commands -/

def execTrainingDone (l : Fin 36) (lanes : BitVec 4) (peerFec : Bool) (s : State) : Host.Outcome State Fault Refusal :=
  .next { s with dev := linkTrained l.val lanes.toNat peerFec s.dev }
def execStore (imageOk : Bool) (s : State) : Host.Outcome State Fault Refusal := .next { s with dev := nvmStore imageOk s.dev }
def execAppendLog (s : State) : Host.Outcome State Fault Refusal := .next { s with dev := appendLog s.dev }
def execLogPageWrite (s : State) : Host.Outcome State Fault Refusal := .next { s with dev := logPageWrite s.dev }

end Sys2Proof.Machine
end

