-- ==== Sys2Proof/Machine/Scarecrow.lean ====
section
/-! DEFINITION. Scarecrow (chapter 16): key actions (R466, R467), random-source health (R464), model digests (R471, R472) and
attestation reports (R473). -/
namespace Sys2Proof.Machine

/-! ### Key actions (R466) -/

/-- The end of a key action. A refusal raises KEY/REFUSED; 1 done and 8 DEFERRED do not. -/
def keyEnds (slot result : Nat) (m : Dev) : Dev :=
  let m1 := wr aSCARE_KEY_STATUS (fSCARE_KEY_STATUS_SLOT.of slot ||| fSCARE_KEY_STATUS_RESULT.of result) m
  when (result ≠ 1 && result ≠ 8) (raise cSCARECROW_KEY_REFUSED) m1

/-- A signature that does not verify raises VERIFY/FAIL (R469). -/
def keySignatureFails (slot : Nat) (m : Dev) : Dev := keyEnds slot 5 (raise cSCARECROW_VERIFY_FAIL m)

/-- Store the Keys half before the action reports done; a deferred store changes nothing. -/
def keyStores (slot : Nat) (half : List Byte) (f : Dev → Dev) (m : Dev) : Dev :=
  if nvmDefer m then keyEnds slot 8 m else keyEnds slot 1 (showSlots (f (storeKeys half m)))

/-- `n` bytes of a key action's input. -/
def keyInput (n : Nat) (m : Dev) : ReadRes := readVia .headland (rdF aSCARE_KEY_CTRL fSCARE_KEY_CTRL_ADDR m * 64) n m

def setKey (slot : Nat) (x : KeySlot) (m : Dev) : Dev := { m with keys := m.keys.upd KeySlot.empty slot x }

def anyByte (bs : List Byte) : Bool := bs.any (· ≠ 0)

/-- ACTION 1 (R467): `key` is what the tag check opens. -/
def keyInstall (tagOk : Bool) (key : BitVec 256) (m : Dev) : Dev :=
  let r := keyInput 64 m
  let b := r.data
  let slot := field b 0 1
  let usage := field b 1 1
  let w := field b 2 1
  let seq := field b 4 4
  if r.st = .held then heldBy 0 r.m m
  else if r.st ≠ .ok then keyEnds slot 2 r.m
  else if 3 < w || !anyByte (kWrapKey w m) || usage = 0 || 3 < usage || (if usage = 3 then 3 < slot else slot < 16) then
    keyEnds slot 4 r.m
  else if !tagOk then keyEnds slot 2 r.m
  else if seq ≤ kWrapSeq w m then keyEnds slot 3 r.m
  else
    let half := patch (keysHalf m) (16 + 4 * w) (toLe 4 seq)
    if usage = 3 then keyStores slot (patch half (0x40 + 32 * slot) (toLe 32 key.toNat)) id r.m
    else keyStores slot half (setKey slot ⟨usage, key⟩) r.m

/-- The first public slot that holds no key. -/
def freeSlot (m : Dev) : Option Nat := (List.range 6).find? (fun i => field (kSlot i m) 0 1 ≠ 1)

/-- May the authority slot sign a key of the role? -/
def authorityOk (role authority : Nat) (m : Dev) : Bool :=
  let a := kSlot authority m
  authority < 6 && field a 0 1 = 1 &&
    (if role = 1 then field a 1 1 = 0 else (role = 2 || role = 3) && (field a 1 1 = 0 || field a 1 1 = 4))

/-- ACTION 2: an entry in the form of R465 goes into the first free public slot (DEDUCED, log entry 80). -/
def keyPublic (signatureOk : Bool) (m : Dev) : Dev :=
  let r := keyInput 0x1000 m
  let e := r.data
  match freeSlot m with
  | none => keyEnds 0 4 r.m
  | some i =>
    if r.st = .held then heldBy 0 r.m m
    else if r.st ≠ .ok || field e 0 1 ≠ 1 || !authorityOk (field e 1 1) (field e 2 1) m then keyEnds i 4 r.m
    else if !signatureOk then keySignatureFails i r.m
    else keyStores i (patch (keysHalf m) (0x2000 + 0x1000 * i) e) id r.m

/-- ACTION 3: the owner key and wrap key 0 in clear, one behind the other (DEDUCED, log entry 80). -/
def keyCommission (m : Dev) : Dev :=
  let r := keyInput 1825 m
  if kOwned m then keyEnds 0 6 r.m
  else match freeSlot m with
    | none => keyEnds 0 4 r.m
    | some i =>
      if r.st = .held then heldBy 0 r.m m
      else if r.st ≠ .ok then keyEnds i 4 r.m
      else
        let entry := [1#8, 4#8, BitVec.ofNat 8 i] ++ toLe 29 0 ++ slice r.data 0 1793 ++ toLe 2271 0
        let half := patch (patch (patch (keysHalf m) (0x2000 + 0x1000 * i) entry) 0x40 (slice r.data 1793 32)) 12
          (toLe 4 (Nat.lor (field (keysHalf m) 12 4) 1))
        keyStores i half (wrF aHEADLAND_BOOT fHEADLAND_BOOT_OWNED 1) r.m

/-- Is a public slot the owner's, or signed by the owner? -/
def ownersSlot (i : Nat) (m : Dev) : Bool :=
  let e := kSlot i m
  field e 0 1 = 1 && (field e 1 1 = 4 || (let a := kSlot (field e 2 1) m
    field e 2 1 < 6 && field a 0 1 = 1 && field a 1 1 = 4))

/-- ACTION 4. -/
def keyRelease (signatureOk : Bool) (m : Dev) : Dev :=
  if !kOwned m then keyEnds 0 6 m
  else if !signatureOk then keySignatureFails 0 m
  else
    let half := ((List.range 6).filter (fun i => ownersSlot i m)).foldl (fun h i =>
      patch h (0x2000 + 0x1000 * i) (List.replicate 0x1000 0)) (keysHalf m)
    let half1 := patch (patch half 0x40 (List.replicate 128 0)) 12 (toLe 4 (field (keysHalf m) 12 4 / 2 * 2))
    keyStores 0 half1 (fun m => wrF aHEADLAND_BOOT fHEADLAND_BOOT_OWNED 0 { m with keys := [] }) m

/-- ACTION 5. -/
def keyClear (slot : Nat) (m : Dev) : Dev :=
  if slot < 16 then keyEnds slot 4 m else keyEnds slot 1 (setKey slot KeySlot.empty m)

/-- A health test of the random source begins or ceases to fail (R464). -/
def trngHealth (failing : Bool) (m : Dev) : Dev :=
  let m1 := when (failing && !m.scare.trngFault) (raise cSCARECROW_TRNG_HEALTH) m
  { m1 with scare := { m1.scare with trngFault := failing } }

/-! ### Model digests (R471) -/

def digestState (n : Nat) (m : Dev) : Dev := wrF aSCARE_DIGEST_STATUS fSCARE_DIGEST_STATUS_STATE n m
/-- A job ends failed, with why and at which piece. -/
def digestFails (why piece done : Nat) (m : Dev) : Dev :=
  wr aSCARE_DIGEST_STATUS (fSCARE_DIGEST_STATUS_STATE.of 3 ||| fSCARE_DIGEST_STATUS_FAIL.of why |||
    fSCARE_DIGEST_STATUS_PIECE.of piece ||| fSCARE_DIGEST_STATUS_DONE.of done) { m with scare := { m.scare with job := none } }

def mfPieces (c : List Byte) : Nat := field c 12 4
def mfSig (c : List Byte) : Nat := field c 16 4
def mfEntry (c : List Byte) (i : Nat) : List Byte := slice c (64 + 48 * i) 48

/-- Is a manifest in the form of R471? -/
def manifestForm (c : List Byte) : Bool :=
  c.take 4 = [0x47#8, 0x5A#8, 0x4D#8, 0x4D#8] && field c 4 4 = 1 && (slice c 20 44).all (· = 0) &&
    mfSig c = 64 + 48 * mfPieces c &&
    (List.range (mfPieces c)).all (fun i => field (mfEntry c i) 0 8 % 65536 = 0 && field (mfEntry c i) 8 8 ≤ 0x4000000)

/-- ACTION 1: VERIFIED of the epoch clears, the manifest is checked, and the job runs. -/
def digestStart (signatureOk : Bool) (m : Dev) : Dev :=
  if m.scare.job.isSome then m
  else
    let e := rdF aSCARE_DIGEST_CTRL fSCARE_DIGEST_CTRL_EPOCH m
    let a := rdF aSCARE_DIGEST_CTRL fSCARE_DIGEST_CTRL_MANIFEST m * 64
    let m1 := wrF (aSCARE_EPOCH e) fSCARE_EPOCH_VERIFIED 0 m
    let h := readVia .headland a 64 m1
    let r := readVia .headland a (mfSig h.data + 2048) h.m
    if h.st = .held || r.st = .held then heldBy 0 r.m m
    else if h.st ≠ .ok || r.st ≠ .ok || !signedBy 3 (mfSig h.data) r.data signatureOk m then
      digestFails 1 0 0 (raise cSCARECROW_VERIFY_FAIL r.m)
    else if !manifestForm r.data then digestFails 2 0 0 r.m
    else wr aSCARE_DIGEST_STATUS (fSCARE_DIGEST_STATUS_STATE.of 1) { r.m with scare := { r.m.scare with
      job := some ⟨e, r.data, rdF aSCARE_DIGEST_BASE fSCARE_DIGEST_BASE_BASE m * 65536⟩ } }

/-- ACTION 2. -/
def digestStop (m : Dev) : Dev :=
  if m.scare.job.isSome then
    digestFails 4 0 (rdF aSCARE_DIGEST_STATUS fSCARE_DIGEST_STATUS_DONE m) m
  else m

/-- A piece of the model as it is read. -/
def pieceRead (j : DigestJob) (i : Nat) (m : Dev) : ReadRes :=
  let e := mfEntry j.manifest i
  readVia .headland (loc (j.base + field e 0 8)) (field e 8 8) m

/-- Does a piece match its digest? One that cannot be read does not. -/
def pieceOk (j : DigestJob) (i : Nat) (m : Dev) : Bool :=
  let r := pieceRead j i m
  r.st = .ok && shake256 32 r.data = slice (mfEntry j.manifest i) 16 32

/-- The job ends: every piece matched, or the first that did not is recorded. -/
def digestDone (m : Dev) : Dev :=
  match m.scare.job with
  | none => m
  | some j =>
    let n := mfPieces j.manifest
    match (List.range n).find? (fun i => !pieceOk j i m) with
    | some i =>
      let r := pieceRead j i m
      if r.st = .held then heldBy 0 r.m m else raise cSCARECROW_MODEL_MISMATCH (digestFails 3 i i m)
    | none =>
      let d := signedDigest (mfSig j.manifest) j.manifest
      let m1 := { m with scare := { m.scare with job := none, manifests := m.scare.manifests.upd [] j.epoch d } }
      let m2 := wr aSCARE_DIGEST_STATUS (fSCARE_DIGEST_STATUS_STATE.of 2 ||| fSCARE_DIGEST_STATUS_DONE.of n) m1
      extendM d (wr (aSCARE_EPOCH j.epoch) (fSCARE_EPOCH_VERIFIED.of 1 |||
        fSCARE_EPOCH_MODEL_ID.of (field j.manifest 8 4)) m2)

/-! ### Attestation (R473) -/

/-- The identity digest as HEADLAND_ID_DIGEST holds it. -/
def idDigest (m : Dev) : List Byte := ((List.range 4).map (fun i => toLe 8 (rd (aHEADLAND_ID_DIGEST i) m).toNat)).flatten

/-- One epoch of the report: the manifest DIGEST is the first 32 bytes of the one signed (DEDUCED, log entry 82). -/
def reportEpoch (e : Nat) (m : Dev) : List Byte :=
  toLe 4 (rdF (aSCARE_EPOCH e) fSCARE_EPOCH_MODEL_ID m) ++ toLe 4 (rdF (aSCARE_EPOCH e) fSCARE_EPOCH_VERIFIED m) ++
    slice (Sparse.get [] m.scare.manifests e) 0 32

/-- The 480-byte report. -/
def attestReport (nonce : List Byte) (m : Dev) : List Byte :=
  [0x47#8, 0x5A#8, 0x41#8, 0x54#8, 1#8, 0xB0#8, 0#8, 0#8] ++ slice nonce 0 32 ++ idDigest m ++ toLe 8 (kBootCount m) ++
    toLe 8 m.time.toNat ++ toLe 4 (rdF aHEADLAND_FW_STATUS fHEADLAND_FW_STATUS_RUNNING_GEN m) ++ toLe 4 m.scare.running ++
    toLe 8 (rd aFPLAN_ACTIVE_ID m).toNat ++ toLe 8 (rd aFPLAN_ACTIVE m).toNat ++ measurement m ++ toLe 16 0 ++
    ((List.range 8).map (fun e => reportEpoch e m)).flatten

/-- The identity record (R459). -/
def idRecord (m : Dev) : List Byte := nvmBytes 0 4096 m
/-- Is the record locked (R460)? With another LOCK the module is a test part (R461). -/
def idLocked (m : Dev) : Bool := field (idRecord m) 8 8 = 0x0F1E2D3C4B5A6978

/-- May Scarecrow sign? A test part never uses an identity key (R461). -/
def maySign (m : Dev) : Bool := isSet aHEADLAND_BOOT fHEADLAND_BOOT_CERTIFIED m && !m.scare.trngFault && idLocked m

/-! ### The commands -/

def execKeyInstall (tagOk : Bool) (key : BitVec 256) (s : State) : Host.Outcome State Fault Refusal :=
  .next { s with dev := keyInstall tagOk key s.dev }
def execKeyPublic (signatureOk : Bool) (s : State) : Host.Outcome State Fault Refusal :=
  .next { s with dev := keyPublic signatureOk s.dev }
def execKeyCommission (s : State) : Host.Outcome State Fault Refusal := .next { s with dev := keyCommission s.dev }
def execKeyRelease (signatureOk : Bool) (s : State) : Host.Outcome State Fault Refusal :=
  .next { s with dev := keyRelease signatureOk s.dev }
def execKeyClear (slot : BitVec 8) (s : State) : Host.Outcome State Fault Refusal :=
  .next { s with dev := keyClear slot.toNat s.dev }
def execTrngHealth (failing : Bool) (s : State) : Host.Outcome State Fault Refusal :=
  .next { s with dev := trngHealth failing s.dev }
def execDigestStart (signatureOk : Bool) (s : State) : Host.Outcome State Fault Refusal :=
  .next { s with dev := digestStart signatureOk s.dev }
def execDigestStop (s : State) : Host.Outcome State Fault Refusal := .next { s with dev := digestStop s.dev }
def execDigestDone (s : State) : Host.Outcome State Fault Refusal := .next { s with dev := digestDone s.dev }

end Sys2Proof.Machine
end

