-- ==== Sys2Proof/Machine/Mesh.lean ====
section
/-! DEFINITION. The mesh, the Headland bridges and the reference oscillators (chapter 1, R11 to R16, R29), and the sources of a stop in
order (R442). -/
namespace Sys2Proof.Machine

/-- The lower-numbered die of a mesh edge (R11): M0 to M2 north row, M3 to M5 south row, M6 to M9 columns. -/
def edgeDie (e : Nat) : Nat := if e < 3 then e else if e < 6 then e + 1 else e - 6

/-! ### Paths of the die fabric (R12, R14) -/

/-- The edges of a row between two columns, and the edge of a column. -/
def rowEdges (row a b : Nat) : List Nat := ((List.range 3).filter (fun c => min a b ≤ c && c < max a b)).map (fun c => 3 * row + c)
def columnEdge (c : Nat) : Nat := 6 + c

/-- The path from die s to die t that changes rows, if it does, at column c: along its own row first. -/
def pathBy (s t c : Nat) : List Nat :=
  rowEdges (s / 4) (s % 4) c ++ (if s / 4 = t / 4 then [] else [columnEdge c]) ++ rowEdges (t / 4) c (t % 4)

/-- The path within one row through the other one. -/
def pathRound (s t : Nat) : List Nat :=
  columnEdge (s % 4) :: rowEdges (1 - s / 4) (s % 4) (t % 4) ++ [columnEdge (t % 4)]

/-- The columns, nearest to column c first. -/
def columnsFrom (c : Nat) : List Nat :=
  ([0, 1, 2, 3].map (fun d => if d = 0 then [c] else (if d ≤ c then [c - d] else []) ++ (if c + d < 4 then [c + d] else []))).flatten

/-- The path from one die to another over the edges in service (R12, R14; DEDUCED, log entry 14). -/
def diePath (s t : Nat) (m : Dev) : List Nat :=
  let ways := if s / 4 = t / 4 then [pathBy s t (t % 4), pathRound s t] else (columnsFrom (t % 4)).map (pathBy s t)
  (ways.find? (fun w => w.all (fun e => !Sparse.get false m.mesh.edgeDown e))).getD []

/-! ### Traffic on an edge (R14) -/

/-- Does what a die exchanges with the outside for a packet cross an edge: its way to the link that the packet takes, or to the die of
DEST within this module? -/
def crosses (e d : Nat) (p : Packet) (m : Dev) : Bool :=
  (diePath d ((outgoingLink d p m).elim (destDieOf p) linkDie) m).contains e

/-- Does an outstanding collective of a ring have traffic on an edge: a lane's die and the link to some member? -/
def collCrosses (e : Nat) (c : Coll) (m : Dev) : Bool :=
  match groupOf c.group m with
  | none => false
  | some g => (c.lanes.filter (fun l => !l.done)).any (fun l => (List.range g.members).any (fun i =>
      crosses e (dieOf l.tile) (formed ⟨ptCHUNK, if c.desc.express then 0 else 1, dieOf l.tile,
        placeWord (grpCoord g i) (dieOf l.tile), c.job, 0, [], false, false⟩ m) m))

/-- Has the open group of a ring traffic in flight on an edge: a fabric request, or a collective (DEDUCED, log entry 14)? -/
def ringCrosses (e q : Nat) (m : Dev) : Bool :=
  ringOpen q m && (m.net.reqs.any (fun r => waitsFor q r.waiter && crosses e r.die r.p m) ||
    (m.drone.colls.filter (fun c => c.ring = q)).any (fun c => collCrosses e c m))

/-- The stage that the boot has reached (R448). -/
def bootStageOf (m : Dev) : Nat := rdF aHEADLAND_BOOT fHEADLAND_BOOT_STAGE m

/-- Do `f` to RESOURCE_SUMMARY once boot has come to the stage that brings the resources into service (R31). -/
def summed (f : Dev → Dev) (m : Dev) : Dev := when (6 ≤ bootStageOf m) f m

/-- An edge leaves service (R13): groups with traffic on it are killed and rerun, later traffic goes another way (R14), EDGES_DOWN
counts it. -/
def edgeDown (e : Nat) (m : Dev) : Dev :=
  if Sparse.get false m.mesh.edgeDown e then m
  else
    let m1 := forEach ((List.range 256).filter (fun q => ringCrosses e q m)) groupKill m
    let m2 := { m1 with mesh := { m1.mesh with edgeDown := m1.mesh.edgeDown.upd false e true } }
    raise (cDIE_FABRIC_EDGE_DOWN (edgeDie e))
      (summed (countSat aHEADLAND_RESOURCE_SUMMARY fHEADLAND_RESOURCE_SUMMARY_EDGES_DOWN 1) m2)

/-- An edge is left with `n` of its 25 modules (R13). -/
def edgeLeft (e n : Nat) (m : Dev) : Dev :=
  if Sparse.get false m.mesh.edgeDown e || 25 ≤ n + Sparse.get 0 m.mesh.lost e then m
  else if n < 13 then edgeDown e m
  else raise (cDIE_FABRIC_EDGE_DEGRADED (edgeDie e)) { m with mesh := { m.mesh with lost := m.mesh.lost.upd 0 e (25 - n) } }

/-- BRIDGES_UP shows the bridges in service. -/
def showBridges (m : Dev) : Dev :=
  wrF aHEADLAND_RESOURCE_SUMMARY fHEADLAND_RESOURCE_SUMMARY_BRIDGES_UP
    ((List.range 2).filter (fun b => !Sparse.get false m.mesh.bridgeDown b)).length m

/-- A bridge fails (R16); with both down the module stops in order. -/
def bridgeDown (b : Nat) (m : Dev) : Dev :=
  if Sparse.get false m.mesh.bridgeDown b then m
  else
    let m1 := summed (showBridges) { m with mesh := { m.mesh with bridgeDown := m.mesh.bridgeDown.upd false b true } }
    let m2 := raise cHEADLAND_BRIDGE_DOWN m1
    when (Sparse.get false m2.mesh.bridgeDown 0 && Sparse.get false m2.mesh.bridgeDown 1) (beginStop 6) m2

/-- A reference oscillator stops (R29): local time stands still without the 156.25 MHz one, REFCLK without the 100 MHz one (R496). -/
def refLoss (x : Oscillator) (m : Dev) : Dev :=
  let m1 := match x with
    | .mhz156 => { m with mesh := { m.mesh with clockStopped := true } }
    | .mhz100 => { m with slots := { m.slots with refclk := 0 } }
  beginStop 5 (raise cHEADLAND_CLOCK_REF_LOSS m1)

/-- The cause and the reason of a source of a stop (R442). Sources carried by other rows raise theirs here too; which oscillator
stopped is the row REF_LOSS's to say. -/
def stopSource (x : StopSource) (m : Dev) : Dev :=
  match x with
  | .firmware => beginStop 7 m
  | .supply => beginStop 1 (raise cBELLOWS_SUPPLY_STOP m)
  | .dieTemperature => beginStop 2 (raise cBELLOWS_THERM_CRITICAL m)
  | .stackTemperature => beginStop 3 (raise cBELLOWS_THERM_CRITICAL m)
  | .coolant => beginStop 4 (raise cBELLOWS_COOLANT_OUTLET_CRIT m)
  | .refLoss => beginStop 5 (raise cHEADLAND_CLOCK_REF_LOSS m)
  | .bridges => bridgeDown 1 (bridgeDown 0 m)

def execEdgeDegraded (edge : Fin 10) (modules : Fin 26) (s : State) : Host.Outcome State Fault Refusal :=
  .next { s with dev := edgeLeft edge.val modules.val s.dev }
def execEdgeDown (edge : Fin 10) (s : State) : Host.Outcome State Fault Refusal :=
  .next { s with dev := edgeDown edge.val s.dev }
def execBridgeDown (bridge : Fin 2) (s : State) : Host.Outcome State Fault Refusal :=
  .next { s with dev := bridgeDown bridge.val s.dev }
def execRefDrift (s : State) : Host.Outcome State Fault Refusal :=
  .next { s with dev := raise cHEADLAND_CLOCK_REF_DRIFT s.dev }
def execRefLoss (osc : Oscillator) (s : State) : Host.Outcome State Fault Refusal := .next { s with dev := refLoss osc s.dev }
def execStop (source : StopSource) (s : State) : Host.Outcome State Fault Refusal :=
  .next { s with dev := stopSource source s.dev }

end Sys2Proof.Machine
end

