-- ==== Sys2Proof/Machine/Boot.lean ====
section
/-! DEFINITION. Boot (R448 to R451, R459 to R465, R469, R470), the live firmware update (R474 to R476), power and resets
(R499, R502 to R504). -/
namespace Sys2Proof.Machine

/-! ### Small parts -/

/-- Set RWS fields as the boot firmware does: the value is staged and committed at once. -/
def bootSet (off : Nat) (v : Word) (m : Dev) : Dev :=
  let old := rd off m
  let m1 := wr off ((old &&& ~~~ rwsMask off) ||| (v &&& rwsMask off)) m
  match locate off with
  | some p => committedReg off p old m1
  | none => m1

def setBoot (f : Fld) (n : Nat) (m : Dev) : Dev := wrF aHEADLAND_BOOT f n m

/-- The staged image of the management channel as bytes. -/
def imageBytes (x : Image) : List Byte := (List.range x.length).map (fun i => Sparse.get (0 : Byte) x.bytes i)

/-- The verified staged image of a kind. -/
def imageOf (kind : Nat) (m : Dev) : Option (List Byte) :=
  match m.mgmt.image with
  | some x => if x.kind = kind && x.ok then some (imageBytes x) else none
  | none => none

/-! ### Identity (R459 to R463) -/

def idDigestOk (m : Dev) : Bool :=
  slice (idRecord m) 4032 32 = shake256 32 (patch ((idRecord m).take 4032) 8 (List.replicate 8 0))
/-- HEADLAND_ID_DIGEST (R462). -/
def setIdDigest (m : Dev) : Dev :=
  let d := shake256 32 (kPublicKey m ++ slice (idRecord m) 4032 32)
  forEach (List.range 4) (fun i => wr (aHEADLAND_ID_DIGEST i) (BitVec.ofNat 64 (field d (8 * i) 8))) m

/-! ### The stages: the module after the stage, and whether the boot goes on -/

/-- Both oscillators run (R29, R496). -/
def clocksRun (m : Dev) : Dev :=
  { m with mesh := { m.mesh with clockStopped := false }, slots := { m.slots with refclk := slotsUsed m } }

/-- Stage 1: oscillators, footer directory, identity record. Which oscillator failed the check is not said: local time goes on
(DESIGN CHOICE, log entry 114). -/
def boot1 (x : BootInputs) (m : Dev) : Dev × Bool :=
  let m1 := refreshGens (when x.oscillatorsOk clocksRun m)
  if !x.oscillatorsOk then (refLoss .mhz100 m1, false)
  else if idLocked m1 && !idDigestOk m1 then (raise cHEADLAND_IDENTITY_RECORD_BAD m1, false)
  else (m1, true)

/-- A first boot generates the identity key and stores it (R463). -/
def makeKey (newKey : List Byte) (m : Dev) : Dev :=
  setBoot fHEADLAND_BOOT_FIRST_BOOT 1
    (storeKeys (patch (patch (keysHalf m) 0x100 (slice newKey 0 2305)) 0x1000 (slice newKey 2305 1793)) m)

/-- Stage 2 stops for good (R463): SCARECROW/IDENTITY/KEY_BAD. -/
def keyIsBad (m : Dev) : Dev :=
  raise cSCARECROW_IDENTITY_KEY_BAD { m with scare := { m.scare with keyBad := true } }

/-- Stage 2: slot 0 and the identity key. -/
def boot2 (x : BootInputs) (m : Dev) : Dev × Bool :=
  let m1 := setBoot fHEADLAND_BOOT_CERTIFIED (if kCertified m then 1 else 0)
    (setBoot fHEADLAND_BOOT_OWNED (if kOwned m then 1 else 0) (showSlots m))
  if !x.slot0Ok then (keyIsBad m1, false)
  else if !idLocked m1 then (m1, true)
  else if !anyByte (kPrivateKey m1) then
    if kCertified m1 then (keyIsBad m1, false)
    else if m1.scare.trngFault || nvmDefer m1 then (m1, false)
    else (setIdDigest (makeKey x.newKey m1), false)
  else if kCertified m1 then
    if x.keyPairOk then (setIdDigest m1, true) else (keyIsBad m1, false)
  else (setIdDigest m1, false)

/-- Stage 3: BOOT_COUNT (R465). -/
def boot3 (m : Dev) : Dev × Bool :=
  if nvmDefer m then (m, false)
  else
    let n := kBootCount m + 1
    (setBoot fHEADLAND_BOOT_BOOT_COUNT n (storeKeys (patch (keysHalf m) 0 (toLe 8 n)) m), true)

/-- An image starts to run: M is extended by it, FW_STATUS shows it. -/
def fwStart (copy state : Nat) (img : List Byte) (m : Dev) : Dev :=
  let m1 := extendM (fwDigest img) { m with scare := { m.scare with running := fwVersion img } }
  wr aHEADLAND_FW_STATUS (fHEADLAND_FW_STATUS_RUNNING_GEN.of (fwGen img) ||| fHEADLAND_FW_STATUS_SEC_FLOOR.of (kSecFloor m) |||
    fHEADLAND_FW_STATUS_STATE.of state ||| fHEADLAND_FW_STATUS_RUNNING.of copy) m1

/-- The valid copies of a partition with STATE 2, the higher generation first. -/
def confirmedCopies (code : Nat) (gen : Nat → Nat) (m : Dev) : List Nat :=
  match nvmPart code with
  | none => []
  | some p =>
    let ok := fun c => copyValid p c m && ftState (p.footer + c) m = 2
    (if gen 0 < gen 1 then [1, 0] else [0, 1]).filter ok

/-- The content of a copy of a partition. -/
def copyOf (code c : Nat) (m : Dev) : List Byte :=
  match nvmPart code with
  | some p => nvmCopy p c m
  | none => []

/-- Stage 4: the firmware copy (R469, R450). -/
def boot4 (x : BootInputs) (m : Dev) : Dev × Bool :=
  let sig := fun c => if c = 0 then x.fwAOk else x.fwBOk
  let ok := fun c => fwVerifies (copyOf 2 c m) (sig c) m
  match imageOf 0 m with
  | some img => (fwStart 0 0 img { m with scare := { m.scare with fromMemory := true } }, true)
  | none =>
    if isSet aHEADLAND_BOOT fHEADLAND_BOOT_RECOVERY m then (m, false)
    else
      let cs := confirmedCopies 2 (fun c => ftGen (6 + c) m) m
      match cs.find? ok with
      | some c =>
        let m1 := fwStart c 0 (copyOf 2 c m) (setBoot fHEADLAND_BOOT_FW_COPY c m)
        if cs.head? = some c then (m1, true)
        else (raise cHEADLAND_BOOT_FW_FALLBACK (setBoot fHEADLAND_BOOT_FW_FALLBACK 1 (raise cSCARECROW_VERIFY_FAIL m1)), true)
      | none =>
        let m1 := when (!cs.isEmpty) (raise cSCARECROW_VERIFY_FAIL) m
        (raise cHEADLAND_BOOT_RECOVERY (setBoot fHEADLAND_BOOT_RECOVERY 1 m1), false)

/-- The tray controller's words of stage 5 (R490, PLACE). -/
def givePlace (coord appliance ns : Word) (m : Dev) : Dev :=
  { m with mgmt := { m.mgmt with place := some (coord, appliance), wallNs := ns, wallAt := m.time } }

/-- Stage 5: the place in the appliance and the time. -/
def boot5 (x : BootInputs) (m : Dev) : Dev × Bool :=
  match x.place with
  | some (c, a, t) => (givePlace c a t m, true)
  | none => (m, m.mgmt.place.isSome)

/-- The calibration of a tile's clock (R428, R456). -/
def loadCalibration (m : Dev) : Dev :=
  let cal := halfBytes 4 m
  if cal.isEmpty then m
  else forEach (List.range 144) (fun t =>
    bootSet (onTile aBELLOWS_TILE_CLOCK t) (fBELLOWS_TILE_CLOCK_FMAX_MHZ.of (field cal (2 * t) 2))) m

/-- The grid self-test of every tile (R101). -/
def bootSelfTests (fails : List (TileId × List Nat × Bool)) (m : Dev) : Dev :=
  forEach (List.range 144) (fun t m =>
    match fails.find? (fun f => tileIdx f.1 = t) with
    | some f => selfTestDone t (f.2.1.map (fun c => Fin.ofNat 258 c)) f.2.2 (selfTestStart t m)
    | none => selfTestDone t [] false (selfTestStart t m)) m

/-- RESOURCE_SUMMARY takes up the edges and bridges as they stand (R31). -/
def showMesh (m : Dev) : Dev :=
  showBridges (wrF aHEADLAND_RESOURCE_SUMMARY fHEADLAND_RESOURCE_SUMMARY_EDGES_DOWN
    ((List.range 10).filter (fun e => Sparse.get false m.mesh.edgeDown e)).length m)

/-- Tiles of a die that have not failed. -/
def goodTiles (d : Nat) (m : Dev) : Nat := ((List.range 18).filter (fun t => !gridFailed (18 * d + t) m)).length

/-- A die on which fewer than 16 active tiles can be formed leaves DIE_MAP (R449). -/
def diesFormed (m : Dev) : Dev :=
  wrF aHEADLAND_RESOURCE_SUMMARY fHEADLAND_RESOURCE_SUMMARY_DIE_MAP
    (((List.range 8).filter (fun d => bitAt (rdF aHEADLAND_RESOURCE_SUMMARY fHEADLAND_RESOURCE_SUMMARY_DIE_MAP m) d &&
      16 ≤ goodTiles d m)).map (fun d => 2 ^ d)).sum m

/-- Stage 6: dies, edges, bridges, stacks, calibration, self-tests. A test part stops here (R461). -/
def boot6 (x : BootInputs) (m : Dev) : Dev × Bool :=
  let m1 := showMesh (wrF aHEADLAND_RESOURCE_SUMMARY fHEADLAND_RESOURCE_SUMMARY_DIE_MAP x.diesUp.toNat m)
  let m2 := forEach ((List.range 10).filter (fun e => !x.edgesUp.getLsbD e)) edgeDown m1
  let m3 := forEach ((List.range 2).filter (fun b => !x.bridgesUp.getLsbD b)) bridgeDown m2
  let m4 := forEach ((List.range 32).filter (fun s => x.stacksUp.getLsbD s))
    (fun s => wrF (aHARROW_CTRL s) fHARROW_CTRL_IN_SERVICE 1) m3
  let m5 := diesFormed (bootSelfTests x.failedColumns (loadCalibration m4))
  (m5, idLocked m5 && !stopNow m5)

/-- Load a container and commit it with every unit ready. -/
def bootCommit (c : List Byte) (m : Dev) : Dev :=
  let m1 := fplanCommit (loadChecked c true m)
  evictionZeroed (forEach m1.plan.waiting unitReady m1)

/-- The end of stage 7: the boot goes on when the plan has committed. -/
def planned (m : Dev) : Dev × Bool :=
  if rdF aFPLAN_STATUS fFPLAN_STATUS_RESULT m = 3 then (m, true) else (raise cHEADLAND_BOOT_NO_PLAN m, false)

/-- Stage 7: the Field Plan copy (R469, R451). -/
def boot7 (x : BootInputs) (m : Dev) : Dev × Bool :=
  let sig := fun c => if c = 0 then x.planAOk else x.planBOk
  let ok := fun c => planStorable (copyOf 3 c m) (sig c) m
  match imageOf 1 m with
  | some c => planned (bootCommit c m)
  | none =>
    let cs := confirmedCopies 3 (fun c => field (copyOf 3 c m) 24 4) m
    match cs.find? ok with
    | some c =>
      let m1 := setBoot fHEADLAND_BOOT_PLAN_COPY c m
      if cs.head? = some c then planned (bootCommit (copyOf 3 c m) m1)
      else planned (bootCommit (copyOf 3 c m) (raise cHEADLAND_BOOT_PLAN_FALLBACK
        (setBoot fHEADLAND_BOOT_PLAN_FALLBACK 1 (raise cSCARECROW_VERIFY_FAIL m1))))
    | none => (raise cHEADLAND_BOOT_NO_PLAN (when (!cs.isEmpty) (raise cSCARECROW_VERIFY_FAIL) m), false)

/-- The routing tables that boot builds (R359), unless the plan brought its own. -/
def buildTables (m : Dev) : Dev :=
  if m.plan.tables.keys.any (fun k => decide (k / 2 ^ 24 % 32 = 16)) then m
  else
    let image := ((List.range 512).map (fun c => toLe 4 (builtEntry c m))).flatten
    { m with plan := { m.plan with tables := (List.range 8).foldl (fun tb d =>
      memPut tb (tableKey (0xA0 + d) 16 8) image) m.plan.tables } }

/-- Stage 8: the coordinates; links enabled. -/
def boot8 (m : Dev) : Dev × Bool :=
  let p := m.mgmt.place.getD (0, 0)
  let m1 := bootSet aWINDROW_APPLIANCE p.2 (bootSet aWINDROW_COORD p.1 m)
  (forEach ((List.range 36).filter (fun l => linkPort l m1 < 12)) (fun l m =>
    bootSet (aWINDROW_LINK_CTRL l) (fWINDROW_LINK_CTRL_ENABLE.put (rd (aWINDROW_LINK_CTRL l) m) 1) m) (buildTables m1), true)

/-- The admin commands that bring an NVMe controller up (R306): Identify, Get Features for its volatile write cache, Set Features for
the number of queues, and the eight queue pairs. Their opcodes are PRESUMED (log entry 98). -/
def nvmeStart (port device : Nat) (m : Dev) : Dev :=
  forEach ([0x06, 0x0A, 0x09] ++ (List.replicate 8 [0x05, 0x01]).flatten) (fun op => emit (.nvmeAdmin op port device)) m

/-- A CXL device comes up: its decoder is programmed when the Fallow decoder names it (R302). -/
def cxlStart (k : Nat) (m : Dev) : Dev :=
  when (isSet aTIER_FALLOW_DECODE fTIER_FALLOW_DECODE_ENABLE m)
    (forEach ((List.range (fallowWays m)).filter (fun w => wayDevice w m = k)) programWay) m

/-- An NVMe controller comes up: whether it has a volatile write cache, and which of its namespaces are not used (R306, R307). -/
def nvmeUp (x : PcieDevice) (m : Dev) : Dev :=
  nvmeStart x.port.val x.device.val (when (!x.badNs.isEmpty) (raise cTIER_ENUM_UNSUPPORTED)
    { m with tiers := { m.tiers with
        vwc := m.tiers.vwc.upd false (4 * x.port.val + x.device.val) x.vwc
        badNs := m.tiers.badNs ++ x.badNs.map (fun n => (x.port.val, x.device.val, n.toNat)) } })

/-- A device that enumeration brings up (R303): nothing comes up at a position that the bifurcation of its port leaves unused. -/
def deviceUp (x : PcieDevice) (m : Dev) : Dev :=
  let off := aPCIE_PORT x.port.val
  let on := fun (f : Fld) (m : Dev) => wrF off f (Nat.lor (rdF off f m) (2 ^ x.device.val)) m
  if !slotUsed x.port.val x.device.val m then m
  else
    let m1 := when x.gen6 (on fPCIE_PORT_GEN6) (on fPCIE_PORT_UP m)
    if x.cxl then cxlStart (4 * x.port.val + x.device.val) (on fPCIE_PORT_CXL m1) else nvmeUp x (on fPCIE_PORT_NVME m1)

/-- The lanes of a device under its port's bifurcation (R495, R514). -/
def deviceLanes (m : Dev) (x : PcieDevice) : List Nat :=
  let first := 152 + 16 * x.port.val
  let lanes := match rdF (aPCIE_PORT x.port.val) fPCIE_PORT_BIFURCATION m with
  | 1 => (List.range 8).map (fun j => first + 8 * x.device.val + j)
  | 2 => (List.range 4).map (fun j => first + 4 * x.device.val + j)
  | _ => (List.range 16).map (fun j => first + j)
  lanes.filter (· < first + 16)

/-- PERST_N of the positions in use is released once their REFCLK is stable (R496, R502). -/
def releasePerst (m : Dev) : Dev := { m with slots := { m.slots with perstN := slotsUsed m &&& m.slots.refclk } }

/-- Stage 9: PCIe. The lanes' settings that training found are stored (R514). -/
def boot9 (x : BootInputs) (m : Dev) : Dev × Bool :=
  let found := x.devices.filter (fun d => slotUsed d.port.val d.device.val m)
  (when x.unsupportedDevice (raise cTIER_ENUM_UNSUPPORTED)
    (bootTrained (found.map (deviceLanes m)).flatten (forEach found deviceUp (releasePerst m))), true)

/-- Stage 10: the boot goes on when every epoch that is to be served stands verified. -/
def boot10 (x : BootInputs) (m : Dev) : Dev × Bool :=
  (m, x.epochs.all (fun e => isSet (aSCARE_EPOCH e.1.val) fSCARE_EPOCH_VERIFIED m &&
    decide (rdF (aSCARE_EPOCH e.1.val) fSCARE_EPOCH_MODEL_ID m = e.2.toNat)))

/-- Stage 11: the module serves. -/
def boot11 (m : Dev) : Dev × Bool :=
  let on := fun (off : Nat) (f : Fld) (m : Dev) => bootSet off (f.put (rd off m) 1) m
  let m1 := on aPIPER_CTRL fPIPER_CTRL_ENABLE (on aINTAKE_CTRL fINTAKE_CTRL_ENABLE
    (on aDRONE_CTRL fDRONE_CTRL_ENABLE (on aFABRIC_REPLAY fFABRIC_REPLAY_ENABLE m)))
  ({ m1 with plan := { m1.plan with booted := true } }, false)

/-- One stage of R448. Bellows honours a BRAKE_N that is asserted from stage 0 on (R504). -/
def bootStage (x : BootInputs) (k : Nat) (m : Dev) : Dev × Bool :=
  match k with
  | 0 => (when m.power.brakeLow brakeAssert m, true)
  | 1 => boot1 x m
  | 2 => boot2 x m
  | 3 => boot3 m
  | 4 => boot4 x m
  | 5 => boot5 x m
  | 6 => boot6 x m
  | 7 => boot7 x m
  | 8 => boot8 m
  | 9 => boot9 x m
  | 10 => boot10 x m
  | _ => boot11 m

/-- Run the stages from k on. -/
def bootRun (x : BootInputs) : Nat → Nat → Dev → Dev
  | 0, _, m => m
  | fuel + 1, k, m =>
    let r := bootStage x k (setBoot fHEADLAND_BOOT_STAGE k m)
    if r.2 then bootRun x fuel (k + 1) r.1 else r.1

/-- BOOT: from stage 0 after a reset; a boot that waits at a stage goes on from it (DEDUCED, log entry 85). One that has stopped at
stage 1, at stage 2 for a bad key, or as a test part at stage 6, stays stopped. -/
def boot (x : BootInputs) (m : Dev) : Dev :=
  let k := bootStageOf m
  if !m.power.pwrOk || m.power.resetLow || stopNow m || m.plan.booted || k = 1 || k = 6 || (k = 2 && m.scare.keyBad) then m else bootRun x 12 k m

/-! ### Live firmware update (R474 to R476) -/

def fwBusy (n : Nat) (m : Dev) : Dev := wrF aHEADLAND_FW_STATUS fHEADLAND_FW_STATUS_BUSY n m
def fwState (m : Dev) : Nat := rdF aHEADLAND_FW_STATUS fHEADLAND_FW_STATUS_STATE m
def fwRunning (m : Dev) : Nat := rdF aHEADLAND_FW_STATUS fHEADLAND_FW_STATUS_RUNNING m

/-- May the other copy be switched to: valid, with STATE 0 or 2? -/
def otherReady (m : Dev) : Bool :=
  match nvmPart 2 with
  | none => false
  | some p =>
    let c := 1 - fwRunning m
    copyValid p c m && (ftState (6 + c) m = 0 || ftState (6 + c) m = 2)

/-- The module goes back to the other copy, the one that ran before. -/
def switchBack (m : Dev) : Dev :=
  let c := 1 - fwRunning m
  raise cHEADLAND_FW_REVERTED (fwStart c 0 (copyOf 2 c m) m)

/-- SWITCH: the boot ROM verifies the other copy; its firmware accepts the hand-off FORMAT or returns to the old copy. -/
def fwSwitch (verified accepted : Bool) (m : Dev) : Dev :=
  if m.nvm.store.isSome then fwBusy 1 m
  else if !otherReady m then raise cHEADLAND_FW_HANDOFF_REFUSED (fwBusy 0 m)
  else
    let c := 1 - fwRunning m
    let img := copyOf 2 c m
    if !fwVerifies img verified m then raise cHEADLAND_FW_REVERTED (raise cSCARECROW_VERIFY_FAIL (fwBusy 0 m))
    else
      let m1 := fwStart c 1 img m
      if accepted then (if nvmDefer m1 then m1 else setFtState c 1 m1) else switchBack m1

/-- CONFIRM ends a trial: the footers of both copies and SEC_FLOOR are stored. -/
def fwConfirm (m : Dev) : Dev :=
  if m.nvm.store.isSome then fwBusy 1 m
  else if fwState m ≠ 1 || nvmDefer m then fwBusy 0 m
  else
    let c := fwRunning m
    let m1 := setFtState c 2 (setFtState (1 - c) 0 (fwBusy 0 m))
    let m2 := if kSecFloor m1 < m1.scare.running then storeKeys (patch (keysHalf m1) 8 (toLe 4 m1.scare.running)) m1 else m1
    wrF aHEADLAND_FW_STATUS fHEADLAND_FW_STATUS_STATE 0
      (wrF aHEADLAND_FW_STATUS fHEADLAND_FW_STATUS_SEC_FLOOR (kSecFloor m2) m2)

/-- REVERT, and the end of a trial without CONFIRM. -/
def fwRevert (m : Dev) : Dev :=
  if m.nvm.store.isSome then fwBusy 1 m else if fwState m ≠ 1 then fwBusy 0 m else switchBack m
def trialExpiry (m : Dev) : Dev := if fwState m = 1 then switchBack m else m

/-! ### Power and resets (R499, R502 to R504) -/

/-- Is a key of memory a Granary home, which persists (R448, R503)? -/
def persists (c : Host.Cell) : Bool := granaryBase ≤ c.1

/-- A STORE in progress ends with the reset: some of its pages are written, its generation is not committed (R440, R504). -/
def dropStore (m : Dev) : Dev :=
  match m.nvm.store with
  | none => m
  | some j =>
    match nvmPart j.partition with
    | some p => storeStops j p 0 { m with nvm := { m.nvm with store := none } }
    | none => m

/-- Reset: every register at its reset value except local time; NVM and the Granary homes stay. Field, Seedbed and Fallow do
not survive: PERST_N is asserted to every device. An oscillator that has stopped stays so. -/
def resetModule (m0 : Dev) : Dev :=
  let m := dropStore m0
  { Dev.reset with
    time := m.time
    mem := m.mem.filter persists
    power := m.power
    jtag := m.jtag
    mesh := { Dev.reset.mesh with clockStopped := m.mesh.clockStopped }
    slots := slotsJudged { Dev.reset with slots := ⟨m.slots.refclk, 0⟩ } |>.slots
    nvm := m.nvm
    out := m.out
    free := m.free }

/-- Power is gone: log records not yet written are lost (R458), the test port with it. -/
def unpowered (m : Dev) : Dev :=
  let m1 := resetModule m
  { m1 with
    nvm := { m1.nvm with gathered := [] }
    jtag := Dev.reset.jtag
    mesh := Dev.reset.mesh
    slots := ⟨0, 0⟩
    power := { m1.power with converter := false, pwrOk := false, resetDue := false } }

/-- POWER_UP: local time starts from 0 (R27), PWR_OK is released. -/
def powerUp (m : Dev) : Dev :=
  if m.power.converter then m
  else
    let m1 := unpowered m
    { m1 with time := 0, slots := Dev.reset.slots, power := { m1.power with converter := true, pwrOk := true } }

/-- CONVERTER_STOP. -/
def converterStop (m : Dev) : Dev := if m.power.converter then unpowered m else m

/-- An on-module rail leaves regulation: PWR_OK is pulled low and the module is in reset at once. -/
def railLeaves (m : Dev) : Dev :=
  if !m.power.pwrOk then m
  else
    let m1 := resetModule m
    { m1 with power := { m1.power with pwrOk := false, resetDue := false } }

/-- RESET_ASSERT (R503): the timeline of a stop without cause or REASON; reset follows at the end of the fall. A module that
has stopped, or is in reset, enters reset at once. -/
def resetAssert (m : Dev) : Dev :=
  let m1 := { m with power := { m.power with resetLow := true } }
  if !m.power.pwrOk then m1
  else if isSet aBELLOWS_STOP fBELLOWS_STOP_STOPPED m then resetModule m1
  else beginStop 0 { m1 with power := { m1.power with resetDue := true } }

/-- The fall has ended: the module is stopped, or enters reset. -/
def stopFallEnd (m : Dev) : Dev :=
  if !isSet aBELLOWS_STOP fBELLOWS_STOP_STOPPING m then m
  else if m.power.resetDue then
    let m1 := resetModule m
    { m1 with power := { m1.power with resetDue := false } }
  else stopped m

/-! ### The commands -/

def execBoot (inputs : BootInputs) (s : State) : Host.Outcome State Fault Refusal :=
  .next { s with dev := boot inputs { s.dev with power := { s.dev.power with resetLow := false } } }
def execFwSwitch (verified accepted : Bool) (s : State) : Host.Outcome State Fault Refusal :=
  .next { s with dev := fwSwitch verified accepted s.dev }
def execConfirm (s : State) : Host.Outcome State Fault Refusal := .next { s with dev := fwConfirm s.dev }
def execRevert (s : State) : Host.Outcome State Fault Refusal := .next { s with dev := fwRevert s.dev }
def execTrialExpiry (s : State) : Host.Outcome State Fault Refusal := .next { s with dev := trialExpiry s.dev }
def execPowerUp (s : State) : Host.Outcome State Fault Refusal := .next { s with dev := powerUp s.dev }
def execConverterStop (s : State) : Host.Outcome State Fault Refusal := .next { s with dev := converterStop s.dev }
def execRailLeavesRegulation (s : State) : Host.Outcome State Fault Refusal := .next { s with dev := railLeaves s.dev }
def execResetAssert (s : State) : Host.Outcome State Fault Refusal := .next { s with dev := resetAssert s.dev }
def execStopFallEnd (s : State) : Host.Outcome State Fault Refusal := .next { s with dev := stopFallEnd s.dev }

end Sys2Proof.Machine
end

