-- ==== Sys2Proof/Machine/Registers.lean ====
section
/-! DEFINITION. Register accesses (R4 to R8, R149 to R151, R480, R486, R487): what a read answers, what a write does under the
access code and class of each field, and the acts that a write-only field starts. -/
namespace Sys2Proof.Machine

/-! ### Leaves (R480, R482) -/

/-- How many leaves each group of a block has (R482). -/
def groupLeaves (block : Nat) : List Nat :=
  match block with
  | 0 => [2, 1, 2, 1, 4, 1, 2, 2]
  | 1 => [1, 1, 1, 1, 2]
  | 2 => [2, 2, 1, 3, 3, 5]
  | 3 => [6, 2, 6]
  | 4 => [1, 1, 2, 2, 1, 3, 5, 1]
  | 5 => [6, 1, 2, 1, 4, 1]
  | 6 => [1, 6, 1, 1]
  | 7 => [2, 1, 1]
  | 8 => [1, 1, 1, 1]
  | 9 => [1, 1, 2, 2]
  | _ => if block < 18 then [7, 4, 1, 2, 4, 3, 2, 5, 1, 7, 3, 5] else [2]

/-- Is a leaf defined? -/
def leafDefined (c : Cause) : Bool := c.leaf % 8 < (groupLeaves c.block).getD (c.leaf / 8) 0

/-- Do `f`, and queue a PLDM event when INT_SUMMARY changes (R492). -/
def watchAll (f : Dev → Dev) (m : Dev) : Dev := if intSummary (f m) = intSummary m then f m else summaryEvent (f m)

/-- Clear leaves of INT_LEAF0 or INT_LEAF1 of a block. -/
def clearLeaves (b j : Nat) (mask : Word) (m : Dev) : Dev :=
  watchAll (fun m => wr (aINT_LEAF b j) (rd (aINT_LEAF b j) m &&& ~~~mask) m) m

/-- LEAF_CLEAR: the leaves named are cleared; those set in the same cycle are set (R8, R480). -/
def leafClear (b : Nat) (high : Bool) (mask sets : Word) (m : Dev) : Dev :=
  let j := if high then 1 else 0
  forEach (((setBits 64 sets.toNat).map (fun i => (⟨b, 64 * j + i⟩ : Cause))).filter leafDefined) raise (clearLeaves b j mask m)

/-! ### Registers computed on a read -/

/-- CHANTER_STATUS of a tile (R138): that of the ring it serves or served last. A ring that waits at a commit boundary is served when
it was served last: STATE then reads 2 and RING its number; on a Chanter that has served none they read 0 (DESIGN CHOICE, log
entry 107). -/
def chanterStatus (t : Nat) (m : Dev) : Word :=
  let u := onTile aCHANTER_UCODE t
  let bank := rdF u fCHANTER_UCODE_SELECT m
  let v := if bank = 0 then rdF u fCHANTER_UCODE_VERSION_A m else rdF u fCHANTER_UCODE_VERSION_B m
  let base := fCHANTER_STATUS_UCODE_BANK.of bank ||| fCHANTER_STATUS_UCODE_VERSION.of v
  match servedRing t m with
  | none => base
  | some q =>
    let x := dynOf q m
    let st := if x.wait.isSome || x.fence.isSome then 2 else if x.open_ then 1 else 0
    base ||| fCHANTER_STATUS_RING.of (ringIndex q) ||| fCHANTER_STATUS_OPEN.of (if x.open_ then 1 else 0) |||
      fCHANTER_STATUS_STATE.of st

/-- HEADLAND_RESOURCE_SUMMARY (R31): stacks, active tiles and links as they stand; the rest as recorded. -/
def resourceSummary (m : Dev) : Word :=
  let up := ((List.range 32).map (fun s => if stackUp s m then 2 ^ s else 0)).sum
  let tiles := ((List.range 144).filter (fun t => roleOf t m = 1 || roleOf t m = 3)).length
  let links := ((List.range 36).filter (fun l => linkUp l m)).length
  fHEADLAND_RESOURCE_SUMMARY_STACK_MAP.put (fHEADLAND_RESOURCE_SUMMARY_ACTIVE_TILES.put
    (fHEADLAND_RESOURCE_SUMMARY_LINKS_UP.put (rd aHEADLAND_RESOURCE_SUMMARY m) links) tiles) up

/-- A register whose value is not simply held: none for the others. -/
def computed (off : Nat) (p : RegPlace) (m : Dev) : Option Word :=
  match p.name with
  | .INT_SUMMARY => some (intSummary m)
  | .INT_RAW => some (intRaw m)
  | .INT_BLOCK => some (intBlock p.i m)
  | .HEADLAND_LOCAL_TIME => some m.time
  | .HEADLAND_RESOURCE_SUMMARY => some (resourceSummary m)
  | .HEADLAND_MGMT_STATUS => some (fHEADLAND_MGMT_STATUS_IANA.put (rd off m) Config.enterpriseNumber.toNat)
  | .CHANTER_STATUS => some (chanterStatus p.unit m)
  | .DRONE_CTX_STATUS => some (ctxStatus p.i m)
  | _ => none

/-- The value of a defined register. -/
def regValue (off : Nat) (m : Dev) : Word :=
  match locate off with
  | none => 0
  | some p => (computed off p m).getD (rd off m)

/-! ### The pending view (R487) -/

/-- OFFSET of a requester's HEADLAND_PEND_SEL. -/
def pendSel (who : Requester) (m : Dev) : Nat :=
  match who with
  | .firmware => rdF aHEADLAND_PEND_SEL fHEADLAND_PEND_SEL_OFFSET m
  | .management => m.pendSelMgmt.toNat

/-- The pending value of a register: its shadows, the boundary-class writes that wait, and the active value elsewhere. -/
def pendData (off : Nat) (m : Dev) : Word :=
  if (locate off).isNone then 0
  else
    let s := shadowOf off m
    let w := Sparse.get (0, 0) m.waitingWrite off
    (regValue off m &&& ~~~(s.2 ||| w.2)) ||| (s.1 &&& s.2) ||| (w.1 &&& w.2)

/-- Bits of the pending value that differ from the active one. -/
def pendDiff (off : Nat) (m : Dev) : Word := if (locate off).isNone then 0 else pendData off m ^^^ regValue off m

/-- HEADLAND_PEND_SEL as a requester reads it. -/
def pendSelWord (who : Requester) (m : Dev) : Word :=
  fHEADLAND_PEND_SEL_OFFSET.of (pendSel who m) |||
    fHEADLAND_PEND_SEL_IN_SET.of (if (shadowOf (pendSel who m) m).2 = 0 then 0 else 1)

/-! ### Reads -/

/-- A read of `size` bytes at an offset of register space (R4, R5, R7). -/
def regRead (who : Requester) (off size : Nat) (m : Dev) : Dev × Word :=
  if size ≠ 8 || off % 8 ≠ 0 then (raise cHEADLAND_REGACC_ALIGN m, 0xFFFFFFFFFFFFFFFF#64)
  else match locate off with
    | none => (raise cHEADLAND_REGACC_UNMAPPED m, 0)
    | some p =>
      match p.name with
      | .HEADLAND_PEND_SEL => (m, pendSelWord who m)
      | .HEADLAND_PEND_DATA => (m, pendData (pendSel who m) m)
      | .HEADLAND_PEND_DIFF => (m, pendDiff (pendSel who m) m)
      | _ => (m, regValue off m)

/-! ### The acts of write-only fields -/

/-- A free verdict, for an act whose outcome outside the module no row carries (DESIGN CHOICE, log entry 4). -/
def freeBit (m : Dev) : Bool := (drawFree m).getLsbD 0

/-- An act with a free verdict. -/
def judged (f : Bool → Dev → Dev) (m : Dev) : Dev := f (freeBit m) (useFree 1 m)

/-- A free 256-bit key. -/
def freeKey (m : Dev) : BitVec 256 :=
  BitVec.ofNat 256 ((freeAt m 0).toNat + 2 ^ 64 * (freeAt m 1).toNat + 2 ^ 128 * (freeAt m 2).toNat + 2 ^ 192 * (freeAt m 3).toNat)

def fplanAct (a : Nat) (m : Dev) : Dev :=
  match a with
  | 1 => fplanLoad m
  | 2 => planRow 0 fplanCommit m
  | 3 => planRow 0 fplanAbort m
  | _ => m

def linkAct (l a lane : Nat) (m : Dev) : Dev :=
  match a with
  | 1 => linkRow (linkRetrain l) m
  | 2 => linkRow (linkTakeOut l) m
  | 3 => linkRow (laneRecalibrate l lane) m
  | _ => m

def keyAct (a slot : Nat) (m : Dev) : Dev :=
  match a with
  | 1 => judged (fun ok m => keyInstall ok (freeKey m) (useFree 4 m)) m
  | 2 => judged keyPublic m
  | 3 => keyCommission m
  | 4 => judged keyRelease m
  | 5 => keyClear slot m
  | _ => m

def fwAct (a : Nat) (m : Dev) : Dev :=
  match a with
  | 1 => judged (fun v m => judged (fwSwitch v) m) m
  | 2 => fwConfirm m
  | 3 => fwRevert m
  | _ => m

/-- RING_HEAD of a ring: an ACTION leaves HEAD; else HEAD takes the value (R143). -/
def ringAct (q : Nat) (v : Word) (m : Dev) : Dev :=
  match fRING_HEAD_ACTION.get v with
  | 1 => ringResume q m
  | 2 => ringDiscard q m
  | 3 => ringHaltAction q m
  | _ => ringHeadWrite q (fRING_HEAD_HEAD.get v) m

/-- The ring that a tile's ring registers govern: they are written on the lead (R136). -/
def leadRing (t r : Nat) (m : Dev) : Option Nat :=
  match oldEngine t m with
  | some e => if leadOf e m = some t then some (8 * e + r) else none
  | none => none

/-- The act that a write of `v` starts. -/
def regAct (p : RegPlace) (v : Word) (m : Dev) : Dev :=
  match p.name with
  | .FPLAN_CTRL => fplanAct (fFPLAN_CTRL_ACTION.get v) m
  | .HEADLAND_NVM_CTRL => match fHEADLAND_NVM_CTRL_ACTION.get v with
    | 1 => judged nvmStore m
    | 2 => appendLog m
    | _ => m
  | .HEADLAND_FW_CTRL => fwAct (fHEADLAND_FW_CTRL_ACTION.get v) m
  | .SCARE_KEY_CTRL => keyAct (fSCARE_KEY_CTRL_ACTION.get v) (fSCARE_KEY_CTRL_SLOT.get v) m
  | .SCARE_DIGEST_CTRL => match fSCARE_DIGEST_CTRL_ACTION.get v with
    | 1 => judged digestStart m
    | 2 => digestStop m
    | _ => m
  | .BELLOWS_STOP => when (fBELLOWS_STOP_STOP.get v = 1) (beginStop 7) m
  | .BELLOWS_TILE_CAL => when (fBELLOWS_TILE_CAL_START.get v = 1) (sweepStart p.unit) m
  | .WINDROW_LINK_CTRL => linkAct p.i (fWINDROW_LINK_CTRL_ACTION.get v) (fWINDROW_LINK_CTRL_LANE.get v) m
  | .FABRIC_CACHE_CTRL => when (fFABRIC_CACHE_CTRL_INVALIDATE.get v = 1) cacheInvalidate m
  | .STILE_RING_HEAD => match fSTILE_RING_HEAD_ACTION.get v with
    | 1 => stileResume p.i m
    | 2 => stileDiscard p.i m
    | _ => m
  | .TIER_JOB => match fTIER_JOB_ACTION.get v with
    | 1 => submitJob (BitVec.ofNat 16 (fTIER_JOB_COUNTER.get v)) (fTIER_JOB_LIST.get v) m
    | 2 => stopJob m
    | _ => m
  | .TILE_GRID_SELFTEST => when (fTILE_GRID_SELFTEST_START.get v = 1) (selfTestStart p.unit) m
  | .GLEANER_APPLY => when (fGLEANER_APPLY_APPLY.get v = 1) (gleanerApply p.unit) m
  | _ => m

/-! ### Writes -/

/-- A live RW field takes the value written. Some words are ruled by more than their bits: FPLAN_SOURCE while a load or commit
runs (R173), BELLOWS_CAP during the fall of a stop (R444), RING_HEAD (R143; on a tile that leads no engine an ACTION starts nothing and leaves HEAD, DEDUCED, log entry 65), the masks of the
cause tree (R480), whose bits outside the defined leaves are held too (DESIGN CHOICE, log entry 115). -/
def rwWrite (who : Requester) (off : Nat) (p : RegPlace) (bits v : Word) (m : Dev) : Dev :=
  let put := wr off ((rd off m &&& ~~~bits) ||| (v &&& bits))
  match p.name with
  | .FPLAN_SOURCE => if planState m = 1 || planState m = 3 then m else put m
  | .BELLOWS_CAP => capWrite (fBELLOWS_CAP_CAP_W.get v) (fBELLOWS_CAP_BRAKE_W.get v) m
  | .HEADLAND_PEND_SEL => match who with
    | .firmware => put m
    | .management => { m with pendSelMgmt := BitVec.ofNat 24 (fHEADLAND_PEND_SEL_OFFSET.get v) }
  | .RING_HEAD => match leadRing p.unit p.i m with
    | some q => ringAct q v m
    | none => if fRING_HEAD_ACTION.get v = 0 then put m else m
  | .FIX_RING_HEAD => ringAct (128 + 16 * p.unit + 4 * p.i + p.j) v m
  | .INT_SUMMARY_MASK => watchAll put m
  | .INT_BLOCK_MASK => watchAll put m
  | .INT_LEAF_MASK => watchAll put m
  | _ => put m

/-- A boundary-class RW field waits for its unit's boundary (R150). -/
def waitWrite (off : Nat) (bits v : Word) (m : Dev) : Dev :=
  let w := Sparse.get (0, 0) m.waitingWrite off
  { m with waitingWrite := m.waitingWrite.upd (0, 0) off ((w.1 &&& ~~~bits) ||| (v &&& bits), w.2 ||| bits) }

/-- RWS fields: the firmware's writes land in the shadows, the management channel's while DIRECT_ALLOWED is 1 (R151). -/
def rwsWrite (who : Requester) (off : Nat) (bits v : Word) (m : Dev) : Dev :=
  if who = .management && !isSet aFPLAN_ACTIVE fFPLAN_ACTIVE_DIRECT_ALLOWED m then
    planFaults 3 7 0 0 (targetOfReg off).1 (targetOfReg off).2 m
  else stageWrite off v bits m

/-- Each 1 clears its bit (R7). -/
def w1cWrite (off : Nat) (p : RegPlace) (bits v : Word) (m : Dev) : Dev :=
  match p.name with
  | .INT_LEAF => clearLeaves p.i p.j v m
  | _ => wr off (rd off m &&& ~~~(bits &&& v)) m

/-- A write to a defined register: each field under its access code and class, then the act of its write-only field. -/
def wordWrite (who : Requester) (off : Nat) (p : RegPlace) (v : Word) (m : Dev) : Dev :=
  let i := p.name.info
  let live : Word := BitVec.ofNat 64 i.rw &&& ~~~(BitVec.ofNat 64 i.boundary)
  let waits : Word := BitVec.ofNat 64 i.rw &&& BitVec.ofNat 64 i.boundary
  let m1 := when (live ≠ 0) (rwWrite who off p live v) m
  let m2 := when (waits ≠ 0) (waitWrite off waits v) m1
  let m3 := when (i.rws ≠ 0) (rwsWrite who off (BitVec.ofNat 64 i.rws) v) m2
  let m4 := when (i.w1c ≠ 0) (w1cWrite off p (BitVec.ofNat 64 i.w1c) v) m3
  when (i.wo ≠ 0) (regAct p v) m4

/-- A write of `size` bytes at an offset of register space (R4, R5). -/
def regWrite (who : Requester) (off size : Nat) (v : Word) (m : Dev) : Dev :=
  if size ≠ 8 || off % 8 ≠ 0 then raise cHEADLAND_REGACC_ALIGN m
  else match locate off with
    | none => raise cHEADLAND_REGACC_UNMAPPED m
    | some p => wordWrite who off p v m

/-- BOUNDARY_WRITE_APPLY: the writes that wait for a tile take effect at its boundary (R150). -/
def boundaryApply (t : TileId) (m : Dev) : Dev :=
  if !unitAtCondition (.tile t) m then m
  else
    let mine := m.waitingWrite.filter (fun x => match locate x.1 with
      | some p => p.unit = tileIdx t
      | none => false)
    forEach mine (fun x m =>
      { wr x.1 ((rd x.1 m &&& ~~~x.2.2) ||| (x.2.1 &&& x.2.2)) m with waitingWrite := m.waitingWrite.drop x.1 }) m

/-! ### Service life (R513, R514) -/

/-- LANE_RECAL_DONE. -/
def laneRecalDone (l : Nat) (ok : Bool) (settings : List Byte) (m : Dev) : Dev :=
  match (linkOf l m).recal with
  | none => m
  | some lane =>
    let m1 := laneRecalEnd l ok m
    if ok then storeLanes [(4 * l + lane, settings)] m1 else m1

/-! ### The commands -/

def execRegisterWrite (who : Requester) (offset size : Nat) (value : Word) (s : State) : Host.Outcome State Fault Refusal :=
  .next { s with dev := regWrite who offset size value s.dev }
def execBoundaryWriteApply (t : TileId) (s : State) : Host.Outcome State Fault Refusal :=
  .next { s with dev := boundaryApply t s.dev }
def execLeafClear (block : Fin 50) (high : Bool) (mask sets : Word) (s : State) : Host.Outcome State Fault Refusal :=
  .next { s with dev := leafClear block.val high mask sets s.dev }
def execLaneRecalDone (l : Fin 36) (ok : Bool) (settings : List Byte) (s : State) : Host.Outcome State Fault Refusal :=
  .next { s with dev := laneRecalDone l.val ok settings s.dev }

end Sys2Proof.Machine
end

