-- ==== Sys2Proof/Machine/Mgmt.lean ====
section
/-! DEFINITION. The management channel (chapter 17, R488 to R492; R463, R473): I3C common command codes, MCTP control messages,
Wiostant messages and PLDM. A message is served when it arrives (DESIGN CHOICE, log entry 90); bodies that a published standard lays out are
`Config.standardBody` of the command's number and its argument (PRESUMED, log entry 8). -/
namespace Sys2Proof.Machine

/-! ### Answering -/

/-- The port answers nothing while the module is in reset (R504). -/
def onBus (f : Dev → Dev) (m : Dev) : Dev := if m.power.pwrOk && !m.power.resetLow then f m else m

/-- An MCTP response is ready: it goes out, with the in-band interrupt once that is enabled (R488). -/
def mgmtRespond (bs : List Byte) (m : Dev) : Dev := when m.mgmt.ibi (emit .ibi) (emit (.mctp bs) m)

/-- A Wiostant response: the command and instance again, the status, the payload (R490). -/
def vendor (cmd : Nat) (inst : BitVec 8) (status : Nat) (payload : List Byte) (m : Dev) : Dev :=
  mgmtRespond ([0x7F#8] ++ toLe 4 Config.enterpriseNumber.toNat ++ toLe 1 cmd ++ [inst] ++ toLe 1 status ++ payload) m

/-- A message of the wrong length (R490). -/
def badMessage (cmd : Nat) (inst : BitVec 8) (m : Dev) : Dev := vendor cmd inst 2 [] (raise cHEADLAND_MGMT_BAD_MESSAGE m)

/-- A response that a standard lays out: message type, instance, and the body of command `n` for argument `arg`. -/
def standard (typ : Nat) (inst : BitVec 8) (n arg : Nat) (m : Dev) : Dev :=
  mgmtRespond (toLe 1 typ ++ [inst] ++ Config.standardBody n arg) m

/-! ### I3C (R488) -/

def dynAddr (m : Dev) : Nat := rdF aHEADLAND_MGMT_STATUS fHEADLAND_MGMT_STATUS_DYN_ADDR m
def setDynAddr (a : Nat) (m : Dev) : Dev := wrF aHEADLAND_MGMT_STATUS fHEADLAND_MGMT_STATUS_DYN_ADDR a m

/-- Bytes with the most significant first, as I3C sends them. -/
def bigEndian (n v : Nat) : List Byte := (toLe n v).reverse

/-- A directed code is answered only by a target that has a dynamic address. -/
def directed (bs : List Byte) (m : Dev) : Dev := when (dynAddr m ≠ 0) (emit (.i3c bs)) m

/-- The module takes the address that it is assigned while it has none. -/
def assign (a : Nat) (m : Dev) : Dev := if dynAddr m = 0 then setDynAddr a m else m

/-- ENTDAA: the module sends its provisioned ID and characteristics and takes the address. -/
def entdaa (a : Nat) (m : Dev) : Dev :=
  if dynAddr m ≠ 0 then m
  else setDynAddr a (emit (.i3c (bigEndian 6 Config.provisionedId.toNat ++
    [Config.busCharacteristics, Config.deviceCharacteristics])) m)

/-- A limit of 64 to 256 bytes, the MCTP transmission unit (R489). -/
def unitLimit (v : Nat) : Nat := max 64 (min 256 v)

def setIbi (on : Bool) (events : Nat) (m : Dev) : Dev :=
  if bitAt events 0 && decide (dynAddr m ≠ 0) then { m with mgmt := { m.mgmt with ibi := on } } else m

/-- RSTACT: only the reset of the I3C peripheral, defining byte 1, is supported; 0 sets up none. -/
def rstact (b : Nat) (m : Dev) : Dev := if b ≤ 1 then { m with mgmt := { m.mgmt with rstact := b } } else m

/-- The target reset pattern resets the I3C peripheral when RSTACT set that up. -/
def peripheralReset (m : Dev) : Dev :=
  if m.mgmt.rstact = 1 then
    setDynAddr 0 { m with mgmt := { m.mgmt with mwl := 64, mrl := 64, ibi := false, rstact := 0 } }
  else m

/-! ### MCTP control (R489) -/

/-- Set Endpoint ID: operations 0 and 1 set it; EIDs 0 and 0xFF are not endpoints. -/
def setEid (inst : BitVec 8) (operation eid : Nat) (m : Dev) : Dev :=
  let m1 := if operation ≤ 1 && decide (eid ≠ 0) && decide (eid ≠ 255) then
    wrF aHEADLAND_MGMT_STATUS fHEADLAND_MGMT_STATUS_EID eid m else m
  standard 0 inst 1 (rdF aHEADLAND_MGMT_STATUS fHEADLAND_MGMT_STATUS_EID m1) m1

/-! ### Wiostant messages (R490) -/

def vRead (inst : BitVec 8) (off : Nat) (m : Dev) : Dev :=
  let r := regRead .management off 8 m
  vendor 1 inst 0 (toLe 8 r.2.toNat) r.1

def vWrite (inst : BitVec 8) (off : Nat) (v : Word) (m : Dev) : Dev := vendor 2 inst 0 [] (regWrite .management off 8 v m)

def vPlace (inst : BitVec 8) (coord appliance ns : Word) (m : Dev) : Dev := vendor 3 inst 0 [] (givePlace coord appliance ns m)

def vTime (inst : BitVec 8) (ns : Word) (m : Dev) : Dev :=
  vendor 4 inst 0 [] { m with mgmt := { m.mgmt with wallNs := ns, wallAt := m.time } }

/-- ATTEST (R473): refused by a module that is not certified or has a fault of its random source. -/
def vAttest (inst : BitVec 8) (nonce : List Byte) (m : Dev) : Dev :=
  if nonce.length ≠ 32 then badMessage 0x10 inst m
  else if !maySign m then vendor 0x10 inst 1 [] m
  else
    let r := attestReport nonce m
    let sig := Config.falconSign (shake256 64 r)
    vendor 0x10 inst 0 (r ++ toLe 2 sig.length ++ sig) m

/-- CERT (R463): written once, beside a generated key. -/
def vCert (inst : BitVec 8) (c : List Byte) (m : Dev) : Dev :=
  if c.isEmpty || 2046 < c.length then badMessage 0x11 inst m
  else if kCertified m || !anyByte (kPrivateKey m) || nvmDefer m then vendor 0x11 inst 1 [] m
  else vendor 0x11 inst 0 [] (setBoot fHEADLAND_BOOT_CERTIFIED 1
    (storeKeys (patch (keysHalf m) 0x1800 (toLe 2 c.length ++ c)) m))

def setImage (x : Option Image) (m : Dev) : Dev := { m with mgmt := { m.mgmt with image := x } }

/-- IMAGE_BEGIN discards the staged image. -/
def vBegin (inst : BitVec 8) (kind n : Nat) (m : Dev) : Dev :=
  if 1 < kind || 12 * 2 ^ 20 < n then vendor 0x20 inst 1 [] m else vendor 0x20 inst 0 [] (setImage (some ⟨kind, n, [], false⟩) m)

def vData (inst : BitVec 8) (off : Nat) (data : List Byte) (m : Dev) : Dev :=
  if 4080 < data.length then badMessage 0x21 inst m
  else match m.mgmt.image with
    | none => vendor 0x21 inst 1 [] m
    | some x =>
      if x.length < off + data.length then vendor 0x21 inst 1 [] m
      else vendor 0x21 inst 0 [] (setImage (some { x with bytes := memPut x.bytes off data, ok := false }) m)

/-- Does a staged image verify, when its signature's verdict is `verified`? -/
def imageVerifies (x : Image) (verified : Bool) (m : Dev) : Bool :=
  if x.kind = 0 then fwVerifies (imageBytes x) verified m else planStorable (imageBytes x) verified m

def vEnd (inst : BitVec 8) (verified : Bool) (m : Dev) : Dev :=
  match m.mgmt.image with
  | none => vendor 0x22 inst 1 [] m
  | some x =>
    let ok := imageVerifies x verified m
    vendor 0x22 inst 0 [if ok then 1 else 0] (when (!ok) (raise cSCARECROW_VERIFY_FAIL) (setImage (some { x with ok := ok }) m))

/-! ### PLDM (R492) -/

/-- What a numeric sensor reads. -/
def sensorValue (x : Sensor) (m : Dev) : Nat :=
  match x with
  | .inputPower => rdF aBELLOWS_POWER fBELLOWS_POWER_INPUT_W m
  | .inputVoltage => rdF aBELLOWS_POWER fBELLOWS_POWER_INPUT_CV m
  | .dieMax => rdF aBELLOWS_TEMP fBELLOWS_TEMP_DIE_MAX m
  | .hbmMax => rdF aBELLOWS_TEMP fBELLOWS_TEMP_HBM_MAX m
  | .coolantInlet => rdF aBELLOWS_TEMP fBELLOWS_TEMP_INLET m
  | .coolantOutlet => rdF aBELLOWS_TEMP fBELLOWS_TEMP_OUTLET m

def sensorNum : Sensor → Nat
  | .inputPower => 0
  | .inputVoltage => 1
  | .dieMax => 2
  | .hbmMax => 3
  | .coolantInlet => 4
  | .coolantOutlet => 5

/-- The value of a numeric effecter, and a write to it: a register write (R486). -/
def effecterValue (x : Effecter) (m : Dev) : Nat :=
  match x with
  | .capW => rdF aBELLOWS_CAP fBELLOWS_CAP_CAP_W m
  | .brakeW => rdF aBELLOWS_CAP fBELLOWS_CAP_BRAKE_W m

def effecterWrite (x : Effecter) (v : Nat) (m : Dev) : Dev :=
  match x with
  | .capW => capWrite v (effecterValue .brakeW m) m
  | .brakeW => capWrite (effecterValue .capW m) v m

def effecterNum : Effecter → Nat
  | .capW => 0
  | .brakeW => 1

/-- The next event: one for each change of INT_SUMMARY. -/
def pollEvent (inst : BitVec 8) (m : Dev) : Dev :=
  match m.mgmt.events with
  | [] => standard 1 inst 40 0 m
  | e :: rest => standard 1 inst 41 e.toNat { m with mgmt := { m.mgmt with events := rest } }

/-! The firmware update -/

def setUpdate (x : Update) (m : Dev) : Dev := { m with mgmt := { m.mgmt with update := x } }
def updState (n : Nat) (m : Dev) : Dev := setUpdate { m.mgmt.update with state := n } m

/-- The partition of a component: 0 firmware, 1 Field Plan. -/
def componentPart (c : Nat) : Nat := if c = 0 then 2 else 3

def requestUpdate (inst : BitVec 8) (m : Dev) : Dev :=
  if m.mgmt.update.state = 0 then standard 1 inst 53 0 (setUpdate ⟨1, 0, 0, 0, 0⟩ m) else standard 1 inst 53 1 m

def passComponent (inst : BitVec 8) (c : Nat) (m : Dev) : Dev :=
  let s := m.mgmt.update.state
  if (s = 1 || s = 2) && c ≤ 1 then standard 1 inst 54 0 (updState 2 m) else standard 1 inst 54 1 m

/-- The module asks for component data from its offset on. -/
def askData (m : Dev) : Dev := standard 1 0 60 m.mgmt.update.received m

/-- Does a generation rise above both of a component's copies (R457)? -/
def genRises (c gen : Nat) (m : Dev) : Bool :=
  match nvmPart (componentPart c) with
  | some p => copyGen p 0 m < gen && copyGen p 1 m < gen
  | none => false

/-- UpdateComponent: the transfer starts; the comparison stamp is the GENERATION to store (R457). -/
def updateComponent (inst : BitVec 8) (c size gen : Nat) (m : Dev) : Dev :=
  if m.mgmt.update.state = 2 && c ≤ 1 && 0 < size && size ≤ 12 * 2 ^ 20 && genRises c gen m then
    askData (standard 1 inst 55 0 (setImage (some ⟨c, size, [], false⟩) (setUpdate ⟨3, c, size, gen, 0⟩ m)))
  else standard 1 inst 55 1 m

/-- All data has arrived: TransferComplete, VerifyComplete, and the STORE whose end ApplyComplete reports. -/
def transferDone (x : Image) (signatureOk : Bool) (m : Dev) : Dev :=
  let u := m.mgmt.update
  let m1 := standard 1 0 61 0 m
  if m1.nvm.store.isSome || !imageVerifies x signatureOk m1 then
    updState 2 (standard 1 0 62 1 (when (!imageVerifies x signatureOk m1) (raise cSCARECROW_VERIFY_FAIL) m1))
  else
    let m2 := startStore (componentPart u.component) u.stamp (imageBytes x) signatureOk (standard 1 0 62 0 m1)
    if m2.nvm.store.isSome then updState 5 m2 else updState 2 (standard 1 0 63 1 m2)

/-- The answer to RequestFirmwareData arrives. -/
def firmwareData (off : Nat) (data : List Byte) (signatureOk : Bool) (m : Dev) : Dev :=
  let u := m.mgmt.update
  match m.mgmt.image with
  | none => m
  | some x =>
    if u.state ≠ 3 || off ≠ u.received || data.isEmpty || u.size < off + data.length then m
    else
      let x1 := { x with bytes := memPut x.bytes off data }
      let m1 := setUpdate { u with received := off + data.length } (setImage (some x1) m)
      if off + data.length = u.size then transferDone x1 signatureOk m1 else askData m1

/-- STORE_COMPLETE: ApplyComplete reports the STORE of an update (R492). -/
def storeEnds (writeOk : Bool) (m : Dev) : Dev :=
  let m1 := storeComplete writeOk m
  if m.nvm.store.isSome && m.mgmt.update.state = 5 then
    if rdF aHEADLAND_NVM_STATUS fHEADLAND_NVM_STATUS_RESULT m1 = 1 then updState 6 (standard 1 0 63 0 m1)
    else updState 2 (standard 1 0 63 1 m1)
  else m1

/-- ActivateFirmware: SWITCH for firmware; a Field Plan waits for the next reset. -/
def activateFirmware (inst : BitVec 8) (verified accepted : Bool) (m : Dev) : Dev :=
  if m.mgmt.update.state ≠ 6 then standard 1 inst 56 1 m
  else
    let m1 := standard 1 inst 56 0 (updState 0 m)
    if m.mgmt.update.component = 0 then fwSwitch verified accepted m1 else m1

def cancelComponent (inst : BitVec 8) (m : Dev) : Dev :=
  if m.mgmt.update.state = 3 then standard 1 inst 58 0 (updState 2 (setImage none m)) else standard 1 inst 58 1 m

def cancelUpdate (inst : BitVec 8) (m : Dev) : Dev :=
  if m.mgmt.update.state = 0 then standard 1 inst 59 1 m
  else standard 1 inst 59 0 (setUpdate ⟨0, 0, 0, 0, 0⟩ (setImage none m))

/-! ### The commands -/

/-- A command of the port. -/
def busStep (f : Dev → Dev) (s : State) : State := { s with dev := onBus f s.dev }

def execStoreComplete (writeOk : Bool) (s : State) : Host.Outcome State Fault Refusal :=
  .next { s with dev := storeEnds writeOk s.dev }
def execEntdaa (address : BitVec 7) (s : State) : Host.Outcome State Fault Refusal := .next (busStep (entdaa address.toNat) s)
def execSetdasa (address : BitVec 7) (s : State) : Host.Outcome State Fault Refusal := .next (busStep (assign address.toNat) s)
def execRstdaa (s : State) : Host.Outcome State Fault Refusal := .next (busStep (setDynAddr 0) s)
def execGetpid (s : State) : Host.Outcome State Fault Refusal :=
  .next (busStep (directed (bigEndian 6 Config.provisionedId.toNat)) s)
def execGetbcr (s : State) : Host.Outcome State Fault Refusal := .next (busStep (directed [Config.busCharacteristics]) s)
def execGetdcr (s : State) : Host.Outcome State Fault Refusal := .next (busStep (directed [Config.deviceCharacteristics]) s)
def execGetstatus (s : State) : Host.Outcome State Fault Refusal := .next (busStep (directed (Config.standardBody 70 0)) s)
def execGetmwl (s : State) : Host.Outcome State Fault Refusal :=
  .next (busStep (fun m => directed (bigEndian 2 m.mgmt.mwl) m) s)
def execGetmrl (s : State) : Host.Outcome State Fault Refusal :=
  .next (busStep (fun m => directed (bigEndian 2 m.mgmt.mrl) m) s)
def execSetmwl (value : BitVec 16) (s : State) : Host.Outcome State Fault Refusal :=
  .next (busStep (fun m => { m with mgmt := { m.mgmt with mwl := unitLimit value.toNat } }) s)
def execSetmrl (value : BitVec 16) (s : State) : Host.Outcome State Fault Refusal :=
  .next (busStep (fun m => { m with mgmt := { m.mgmt with mrl := unitLimit value.toNat } }) s)
def execEnec (events : BitVec 8) (s : State) : Host.Outcome State Fault Refusal := .next (busStep (setIbi true events.toNat) s)
def execDisec (events : BitVec 8) (s : State) : Host.Outcome State Fault Refusal := .next (busStep (setIbi false events.toNat) s)
def execRstact (defining : BitVec 8) (s : State) : Host.Outcome State Fault Refusal := .next (busStep (rstact defining.toNat) s)
def execTargetResetPattern (s : State) : Host.Outcome State Fault Refusal := .next (busStep peripheralReset s)

def execSetEndpointId (inst : BitVec 8) (operation : BitVec 2) (eid : BitVec 8) (s : State) :
    Host.Outcome State Fault Refusal := .next (busStep (setEid inst operation.toNat eid.toNat) s)
def execGetEndpointId (inst : BitVec 8) (s : State) : Host.Outcome State Fault Refusal :=
  .next (busStep (fun m => standard 0 inst 2 (rdF aHEADLAND_MGMT_STATUS fHEADLAND_MGMT_STATUS_EID m) m) s)
def execGetMctpVersionSupport (inst msgType : BitVec 8) (s : State) : Host.Outcome State Fault Refusal :=
  .next (busStep (standard 0 inst 4 msgType.toNat) s)
def execGetMessageTypeSupport (inst : BitVec 8) (s : State) : Host.Outcome State Fault Refusal :=
  .next (busStep (standard 0 inst 5 0) s)

def execRegRead (inst : BitVec 8) (offset : BitVec 32) (s : State) : Host.Outcome State Fault Refusal :=
  .next (busStep (vRead inst offset.toNat) s)
def execRegWrite (inst : BitVec 8) (offset : BitVec 32) (value : Word) (s : State) : Host.Outcome State Fault Refusal :=
  .next (busStep (vWrite inst offset.toNat value) s)
def execPlace (inst : BitVec 8) (coord appliance time : Word) (s : State) : Host.Outcome State Fault Refusal :=
  .next (busStep (vPlace inst coord appliance time) s)
def execTime (inst : BitVec 8) (ns : Word) (s : State) : Host.Outcome State Fault Refusal := .next (busStep (vTime inst ns) s)
def execAttest (inst : BitVec 8) (nonce : List Byte) (s : State) : Host.Outcome State Fault Refusal :=
  .next (busStep (vAttest inst nonce) s)
def execCert (inst : BitVec 8) (certificate : List Byte) (s : State) : Host.Outcome State Fault Refusal :=
  .next (busStep (vCert inst certificate) s)
def execImageBegin (inst kind : BitVec 8) (length : BitVec 32) (s : State) : Host.Outcome State Fault Refusal :=
  .next (busStep (vBegin inst kind.toNat length.toNat) s)
def execImageData (inst : BitVec 8) (offset : BitVec 32) (data : List Byte) (s : State) : Host.Outcome State Fault Refusal :=
  .next (busStep (vData inst offset.toNat data) s)
def execImageEnd (inst : BitVec 8) (verified : Bool) (s : State) : Host.Outcome State Fault Refusal :=
  .next (busStep (vEnd inst verified) s)

def execGetTid (inst : BitVec 8) (s : State) : Host.Outcome State Fault Refusal :=
  .next (busStep (fun m => standard 1 inst 10 m.mgmt.tid m) s)
def execSetTid (inst tid : BitVec 8) (s : State) : Host.Outcome State Fault Refusal :=
  .next (busStep (fun m => standard 1 inst 11 0 { m with mgmt := { m.mgmt with tid := tid.toNat } }) s)
def execGetPldmVersion (inst pldmType : BitVec 8) (s : State) : Host.Outcome State Fault Refusal :=
  .next (busStep (standard 1 inst 12 pldmType.toNat) s)
def execGetPldmTypes (inst : BitVec 8) (s : State) : Host.Outcome State Fault Refusal := .next (busStep (standard 1 inst 13 0) s)
def execGetPldmCommands (inst pldmType : BitVec 8) (s : State) : Host.Outcome State Fault Refusal :=
  .next (busStep (standard 1 inst 14 pldmType.toNat) s)
def execGetPdr (inst : BitVec 8) (handle : BitVec 32) (s : State) : Host.Outcome State Fault Refusal :=
  .next (busStep (standard 1 inst 15 handle.toNat) s)
def execGetPdrRepositoryInfo (inst : BitVec 8) (s : State) : Host.Outcome State Fault Refusal :=
  .next (busStep (standard 1 inst 16 0) s)
def execGetSensorReading (inst : BitVec 8) (sensor : Sensor) (s : State) : Host.Outcome State Fault Refusal :=
  .next (busStep (fun m => standard 1 inst (20 + sensorNum sensor) (sensorValue sensor m) m) s)
def execSetNumericEffecterValue (inst : BitVec 8) (effecter : Effecter) (value : BitVec 16) (s : State) :
    Host.Outcome State Fault Refusal :=
  .next (busStep (fun m => standard 1 inst 30 0 (effecterWrite effecter value.toNat m)) s)
def execGetNumericEffecterValue (inst : BitVec 8) (effecter : Effecter) (s : State) : Host.Outcome State Fault Refusal :=
  .next (busStep (fun m => standard 1 inst (31 + effecterNum effecter) (effecterValue effecter m) m) s)
def execPollForPlatformEvent (inst : BitVec 8) (s : State) : Host.Outcome State Fault Refusal :=
  .next (busStep (pollEvent inst) s)
def execQueryDeviceIdentifiers (inst : BitVec 8) (s : State) : Host.Outcome State Fault Refusal :=
  .next (busStep (standard 1 inst 51 0) s)
def execGetFirmwareParameters (inst : BitVec 8) (s : State) : Host.Outcome State Fault Refusal :=
  .next (busStep (fun m => standard 1 inst 52 (rdF aHEADLAND_FW_STATUS fHEADLAND_FW_STATUS_RUNNING_GEN m) m) s)
def execRequestUpdate (inst : BitVec 8) (s : State) : Host.Outcome State Fault Refusal := .next (busStep (requestUpdate inst) s)
def execPassComponentTable (inst : BitVec 8) (component : BitVec 16) (s : State) : Host.Outcome State Fault Refusal :=
  .next (busStep (passComponent inst component.toNat) s)
def execUpdateComponent (inst : BitVec 8) (component : BitVec 16) (size stamp : BitVec 32) (s : State) :
    Host.Outcome State Fault Refusal := .next (busStep (updateComponent inst component.toNat size.toNat stamp.toNat) s)
def execActivateFirmware (inst : BitVec 8) (verified accepted : Bool) (s : State) : Host.Outcome State Fault Refusal :=
  .next (busStep (activateFirmware inst verified accepted) s)
def execGetStatus (inst : BitVec 8) (s : State) : Host.Outcome State Fault Refusal :=
  .next (busStep (fun m => standard 1 inst 57 m.mgmt.update.state m) s)
def execCancelUpdateComponent (inst : BitVec 8) (s : State) : Host.Outcome State Fault Refusal :=
  .next (busStep (cancelComponent inst) s)
def execCancelUpdate (inst : BitVec 8) (s : State) : Host.Outcome State Fault Refusal := .next (busStep (cancelUpdate inst) s)
def execRequestFirmwareData (_inst : BitVec 8) (offset : BitVec 32) (data : List Byte) (signatureOk : Bool) (s : State) :
    Host.Outcome State Fault Refusal := .next (busStep (firmwareData offset.toNat data signatureOk) s)

end Sys2Proof.Machine
end

