-- ==== Sys2Proof/Machine/Ports.lean ====
section
/-! DEFINITION. Boundary scan (R507) and the Ethernet ports (R369). -/
namespace Sys2Proof.Machine

/-! ### The test access port (R507) -/

/-- EXTEST, CLAMP and HIGHZ take effect only in reset with power good. -/
def testEffective (m : Dev) : Bool := m.power.pwrOk && m.power.resetLow

/-- An instruction is selected. -/
def jtagSelect (c : BitVec 8) (m : Dev) : Dev := { m with jtag := { m.jtag with code := c } }

/-- Is EXTEST in force? -/
def extestOn (m : Dev) : Bool := m.jtag.code = 0 && testEffective m

/-- The levels of PWR_OK and INT_N as their observe cells see them: under EXTEST those of their drive cells. -/
def pwrOkPin (m : Dev) : Bool := if extestOn m then m.jtag.cells.getLsbD 2 else m.power.pwrOk
def intPin (m : Dev) : Bool := if extestOn m then m.jtag.cells.getLsbD 4 else !intLow m

/-- What the 29 boundary cells capture, cell 0 first: RESET_N, BRAKE_N, PWR_OK and INT_N (drive, observe), I3C_SCL and I3C_SDA
(out, enable, in: the bus level is free), the PERST_N enable and its sixteen drive cells. -/
def capture (m : Dev) : List Bool :=
  let c := fun i => m.jtag.cells.getLsbD i
  [!m.power.resetLow, !m.power.brakeLow, c 2, pwrOkPin m, c 4, intPin m,
    c 6, c 7, (freeAt m 0).getLsbD 0, c 9, c 10, (freeAt m 1).getLsbD 0] ++ (List.range 17).map (fun i => c (12 + i))

/-- A scan of the boundary register: the captured cells go out, the new ones come in. -/
def boundaryScan (cells : BitVec 29) (m : Dev) : Dev :=
  let m1 := useFree 2 (emit (.jtag (capture m)) m)
  { m1 with jtag := { m1.jtag with cells := cells } }

/-- EXTEST; BYPASS where it takes no effect. -/
def extest (cells : BitVec 29) (m : Dev) : Dev :=
  if testEffective m then boundaryScan cells (jtagSelect 0x00 m) else jtagSelect 0xFF m

/-- BYPASS: one bit, captured as 0. -/
def bypassScan (tdi : Bool) (m : Dev) : Dev :=
  let m1 := emit (.jtag [false]) (jtagSelect 0xFF m)
  { m1 with jtag := { m1.jtag with bypass := tdi } }

/-- CLAMP (0x04) and HIGHZ (0x05) select the bypass register. -/
def holdOutputs (c : BitVec 8) (m : Dev) : Dev := jtagSelect (if testEffective m then c else 0xFF) m

/-- The identification register, bit 0 first. -/
def idcodeBits : List Bool := (List.range 32).map (fun i => bitAt 0x23200A5D i)

/-! ### Ethernet (R369) -/

def ethUp (e : Nat) (m : Dev) : Bool := isSet (aETH_PORT e) fETH_PORT_UP m
def ethEmit (e : Nat) (bs : List Byte) (m : Dev) : Dev := emit (.eth e bs) m

/-- A port loses its link. -/
def ethDown (e : Nat) (m : Dev) : Dev :=
  if ethUp e m then
    let m1 := raise cINTAKE_PORT_LINK_DOWN (wrF (aETH_PORT e) fETH_PORT_UP 0 m)
    { m1 with eth := { m1.eth with paused := m1.eth.paused.upd 0 e 0 } }
  else m

/-- An enabled port trains (a port of a stopped module does not); its lanes' settings are stored (R514). -/
def ethTrained (e : Nat) (m : Dev) : Dev :=
  if isSet (aETH_PORT e) fETH_PORT_ENABLE m && !stopNow m then
    bootTrained ((List.range 4).map (fun j => 144 + 4 * e + j)) (wrF (aETH_PORT e) fETH_PORT_UP 1 m)
  else m

def beBytes16 (a : BitVec 128) : List Byte := (toLe 16 a.toNat).reverse

/-- An echo request is answered: the destination, then type 129 and the body as it came (the checksum left out). -/
def echoReply (e : Nat) (src : BitVec 128) (body : List Byte) (m : Dev) : Dev :=
  when (ethUp e m) (ethEmit e (beBytes16 src ++ [129#8, 0#8] ++ body)) m

/-- Neighbour discovery: a solicitation is answered with the port's MAC, an advertisement is learnt. -/
def neighbour (e : Nat) (kind : NdKind) (target : BitVec 128) (mac : BitVec 48) (m : Dev) : Dev :=
  if !ethUp e m then m
  else match kind with
    | .solicitation => ethEmit e (beBytes16 target ++ [136#8, 0#8] ++ toLe 6 (rdF (aETH_PORT e) fETH_PORT_MAC m)) m
    | .advertisement => { m with eth := { m.eth with
        neighbours := m.eth.neighbours.filter (fun x => !(x.1 = e && x.2.1 = target)) ++ [(e, target, mac)] } }

/-- A pause frame for PFC_PRIORITY: `quanta` of pause, 0 to go on. -/
def pauseFrame (e priority quanta : Nat) (m : Dev) : Dev :=
  if ethUp e m && isSet (aETH_PORT e) fETH_PORT_PFC m && decide (rdF (aETH_PORT e) fETH_PORT_PFC_PRIORITY m = priority) then
    { m with eth := { m.eth with paused := m.eth.paused.upd 0 e quanta } }
  else m

/-! ### The commands -/

def execExtest (cells : BitVec 29) (s : State) : Host.Outcome State Fault Refusal := .next { s with dev := extest cells s.dev }
def execIdcode (s : State) : Host.Outcome State Fault Refusal :=
  .next { s with dev := emit (.jtag idcodeBits) (jtagSelect 0x01 s.dev) }
def execSamplePreload (cells : BitVec 29) (s : State) : Host.Outcome State Fault Refusal :=
  .next { s with dev := boundaryScan cells (jtagSelect 0x02 s.dev) }
def execClamp (s : State) : Host.Outcome State Fault Refusal := .next { s with dev := holdOutputs 0x04 s.dev }
def execHighz (s : State) : Host.Outcome State Fault Refusal := .next { s with dev := holdOutputs 0x05 s.dev }
def execBypass (tdi : Bool) (s : State) : Host.Outcome State Fault Refusal := .next { s with dev := bypassScan tdi s.dev }
def execTestLogicReset (s : State) : Host.Outcome State Fault Refusal := .next { s with dev := jtagSelect 0x01 s.dev }
def execEthLinkDown (e : Fin 2) (s : State) : Host.Outcome State Fault Refusal :=
  .next { s with dev := linkRow (ethDown e.val) s.dev }
def execEthLinkUp (e : Fin 2) (s : State) : Host.Outcome State Fault Refusal := .next { s with dev := ethTrained e.val s.dev }
def execIcmpv6Echo (e : Fin 2) (srcAddr : BitVec 128) (body : List Byte) (s : State) : Host.Outcome State Fault Refusal :=
  .next { s with dev := echoReply e.val srcAddr body s.dev }
def execNeighbourDiscovery (e : Fin 2) (kind : NdKind) (target : BitVec 128) (mac : BitVec 48) (s : State) :
    Host.Outcome State Fault Refusal := .next { s with dev := neighbour e.val kind target mac s.dev }
def execPriorityFlowControl (e : Fin 2) (priority : BitVec 3) (quanta : BitVec 16) (s : State) :
    Host.Outcome State Fault Refusal := .next { s with dev := pauseFrame e.val priority.toNat quanta.toNat s.dev }

end Sys2Proof.Machine
end

