-- ==== Sys2Proof/Machine/Dispatch.lean ====
section
/-! DEFINITION. The dispatch: one arm for each command, each one direct call of its meaning. -/
namespace Sys2Proof.Machine

def exec (i : Instr) (s : State) : Host.Outcome State Fault Refusal :=
  match i with
  | .registerWrite who offset size value => Sys2Proof.Machine.execRegisterWrite who offset size value s
  | .boundaryWriteApply t => Sys2Proof.Machine.execBoundaryWriteApply t s
  | .edgeDegraded edge modules => Sys2Proof.Machine.execEdgeDegraded edge modules s
  | .edgeDown edge => Sys2Proof.Machine.execEdgeDown edge s
  | .bridgeDown bridge => Sys2Proof.Machine.execBridgeDown bridge s
  | .refDrift => Sys2Proof.Machine.execRefDrift s
  | .refLoss osc => Sys2Proof.Machine.execRefLoss osc s
  | .seedbedAccess bank reqs => Sys2Proof.Machine.execSeedbedAccess bank reqs s
  | .eccWriteback bank => Sys2Proof.Machine.execEccWriteback bank s
  | .fieldAccess req => Sys2Proof.Machine.execFieldAccess req s
  | .gridPass t pass => Sys2Proof.Machine.execGridPass t pass s
  | .accDrain t drain => Sys2Proof.Machine.execAccDrain t drain s
  | .gridSelftestStart t => Sys2Proof.Machine.execGridSelftestStart t s
  | .gridSelftestDone t failed logic => Sys2Proof.Machine.execGridSelftestDone t failed logic s
  | .gemm q => Sys2Proof.Machine.execGemm q s
  | .fused q => Sys2Proof.Machine.execFused q s
  | .attend q => Sys2Proof.Machine.execAttend q s
  | .norm q => Sys2Proof.Machine.execNorm q s
  | .route q => Sys2Proof.Machine.execRoute q s
  | .append q => Sys2Proof.Machine.execAppend q s
  | .gather q => Sys2Proof.Machine.execGather q s
  | .move q => Sys2Proof.Machine.execMove q s
  | .copyAsync q => Sys2Proof.Machine.execCopyAsync q s
  | .wait q => Sys2Proof.Machine.execWait q s
  | .waitComplete q => Sys2Proof.Machine.execWaitComplete q s
  | .waitTimeout q => Sys2Proof.Machine.execWaitTimeout q s
  | .signal q => Sys2Proof.Machine.execSignal q s
  | .fence q => Sys2Proof.Machine.execFence q s
  | .fenceComplete q => Sys2Proof.Machine.execFenceComplete q s
  | .commit q => Sys2Proof.Machine.execCommit q s
  | .groupCommitAct q => Sys2Proof.Machine.execGroupCommitAct q s
  | .atomicCompletion q status old => Sys2Proof.Machine.execAtomicCompletion q status old s
  | .groupKill q => Sys2Proof.Machine.execGroupKill q s
  | .ringHeadWrite q head => Sys2Proof.Machine.execRingHeadWrite q head s
  | .ringResume q => Sys2Proof.Machine.execRingResume q s
  | .ringDiscard q => Sys2Proof.Machine.execRingDiscard q s
  | .ringHaltAction q => Sys2Proof.Machine.execRingHaltAction q s
  | .preemptWaitExpiry e => Sys2Proof.Machine.execPreemptWaitExpiry e s
  | .expressPreempt e => Sys2Proof.Machine.execExpressPreempt e s
  | .quantumExpiry e => Sys2Proof.Machine.execQuantumExpiry e s
  | .overlong q => Sys2Proof.Machine.execOverlong q s
  | .hardLimitExpiry q => Sys2Proof.Machine.execHardLimitExpiry q s
  | .arrivalCounterWrite die counter value increment => Sys2Proof.Machine.execArrivalCounterWrite die counter value increment s
  | .fplanLoad => Sys2Proof.Machine.execFplanLoad s
  | .fplanLoadDone signatureOk => Sys2Proof.Machine.execFplanLoadDone signatureOk s
  | .fplanCommit => Sys2Proof.Machine.execFplanCommit s
  | .unitReady unit => Sys2Proof.Machine.execUnitReady unit s
  | .evictionZeroingDone => Sys2Proof.Machine.execEvictionZeroingDone s
  | .fplanCommitTimeout => Sys2Proof.Machine.execFplanCommitTimeout s
  | .fplanAbort => Sys2Proof.Machine.execFplanAbort s
  | .stepCommit results => Sys2Proof.Machine.execStepCommit results s
  | .manifest bytes => Sys2Proof.Machine.execManifest bytes s
  | .ringRoomFreed => Sys2Proof.Machine.execRingRoomFreed s
  | .commitRecord bytes => Sys2Proof.Machine.execCommitRecord bytes s
  | .stepTimeout => Sys2Proof.Machine.execStepTimeout s
  | .request m => Sys2Proof.Machine.execRequest m s
  | .promptMore m => Sys2Proof.Machine.execPromptMore m s
  | .cancel m => Sys2Proof.Machine.execCancel m s
  | .close m => Sys2Proof.Machine.execClose m s
  | .ack m => Sys2Proof.Machine.execAck m s
  | .intakeRetransmit conn => Sys2Proof.Machine.execIntakeRetransmit conn s
  | .connectionOpen conn => Sys2Proof.Machine.execConnectionOpen conn s
  | .connectionClose conn => Sys2Proof.Machine.execConnectionClose conn s
  | .ratioCheck => Sys2Proof.Machine.execRatioCheck s
  | .handoffRequest h => Sys2Proof.Machine.execHandoffRequest h s
  | .handoffRecord session token => Sys2Proof.Machine.execHandoffRecord session token s
  | .shipLost session => Sys2Proof.Machine.execShipLost session s
  | .retireDeadline epoch => Sys2Proof.Machine.execRetireDeadline epoch s
  | .pauseAfterExpiry session => Sys2Proof.Machine.execPauseAfterExpiry session s
  | .pauseComplete session => Sys2Proof.Machine.execPauseComplete session s
  | .restoreComplete session => Sys2Proof.Machine.execRestoreComplete session s
  | .copyTimeout session => Sys2Proof.Machine.execCopyTimeout session s
  | .pauseExpiry session => Sys2Proof.Machine.execPauseExpiry session s
  | .kvShort group => Sys2Proof.Machine.execKvShort group s
  | .dispatch p => Sys2Proof.Machine.execDispatch p s
  | .routeEndMarker p => Sys2Proof.Machine.execRouteEndMarker p s
  | .rowRequest p => Sys2Proof.Machine.execRowRequest p s
  | .rowResponse p => Sys2Proof.Machine.execRowResponse p s
  | .updateRecord p => Sys2Proof.Machine.execUpdateRecord p s
  | .gleanerApply die => Sys2Proof.Machine.execGleanerApply die s
  | .gleanerSweep table => Sys2Proof.Machine.execGleanerSweep table s
  | .pageFault die page => Sys2Proof.Machine.execPageFault die page s
  | .pageFaultFill page ok => Sys2Proof.Machine.execPageFaultFill page ok s
  | .noFrameTimeout page => Sys2Proof.Machine.execNoFrameTimeout page s
  | .nvmeCompletion id status => Sys2Proof.Machine.execNvmeCompletion id status s
  | .nvmeTimeout id => Sys2Proof.Machine.execNvmeTimeout id s
  | .deviceLost port device => Sys2Proof.Machine.execDeviceLost port device s
  | .bulkJobSubmit counter list => Sys2Proof.Machine.execBulkJobSubmit counter list s
  | .bulkJobStop => Sys2Proof.Machine.execBulkJobStop s
  | .bulkEntryCommit outcome => Sys2Proof.Machine.execBulkEntryCommit outcome s
  | .scrubPass stack faults => Sys2Proof.Machine.execScrubPass stack faults s
  | .linkResendRequest p => Sys2Proof.Machine.execLinkResendRequest p s
  | .trainingStart l => Sys2Proof.Machine.execTrainingStart l s
  | .trainingDone l lanes peerFec => Sys2Proof.Machine.execTrainingDone l lanes peerFec s
  | .ident l rec => Sys2Proof.Machine.execIdent l rec s
  | .laneLoss l lane => Sys2Proof.Machine.execLaneLoss l lane s
  | .lane l mask step => Sys2Proof.Machine.execLane l mask step s
  | .linkDown l why => Sys2Proof.Machine.execLinkDown l why s
  | .sequencedFlit l check f => Sys2Proof.Machine.execSequencedFlit l check f s
  | .retry l fseq => Sys2Proof.Machine.execRetry l fseq s
  | .credit l freed => Sys2Proof.Machine.execCredit l freed s
  | .packetRoute die arrival p => Sys2Proof.Machine.execPacketRoute die arrival p s
  | .packetDeliver check p => Sys2Proof.Machine.execPacketDeliver check p s
  | .nack p => Sys2Proof.Machine.execNack p s
  | .linkRetrain l => Sys2Proof.Machine.execLinkRetrain l s
  | .linkTakeOut l => Sys2Proof.Machine.execLinkTakeOut l s
  | .laneRecalibrate l lane => Sys2Proof.Machine.execLaneRecalibrate l lane s
  | .laneRecalDone l ok settings => Sys2Proof.Machine.execLaneRecalDone l ok settings s
  | .ethLinkDown e => Sys2Proof.Machine.execEthLinkDown e s
  | .collectiveBind q lane => Sys2Proof.Machine.execCollectiveBind q lane s
  | .chunk p residueOk => Sys2Proof.Machine.execChunk p residueOk s
  | .marker p => Sys2Proof.Machine.execMarker p s
  | .collectiveComplete q => Sys2Proof.Machine.execCollectiveComplete q s
  | .abort p => Sys2Proof.Machine.execAbort p s
  | .droneWatchdog q => Sys2Proof.Machine.execDroneWatchdog q s
  | .signalReceive p => Sys2Proof.Machine.execSignalReceive p s
  | .read p => Sys2Proof.Machine.execRead p s
  | .write p => Sys2Proof.Machine.execWrite p s
  | .atomic p => Sys2Proof.Machine.execAtomic p s
  | .copy p => Sys2Proof.Machine.execCopy p s
  | .readData p => Sys2Proof.Machine.execReadData p s
  | .completion p => Sys2Proof.Machine.execCompletion p s
  | .fabricTimeout die tag => Sys2Proof.Machine.execFabricTimeout die tag s
  | .cacheInvalidate => Sys2Proof.Machine.execCacheInvalidate s
  | .stilePoll => Sys2Proof.Machine.execStilePoll s
  | .stileEntryComplete ring entry data => Sys2Proof.Machine.execStileEntryComplete ring entry data s
  | .stileQpError endpoint syndrome => Sys2Proof.Machine.execStileQpError endpoint syndrome s
  | .cnp endpoint => Sys2Proof.Machine.execCnp endpoint s
  | .stileRingResume ring => Sys2Proof.Machine.execStileRingResume ring s
  | .stileRingDiscard ring => Sys2Proof.Machine.execStileRingDiscard ring s
  | .controlPeriod m => Sys2Proof.Machine.execControlPeriod m s
  | .thermalSample tileC stackC => Sys2Proof.Machine.execThermalSample tileC stackC s
  | .coolantSample inlet outlet => Sys2Proof.Machine.execCoolantSample inlet outlet s
  | .droop t => Sys2Proof.Machine.execDroop t s
  | .capWrite capW brakeW => Sys2Proof.Machine.execCapWrite capW brakeW s
  | .brakeAssert => Sys2Proof.Machine.execBrakeAssert s
  | .brakeRelease => Sys2Proof.Machine.execBrakeRelease s
  | .stop source => Sys2Proof.Machine.execStop source s
  | .stopFallEnd => Sys2Proof.Machine.execStopFallEnd s
  | .inputLoss => Sys2Proof.Machine.execInputLoss s
  | .calSweepStart t => Sys2Proof.Machine.execCalSweepStart t s
  | .calSweepDone t passed => Sys2Proof.Machine.execCalSweepDone t passed s
  | .powerUp => Sys2Proof.Machine.execPowerUp s
  | .converterStop => Sys2Proof.Machine.execConverterStop s
  | .resetAssert => Sys2Proof.Machine.execResetAssert s
  | .boot inputs => Sys2Proof.Machine.execBoot inputs s
  | .store imageOk => Sys2Proof.Machine.execStore imageOk s
  | .storeComplete writeOk => Sys2Proof.Machine.execStoreComplete writeOk s
  | .appendLog => Sys2Proof.Machine.execAppendLog s
  | .logPageWrite => Sys2Proof.Machine.execLogPageWrite s
  | .keyInstall tagOk key => Sys2Proof.Machine.execKeyInstall tagOk key s
  | .keyPublic signatureOk => Sys2Proof.Machine.execKeyPublic signatureOk s
  | .keyCommission => Sys2Proof.Machine.execKeyCommission s
  | .keyRelease signatureOk => Sys2Proof.Machine.execKeyRelease signatureOk s
  | .keyClear slot => Sys2Proof.Machine.execKeyClear slot s
  | .trngHealth failing => Sys2Proof.Machine.execTrngHealth failing s
  | .digestStart signatureOk => Sys2Proof.Machine.execDigestStart signatureOk s
  | .digestStop => Sys2Proof.Machine.execDigestStop s
  | .digestDone => Sys2Proof.Machine.execDigestDone s
  | .fwSwitch verified accepted => Sys2Proof.Machine.execFwSwitch verified accepted s
  | .confirm => Sys2Proof.Machine.execConfirm s
  | .revert => Sys2Proof.Machine.execRevert s
  | .trialExpiry => Sys2Proof.Machine.execTrialExpiry s
  | .leafClear block high mask sets => Sys2Proof.Machine.execLeafClear block high mask sets s
  | .entdaa address => Sys2Proof.Machine.execEntdaa address s
  | .setdasa address => Sys2Proof.Machine.execSetdasa address s
  | .rstdaa => Sys2Proof.Machine.execRstdaa s
  | .getpid => Sys2Proof.Machine.execGetpid s
  | .getbcr => Sys2Proof.Machine.execGetbcr s
  | .getdcr => Sys2Proof.Machine.execGetdcr s
  | .getstatus => Sys2Proof.Machine.execGetstatus s
  | .getmwl => Sys2Proof.Machine.execGetmwl s
  | .getmrl => Sys2Proof.Machine.execGetmrl s
  | .setmwl value => Sys2Proof.Machine.execSetmwl value s
  | .setmrl value => Sys2Proof.Machine.execSetmrl value s
  | .enec events => Sys2Proof.Machine.execEnec events s
  | .disec events => Sys2Proof.Machine.execDisec events s
  | .rstact defining => Sys2Proof.Machine.execRstact defining s
  | .setEndpointId inst operation eid => Sys2Proof.Machine.execSetEndpointId inst operation eid s
  | .getEndpointId inst => Sys2Proof.Machine.execGetEndpointId inst s
  | .getMctpVersionSupport inst msgType => Sys2Proof.Machine.execGetMctpVersionSupport inst msgType s
  | .getMessageTypeSupport inst => Sys2Proof.Machine.execGetMessageTypeSupport inst s
  | .regRead inst offset => Sys2Proof.Machine.execRegRead inst offset s
  | .regWrite inst offset value => Sys2Proof.Machine.execRegWrite inst offset value s
  | .place inst coord appliance time => Sys2Proof.Machine.execPlace inst coord appliance time s
  | .time inst ns => Sys2Proof.Machine.execTime inst ns s
  | .attest inst nonce => Sys2Proof.Machine.execAttest inst nonce s
  | .cert inst certificate => Sys2Proof.Machine.execCert inst certificate s
  | .imageBegin inst kind length => Sys2Proof.Machine.execImageBegin inst kind length s
  | .imageData inst offset data => Sys2Proof.Machine.execImageData inst offset data s
  | .imageEnd inst verified => Sys2Proof.Machine.execImageEnd inst verified s
  | .getTid inst => Sys2Proof.Machine.execGetTid inst s
  | .setTid inst tid => Sys2Proof.Machine.execSetTid inst tid s
  | .getPldmVersion inst pldmType => Sys2Proof.Machine.execGetPldmVersion inst pldmType s
  | .getPldmTypes inst => Sys2Proof.Machine.execGetPldmTypes inst s
  | .getPldmCommands inst pldmType => Sys2Proof.Machine.execGetPldmCommands inst pldmType s
  | .getPdr inst handle => Sys2Proof.Machine.execGetPdr inst handle s
  | .getPdrRepositoryInfo inst => Sys2Proof.Machine.execGetPdrRepositoryInfo inst s
  | .getSensorReading inst sensor => Sys2Proof.Machine.execGetSensorReading inst sensor s
  | .setNumericEffecterValue inst effecter value => Sys2Proof.Machine.execSetNumericEffecterValue inst effecter value s
  | .getNumericEffecterValue inst effecter => Sys2Proof.Machine.execGetNumericEffecterValue inst effecter s
  | .pollForPlatformEvent inst => Sys2Proof.Machine.execPollForPlatformEvent inst s
  | .queryDeviceIdentifiers inst => Sys2Proof.Machine.execQueryDeviceIdentifiers inst s
  | .getFirmwareParameters inst => Sys2Proof.Machine.execGetFirmwareParameters inst s
  | .requestUpdate inst => Sys2Proof.Machine.execRequestUpdate inst s
  | .passComponentTable inst component => Sys2Proof.Machine.execPassComponentTable inst component s
  | .updateComponent inst component size stamp => Sys2Proof.Machine.execUpdateComponent inst component size stamp s
  | .activateFirmware inst verified accepted => Sys2Proof.Machine.execActivateFirmware inst verified accepted s
  | .getStatus inst => Sys2Proof.Machine.execGetStatus inst s
  | .cancelUpdateComponent inst => Sys2Proof.Machine.execCancelUpdateComponent inst s
  | .cancelUpdate inst => Sys2Proof.Machine.execCancelUpdate inst s
  | .extest cells => Sys2Proof.Machine.execExtest cells s
  | .idcode => Sys2Proof.Machine.execIdcode s
  | .samplePreload cells => Sys2Proof.Machine.execSamplePreload cells s
  | .clamp => Sys2Proof.Machine.execClamp s
  | .highz => Sys2Proof.Machine.execHighz s
  | .bypass tdi => Sys2Proof.Machine.execBypass tdi s
  | .testLogicReset => Sys2Proof.Machine.execTestLogicReset s
  | .ethLinkUp e => Sys2Proof.Machine.execEthLinkUp e s
  | .icmpv6Echo e srcAddr body => Sys2Proof.Machine.execIcmpv6Echo e srcAddr body s
  | .neighbourDiscovery e kind target mac => Sys2Proof.Machine.execNeighbourDiscovery e kind target mac s
  | .priorityFlowControl e priority quanta => Sys2Proof.Machine.execPriorityFlowControl e priority quanta s
  | .rateRecovery endpoint => Sys2Proof.Machine.execRateRecovery endpoint s
  | .railLeavesRegulation => Sys2Proof.Machine.execRailLeavesRegulation s
  | .requestFirmwareData inst offset data signatureOk => Sys2Proof.Machine.execRequestFirmwareData inst offset data signatureOk s
  | .targetResetPattern => Sys2Proof.Machine.execTargetResetPattern s

end Sys2Proof.Machine
end

