-- ==== Sys2Proof/Machine/Step.lean ====
section
/-! DEFINITION. One step of the module: the command at the front of the queue is performed with the rest of the queue; on an
empty queue local time runs on by one count, unless its oscillator stands (DESIGN CHOICE, log entry 11). -/
namespace Sys2Proof.Machine

/-- Local time runs on by one count of 6.4 ns (R27), unless its oscillator has stopped (R29); nothing else happens of itself
(DESIGN CHOICE, log entry 11). -/
def tick (m : Dev) : Dev := { m with time := if m.mesh.clockStopped then m.time else m.time + 1 }

/-- One step. -/
def step (s : State) : Host.Outcome State Fault Refusal :=
  match s.pending with
  | [] => .next { s with dev := tick s.dev }
  | c :: rest => exec c { s with pending := rest }

/-- A command put at the front of the queue. -/
def State.withFront (s : State) (c : Instr) : State := { s with pending := c :: s.pending }

/-- The command that a word spells put at the front of the queue; `s` where the word spells none. -/
def State.withFetchWord (s : State) (nbits w : Nat) : State :=
  match decodeTableWord nbits w with
  | some c => s.withFront c
  | none => s

end Sys2Proof.Machine
end

