-- ==== Sys2Proof/WellFormed.lean ====
section
/-! DEFINITION. When a command is well formed: what its operands must satisfy before its rule speaks of them. Meanings are
total: an ill-formed command is given the effect of the rule of its row or none. -/
namespace Sys2Proof

/-- The types of R348, with the largest payload of each in bytes (spec 12, R348). -/
def Packet.ok (p : Packet) (typ : Nat) : Bool := p.typ.toNat == typ && p.payload.length ≤ 4096

/-- A bank request names a row of its bank: 5,120 in a tile's Seedbed, 6,144 in the die-shared Seedbed, 262,144 words in a
Harrow buffer (spec 03 R86, spec 10 R293, R294). -/
def BankReq.ok (bank : BankRef) (r : BankReq) : Bool :=
  match bank with
  | .tile _ _ => r.row < 5120
  | .shared _ _ => r.row < 6144
  | .buffer _ => r.row < 262144

/-- The granule lies in the Field tier (spec 10, R293). -/
def FieldReq.ok (r : FieldReq) : Bool := r.granule < 2 ^ 36

/-- A pass within the grid: at most 256 rows, 64 in reference mode, 256 columns, and the 256 K-elements of one sheaf line
(spec 03, R70, R76, R77). -/
def PassSpec.ok (p : PassSpec) : Bool :=
  p.rows ≤ (if p.fmtA == 4#3 then 64 else 256) && p.cols ≤ 256 && p.k ≤ 256

/-- A drain within an accumulator set, in reference mode to FP32 (spec 02, R58; spec 03, R77, R81). -/
def DrainSpec.ok (d : DrainSpec) : Bool :=
  d.rows ≤ (if d.reference then 64 else 256) && d.cols ≤ 256 && (!d.reference || d.outFmt == 0#3)

/-- The checks of a command's operands. -/
def Instr.wf : Instr → Bool
  | .registerWrite _ offset size _ => offset < 2 ^ 24 && [1, 2, 4, 8].contains size
  | .seedbedAccess bank reqs => reqs.all (BankReq.ok bank)
  | .fieldAccess req => req.ok
  | .gridPass _ pass => pass.ok
  | .accDrain _ drain => drain.ok
  | .dispatch p => p.ok 0x18
  | .routeEndMarker p => p.ok 0x11
  | .rowRequest p => p.ok 0x02
  | .rowResponse p => p.ok 0x03
  | .updateRecord p => p.ok 0x01
  | .pageFault _ page => page < 2 ^ 29
  | .pageFaultFill page _ => page < 2 ^ 29
  | .noFrameTimeout page => page < 2 ^ 29
  | .scrubPass _ faults => faults.all (fun f => f.offset < 2 ^ 36)
  | .linkResendRequest p => p.ok 0x21
  | .sequencedFlit _ _ f => f.data.length == 248
  | .packetRoute _ _ p => p.ok p.typ.toNat
  | .packetDeliver _ p => p.ok p.typ.toNat
  | .nack p => p.ok 0x3F
  | .chunk p _ => p.ok 0x10
  | .marker p => p.ok 0x11
  | .abort p => p.ok 0x13
  | .signalReceive p => p.ok 0x12
  | .read p => p.ok 0x02
  | .write p => p.ok 0x01
  | .atomic p => p.ok 0x04
  | .copy p => p.ok 0x20
  | .readData p => p.ok 0x03
  | .completion p => p.ok 0x05
  | .boot inputs => inputs.newKey.length ≤ 4098
  | .attest _ nonce => nonce.length == 32
  | .cert _ certificate => 0 < certificate.length && certificate.length ≤ 2046
  | .imageData _ _ data => data.length ≤ 4080
  | .boundaryWriteApply _ | .edgeDegraded _ _ | .edgeDown _ | .bridgeDown _ | .refDrift | .refLoss _ | .eccWriteback _ |
    .gridSelftestStart _ | .gridSelftestDone _ _ _ | .gemm _ | .fused _ | .attend _ | .norm _ | .route _ | .append _ |
    .gather _ | .move _ | .copyAsync _ | .wait _ | .waitComplete _ | .waitTimeout _ | .signal _ | .fence _ |
    .fenceComplete _ | .commit _ | .groupCommitAct _ | .atomicCompletion _ _ _ | .groupKill _ | .ringHeadWrite _ _ |
    .ringResume _ | .ringDiscard _ | .ringHaltAction _ | .preemptWaitExpiry _ | .expressPreempt _ | .quantumExpiry _ |
    .overlong _ | .hardLimitExpiry _ | .arrivalCounterWrite _ _ _ _ | .fplanLoad | .fplanLoadDone _ | .fplanCommit |
    .unitReady _ | .evictionZeroingDone | .fplanCommitTimeout | .fplanAbort | .stepCommit _ | .manifest _ |
    .ringRoomFreed | .commitRecord _ | .stepTimeout | .request _ | .promptMore _ | .cancel _ | .close _ | .ack _ |
    .intakeRetransmit _ | .connectionOpen _ | .connectionClose _ | .ratioCheck | .handoffRequest _ | .handoffRecord _ _
    | .shipLost _ | .retireDeadline _ | .pauseAfterExpiry _ | .pauseComplete _ | .restoreComplete _ | .copyTimeout _ |
    .pauseExpiry _ | .kvShort _ | .gleanerApply _ | .gleanerSweep _ | .nvmeCompletion _ _ | .nvmeTimeout _ | .deviceLost
    _ _ | .bulkJobSubmit _ _ | .bulkJobStop | .bulkEntryCommit _ | .trainingStart _ | .trainingDone _ _ _ | .ident _ _ |
    .laneLoss _ _ | .lane _ _ _ | .linkDown _ _ | .retry _ _ | .credit _ _ | .linkRetrain _ | .linkTakeOut _ |
    .laneRecalibrate _ _ | .laneRecalDone _ _ _ | .ethLinkDown _ | .collectiveBind _ _ | .collectiveComplete _ |
    .droneWatchdog _ | .fabricTimeout _ _ | .cacheInvalidate | .stilePoll | .stileEntryComplete _ _ _ | .stileQpError _
    _ | .cnp _ | .stileRingResume _ | .stileRingDiscard _ | .controlPeriod _ | .thermalSample _ _ | .coolantSample _ _ |
    .droop _ | .capWrite _ _ | .brakeAssert | .brakeRelease | .stop _ | .stopFallEnd | .inputLoss | .calSweepStart _ |
    .calSweepDone _ _ | .powerUp | .converterStop | .resetAssert | .store _ | .storeComplete _ | .appendLog |
    .logPageWrite | .keyInstall _ _ | .keyPublic _ | .keyCommission | .keyRelease _ | .keyClear _ | .trngHealth _ |
    .digestStart _ | .digestStop | .digestDone | .fwSwitch _ _ | .confirm | .revert | .trialExpiry | .leafClear _ _ _ _
    | .entdaa _ | .setdasa _ | .rstdaa | .getpid | .getbcr | .getdcr | .getstatus | .getmwl | .getmrl | .setmwl _ |
    .setmrl _ | .enec _ | .disec _ | .rstact _ | .setEndpointId _ _ _ | .getEndpointId _ | .getMctpVersionSupport _ _ |
    .getMessageTypeSupport _ | .regRead _ _ | .regWrite _ _ _ | .place _ _ _ _ | .time _ _ | .imageBegin _ _ _ |
    .imageEnd _ _ | .getTid _ | .setTid _ _ | .getPldmVersion _ _ | .getPldmTypes _ | .getPldmCommands _ _ | .getPdr _ _
    | .getPdrRepositoryInfo _ | .getSensorReading _ _ | .setNumericEffecterValue _ _ _ | .getNumericEffecterValue _ _ |
    .pollForPlatformEvent _ | .queryDeviceIdentifiers _ | .getFirmwareParameters _ | .requestUpdate _ |
    .passComponentTable _ _ | .updateComponent _ _ _ _ | .activateFirmware _ _ _ | .getStatus _ | .cancelUpdateComponent
    _ | .cancelUpdate _ | .extest _ | .idcode | .samplePreload _ | .clamp | .highz | .bypass _ | .testLogicReset |
    .ethLinkUp _ | .icmpv6Echo _ _ _ | .neighbourDiscovery _ _ _ _ | .priorityFlowControl _ _ _ | .rateRecovery _ |
    .railLeavesRegulation | .requestFirmwareData _ _ _ _ | .targetResetPattern => true

end Sys2Proof
end

