-- ==== Sys2Proof/Safety.lean ====
section
/-! DEFINITION. What the statements are made of: a sound state (memory, registers, poison marks, key slots, NVM, heat steps and accumulators in their canonical
form, so that equal contents are equal data), and what it is for two modules to agree on memory or on registers. -/
namespace Sys2Proof.Machine

/-- Memory in its canonical form: addresses strictly rising, no byte listed that equals what an unlisted one reads as. -/
def Memory.wf (mem : List Host.Cell) : Bool := Sparse.wfD (fun _ => (0 : Byte)) mem

/-- The registers in their canonical form: none listed that stands at its reset value. -/
def regsWf (m : Dev) : Bool := Sparse.wfD resetWord m.regs

/-- The poison marks in their canonical form. -/
def marksWf (m : Dev) : Bool := Sparse.wfD (fun _ => false) m.poisonLane && Sparse.wfD (fun _ => false) m.poisonField

/-- The key slots in their canonical form: no empty one listed. -/
def keysWf (m : Dev) : Bool := Sparse.wfD (fun _ => KeySlot.empty) m.keys

/-- The NVM's bytes and the heat steps of the tiles in their canonical form. -/
def nvmWf (m : Dev) : Bool := Memory.wf m.nvm.bytes
def heatWf (m : Dev) : Bool := Sparse.wfD (fun _ => 0) m.bellows.heat

/-- The grid accumulators in their canonical form: no cleared one listed. -/
def accWf (m : Dev) : Bool := Sparse.wfD (fun _ => Acc.zero) m.acc

/-- The links in their canonical form: none listed that has sent and received nothing, and no freed count of 0 listed. -/
def linksWf (m : Dev) : Bool :=
  Sparse.wfD (fun _ => LinkDyn.idle) m.links && m.links.all (fun e => Sparse.wfD (fun _ => 0) e.2.freed)

/-- A sound state. -/
def Dev.sound (m : Dev) : Bool := Memory.wf m.mem && regsWf m && marksWf m && keysWf m && nvmWf m && heatWf m && accWf m &&
  linksWf m

/-- Every byte of memory reads the same in two modules. -/
def memSame (m n : Dev) : Prop := ∀ a, ldByte a n = ldByte a m

/-- Every byte of memory outside `n` bytes from `a` reads the same in two modules. -/
def memSameBut (a n : Nat) (m m' : Dev) : Prop := ∀ x, x < a ∨ a + n ≤ x → ldByte x m' = ldByte x m

/-- Every register but those at the offsets named reads the same in two modules. -/
def regsSameBut (offs : List Nat) (m n : Dev) : Prop := ∀ o, o ∉ offs → rd o n = rd o m

/-- The offsets at which register `k` of a ring stands (0 BASE, 1 CTRL, 2 HEAD, 3 PTR): one copy at every rank of a compute engine
(R107), one for a fixed engine (R136). -/
def ringRegs (q k : Nat) (m : Dev) : List Nat :=
  if ringIsCe q then (ringTiles q m).map (fun t => tileRingReg t (ringIndex q) k)
  else [aFIX_RING_BASE (fixedDie q) (fixedKind q) (ringIndex q) + 8 * k]

/-- A ring has halted with a reason (R134): every copy of RING_HEAD says so, its group is discarded with FETCH back at RERUN, and
RING_HALT is raised on the dies of its ranks. -/
def haltedWith (q reason : Nat) (m m' : Dev) : Prop :=
  (∀ off ∈ ringRegs q 2 m, fRING_HEAD_HALTED.get (rd off m') = 1 ∧ fRING_HEAD_REASON.get (rd off m') = reason) ∧
  (∀ off ∈ ringRegs q 3 m, fRING_PTR_FETCH.get (rd off m') = ringRerun q m) ∧
  (∀ d ∈ ringDies q m, leafSet (cDIE_CHANTER_RING_HALT d) m' = true)

/-- FETCH has passed a command of a ring: every copy of FETCH is one above, and its RERUN stands. -/
def fetchPassed (q : Nat) (m m' : Dev) : Prop :=
  ∀ off ∈ ringRegs q 3 m, fRING_PTR_FETCH.get (rd off m') = (ringFetch q m + 1) % 2 ^ 32 ∧
    fRING_PTR_RERUN.get (rd off m') = ringRerun q m

/-- The commands that a ring starts through one shared course: the ring, the opcode, the checks that need the state, and the work. -/
def ringWork (c : Instr) : Option (RingRef × Nat × (List Byte → Dev → Bool) × (List Byte → Dev → Done)) :=
  match c with
  | .gemm q => some (q, opGEMM, adaptOk (ringNum q), gemmBody (ringNum q))
  | .fused q => some (q, opFUSED, adaptOk (ringNum q), fusedBody (ringNum q))
  | .attend q => some (q, opATTEND, attendStartOk (ringNum q), attendBody (ringNum q))
  | .norm q => some (q, opNORM, fun _ _ => true, normBody (ringNum q))
  | .route q => some (q, opROUTE, fun _ _ => true, routeBody (ringNum q))
  | .append q => some (q, opAPPEND, fun _ _ => true, appendBody (ringNum q))
  | .gather q => some (q, opGATHER, gatherOkNow (ringNum q), gatherBody (ringNum q))
  | .move q => some (q, opMOVE, moveFetchOk (ringNum q), moveBody (ringNum q))
  | .copyAsync q => some (q, opCOPY, fun _ _ => true, copyBody (ringNum q))
  | .signal q => some (q, opSIGNAL, fun _ _ => true, signalBody (ringNum q))
  | .commit q => some (q, opCOMMIT, fun _ _ => true, fun _ m => ⟨m, 0⟩)
  | _ => none

/-- The management port is alive: the converter's rails are good and RESET_N is released (R504). -/
def portAlive (m : Dev) : Bool := m.power.pwrOk && !m.power.resetLow

/-- What the module sent in `m'` beyond `m`: an MCTP message, with the in-band interrupt where that is enabled (R488, R489). -/
def answeredMctp (bs : List Byte) (m m' : Dev) : Prop := m'.out = m.out ++ [.mctp bs] ++ (if m.mgmt.ibi then [.ibi] else [])

/-- A Wiostant response (R490). -/
def vendorResponse (cmd : Nat) (inst : BitVec 8) (status : Nat) (payload : List Byte) : List Byte :=
  [0x7F#8] ++ toLe 4 Config.enterpriseNumber.toNat ++ toLe 1 cmd ++ [inst] ++ toLe 1 status ++ payload

/-- A response whose body a published standard lays out (PRESUMED, log entry 8). -/
def standardResponse (typ : Nat) (inst : BitVec 8) (n arg : Nat) : List Byte :=
  toLe 1 typ ++ [inst] ++ Config.standardBody n arg

/-- Is a write of a register ruled by the access codes of its bits alone? Not where it starts an act, nor for the sources held
while they are in use, nor for the masks and leaves, which move INT_SUMMARY. -/
def writesPlainly (n : RegName) : Bool :=
  n.info.wo = 0 && !([.FPLAN_SOURCE, .BELLOWS_CAP, .HEADLAND_PEND_SEL, .RING_HEAD, .FIX_RING_HEAD, .INT_SUMMARY_MASK,
    .INT_BLOCK_MASK, .INT_LEAF_MASK, .INT_LEAF] : List RegName).contains n

end Sys2Proof.Machine
end

