-- ==== Sys2Proof/Certificates/Slice0/Obligations.lean ====
section
/-! DEFINITION. The statements for the provers. -/

open Sys2Proof Sys2Proof.Machine

/-! ### The machine -/

/-- A command at the front of the queue is performed with the rest of the queue. -/
def Obligations.StepPerformsTheFrontCommand : Prop :=
  ∀ (c : Instr) (s : State), step { s with pending := c :: s.pending } = exec c s

/-- On an empty queue a step answers a next state in which local time has run on by one count and nothing else has changed
(the model's own choice, log entry 11); while the 156.25 MHz oscillator stands, local time stands too (R29). -/
def Obligations.IdleStepCountsTime : Prop :=
  ∀ m : Dev, (m.mesh.clockStopped = false → step ⟨m, []⟩ = .next ⟨{ m with time := m.time + 1 }, []⟩) ∧
    (m.mesh.clockStopped = true → step ⟨m, []⟩ = .next ⟨m, []⟩)

/-- No command stops the module: each answers a next state, and leaves the queue of waiting commands to the sender (the model's
form of a block, log entry 9). -/
def Obligations.EveryCommandCompletesAndLeavesTheQueue : Prop :=
  ∀ (c : Instr) (s : State), ∃ m, exec c s = .next ⟨m, s.pending⟩

/-- The canonical forms of memory, registers, poison marks and key slots are kept by every step. -/
def Obligations.StepKeepsTheModuleSound : Prop :=
  ∀ s s' : State, s.dev.sound = true → step s = .next s' → s'.dev.sound = true

/-- No command but power-up moves local time, and power-up starts it from 0 (R27: no software can write or set it, and it is
not reset by any later event). -/
def Obligations.LocalTimeIsSetByNoCommand : Prop :=
  ∀ (c : Instr) (s s' : State), exec c s = .next s' → s'.dev.time = s.dev.time ∨ (c = .powerUp ∧ s'.dev.time = 0)

/-- Reset leaves a sound module with an empty queue. The reset values of chapter 15's and chapter 1's tables, of the clocks, and
of the cause tree (R30, R446, R447, R481). -/
def Obligations.ResetIsSoundAndAsTheTablesSay : Prop :=
  (State.reset.dev.sound = true ∧ State.reset.pending = []) ∧
  (let m := State.reset.dev
  m.time = 0 ∧ rdF aBELLOWS_CAP fBELLOWS_CAP_CAP_W m = 3400 ∧ rdF aBELLOWS_CAP fBELLOWS_CAP_BRAKE_W m = 2400 ∧
  rdF aBELLOWS_STATE fBELLOWS_STATE_D m = 256 ∧ rdF aBELLOWS_CLASS fBELLOWS_CLASS_INTERACTIVE m = 3 ∧
  rdF aBELLOWS_THROUGHPUT fBELLOWS_THROUGHPUT_MHZ m = 1750 ∧ rdF aBELLOWS_THERM fBELLOWS_THERM_TILE_CRIT_C m = 110 ∧
  rdF aBELLOWS_THERM fBELLOWS_THERM_OUTLET_CRIT_C m = 70 ∧ rd aBELLOWS_STOP m = 0 ∧ resourceSummary m = 0 ∧
  (∀ t < 144, rdF (onTile aBELLOWS_TILE_CLOCK t) fBELLOWS_TILE_CLOCK_FMAX_MHZ m = 1750 ∧
    rdF (onTile aBELLOWS_TILE_CAL t) fBELLOWS_TILE_CAL_GUARD_MHZ m = 50) ∧
  (∀ b < 50, ∀ j < 2, rd (aINT_LEAF b j) m = 0 ∧ rd (aINT_LEAF_MASK b j) m = 0 ∧ rd (aINT_BLOCK_MASK b) m = 0) ∧
  rd aINT_SUMMARY_MASK m = 0 ∧ intLow m = false)

/-! ### Registers (R4 to R8, R149 to R151, R480) -/

/-- R4: a write that is narrower than 64 bits or not aligned is discarded, such a read answers all ones, and both raise
HEADLAND/REGACC/ALIGN, and not UNMAPPED. -/
def Obligations.NarrowOrUnalignedAccessIsRefused : Prop :=
  ∀ (who : Requester) (off size : Nat) (v : Word) (s : State), regsWf s.dev = true → size ≠ 8 ∨ off % 8 ≠ 0 →
    (∃ m, exec (.registerWrite who off size v) s = .next { s with dev := m } ∧ leafSet cHEADLAND_REGACC_ALIGN m = true ∧
      leafSet cHEADLAND_REGACC_UNMAPPED m = leafSet cHEADLAND_REGACC_UNMAPPED s.dev ∧
      regsSameBut [aINT_LEAF 0 0] s.dev m ∧ m.shadow = s.dev.shadow ∧ m.waitingWrite = s.dev.waitingWrite ∧ memSame s.dev m) ∧
    (regRead who off size s.dev).2 = 0xFFFFFFFFFFFFFFFF#64 ∧
    leafSet cHEADLAND_REGACC_ALIGN (regRead who off size s.dev).1 = true ∧
    leafSet cHEADLAND_REGACC_UNMAPPED (regRead who off size s.dev).1 = leafSet cHEADLAND_REGACC_UNMAPPED s.dev

/-- R5: at an offset where no register is defined an aligned 64-bit read returns 0 and such a write is discarded, and both raise
HEADLAND/REGACC/UNMAPPED; any other access is judged under R4 alone, whatever its offset. -/
def Obligations.UnmappedAccessIsRefused : Prop :=
  Obligations.NarrowOrUnalignedAccessIsRefused ∧
  ∀ (who : Requester) (off : Nat) (v : Word) (s : State), regsWf s.dev = true → off % 8 = 0 → locate off = none →
    (∃ m, exec (.registerWrite who off 8 v) s = .next { s with dev := m } ∧ leafSet cHEADLAND_REGACC_UNMAPPED m = true ∧
      leafSet cHEADLAND_REGACC_ALIGN m = leafSet cHEADLAND_REGACC_ALIGN s.dev ∧
      regsSameBut [aINT_LEAF 0 0] s.dev m ∧ m.shadow = s.dev.shadow ∧ m.waitingWrite = s.dev.waitingWrite ∧ memSame s.dev m) ∧
    (regRead who off 8 s.dev).2 = 0#64 ∧ leafSet cHEADLAND_REGACC_UNMAPPED (regRead who off 8 s.dev).1 = true

/-- R8, R480: clearing leaves clears each leaf named by a 1 and no other, and a leaf set in the same cycle stays set. R478 to
R481: a raised cause that no mask covers pulls INT_N low, unless RESET_N is asserted. -/
def Obligations.LeavesClearAndCausesPullIntN : Prop :=
  (∀ (b : Fin 50) (high : Bool) (mask sets : Word) (s : State), regsWf s.dev = true →
    let j := if high then 1 else 0
    ∃ m, exec (.leafClear b high mask sets) s = .next { s with dev := m } ∧
      (∀ i < 64, (rd (aINT_LEAF b.val j) m).getLsbD i =
        ((sets.getLsbD i && leafDefined ⟨b.val, 64 * j + i⟩) || ((rd (aINT_LEAF b.val j) s.dev).getLsbD i && !mask.getLsbD i))) ∧
      regsSameBut [aINT_LEAF b.val j] s.dev m ∧ memSame s.dev m) ∧
  (∀ (c : Cause) (m : Dev), regsWf m = true → c.block < 50 → c.leaf < 128 → m.power.resetLow = false →
    (rd (aINT_LEAF_MASK c.block (c.leaf / 64)) m).getLsbD (c.leaf % 64) = false →
    (rd (aINT_BLOCK_MASK c.block) m).getLsbD (c.leaf / 8) = false → (rd aINT_SUMMARY_MASK m).getLsbD c.block = false →
    leafSet c (raise c m) = true ∧ intLow (raise c m) = true)

/-- R6, R7, R149, R150: a write to a register takes effect bit by bit under its access code. RW bits of class live take the
value written, W1C bits that are written 1 are cleared, every other bit of the active value stands; RW bits of class boundary
wait; the firmware's writes to RWS bits of a register without a pinned epoch leave the active value as it is. R149, R151: a
write of an RWS register by the firmware changes no active register but a fault record, a leaf and the counts of the change set;
by the management channel, while FPLAN_ACTIVE.DIRECT_ALLOWED is 0, it lands in no shadow; else the value written stands in the
register's shadow, but for a write that R200 discards or R370 ignores. R150: at a tile's command boundary the
boundary-class writes that wait for it take effect and wait no longer; a tile inside a group keeps them waiting. -/
def Obligations.RegisterWritesActByAccessCodeAndClass : Prop :=
  (∀ (off : Nat) (p : RegPlace) (v : Word) (s : State), s.dev.sound = true → locate off = some p →
    writesPlainly p.name = true → p.name.info.rws = 0 →
    ∃ m, exec (.registerWrite .firmware off 8 v) s = .next { s with dev := m } ∧
      (∀ i < 64, (rd off m).getLsbD i =
        if p.name.info.rw.testBit i && !p.name.info.boundary.testBit i then v.getLsbD i
        else if p.name.info.w1c.testBit i then (rd off s.dev).getLsbD i && !v.getLsbD i
        else (rd off s.dev).getLsbD i) ∧
      (p.name.info.boundary = 0 → m.waitingWrite = s.dev.waitingWrite) ∧
      regsSameBut [off] s.dev m ∧ memSame s.dev m ∧ m.shadow = s.dev.shadow) ∧
  (∀ (who : Requester) (off : Nat) (p : RegPlace) (v : Word) (s : State), s.dev.sound = true → locate off = some p →
    p.name.info.rw = 0 → p.name.info.wo = 0 → p.name.info.w1c = 0 → p.name.info.rws ≠ 0 →
    ∃ m, exec (.registerWrite who off 8 v) s = .next { s with dev := m } ∧ rd off m = rd off s.dev ∧ memSame s.dev m ∧
      (who = .management → isSet aFPLAN_ACTIVE fFPLAN_ACTIVE_DIRECT_ALLOWED s.dev = false →
        m.shadow = s.dev.shadow ∧ leafSet cFPLAN_SHADOW_DIRECT_REFUSED m = true) ∧
      (let bits : Word := BitVec.ofNat 64 p.name.info.rws
       who = .firmware ∨ isSet aFPLAN_ACTIVE fFPLAN_ACTIVE_DIRECT_ALLOWED s.dev = true → s.dev.shadow = [] →
        s.dev.plan.frozen = false → off ≠ aWINDROW_JOB 0 → pinnedClear off v bits s.dev = false →
        m.shadow = [(off, (v &&& bits, bits))])) ∧
  (∀ (t : TileId) (off : Nat) (w : Word × Word) (s : State), regsWf s.dev = true →
    s.dev.waitingWrite = [(off, w)] → (locate off).map (fun p => p.unit) = some (tileIdx t) →
    ∃ m, exec (.boundaryWriteApply t) s = .next { s with dev := m } ∧
      (if unitAtCondition (.tile t) s.dev then
        rd off m = (rd off s.dev &&& ~~~ w.2) ||| (w.1 &&& w.2) ∧ m.waitingWrite = [] ∧ regsSameBut [off] s.dev m
      else m = s.dev) ∧ memSame s.dev m)

/-! ### The mesh and the oscillators (chapter 1) -/

/-- R13: an edge left with 13 to 24 of its 25 modules keeps running and raises EDGE_DEGRADED; one left with fewer, or that fails
to retrain, leaves service, is counted in EDGES_DOWN once boot has come to stage 6 (R31) and raises EDGE_DOWN; both on the
lower-numbered die of the edge (R11). The open group of the one ring with traffic on the edge is killed (R14); where no ring has any
(as the model judges it, log entry 14), nothing else changes. R16, R29: a bridge that fails raises HEADLAND/BRIDGE/DOWN and
BRIDGES_UP falls, and the second one stops the module in order; drift between the oscillators is raised and the module keeps running;
a stopped oscillator is raised and stops the module in order with REASON 5, local time stands without the 156.25 MHz one, and REFCLK
without the 100 MHz one (R496). -/
def Obligations.MeshBridgesAndOscillatorsFail : Prop :=
  (∀ (e : Fin 10) (n : Fin 26) (s : State), regsWf s.dev = true → Sparse.get false s.dev.mesh.edgeDown e.val = false →
    let d := ([0, 1, 2, 4, 5, 6, 0, 1, 2, 3] : List Nat).getD e.val 0
    let down := fun m : Dev => Sparse.get false m.mesh.edgeDown e.val = true ∧
      leafSet (cDIE_FABRIC_EDGE_DOWN d) m = true ∧
      ((∀ q < 256, ringCrosses e.val q s.dev = false) →
        rdF aHEADLAND_RESOURCE_SUMMARY fHEADLAND_RESOURCE_SUMMARY_EDGES_DOWN m =
          (let n := rdF aHEADLAND_RESOURCE_SUMMARY fHEADLAND_RESOURCE_SUMMARY_EDGES_DOWN s.dev
           if 6 ≤ bootStageOf s.dev then min 15 (n + 1) else n) ∧
        regsSameBut [(cDIE_FABRIC_EDGE_DOWN d).reg, aHEADLAND_RESOURCE_SUMMARY] s.dev m ∧ memSame s.dev m) ∧
      (∀ q < 256, (∀ r < 256, ringCrosses e.val r s.dev = decide (r = q)) → ringOpen q m = false)
    (∃ m, exec (.edgeDown e) s = .next { s with dev := m } ∧ down m) ∧
    (n.val < 13 → n.val + Sparse.get 0 s.dev.mesh.lost e.val < 25 →
      ∃ m, exec (.edgeDegraded e n) s = .next { s with dev := m } ∧ down m) ∧
    (13 ≤ n.val → n.val + Sparse.get 0 s.dev.mesh.lost e.val < 25 →
      ∃ m, exec (.edgeDegraded e n) s = .next { s with dev := m } ∧ Sparse.get false m.mesh.edgeDown e.val = false ∧
        Sparse.get 0 m.mesh.lost e.val = 25 - n.val ∧ leafSet (cDIE_FABRIC_EDGE_DEGRADED d) m = true ∧
        regsSameBut [(cDIE_FABRIC_EDGE_DEGRADED d).reg] s.dev m ∧ memSame s.dev m)) ∧
  (∀ (b : Fin 2) (osc : Oscillator) (s : State), regsWf s.dev = true →
    (Sparse.get false s.dev.mesh.bridgeDown b.val = false →
      ∃ m, exec (.bridgeDown b) s = .next { s with dev := m } ∧
        (Sparse.get false s.dev.mesh.bridgeDown (1 - b.val) = false →
          leafSet cHEADLAND_BRIDGE_DOWN m = true ∧ Sparse.get false m.mesh.bridgeDown b.val = true ∧
          rdF aHEADLAND_RESOURCE_SUMMARY fHEADLAND_RESOURCE_SUMMARY_BRIDGES_UP m =
            (if 6 ≤ bootStageOf s.dev then 1
             else rdF aHEADLAND_RESOURCE_SUMMARY fHEADLAND_RESOURCE_SUMMARY_BRIDGES_UP s.dev) ∧
          regsSameBut [aINT_LEAF 0 0, aHEADLAND_RESOURCE_SUMMARY] s.dev m ∧ memSame s.dev m) ∧
        (Sparse.get false s.dev.mesh.bridgeDown (1 - b.val) = true → stopNow s.dev = false →
          isSet aBELLOWS_STOP fBELLOWS_STOP_STOPPING m = true ∧ rdF aBELLOWS_STOP fBELLOWS_STOP_REASON m = 6)) ∧
    (∃ m, exec .refDrift s = .next { s with dev := m } ∧ leafSet cHEADLAND_CLOCK_REF_DRIFT m = true ∧
      regsSameBut [aINT_LEAF 0 0] s.dev m ∧ memSame s.dev m) ∧
    (∃ m, exec (.refLoss osc) s = .next { s with dev := m } ∧
      (osc = .mhz156 → m.mesh.clockStopped = true) ∧ (osc = .mhz100 → m.slots.refclk = 0) ∧
      (stopNow s.dev = false →
        isSet aBELLOWS_STOP fBELLOWS_STOP_STOPPING m = true ∧ rdF aBELLOWS_STOP fBELLOWS_STOP_REASON m = 5)))

/-! ### Bellows (chapter 15) -/

/-- R442, R444: a reason to stop sets STOPPING and REASON, ends a Field Plan commit, turns off every tensor link and Ethernet
port; a later reason changes nothing. The rows that carry a reason begin that stop after their cause is raised. R442, R443: at
the end of the fall, or at once when the input is lost, STOPPED is set, STOPPING is clear, and every tile clock stands with
LIMIT 4. -/
def Obligations.StopInOrderEndsStopped : Prop :=
  (∀ (reason : Nat) (x : StopSource) (s : State), regsWf s.dev = true → 1 ≤ reason → reason ≤ 7 →
    (stopNow s.dev = true → beginStop reason s.dev = s.dev) ∧
    (stopNow s.dev = false →
      let m := beginStop reason s.dev
      isSet aBELLOWS_STOP fBELLOWS_STOP_STOPPING m = true ∧ rdF aBELLOWS_STOP fBELLOWS_STOP_REASON m = reason ∧
      m.plan.frozen = false ∧ (∀ e < 2, isSet (aETH_PORT e) fETH_PORT_UP m = false) ∧
      (∀ l < 36, linkState l m = 0 ∨ linkState l m = 7)) ∧
    exec (.stop x) s = .next { s with dev := match x with
      | .firmware => beginStop 7 s.dev
      | .supply => beginStop 1 (raise cBELLOWS_SUPPLY_STOP s.dev)
      | .dieTemperature => beginStop 2 (raise cBELLOWS_THERM_CRITICAL s.dev)
      | .stackTemperature => beginStop 3 (raise cBELLOWS_THERM_CRITICAL s.dev)
      | .coolant => beginStop 4 (raise cBELLOWS_COOLANT_OUTLET_CRIT s.dev)
      | .refLoss => beginStop 5 (raise cHEADLAND_CLOCK_REF_LOSS s.dev)
      | .bridges => bridgeDown 1 (bridgeDown 0 s.dev) }) ∧
  (∀ s : State, regsWf s.dev = true →
    let stands := fun m : Dev => isSet aBELLOWS_STOP fBELLOWS_STOP_STOPPED m = true ∧
      isSet aBELLOWS_STOP fBELLOWS_STOP_STOPPING m = false ∧
      ∀ t < 144, rdF (onTile aBELLOWS_TILE_CLOCK t) fBELLOWS_TILE_CLOCK_CUR_MHZ m = 0 ∧
        rdF (onTile aBELLOWS_TILE_CLOCK t) fBELLOWS_TILE_CLOCK_LIMIT m = 4
    (∃ m, exec .inputLoss s = .next { s with dev := m } ∧ stands m) ∧
    (isSet aBELLOWS_STOP fBELLOWS_STOP_STOPPING s.dev = true → s.dev.power.resetDue = false →
      ∃ m, exec .stopFallEnd s = .next { s with dev := m } ∧ stands m ∧ memSame s.dev m))

/-- R427, R436: after a control period the clock of every tile that is not being swept stands at the lowest of its calibrated
maximum, the throughput ceiling for a tile of the throughput class, its thermal limit and its cap limit, and CLASS shows its
class; once the module has stopped, a period only measures. R434, R435, R444, R430: a CAP_W write takes effect, but not during
the fall of a stop; BRAKE_N sets BRAKE and raises its cause once for each assertion, and its release clears BRAKE; a droop event
is counted, saturating. -/
def Obligations.PowerControlSetsClocksAndCaps : Prop :=
  (∀ (x : Measure) (t : Nat) (s : State), regsWf s.dev = true → t < 144 →
    ∃ m, exec (.controlPeriod x) s = .next { s with dev := m } ∧
      (isSet aBELLOWS_STOP fBELLOWS_STOP_STOPPED s.dev = true →
        rdF aBELLOWS_POWER fBELLOWS_POWER_INPUT_W m = x.inputW.toNat ∧
        rdF aBELLOWS_POWER fBELLOWS_POWER_FLOOR_W m = x.floorW.toNat ∧
        rdF aBELLOWS_POWER fBELLOWS_POWER_THROUGHPUT_W m = x.throughputW.toNat ∧
        rdF aBELLOWS_POWER fBELLOWS_POWER_INPUT_CV m = x.inputCv.toNat ∧
        regsSameBut [aBELLOWS_POWER] s.dev m ∧ memSame s.dev m) ∧
      (isSet aBELLOWS_STOP fBELLOWS_STOP_STOPPED s.dev = false → Sparse.get false m.bellows.sweeping t = false →
        rdF (onTile aBELLOWS_TILE_CLOCK t) fBELLOWS_TILE_CLOCK_CUR_MHZ m =
          min (min (fmaxOf t m) (if interactive t m then fmaxOf t m else throughputMhz m))
            (min (thermalMhz t m) (capMhz t m)) ∧
        rdF (onTile aBELLOWS_TILE_CLOCK t) fBELLOWS_TILE_CLOCK_CLASS m = if interactive t m then 1 else 0)) ∧
  (∀ (cap brake : BitVec 16) (t : TileId) (s : State), regsWf s.dev = true →
    (isSet aBELLOWS_STOP fBELLOWS_STOP_STOPPING s.dev = true → exec (.capWrite cap brake) s = .next s) ∧
    (isSet aBELLOWS_STOP fBELLOWS_STOP_STOPPING s.dev = false →
      ∃ m, exec (.capWrite cap brake) s = .next { s with dev := m } ∧
        rdF aBELLOWS_CAP fBELLOWS_CAP_CAP_W m = cap.toNat ∧ rdF aBELLOWS_CAP fBELLOWS_CAP_BRAKE_W m = brake.toNat ∧
        capW m = max 1500 (min 3400 cap.toNat) ∧ regsSameBut [aBELLOWS_CAP] s.dev m ∧ memSame s.dev m) ∧
    (isSet aBELLOWS_STATE fBELLOWS_STATE_BRAKE s.dev = true → exec .brakeAssert s = .next s) ∧
    (isSet aBELLOWS_STATE fBELLOWS_STATE_BRAKE s.dev = false →
      ∃ m, exec .brakeAssert s = .next { s with dev := m } ∧ isSet aBELLOWS_STATE fBELLOWS_STATE_BRAKE m = true ∧
        leafSet cBELLOWS_BRAKE_ASSERTED m = true ∧ regsSameBut [aBELLOWS_STATE, aINT_LEAF 2 0] s.dev m ∧ memSame s.dev m) ∧
    (∃ m, exec .brakeRelease s = .next { s with dev := m } ∧ isSet aBELLOWS_STATE fBELLOWS_STATE_BRAKE m = false ∧
      regsSameBut [aBELLOWS_STATE] s.dev m ∧ memSame s.dev m) ∧
    (∃ m, exec (.droop t) s = .next { s with dev := m } ∧
      rdF (onTile aBELLOWS_TILE_STATS (tileIdx t)) fBELLOWS_TILE_STATS_DROOP m =
        min 65535 (rdF (onTile aBELLOWS_TILE_STATS (tileIdx t)) fBELLOWS_TILE_STATS_DROOP s.dev + 1) ∧
      regsSameBut [onTile aBELLOWS_TILE_STATS (tileIdx t)] s.dev m ∧ memSame s.dev m))

/-- R436: a tile at or above TILE_THROTTLE_C has its thermal limit lowered by 25 MHz; a sensor at or above its critical threshold
stops the module in order with REASON 2 for a die and 3 for a stack; hot coolant holds D at 0 and an outlet at OUTLET_CRIT_C
stops the module with REASON 4. -/
def Obligations.HeatSlowsTilesAndStopsTheModule : Prop :=
  ∀ (tileC stackC : List Int) (inlet outlet : Int) (t : Nat) (s : State), s.dev.sound = true → tileC.length ≤ 144 →
    stackC.length ≤ 32 → stopNow s.dev = false →
    (∃ m, exec (.thermalSample tileC stackC) s = .next { s with dev := m } ∧
      ((∀ c ∈ tileC, c < tileCrit s.dev) → (∀ c ∈ stackC, c < hbmCrit s.dev) → stopNow m = false ∧
        (t < tileC.length → therm fBELLOWS_THERM_TILE_THROTTLE_C s.dev ≤ tileC.getD t 0 →
          Sparse.get 0 m.bellows.heat t = min (Sparse.get 0 s.dev.bellows.heat t + 1) ((fmaxOf t s.dev - 500) / 25) ∧
          thermalMhz t m ≤ thermalMhz t s.dev)) ∧
      ((∃ c ∈ tileC, tileCrit s.dev ≤ c) → isSet aBELLOWS_STOP fBELLOWS_STOP_STOPPING m = true ∧
        rdF aBELLOWS_STOP fBELLOWS_STOP_REASON m = 2) ∧
      ((∀ c ∈ tileC, c < tileCrit s.dev) → (∃ c ∈ stackC, hbmCrit s.dev ≤ c) →
        isSet aBELLOWS_STOP fBELLOWS_STOP_STOPPING m = true ∧ rdF aBELLOWS_STOP fBELLOWS_STOP_REASON m = 3)) ∧
    (∃ m, exec (.coolantSample inlet outlet) s = .next { s with dev := m } ∧
      (outlet < therm fBELLOWS_THERM_OUTLET_CRIT_C s.dev →
        rdF aBELLOWS_TEMP fBELLOWS_TEMP_INLET m = (inlet % 256).toNat ∧
        rdF aBELLOWS_TEMP fBELLOWS_TEMP_OUTLET m = (outlet % 256).toNat ∧ stopNow m = false ∧
        (therm fBELLOWS_THERM_INLET_MAX_C s.dev ≤ inlet ∨ therm fBELLOWS_THERM_OUTLET_MAX_C s.dev ≤ outlet →
          rdF aBELLOWS_STATE fBELLOWS_STATE_D m = 0 ∧ throughputHeld m = true)) ∧
      (therm fBELLOWS_THERM_OUTLET_CRIT_C s.dev ≤ outlet → isSet aBELLOWS_STOP fBELLOWS_STOP_STOPPING m = true ∧
        rdF aBELLOWS_STOP fBELLOWS_STOP_REASON m = 4))

/-- R429: a sweep starts only on a tile out of service, and its result is the highest step passed less GUARD_MHZ, never below
1,750 MHz, or 0 with BELLOWS/CAL/FAIL when the test fails at 1,750 MHz. -/
def Obligations.CalibrationSweepFindsTheClock : Prop :=
  ∀ (t : TileId) (passed : Nat) (s : State), regsWf s.dev = true → stopNow s.dev = false →
    let r := onTile aBELLOWS_TILE_CAL (tileIdx t)
    (roleOf (tileIdx t) s.dev ≠ 0 → exec (.calSweepStart t) s = .next s) ∧
    (roleOf (tileIdx t) s.dev = 0 → Sparse.get false s.dev.bellows.sweeping (tileIdx t) = false →
      ∃ m, exec (.calSweepStart t) s = .next { s with dev := m } ∧ Sparse.get false m.bellows.sweeping (tileIdx t) = true ∧
        regsSameBut [r] s.dev m ∧ memSame s.dev m) ∧
    (Sparse.get false s.dev.bellows.sweeping (tileIdx t) = true → passed ≤ 15 →
      ∃ m, exec (.calSweepDone t passed) s = .next { s with dev := m } ∧ rdF r fBELLOWS_TILE_CAL_DONE m = 1 ∧
        (passed = 0 → rdF r fBELLOWS_TILE_CAL_FOUND_MHZ m = 0 ∧ leafSet cBELLOWS_CAL_FAIL m = true) ∧
        (1 ≤ passed → rdF r fBELLOWS_TILE_CAL_FOUND_MHZ m =
          max 1750 (1725 + 25 * passed - rdF r fBELLOWS_TILE_CAL_GUARD_MHZ s.dev) ∧ regsSameBut [r] s.dev m) ∧ memSame s.dev m)

/-! ### Power, reset and boot (chapters 16, 18) -/

/-- R27, R448, R503: a reset leaves every register at its reset value and no Seedbed, Field or Fallow byte; NVM and Granary homes
stay, and PERST_N is held low (R496). Power-up starts local time from 0; a rail that leaves regulation and the end of a reset's fall
keep local time. -/
def Obligations.ResetsClearWhatDoesNotPersist : Prop :=
  ∀ s : State, s.dev.sound = true → s.dev.nvm.store = none →
    let clear := fun m : Dev => m.regs = [] ∧ m.shadow = [] ∧ m.rings = [] ∧ m.keys = [] ∧ m.links = [] ∧
      (∀ a, ldByte a m = if granaryBase ≤ a then ldByte a s.dev else 0) ∧ m.nvm.bytes = s.dev.nvm.bytes ∧ m.slots.perstN = 0
    (s.dev.power.converter = false → ∃ m, exec .powerUp s = .next { s with dev := m } ∧ clear m ∧ m.time = 0 ∧
      m.power.pwrOk = true) ∧
    (s.dev.power.converter = true → ∃ m, exec .converterStop s = .next { s with dev := m } ∧ clear m ∧
      m.power.pwrOk = false ∧ m.power.converter = false) ∧
    (s.dev.power.pwrOk = true → ∃ m, exec .railLeavesRegulation s = .next { s with dev := m } ∧ clear m ∧
      m.power.pwrOk = false ∧ m.time = s.dev.time) ∧
    (isSet aBELLOWS_STOP fBELLOWS_STOP_STOPPING s.dev = true → s.dev.power.resetDue = true →
      ∃ m, exec .stopFallEnd s = .next { s with dev := m } ∧ clear m ∧ m.time = s.dev.time) ∧
    (s.dev.power.pwrOk = true → isSet aBELLOWS_STOP fBELLOWS_STOP_STOPPED s.dev = true →
      ∃ m, exec .resetAssert s = .next { s with dev := m } ∧ clear m ∧ m.time = s.dev.time ∧ m.power.resetLow = true) ∧
    (s.dev.power.pwrOk = true → stopNow s.dev = false →
      ∃ m, exec .resetAssert s = .next { s with dev := m } ∧ m.power.resetLow = true ∧ m.power.resetDue = true ∧
        isSet aBELLOWS_STOP fBELLOWS_STOP_STOPPING m = true ∧
        rdF aBELLOWS_STOP fBELLOWS_STOP_REASON m = rdF aBELLOWS_STOP fBELLOWS_STOP_REASON s.dev)

/-- R448, stages 1, 10 and 11: a boot with a locked identity record whose digest fails stops at stage 1 under
HEADLAND/IDENTITY/RECORD_BAD; a boot that waits at stage 10 goes on when every epoch it serves stands verified, enables the
replay table, the Drones, the Intake and Piper, and serves. R474 to R476: SWITCH starts the other copy on trial when it stands
ready and verifies; CONFIRM ends a trial, and makes the running copy's footer confirmed; REVERT, and a trial that runs out, go
back to the copy that ran before under HEADLAND/FW/REVERTED. -/
def Obligations.BootServesAndFirmwareTrialsEnd : Prop :=
  (∀ (x : BootInputs) (s : State), s.dev.sound = true → s.dev.power.pwrOk = true → stopNow s.dev = false →
    s.dev.plan.booted = false →
    (bootStageOf s.dev = 0 → x.oscillatorsOk = true → idLocked s.dev = true → idDigestOk s.dev = false →
      ∃ m, exec (.boot x) s = .next { s with dev := m } ∧ bootStageOf m = 1 ∧
        leafSet cHEADLAND_IDENTITY_RECORD_BAD m = true ∧ m.plan.booted = false) ∧
    (bootStageOf s.dev = 10 → (∀ e ∈ x.epochs, isSet (aSCARE_EPOCH e.1.val) fSCARE_EPOCH_VERIFIED s.dev = true ∧
        rdF (aSCARE_EPOCH e.1.val) fSCARE_EPOCH_MODEL_ID s.dev = e.2.toNat) →
      ∃ m, exec (.boot x) s = .next { s with dev := m } ∧ bootStageOf m = 11 ∧ m.plan.booted = true ∧
        isSet aPIPER_CTRL fPIPER_CTRL_ENABLE m = true ∧ isSet aINTAKE_CTRL fINTAKE_CTRL_ENABLE m = true ∧
        isSet aDRONE_CTRL fDRONE_CTRL_ENABLE m = true ∧ isSet aFABRIC_REPLAY fFABRIC_REPLAY_ENABLE m = true)) ∧
  (∀ s : State, s.dev.sound = true → s.dev.nvm.store = none → nvmDefer s.dev = false →
    let c := fwRunning s.dev
    (otherReady s.dev = true → fwVerifies (copyOf 2 (1 - c) s.dev) true s.dev = true →
      ∃ m, exec (.fwSwitch true true) s = .next { s with dev := m } ∧ fwRunning m = 1 - c ∧ fwState m = 1 ∧
        m.scare.running = fwVersion (copyOf 2 (1 - c) s.dev) ∧ ftState (6 + (1 - c)) m = 1 ∧ memSame s.dev m) ∧
    (otherReady s.dev = false →
      ∃ m, exec (.fwSwitch true true) s = .next { s with dev := m } ∧ leafSet cHEADLAND_FW_HANDOFF_REFUSED m = true ∧
        fwRunning m = c) ∧
    (fwState s.dev = 1 →
      (∃ m, exec .confirm s = .next { s with dev := m } ∧ fwState m = 0 ∧ fwRunning m = c ∧ ftState (6 + c) m = 2 ∧
        memSame s.dev m) ∧
      ∀ k ∈ [Instr.revert, Instr.trialExpiry], ∃ m, exec k s = .next { s with dev := m } ∧ fwState m = 0 ∧
        fwRunning m = 1 - c ∧ leafSet cHEADLAND_FW_REVERTED m = true ∧ memSame s.dev m))

/-! ### NVM (R452 to R458) -/

/-- R454, R455: a STORE is refused with RESULT 4 when its source cannot be read, its partition code is not 2 to 5, its
GENERATION does not rise above both copies, its content does not fit, or does not verify; it answers DEFERRED while NVM writes
are refused and BUSY while another runs; else it starts. Memory is unchanged where its source was read without a fault. R453,
R454: a STORE that completes writes its content into the target copy and, last, the copy's footer with its GENERATION, LENGTH,
STATE 2 (0 for firmware) and DIGEST; the copy is then valid, and the other copy is as it was. A page that twice fails its
write-verify raises HEADLAND/NVM/STORE_FAIL and answers RESULT 5. R458: APPEND makes a record whose first 16 bytes are the
wall-clock time and local time and whose other bytes are the firmware's; records that wait are written at the log's next slots,
wrapping after 262,144, and none waits any longer. -/
def Obligations.NvmStoresAndLogRecords : Prop :=
  (∀ (imageOk : Bool) (s : State), s.dev.sound = true →
    let r := nvmSource s.dev
    let code := rdF aHEADLAND_NVM_CTRL fHEADLAND_NVM_CTRL_PARTITION s.dev
    let gen := rdF aHEADLAND_NVM_CTRL fHEADLAND_NVM_CTRL_GENERATION s.dev
    let result := fun m => rdF aHEADLAND_NVM_STATUS fHEADLAND_NVM_STATUS_RESULT m
    (s.dev.nvm.store.isSome = true → ∃ m, exec (.store imageOk) s = .next { s with dev := m } ∧ result m = 3 ∧
      m.nvm = s.dev.nvm ∧ memSame s.dev m) ∧
    (s.dev.nvm.store = none → r.st = .ok → r.m = s.dev → ∀ p, nvmPart code = some p →
      (gen ≤ copyGen p 0 s.dev ∨ gen ≤ copyGen p 1 s.dev ∨ p.size < r.data.length ∨ contentOk code r.data imageOk s.dev = false →
        ∃ m, exec (.store imageOk) s = .next { s with dev := m } ∧ result m = 4 ∧ m.nvm = s.dev.nvm) ∧
      (2 ≤ code → copyGen p 0 s.dev < gen → copyGen p 1 s.dev < gen → r.data.length ≤ p.size →
        contentOk code r.data imageOk s.dev = true →
        ∃ m, exec (.store imageOk) s = .next { s with dev := m } ∧ memSame s.dev m ∧ m.nvm.bytes = s.dev.nvm.bytes ∧
          (nvmDefer s.dev = true → result m = 2 ∧ m.nvm.store = none) ∧
          (nvmDefer s.dev = false → result m = 0 ∧
            rdF aHEADLAND_NVM_STATUS fHEADLAND_NVM_STATUS_STATE m = 1 ∧
            m.nvm.store = some ⟨code, targetCopy code p s.dev, gen, r.data.length, r.data⟩)))) ∧
  (∀ (j : StoreJob) (p : NvmPart) (s : State), s.dev.sound = true → s.dev.nvm.store = some j → nvmPart j.partition = some p →
    nvmDefer s.dev = false → j.data.length ≤ p.size → j.length = j.data.length → 0 < j.gen → j.gen < 2 ^ 32 → j.copy ≤ 1 →
    s.dev.mgmt.update.state ≠ 5 →
    (∃ m, exec (.storeComplete true) s = .next { s with dev := m } ∧ m.nvm.store = none ∧
      rdF aHEADLAND_NVM_STATUS fHEADLAND_NVM_STATUS_RESULT m = 1 ∧ copyValid p j.copy m = true ∧ nvmCopy p j.copy m = j.data ∧
      copyGen p j.copy m = j.gen ∧ ftState (p.footer + j.copy) m = (if j.partition = 2 then 0 else 2) ∧
      nvmBytes (p.copy (1 - j.copy)) p.size m = nvmBytes (p.copy (1 - j.copy)) p.size s.dev ∧ memSame s.dev m) ∧
    (∃ m, exec (.storeComplete false) s = .next { s with dev := m } ∧ m.nvm.store = none ∧
      rdF aHEADLAND_NVM_STATUS fHEADLAND_NVM_STATUS_RESULT m = 5 ∧ leafSet cHEADLAND_NVM_STORE_FAIL m = true ∧ memSame s.dev m)) ∧
  (∀ s : State, s.dev.sound = true → nvmDefer s.dev = false →
    let r := readVia .headland (rdF aHEADLAND_NVM_SRC fHEADLAND_NVM_SRC_ADDR s.dev * 64) 64 s.dev
    (s.dev.nvm.store = none → r.st = .ok → r.m = s.dev → r.data.length = 64 →
      ∃ m x, exec .appendLog s = .next { s with dev := m } ∧ m.nvm.gathered = s.dev.nvm.gathered ++ [x] ∧ x.length = 64 ∧
        field x 0 8 = (wallClock s.dev).toNat ∧ field x 8 8 = s.dev.time.toNat ∧ x.drop 16 = r.data.drop 16 ∧ memSame s.dev m) ∧
    ((∀ x ∈ s.dev.nvm.gathered, x.length = 64) → s.dev.nvm.gathered.length ≤ 262144 → s.dev.nvm.logNext < 262144 →
      ∃ m, exec .logPageWrite s = .next { s with dev := m } ∧ m.nvm.gathered = [] ∧
        m.nvm.logNext = (s.dev.nvm.logNext + s.dev.nvm.gathered.length) % 262144 ∧
        (∀ i < s.dev.nvm.gathered.length,
          nvmBytes (0x3000000 + 64 * ((s.dev.nvm.logNext + i) % 262144)) 64 m = s.dev.nvm.gathered.getD i []) ∧
        m.regs = s.dev.regs ∧ memSame s.dev m))

/-! ### Scarecrow (R464 to R473) -/

/-- R466: clearing an AES slot empties it; a public slot or one that does not exist is refused with SCARECROW/KEY/REFUSED and
nothing changes; a release while OWNED is 0 and a commission while OWNED is 1 are refused. A commission of a module that is not
owned stores the owner key and wrap key 0 and sets OWNED; a release signed by the owner empties every AES slot and clears OWNED.
R466, R467: a blob installs its key into its slot when the wrap key is present, the tag verifies and SEQ rises; a SEQ that does
not rise is refused and nothing changes. A public slot is written from an entry whose authority may sign its role; a signature
that fails is refused under VERIFY/FAIL. -/
def Obligations.KeysAreGuardedAndInstalled : Prop :=
  (∀ (slot : BitVec 8) (s : State), s.dev.sound = true →
    let result := fun m => rdF aSCARE_KEY_STATUS fSCARE_KEY_STATUS_RESULT m
    let refused := fun m : Dev => leafSet cSCARECROW_KEY_REFUSED m = true ∧ m.keys = s.dev.keys ∧ m.nvm.bytes = s.dev.nvm.bytes
    (16 ≤ slot.toNat → ∃ m, exec (.keyClear slot) s = .next { s with dev := m } ∧ result m = 1 ∧
      Sparse.get KeySlot.empty m.keys slot.toNat = KeySlot.empty ∧
      (∀ k, k ≠ slot.toNat → Sparse.get KeySlot.empty m.keys k = Sparse.get KeySlot.empty s.dev.keys k) ∧
      regsSameBut [aSCARE_KEY_STATUS] s.dev m ∧ memSame s.dev m) ∧
    (slot.toNat < 16 → ∃ m, exec (.keyClear slot) s = .next { s with dev := m } ∧ result m = 4 ∧ refused m ∧ memSame s.dev m) ∧
    (kOwned s.dev = false → ∀ ok, ∃ m, exec (.keyRelease ok) s = .next { s with dev := m } ∧ result m = 6 ∧ refused m ∧
      memSame s.dev m) ∧
    (kOwned s.dev = true → nvmDefer s.dev = false → ∃ m, exec (.keyRelease true) s = .next { s with dev := m } ∧
      result m = 1 ∧ m.keys = [] ∧ isSet aHEADLAND_BOOT fHEADLAND_BOOT_OWNED m = false ∧ memSame s.dev m) ∧
    (let r := keyInput 1825 s.dev
     r.m = s.dev → r.st = .ok →
      (kOwned s.dev = true → ∃ m, exec .keyCommission s = .next { s with dev := m } ∧ result m = 6 ∧ refused m) ∧
      (kOwned s.dev = false → nvmDefer s.dev = false → ∀ i, freeSlot s.dev = some i →
        ∃ m, exec .keyCommission s = .next { s with dev := m } ∧ result m = 1 ∧
          rdF aSCARE_KEY_STATUS fSCARE_KEY_STATUS_SLOT m = i ∧ isSet aHEADLAND_BOOT fHEADLAND_BOOT_OWNED m = true ∧
          m.keys = s.dev.keys))) ∧
  (∀ (key : BitVec 256) (s : State), s.dev.sound = true → nvmDefer s.dev = false →
    let result := fun m => rdF aSCARE_KEY_STATUS fSCARE_KEY_STATUS_RESULT m
    let b := (keyInput 64 s.dev).data
    let e := (keyInput 0x1000 s.dev).data
    ((keyInput 64 s.dev).st = .ok → (keyInput 64 s.dev).m = s.dev → field b 2 1 ≤ 3 → anyByte (kWrapKey (field b 2 1) s.dev) = true →
      field b 1 1 = 1 ∨ field b 1 1 = 2 → 16 ≤ field b 0 1 →
      (kWrapSeq (field b 2 1) s.dev < field b 4 4 → ∃ m, exec (.keyInstall true key) s = .next { s with dev := m } ∧
        result m = 1 ∧ Sparse.get KeySlot.empty m.keys (field b 0 1) = ⟨field b 1 1, key⟩ ∧
        (∀ k, k ≠ field b 0 1 → Sparse.get KeySlot.empty m.keys k = Sparse.get KeySlot.empty s.dev.keys k) ∧ memSame s.dev m) ∧
      (field b 4 4 ≤ kWrapSeq (field b 2 1) s.dev → ∃ m, exec (.keyInstall true key) s = .next { s with dev := m } ∧
        result m = 3 ∧ leafSet cSCARECROW_KEY_REFUSED m = true ∧ m.keys = s.dev.keys ∧ m.nvm.bytes = s.dev.nvm.bytes)) ∧
    ((keyInput 0x1000 s.dev).st = .ok → (keyInput 0x1000 s.dev).m = s.dev → ∀ i, freeSlot s.dev = some i → field e 0 1 = 1 →
      authorityOk (field e 1 1) (field e 2 1) s.dev = true →
      (∃ m, exec (.keyPublic true) s = .next { s with dev := m } ∧ result m = 1 ∧
        rdF aSCARE_KEY_STATUS fSCARE_KEY_STATUS_SLOT m = i ∧ m.keys = s.dev.keys ∧
        m.nvm.bytes = (storeKeys (patch (keysHalf s.dev) (0x2000 + 0x1000 * i) e) s.dev).nvm.bytes) ∧
      (∃ m, exec (.keyPublic false) s = .next { s with dev := m } ∧ result m = 5 ∧
        leafSet cSCARECROW_VERIFY_FAIL m = true ∧ leafSet cSCARECROW_KEY_REFUSED m = true ∧ m.nvm.bytes = s.dev.nvm.bytes)))

/-- R464, R470 to R473: a failing health test is raised once and forbids signing. A digest job starts on a manifest that verifies,
and VERIFIED of its epoch clears; when every piece matches, VERIFIED and MODEL_ID are set and M is extended by the manifest's
digest; at the first mismatch the piece is recorded and SCARECROW/MODEL/MISMATCH raised; a stop ends the job failed. -/
def Obligations.ModelDigestVerifiesAnEpoch : Prop :=
  ∀ (s : State), s.dev.sound = true →
    let state := fun m => rdF aSCARE_DIGEST_STATUS fSCARE_DIGEST_STATUS_STATE m
    (∃ m, exec (.trngHealth true) s = .next { s with dev := m } ∧ maySign m = false ∧
      (s.dev.scare.trngFault = false → leafSet cSCARECROW_TRNG_HEALTH m = true) ∧ regsSameBut [aINT_LEAF 1 0] s.dev m) ∧
    (∃ m, exec (.trngHealth false) s = .next { s with dev := m } ∧ m.scare.trngFault = false ∧ m.regs = s.dev.regs) ∧
    (let e := rdF aSCARE_DIGEST_CTRL fSCARE_DIGEST_CTRL_EPOCH s.dev
     let m1 := wrF (aSCARE_EPOCH e) fSCARE_EPOCH_VERIFIED 0 s.dev
     let h := readVia .headland (rdF aSCARE_DIGEST_CTRL fSCARE_DIGEST_CTRL_MANIFEST s.dev * 64) 64 m1
     let r := readVia .headland (rdF aSCARE_DIGEST_CTRL fSCARE_DIGEST_CTRL_MANIFEST s.dev * 64) (mfSig h.data + 2048) h.m
     s.dev.scare.job = none → h.st = .ok → r.st = .ok → r.m = m1 → manifestForm r.data = true →
      (signedBy 3 (mfSig h.data) r.data true s.dev = true →
        ∃ m, exec (.digestStart true) s = .next { s with dev := m } ∧ state m = 1 ∧
          (m.scare.job.map (fun j => (j.epoch, j.manifest))) = some (e, r.data) ∧
          isSet (aSCARE_EPOCH e) fSCARE_EPOCH_VERIFIED m = false ∧ memSame s.dev m) ∧
      (signedBy 3 (mfSig h.data) r.data true s.dev = false →
        ∃ m, exec (.digestStart true) s = .next { s with dev := m } ∧ state m = 3 ∧ m.scare.job = none ∧
          leafSet cSCARECROW_VERIFY_FAIL m = true)) ∧
    (∀ j, s.dev.scare.job = some j → j.epoch < 8 →
      (∃ m, exec .digestStop s = .next { s with dev := m } ∧ state m = 3 ∧ m.scare.job = none ∧ memSame s.dev m) ∧
      ((∀ i < mfPieces j.manifest, pieceOk j i s.dev = true) →
        ∃ m, exec .digestDone s = .next { s with dev := m } ∧ state m = 2 ∧ m.scare.job = none ∧
          isSet (aSCARE_EPOCH j.epoch) fSCARE_EPOCH_VERIFIED m = true ∧
          rdF (aSCARE_EPOCH j.epoch) fSCARE_EPOCH_MODEL_ID m = field j.manifest 8 4 ∧
          measurement m = shake256 32 (measurement s.dev ++ signedDigest (mfSig j.manifest) j.manifest) ∧ memSame s.dev m) ∧
      (∀ i < mfPieces j.manifest, (∀ k < i, pieceOk j k s.dev = true) → pieceOk j i s.dev = false →
        (pieceRead j i s.dev).st ≠ .held → i < 2 ^ 16 →
        ∃ m, exec .digestDone s = .next { s with dev := m } ∧ state m = 3 ∧ m.scare.job = none ∧
          rdF aSCARE_DIGEST_STATUS fSCARE_DIGEST_STATUS_PIECE m = i ∧ leafSet cSCARECROW_MODEL_MISMATCH m = true ∧
          isSet (aSCARE_EPOCH j.epoch) fSCARE_EPOCH_VERIFIED m = isSet (aSCARE_EPOCH j.epoch) fSCARE_EPOCH_VERIFIED s.dev ∧
          memSame s.dev m))

/-! ### The management channel (R486 to R492) -/

/-- R488: the module takes a dynamic address by ENTDAA or SETDASA while it has none and gives it up by RSTDAA; the codes that
read are answered while it has one; SETMWL and SETMRL keep the transmission unit within 64 to 256 bytes; ENEC and DISEC enable
and disable the in-band interrupt; the target reset pattern resets the peripheral when RSTACT has set that up. R504: while the
module is in reset the management port answers nothing and changes nothing. R489: the control commands of the endpoint are
answered, and Set Endpoint ID sets the identity to an identity that is neither null nor broadcast. -/
def Obligations.PortAnswersCommonAndControlCommands : Prop :=
  (∀ (a : BitVec 7) (v : BitVec 16) (s : State), regsWf s.dev = true → portAlive s.dev = true →
    let sends := fun (c : Instr) (bs : List Byte) => ∃ m, exec c s = .next { s with dev := m } ∧
      m = { s.dev with out := s.dev.out ++ [.i3c bs] }
    (dynAddr s.dev = 0 →
      (∃ m, exec (.entdaa a) s = .next { s with dev := m } ∧ dynAddr m = a.toNat ∧ regsSameBut [aHEADLAND_MGMT_STATUS] s.dev m ∧
        m.out = s.dev.out ++ [.i3c (bigEndian 6 Config.provisionedId.toNat ++
          [Config.busCharacteristics, Config.deviceCharacteristics])]) ∧
      ∃ m, exec (.setdasa a) s = .next { s with dev := m } ∧ dynAddr m = a.toNat ∧ m.out = s.dev.out ∧
        regsSameBut [aHEADLAND_MGMT_STATUS] s.dev m) ∧
    (∃ m, exec .rstdaa s = .next { s with dev := m } ∧ dynAddr m = 0 ∧ regsSameBut [aHEADLAND_MGMT_STATUS] s.dev m) ∧
    (dynAddr s.dev ≠ 0 → sends .getpid (bigEndian 6 Config.provisionedId.toNat) ∧ sends .getbcr [Config.busCharacteristics] ∧
      sends .getdcr [Config.deviceCharacteristics] ∧ sends .getstatus (Config.standardBody 70 0) ∧
      sends .getmwl (bigEndian 2 s.dev.mgmt.mwl) ∧ sends .getmrl (bigEndian 2 s.dev.mgmt.mrl) ∧
      (∃ m, exec (.enec 1) s = .next { s with dev := m } ∧ m.mgmt.ibi = true ∧ m.regs = s.dev.regs) ∧
      ∃ m, exec (.disec 1) s = .next { s with dev := m } ∧ m.mgmt.ibi = false ∧ m.regs = s.dev.regs) ∧
    (∃ m, exec (.setmwl v) s = .next { s with dev := m } ∧ m.mgmt.mwl = max 64 (min 256 v.toNat) ∧ m.regs = s.dev.regs) ∧
    (∃ m, exec (.setmrl v) s = .next { s with dev := m } ∧ m.mgmt.mrl = max 64 (min 256 v.toNat) ∧ m.regs = s.dev.regs) ∧
    (∃ m, exec (.rstact 1) s = .next { s with dev := m } ∧ m.mgmt.rstact = 1 ∧ m.regs = s.dev.regs) ∧
    (s.dev.mgmt.rstact = 1 → ∃ m, exec .targetResetPattern s = .next { s with dev := m } ∧ dynAddr m = 0 ∧
      m.mgmt.ibi = false ∧ m.mgmt.mwl = 64 ∧ m.mgmt.mrl = 64 ∧ regsSameBut [aHEADLAND_MGMT_STATUS] s.dev m ∧ memSame s.dev m)) ∧
  (∀ (inst : BitVec 8) (off : BitVec 32) (v : Word) (s : State), portAlive s.dev = false →
    ∀ c ∈ [Instr.getpid, .rstdaa, .regRead inst off, .regWrite inst off v, .getEndpointId inst, .getTid inst,
      .pollForPlatformEvent inst, .requestUpdate inst], exec c s = .next s) ∧
  (∀ (inst eid t : BitVec 8) (s : State), regsWf s.dev = true → portAlive s.dev = true →
    (eid ≠ 0 → eid ≠ 0xFF → ∃ m, exec (.setEndpointId inst 0 eid) s = .next { s with dev := m } ∧
      rdF aHEADLAND_MGMT_STATUS fHEADLAND_MGMT_STATUS_EID m = eid.toNat ∧
      answeredMctp (standardResponse 0 inst 1 eid.toNat) s.dev m ∧ regsSameBut [aHEADLAND_MGMT_STATUS] s.dev m) ∧
    (∃ m, exec (.getEndpointId inst) s = .next { s with dev := m } ∧ m.regs = s.dev.regs ∧
      answeredMctp (standardResponse 0 inst 2 (rdF aHEADLAND_MGMT_STATUS fHEADLAND_MGMT_STATUS_EID s.dev)) s.dev m) ∧
    (∃ m, exec (.getMctpVersionSupport inst t) s = .next { s with dev := m } ∧ m.regs = s.dev.regs ∧
      answeredMctp (standardResponse 0 inst 4 t.toNat) s.dev m) ∧
    (∃ m, exec (.getMessageTypeSupport inst) s = .next { s with dev := m } ∧ m.regs = s.dev.regs ∧
      answeredMctp (standardResponse 0 inst 5 0) s.dev m))

/-- R490: REG_READ answers status 0 and the register's value and REG_WRITE is the register write of the management channel,
whatever the offset; PLACE and TIME give the module its place and its wall-clock time. R463, R473: a certified module without a
fault of its random source answers ATTEST with a 480-byte report that carries the verifier's nonce, the boot count and local
time; any other refuses. CERT is written once, beside a generated key. A nonce of the wrong length is a bad message. -/
def Obligations.VendorAndAttestationMessages : Prop :=
  (∀ (inst : BitVec 8) (off : BitVec 32) (v coord appl ns : Word) (s : State), portAlive s.dev = true →
    (∃ m, exec (.regRead inst off) s = .next { s with dev := m } ∧
      m.out.length ≤ s.dev.out.length + 2 ∧
      .mctp (vendorResponse 1 inst 0 (toLe 8 (regRead .management off.toNat 8 s.dev).2.toNat)) ∈ m.out ∧
      (off.toNat % 8 = 0 → (locate off.toNat).isSome = true → m.regs = s.dev.regs) ∧ memSame s.dev m) ∧
    (∃ m, exec (.regWrite inst off v) s = .next { s with dev := m } ∧
      .mctp (vendorResponse 2 inst 0 []) ∈ m.out ∧ m.regs = (regWrite .management off.toNat 8 v s.dev).regs ∧
      m.shadow = (regWrite .management off.toNat 8 v s.dev).shadow) ∧
    (∃ m, exec (.place inst coord appl ns) s = .next { s with dev := m } ∧ m.mgmt.place = some (coord, appl) ∧
      wallClock m = ns ∧ answeredMctp (vendorResponse 3 inst 0 []) s.dev m ∧ m.regs = s.dev.regs) ∧
    (∃ m, exec (.time inst ns) s = .next { s with dev := m } ∧ wallClock m = ns ∧ m.time = s.dev.time ∧
      answeredMctp (vendorResponse 4 inst 0 []) s.dev m ∧ m.regs = s.dev.regs)) ∧
  (∀ (inst : BitVec 8) (nonce cert : List Byte) (s : State), s.dev.sound = true → portAlive s.dev = true →
    (nonce.length = 32 → maySign s.dev = true →
      ∃ m report sig, exec (.attest inst nonce) s = .next { s with dev := m } ∧
        answeredMctp (vendorResponse 0x10 inst 0 (report ++ toLe 2 sig.length ++ sig)) s.dev m ∧ report.length = 480 ∧
        sig = Config.falconSign (shake256 64 report) ∧ slice report 8 32 = nonce ∧
        field report 72 8 = kBootCount s.dev % 2 ^ 64 ∧ field report 80 8 = s.dev.time.toNat ∧ m.regs = s.dev.regs) ∧
    (nonce.length = 32 → maySign s.dev = false → ∃ m, exec (.attest inst nonce) s = .next { s with dev := m } ∧
      answeredMctp (vendorResponse 0x10 inst 1 []) s.dev m ∧ m.regs = s.dev.regs) ∧
    (nonce.length ≠ 32 → ∃ m, exec (.attest inst nonce) s = .next { s with dev := m } ∧
      .mctp (vendorResponse 0x10 inst 2 []) ∈ m.out ∧ leafSet cHEADLAND_MGMT_BAD_MESSAGE m = true) ∧
    (0 < cert.length → cert.length ≤ 2046 → kCertified s.dev = false → anyByte (kPrivateKey s.dev) = true →
      nvmDefer s.dev = false → ∃ m, exec (.cert inst cert) s = .next { s with dev := m } ∧
        answeredMctp (vendorResponse 0x11 inst 0 []) s.dev m ∧ isSet aHEADLAND_BOOT fHEADLAND_BOOT_CERTIFIED m = true ∧
        regsSameBut [aHEADLAND_BOOT] s.dev m) ∧
    (0 < cert.length → cert.length ≤ 2046 → kCertified s.dev = true → ∃ m, exec (.cert inst cert) s = .next { s with dev := m } ∧
      answeredMctp (vendorResponse 0x11 inst 1 []) s.dev m ∧ m.nvm = s.dev.nvm ∧ m.regs = s.dev.regs))

/-- R490: IMAGE_BEGIN discards the staged image and stages an empty one; IMAGE_DATA places bytes within its length and is refused past
it; IMAGE_END answers the result of the verification and raises SCARECROW/VERIFY/FAIL when it fails. -/
def Obligations.ImageMessagesStageOneImage : Prop :=
  ∀ (inst kind : BitVec 8) (len off : BitVec 32) (data : List Byte) (ok : Bool) (x : Image) (s : State), regsWf s.dev = true →
    portAlive s.dev = true →
    (kind.toNat ≤ 1 → len.toNat ≤ 12 * 2 ^ 20 → ∃ m, exec (.imageBegin inst kind len) s = .next { s with dev := m } ∧
      m.mgmt.image = some ⟨kind.toNat, len.toNat, [], false⟩ ∧ answeredMctp (vendorResponse 0x20 inst 0 []) s.dev m ∧
      m.regs = s.dev.regs) ∧
    (s.dev.mgmt.image = some x → data.length ≤ 4080 →
      (off.toNat + data.length ≤ x.length → ∃ m, exec (.imageData inst off data) s = .next { s with dev := m } ∧
        m.mgmt.image = some { x with bytes := memPut x.bytes off.toNat data, ok := false } ∧
        answeredMctp (vendorResponse 0x21 inst 0 []) s.dev m ∧ m.regs = s.dev.regs) ∧
      (x.length < off.toNat + data.length → ∃ m, exec (.imageData inst off data) s = .next { s with dev := m } ∧
        m.mgmt.image = some x ∧ answeredMctp (vendorResponse 0x21 inst 1 []) s.dev m ∧ m.regs = s.dev.regs)) ∧
    (s.dev.mgmt.image = some x → ∃ m, exec (.imageEnd inst ok) s = .next { s with dev := m } ∧
      m.mgmt.image = some { x with ok := imageVerifies x ok s.dev } ∧
      .mctp (vendorResponse 0x22 inst 0 [if imageVerifies x ok s.dev then 1 else 0]) ∈ m.out ∧
      (imageVerifies x ok s.dev = false → leafSet cSCARECROW_VERIFY_FAIL m = true) ∧ memSame s.dev m)

/-- R492: the base commands and the record commands of PLDM are answered and change no register; SetTID sets the terminus; a
sensor reads the Bellows field it names; an effecter write to CAP_W or BRAKE_W is a register write; polling takes the oldest
event, one for each change of INT_SUMMARY. R457, R492: a firmware update runs RequestUpdate, PassComponentTable,
UpdateComponent, the data in order, a STORE of the image and ActivateFirmware; a component whose stamp does not rise above both
copies is turned away; the update can be cancelled. The states' numbers are the model's own. -/
def Obligations.PldmMessagesAndUpdates : Prop :=
  (∀ (inst tid t : BitVec 8) (h : BitVec 32) (v : BitVec 16) (e : Word) (rest : List Word) (s : State), regsWf s.dev = true →
    portAlive s.dev = true →
    let only := fun (c : Instr) (n arg : Nat) => ∃ m, exec c s = .next { s with dev := m } ∧
      answeredMctp (standardResponse 1 inst n arg) s.dev m ∧ m = { s.dev with out := m.out }
    only (.getTid inst) 10 s.dev.mgmt.tid ∧ only (.getPldmVersion inst t) 12 t.toNat ∧ only (.getPldmTypes inst) 13 0 ∧
    only (.getPldmCommands inst t) 14 t.toNat ∧ only (.getPdr inst h) 15 h.toNat ∧ only (.getPdrRepositoryInfo inst) 16 0 ∧
    only (.getSensorReading inst .inputPower) 20 (rdF aBELLOWS_POWER fBELLOWS_POWER_INPUT_W s.dev) ∧
    only (.getSensorReading inst .inputVoltage) 21 (rdF aBELLOWS_POWER fBELLOWS_POWER_INPUT_CV s.dev) ∧
    only (.getSensorReading inst .dieMax) 22 (rdF aBELLOWS_TEMP fBELLOWS_TEMP_DIE_MAX s.dev) ∧
    only (.getSensorReading inst .hbmMax) 23 (rdF aBELLOWS_TEMP fBELLOWS_TEMP_HBM_MAX s.dev) ∧
    only (.getSensorReading inst .coolantInlet) 24 (rdF aBELLOWS_TEMP fBELLOWS_TEMP_INLET s.dev) ∧
    only (.getSensorReading inst .coolantOutlet) 25 (rdF aBELLOWS_TEMP fBELLOWS_TEMP_OUTLET s.dev) ∧
    only (.getNumericEffecterValue inst .capW) 31 (rdF aBELLOWS_CAP fBELLOWS_CAP_CAP_W s.dev) ∧
    only (.getNumericEffecterValue inst .brakeW) 32 (rdF aBELLOWS_CAP fBELLOWS_CAP_BRAKE_W s.dev) ∧
    (∃ m, exec (.setTid inst tid) s = .next { s with dev := m } ∧ m.mgmt.tid = tid.toNat ∧
      answeredMctp (standardResponse 1 inst 11 0) s.dev m ∧ m.regs = s.dev.regs) ∧
    (isSet aBELLOWS_STOP fBELLOWS_STOP_STOPPING s.dev = false →
      (∃ m, exec (.setNumericEffecterValue inst .capW v) s = .next { s with dev := m } ∧
        rdF aBELLOWS_CAP fBELLOWS_CAP_CAP_W m = v.toNat ∧
        rdF aBELLOWS_CAP fBELLOWS_CAP_BRAKE_W m = rdF aBELLOWS_CAP fBELLOWS_CAP_BRAKE_W s.dev ∧
        regsSameBut [aBELLOWS_CAP] s.dev m ∧ answeredMctp (standardResponse 1 inst 30 0) s.dev m) ∧
      ∃ m, exec (.setNumericEffecterValue inst .brakeW v) s = .next { s with dev := m } ∧
        rdF aBELLOWS_CAP fBELLOWS_CAP_BRAKE_W m = v.toNat ∧
        rdF aBELLOWS_CAP fBELLOWS_CAP_CAP_W m = rdF aBELLOWS_CAP fBELLOWS_CAP_CAP_W s.dev ∧ regsSameBut [aBELLOWS_CAP] s.dev m) ∧
    (s.dev.mgmt.events = e :: rest → ∃ m, exec (.pollForPlatformEvent inst) s = .next { s with dev := m } ∧
      m.mgmt.events = rest ∧ answeredMctp (standardResponse 1 inst 41 e.toNat) s.dev m ∧ m.regs = s.dev.regs)) ∧
  (∀ (inst : BitVec 8) (c : BitVec 16) (size stamp off : BitVec 32) (data : List Byte) (x : Image) (s : State), regsWf s.dev = true →
    portAlive s.dev = true →
    let u := s.dev.mgmt.update
    let goes := fun (i : Instr) (n : Nat) => ∃ m, exec i s = .next { s with dev := m } ∧ m.mgmt.update.state = n ∧
      m.regs = s.dev.regs ∧ memSame s.dev m
    (u.state = 0 → goes (.requestUpdate inst) 1) ∧
    (u.state = 1 → c.toNat ≤ 1 → goes (.passComponentTable inst c) 2) ∧
    (u.state = 2 → c.toNat ≤ 1 → 0 < size.toNat → size.toNat ≤ 12 * 2 ^ 20 →
      (genRises c.toNat stamp.toNat s.dev = true → goes (.updateComponent inst c size stamp) 3) ∧
      (genRises c.toNat stamp.toNat s.dev = false → goes (.updateComponent inst c size stamp) 2)) ∧
    (u.state = 3 → s.dev.mgmt.image = some x → off.toNat = u.received → 0 < data.length → u.received + data.length < u.size →
      goes (.requestFirmwareData inst off data true) 3 ∧
      ∃ m, exec (.requestFirmwareData inst off data true) s = .next { s with dev := m } ∧
        m.mgmt.update.received = u.received + data.length ∧
        m.mgmt.image = some { x with bytes := memPut x.bytes off.toNat data }) ∧
    (u.state = 3 → goes (.cancelUpdateComponent inst) 2) ∧
    (u.state = 6 → u.component = 1 → goes (.activateFirmware inst true true) 0) ∧
    (u.state ≠ 0 → goes (.cancelUpdate inst) 0) ∧
    (∃ m, exec (.getStatus inst) s = .next { s with dev := m } ∧ m = { s.dev with out := m.out } ∧
      answeredMctp (standardResponse 1 inst 57 u.state) s.dev m) ∧
    (∃ m, exec (.queryDeviceIdentifiers inst) s = .next { s with dev := m } ∧ m = { s.dev with out := m.out } ∧
      answeredMctp (standardResponse 1 inst 51 0) s.dev m) ∧
    (∃ m, exec (.getFirmwareParameters inst) s = .next { s with dev := m } ∧ m = { s.dev with out := m.out } ∧
      answeredMctp (standardResponse 1 inst 52 (rdF aHEADLAND_FW_STATUS fHEADLAND_FW_STATUS_RUNNING_GEN s.dev)) s.dev m))

/-! ### Boundary scan and Ethernet (R369, R507) -/

/-- R507: IDCODE and Test-Logic-Reset select the identification register, and IDCODE sends it; SAMPLE/PRELOAD captures the 29
cells and takes new ones; BYPASS holds one bit; EXTEST, CLAMP and HIGHZ take effect only in reset with power good, and elsewhere
select BYPASS. None of them changes a register or memory. R369: an enabled Ethernet port trains (the lane settings kept of it
may raise the generation of the Calibration partition), and one that loses its link raises INTAKE/PORT/LINK_DOWN, and ends a
commit that holds it with BLOCK_LOST (R167); a port that is up answers an echo request with its body and a solicitation with its MAC, learns a neighbour from an advertisement, and takes a
pause frame of its PFC priority. -/
def Obligations.BoundaryScanAndEthernetPorts : Prop :=
  (∀ (cells : BitVec 29) (tdi : Bool) (s : State),
    let only := fun (m : Dev) => m = { s.dev with jtag := m.jtag, out := m.out, free := m.free }
    (∃ m, exec .idcode s = .next { s with dev := m } ∧ only m ∧ m.jtag.code = 0x01 ∧
      m.out = s.dev.out ++ [.jtag ((List.range 32).map (fun i => Nat.testBit 0x23200A5D i))]) ∧
    (∃ m, exec .testLogicReset s = .next { s with dev := m } ∧ only m ∧ m.jtag.code = 0x01 ∧ m.out = s.dev.out) ∧
    (∃ m bits, exec (.samplePreload cells) s = .next { s with dev := m } ∧ only m ∧ m.jtag.code = 0x02 ∧ m.jtag.cells = cells ∧
      m.out = s.dev.out ++ [.jtag bits] ∧ bits.length = 29 ∧ bits.head? = some (!s.dev.power.resetLow)) ∧
    (∃ m, exec (.bypass tdi) s = .next { s with dev := m } ∧ only m ∧ m.jtag.code = 0xFF ∧ m.jtag.bypass = tdi ∧
      m.out = s.dev.out ++ [.jtag [false]]) ∧
    (testEffective s.dev = true → (∃ m, exec (.extest cells) s = .next { s with dev := m } ∧ only m ∧ m.jtag.code = 0x00 ∧
        m.jtag.cells = cells) ∧
      (∃ m, exec .clamp s = .next { s with dev := m } ∧ only m ∧ m.jtag.code = 0x04) ∧
      ∃ m, exec .highz s = .next { s with dev := m } ∧ only m ∧ m.jtag.code = 0x05) ∧
    (testEffective s.dev = false → ∀ c ∈ [Instr.extest cells, .clamp, .highz],
      ∃ m, exec c s = .next { s with dev := m } ∧ only m ∧ m.jtag.code = 0xFF ∧ m.jtag.cells = s.dev.jtag.cells)) ∧
  (∀ (e : Fin 2) (src target : BitVec 128) (body : List Byte) (mac : BitVec 48) (prio : BitVec 3) (q : BitVec 16) (s : State),
    regsWf s.dev = true →
    (isSet (aETH_PORT e.val) fETH_PORT_ENABLE s.dev = true → stopNow s.dev = false →
      ∃ m, exec (.ethLinkUp e) s = .next { s with dev := m } ∧ ethUp e.val m = true ∧ regsSameBut [aETH_PORT e.val, genReg 4] s.dev m ∧
        memSame s.dev m) ∧
    (ethUp e.val s.dev = true →
      (blockLost s.dev (ethDown e.val s.dev) = false →
        ∃ m, exec (.ethLinkDown e) s = .next { s with dev := m } ∧ ethUp e.val m = false ∧
          leafSet cINTAKE_PORT_LINK_DOWN m = true ∧
          regsSameBut [aETH_PORT e.val, cINTAKE_PORT_LINK_DOWN.reg] s.dev m ∧ memSame s.dev m) ∧
      (s.dev.plan.frozen = true → (s.dev.plan.waiting ++ s.dev.plan.parked).contains (.ethPort e) = true →
        s.dev.piper.move = none → piperOn s.dev = false →
        ∃ m, exec (.ethLinkDown e) s = .next { s with dev := m } ∧ ethUp e.val m = false ∧ m.plan.frozen = false ∧
          rdF aFPLAN_STATUS fFPLAN_STATUS_RESULT m = 5 ∧ leafSet cFPLAN_COMMIT_BLOCK_LOST m = true ∧
          m.shadow = s.dev.shadow) ∧
      (∃ m, exec (.icmpv6Echo e src body) s = .next { s with dev := m } ∧
        m = { s.dev with out := s.dev.out ++ [.eth e.val ((toLe 16 src.toNat).reverse ++ [129#8, 0#8] ++ body)] }) ∧
      (∃ m, exec (.neighbourDiscovery e .solicitation target mac) s = .next { s with dev := m } ∧
        m = { s.dev with out := s.dev.out ++ [.eth e.val ((toLe 16 target.toNat).reverse ++ [136#8, 0#8] ++
          toLe 6 (rdF (aETH_PORT e.val) fETH_PORT_MAC s.dev))] }) ∧
      (∃ m, exec (.neighbourDiscovery e .advertisement target mac) s = .next { s with dev := m } ∧
        (e.val, target, mac) ∈ m.eth.neighbours ∧
        (∀ x ∈ m.eth.neighbours, x.1 = e.val → x.2.1 = target → x.2.2 = mac) ∧ m = { s.dev with eth := m.eth }) ∧
      (isSet (aETH_PORT e.val) fETH_PORT_PFC s.dev = true →
        rdF (aETH_PORT e.val) fETH_PORT_PFC_PRIORITY s.dev = prio.toNat → q ≠ 0 →
        ∃ m, exec (.priorityFlowControl e prio q) s = .next { s with dev := m } ∧ Sparse.get 0 m.eth.paused e.val = q.toNat ∧
          m = { s.dev with eth := m.eth })))

/-! ### Seedbed, Field and the grid (chapters 03 and 10) -/

/-- R87, R91, R94, R95: one request to an idle bank of a tile, at which none waits. An allowed write changes exactly the bytes its mask
enables; an allowed read of a word without poison answers the word and changes nothing; a refused access changes no byte, raises
SEEDBED/REGION_FAULT, and a refused read returns zeros marked as poisoned; a correction is written back in its turn. R88, R90, R93:
of three requests of different masters the one of lowest priority is not granted and waits, stalled once. -/
def Obligations.SeedbedBankServesOneRequest : Prop :=
  ∀ (t : TileId) (k : Fin 64) (q : BankReq) (s : State), s.dev.sound = true → q.ecc = .clean → q.row < 5120 →
    let b := BankRef.tile t k
    let a := wordAddr b q.row
    putOffOf (bankNum b) s.dev = none → waitingAt (bankNum b) s.dev = [] →
    (∀ k < 10, (bankGate b k).waits s.dev = false) →
    (reqAllowed b q s.dev = true → q.write = true →
      ∃ m, exec (.seedbedAccess b [q]) s = .next { s with dev := m } ∧
        (∀ i < 64, ldByte (a + i) m =
          if q.mask.getLsbD i then BitVec.ofNat 8 (q.data.toNat / 2 ^ (8 * i)) else ldByte (a + i) s.dev) ∧
        memSameBut a 64 s.dev m ∧ regsSameBut [] s.dev m ∧ m.out = s.dev.out) ∧
    (reqAllowed b q s.dev = true → q.write = false → poisoned a 64 s.dev = false →
      ∃ m, exec (.seedbedAccess b [q]) s = .next { s with dev := m } ∧
        m.out = s.dev.out ++ [.bankWord (bankNum b) q.row (BitVec.ofNat 512 (leNat (ldBytes a 64 s.dev))) false] ∧
        memSame s.dev m ∧ regsSameBut [] s.dev m) ∧
    (reqAllowed b q s.dev = false →
      ∃ m, exec (.seedbedAccess b [q]) s = .next { s with dev := m } ∧
        leafSet (cDIE_SEEDBED_REGION_FAULT t.die.val) m = true ∧ memSame s.dev m ∧
        m.out = s.dev.out ++ (if q.write then [] else [.bankWord (bankNum b) q.row 0 true]) ∧
        m.poisonLane = s.dev.poisonLane) ∧
    (∀ x y z : BankReq, [x, y, z].all (fun r => reqAllowed b r s.dev && !r.write) = true → x.master.val < y.master.val →
      y.master.val < z.master.val →
      ∃ m, exec (.seedbedAccess b [z, y, x]) s = .next { s with dev := m } ∧ waitingAt (bankNum b) m = [(z, 1)]) ∧
    (∃ m, exec (.eccWriteback b) s = .next { s with dev := m } ∧
      m.banks.writeBack = Sparse.upd [] s.dev.banks.writeBack (bankNum b) ((writeBacks (bankNum b) s.dev).drop 1) ∧
      memSame s.dev m ∧ regsSameBut [] s.dev m)

/-- R299: a Field access to a stack in service. A read answers the 32 bytes and whether they are poisoned; a write under a mask
changes those bytes and no other, and one of all 32 bytes clears the mark; a two-symbol error poisons the granule, raises
ECC_UNCORR and is counted; a stack out of service refuses the access. R300: a scrub that finds nothing changes no byte. R300: a
scrub that meets one uncorrectable symbol pair poisons its granule, records it as the scrub's, counts it and raises ECC_UNCORR.
-/
def Obligations.FieldAccessesAndScrubs : Prop :=
  (∀ (q : FieldReq) (st : Fin 32) (s : State), s.dev.sound = true → q.ok = true →
    let f := 32 * q.granule
    let a := fieldBase + f
    (stackUp (fieldStack f) s.dev = true → q.write = false → q.ecc = .clean →
      exec (.fieldAccess q) s = .next { s with dev := { s.dev with
        out := s.dev.out ++ [.fieldWord q.granule (ldBytes a 32 s.dev) (poisoned a 32 s.dev)] } }) ∧
    (stackUp (fieldStack f) s.dev = true → q.write = true →
      ∃ m, exec (.fieldAccess q) s = .next { s with dev := m } ∧
        (∀ i < 32, ldByte (a + i) m =
          if q.mask.getLsbD i then BitVec.ofNat 8 (q.data.toNat / 2 ^ (8 * i)) else ldByte (a + i) s.dev) ∧
        memSameBut a 32 s.dev m ∧ (q.mask = 0xFFFFFFFF#32 → poisoned a 32 m = false) ∧
        (q.mask ≠ 0xFFFFFFFF#32 → poisoned a 32 m = poisoned a 32 s.dev) ∧ regsSameBut [] s.dev m) ∧
    (∀ l, stackUp (fieldStack f) s.dev = true → q.write = false → q.ecc = .double l →
      ∃ m, exec (.fieldAccess q) s = .next { s with dev := m } ∧ poisoned a 32 m = true ∧
        leafSet (cSTACK_ECC_UNCORR (fieldStack f)) m = true ∧ memSame s.dev m ∧
        rdF (aHARROW_ECC_STATS (fieldStack f)) fHARROW_ECC_STATS_UNCORRECTED m =
          min (2 ^ 32 - 1) (rdF (aHARROW_ECC_STATS (fieldStack f)) fHARROW_ECC_STATS_UNCORRECTED s.dev + 1)) ∧
    (stackUp (fieldStack f) s.dev = false →
      ∃ m, exec (.fieldAccess q) s = .next { s with dev := m } ∧
        leafSet (cDIE_FABRIC_UNMAPPED q.die.val) m = true ∧ memSame s.dev m ∧ m.out = s.dev.out) ∧
    (stackUp st.val s.dev = true → rdF (aHARROW_CTRL st.val) fHARROW_CTRL_SCRUB_HOURS s.dev ≠ 0 →
      ∃ m, exec (.scrubPass st []) s = .next { s with dev := m } ∧ m.regs = s.dev.regs ∧ m.mem = s.dev.mem ∧
        ∀ e ∈ m.banks.weak, e.1 / 2 ^ 20 ≠ st.val)) ∧
  (∀ (st : Fin 32) (off : Nat) (s : State), s.dev.sound = true → off < 2 ^ 36 → stackUp st.val s.dev = true →
    rdF (aHARROW_CTRL st.val) fHARROW_CTRL_SCRUB_HOURS s.dev ≠ 0 → (rd (aHARROW_FAULT st.val) s.dev).getLsbD 63 = false →
    ∃ m, exec (.scrubPass st [⟨off, false⟩]) s = .next { s with dev := m } ∧
      poisoned (stackByteAddr st.val (off / 32 * 32)) 32 m = true ∧ leafSet (cSTACK_ECC_UNCORR st.val) m = true ∧
      rdF (aHARROW_FAULT st.val) fHARROW_FAULT_VALID m = 1 ∧ rdF (aHARROW_FAULT st.val) fHARROW_FAULT_SCRUB m = 1 ∧
      rdF (aHARROW_FAULT st.val) fHARROW_FAULT_KIND m = 1 ∧
      rdF (aHARROW_ECC_STATS st.val) fHARROW_ECC_STATS_UNCORRECTED m =
        min (2 ^ 32 - 1) (rdF (aHARROW_ECC_STATS st.val) fHARROW_ECC_STATS_UNCORRECTED s.dev + 1) ∧
      memSame s.dev m)

/-- The operands that a grid pass reads: rows of activations and columns of weights, as master 1 of its tile. -/
def passRows (t : Nat) (p : PassSpec) (m : Dev) : Run × List (List Byte) :=
  readRows (.tile t 1) (rowBytes p.fmtA.toNat p.k) ((List.range p.rows).map (fun i => loc (p.aAddr + p.aPitch * i)))
    (Run.start m)
def passCols (t : Nat) (p : PassSpec) (m : Dev) : Run × List (List Byte) :=
  readRows (.tile t 1) (rowBytes p.fmtW.toNat p.k) ((List.range p.cols).map (fun n => loc (p.wAddr + p.wPitch * n)))
    (passRows t p m).1

/-- R44, R74, R75, R76: a native or FP8 pass adds to each entry of its set that its rows and columns name the exact sum of that
row and column (in place of the old value where the clear flag is set), leaves every other accumulator as it was, and counts its
holds. R81: a drain whose output rows may be written leaves both accumulator sets as they are and writes each row of the set to
its output address, the rows in ascending order; rows in FP32 without epilogue hold the rounded entries (R50). -/
def Obligations.GridAccumulatesAndDrains : Prop :=
  (∀ (t : TileId) (p : PassSpec) (s : State), s.dev.sound = true →
    1 ≤ p.rows → p.rows ≤ 256 →
    1 ≤ p.cols → p.cols ≤ 256 → 1 ≤ p.k → p.k ≤ 256 → pairOk p.fmtA.toNat p.fmtW.toNat = true →
    isBf16 p.fmtA.toNat = false →
    let n := tileIdx t
    let as := (passRows n p s.dev).2
    let ws := (passCols n p s.dev).2
    ∃ m, exec (.gridPass t p) s = .next { s with dev := m } ∧
      (∀ i < p.rows, ∀ j < p.cols, accOf n p.set.val i j m =
        (accOf n p.set.val i j s.dev).add p.clear
          (stretchSum p.fmtA.toNat p.fmtW.toNat p.k (as.getD i []) (ws.getD j []))) ∧
      (∀ key, (∀ i < p.rows, ∀ j < p.cols, key ≠ accKey n p.set.val i j) →
        Sparse.get Acc.zero m.acc key = Sparse.get Acc.zero s.dev.acc key) ∧
      memSame (passCols n p s.dev).1.m m ∧ m.poisonLane = (passCols n p s.dev).1.m.poisonLane) ∧
  (∀ (t : TileId) (d : DrainSpec) (s : State), s.dev.sound = true → d.rows = 1 → 1 ≤ d.cols → d.cols ≤ 256 → d.outFmt = 0 →
    d.epilogue = 0 → d.reference = false → d.outAddr % 64 = 0 → d.outAddr + 1024 ≤ 0x140_0000 →
    canWrite (.tile (tileIdx t) 0) (tl (tileIdx t) d.outAddr) (4 * d.cols) s.dev = true →
    tileMasterParked (tileIdx t) 0 s.dev = false →
    ∃ m, exec (.accDrain t d) s = .next { s with dev := m } ∧ m.acc = s.dev.acc ∧
      ldBytes (tileAddr (tileIdx t) d.outAddr) (4 * d.cols) m =
        ((List.range d.cols).map (fun n =>
          toLe 4 (drainFloat fmtFP32 false d.window d.shift (accOf (tileIdx t) d.set.val 0 n s.dev)))).flatten ∧
      memSameBut (tileAddr (tileIdx t) d.outAddr) (4 * d.cols) s.dev m ∧ regsSameBut [] s.dev m)

/-- R80, R101: the self-test starts only on a tile out of service and not while one runs; when it finishes it is DONE with its
result, and a fault that the two spare columns cannot cover raises SELFTEST_FAIL; it writes no byte. -/
def Obligations.SelfTestRunsOnlyOutOfService : Prop :=
  ∀ (t : TileId) (failed : List (Fin 258)) (logic : Bool) (s : State), s.dev.sound = true →
    let n := tileIdx t
    let running := Sparse.get false s.dev.selfTest n
    (roleOf n s.dev = 0 → running = false →
      ∃ m, exec (.gridSelftestStart t) s = .next { s with dev := m } ∧ Sparse.get false m.selfTest n = true ∧
        rd (onTile aTILE_GRID_SELFTEST n) m = 0 ∧ regsSameBut [onTile aTILE_GRID_SELFTEST n] s.dev m ∧ m.acc = s.dev.acc ∧
        memSame s.dev m) ∧
    (roleOf n s.dev ≠ 0 ∨ running = true → exec (.gridSelftestStart t) s = .next s) ∧
    (running = true →
      ∃ m, exec (.gridSelftestDone t failed logic) s = .next { s with dev := m } ∧ m.selfTest = Sparse.upd false s.dev.selfTest n false ∧
        rdF (onTile aTILE_GRID_SELFTEST n) fTILE_GRID_SELFTEST_DONE m = 1 ∧
        rdF (onTile aTILE_GRID_SELFTEST n) fTILE_GRID_SELFTEST_LOGIC_FAIL m = (if logic then 1 else 0) ∧
        (logic = true → leafSet (cDIE_GRID_SELFTEST_FAIL (dieOf n)) m = true) ∧
        (failed = [] → logic = false → regsSameBut [onTile aTILE_GRID_SELFTEST n] s.dev m) ∧ memSame s.dev m)


/-! ### Rings, groups and commit acts (chapter 04) -/

/-- R105, R118, R119, R121: a command whose ring may start, whose entry at FETCH every rank can read and whose checks pass, and whose
work comes to no refused access, completes: FETCH passes it on every rank, the group is open, a commit word with a KIND ends the
group with the tile that will perform its act, and nothing but the queue moves beyond the command's own work and the sending of what
it wrote to lent pages (R309). It holds for GEMM, FUSED, ATTEND, NORM, ROUTE, APPEND, GATHER, MOVE, COPY_ASYNC, SIGNAL and COMMIT, the
commands that `ringWork` maps to their work. -/
def Obligations.StartedCommandIsPerformedAndPassed : Prop :=
  ∀ (c : Instr) (q : RingRef) (op : Nat) (ok : List Byte → Dev → Bool) (body : List Byte → Dev → Done) (s : State),
    ringWork c = some (q, op, ok, body) → s.dev.sound = true →
    let n := ringNum q
    let r := fetchEntry n s.dev
    ringCanStart n s.dev = true → r.st = .ok → cmdOpcode r.data = op →
    (entryOk r.data && rankOk n r.data r.m && ok r.data r.m) = true → (op = opMOVE → moveWaits n s.dev = false) →
    (op = opMOVE ∨ op = opCOPY → moverHeld n s.dev = false) →
    let b := body r.data (openGroup n r.m)
    let d := sendLent n b.m
    b.reason = 0 →
    ∃ m, exec c s = .next { s with dev := m } ∧ fetchPassed n d m ∧ regsSameBut (ringRegs n 3 d) d m ∧ memSame d m ∧
      (dynOf n m).open_ = true ∧
      (dynOf n m).ended = (if commitKind r.data = 0 then none
        else some (BitVec.ofNat 64 (commitWord r.data), actTile n r.data d)) ∧
      (cmdRows r.data = 0 → op = opGEMM ∨ op = opNORM ∨ op = opATTEND ∨ op = opAPPEND →
        memSame (openGroup n r.m) b.m ∧ b.m.regs = (openGroup n r.m).regs ∧ (dynOf n m).zero = true)

/-- R105, R118, R121, R134: an entry that a rank cannot read halts its ring with reason 6; one that is refused halts it with reason 1,
and FETCH stays on it (log entry 21); work that fails halts it with its own reason. An entry that lies in a page on its way in, or work
that meets one, leaves the ring where it is (R311, R314; log entry 17). -/
def Obligations.EntryThatCannotRunHaltsItsRing : Prop :=
  ∀ (c : Instr) (q : RingRef) (op : Nat) (ok : List Byte → Dev → Bool) (body : List Byte → Dev → Done) (s : State),
    ringWork c = some (q, op, ok, body) → s.dev.sound = true →
    let n := ringNum q
    let r := fetchEntry n s.dev
    let b := body r.data (openGroup n r.m)
    ringCanStart n s.dev = true → (op = opMOVE → moveWaits n s.dev = false) →
    (op = opMOVE ∨ op = opCOPY → moverHeld n s.dev = false) → boundOf n s.dev = [] →
    (r.st ≠ .ok → r.st ≠ .held → ∃ m, exec c s = .next { s with dev := m } ∧ haltedWith n 6 s.dev m) ∧
    (r.st = .held → ∃ m, exec c s = .next { s with dev := m } ∧ ringFetch n m = ringFetch n s.dev ∧
      ringHalted n m = false) ∧
    (r.st = .ok → cmdOpcode r.data = op ∨ opcodes.contains (cmdOpcode r.data) = false →
      (entryOk r.data && rankOk n r.data r.m && ok r.data r.m) = false →
      ∃ m, exec c s = .next { s with dev := m } ∧
        (∀ off ∈ ringRegs n 2 s.dev, fRING_HEAD_HALTED.get (rd off m) = 1 ∧ fRING_HEAD_REASON.get (rd off m) = 1) ∧
        (∀ off ∈ ringRegs n 3 s.dev, fRING_PTR_FETCH.get (rd off m) = ringFetch n s.dev) ∧
        (∀ d ∈ ringDies n s.dev, leafSet (cDIE_CHANTER_RING_HALT d) m = true)) ∧
    (r.st = .ok → cmdOpcode r.data = op → (entryOk r.data && rankOk n r.data r.m && ok r.data r.m) = true →
      b.reason ≠ 0 → b.reason < 16 → boundOf n b.m = [] →
      ∃ m, exec c s = .next { s with dev := m } ∧ haltedWith n b.reason (dropLentWrites b.m) m)

/-- R109, R119, R131: a WAIT completes when its counter has reached VALUE and waits until then, at a commit boundary also until its ring
is the one to be served; one that times out halts its ring with reason 4; a FENCE completes when nothing that its ring handed off is outstanding. -/
def Obligations.WaitAndFenceHoldTheirRing : Prop :=
  ∀ (q : RingRef) (s : State), s.dev.sound = true →
    let n := ringNum q
    let x := dynOf n s.dev
    let r := fetchEntry n s.dev
    let starts := ringCanStart n s.dev = true ∧ r.st = .ok ∧ (entryOk r.data && rankOk n r.data r.m) = true
    (starts → cmdOpcode r.data = opWAIT →
      ∃ m, exec (.wait q) s = .next { s with dev := m } ∧ memSame r.m m ∧
        if counterReached (field r.data 8 2) (field r.data 12 4) r.m then
          fetchPassed n r.m m ∧ (dynOf n m).wait = none ∧ (dynOf n m).open_ = true
        else m.regs = r.m.regs ∧
          (dynOf n m).wait = some (BitVec.ofNat 16 (field r.data 8 2), BitVec.ofNat 32 (field r.data 12 4),
            BitVec.ofNat 32 (field r.data 16 4))) ∧
    (∀ c v l, x.wait = some (c, v, l) →
      (counterReached c.toNat v.toNat s.dev = true →
        x.open_ = true ∨ ringCanStart n (setDyn n { x with wait := none } s.dev) = true →
        ∃ m, exec (.waitComplete q) s = .next { s with dev := m } ∧ fetchPassed n s.dev m ∧ (dynOf n m).wait = none ∧
          memSame s.dev m) ∧
      (counterReached c.toNat v.toNat s.dev = false ∨
        (x.open_ = false ∧ ringCanStart n (setDyn n { x with wait := none } s.dev) = false) →
        exec (.waitComplete q) s = .next s) ∧
      (boundOf n s.dev = [] →
        ∃ m, exec (.waitTimeout q) s = .next { s with dev := m } ∧ haltedWith n 4 s.dev m)) ∧
    (starts → cmdOpcode r.data = opFENCE →
      ∃ m, exec (.fence q) s = .next { s with dev := m } ∧ memSame r.m m ∧
        if fenceMet n (field r.data 8 1) r.m then fetchPassed n r.m m ∧ (dynOf n m).fence = none
        else (dynOf n m).fence = some (field r.data 8 1)) ∧
    (∀ sc, x.fence = some sc →
      (fenceMet n sc s.dev = true →
        ∃ m, exec (.fenceComplete q) s = .next { s with dev := m } ∧ fetchPassed n s.dev m ∧ (dynOf n m).fence = none ∧
          memSame s.dev m) ∧
      (fenceMet n sc s.dev = false → exec (.fenceComplete q) s = .next s))

/-- A ring's open group has been killed (R128): FETCH is back at RERUN on every rank, what the ring's sequencer held is gone, the
accumulators of its tiles are discarded, and the kill is counted at each. -/
def killedGroup (n : Nat) (m m' : Dev) : Prop :=
  (∀ off ∈ ringRegs n 3 m, fRING_PTR_FETCH.get (rd off m') = ringRerun n m) ∧
  m'.rings = Sparse.upd RingDyn.idle m.rings n RingDyn.idle ∧
  (∀ k ∈ Sparse.keys m'.acc, k / 131072 ∉ ringTiles n m) ∧
  (∀ u ∈ ringTiles n m, rdF (onTile aCHANTER_STATS u) fCHANTER_STATS_KILLS m' =
    min (2 ^ 16 - 1) (rdF (onTile aCHANTER_STATS u) fCHANTER_STATS_KILLS m + 1))

/-- R121, R123, R125, R127: once nothing is outstanding the act of an ended group is performed and the ring stands at a new
commit boundary: RERUN is at FETCH on every rank, the group is over, the sequence of each group used has advanced by its
collectives, and a KIND 3 act has added to its counter. A ring that has lost a rank halts with reason 2. A group of zero-work commands performs KIND 3 alone and is counted.
R128, R129, R131, R132, R133: a kill and the pre-emptions discard the open group and take FETCH back to RERUN, but spare a group
whose collective has bound or whose SIGNAL has been sent; past HARD_LIMIT the ring halts with reason 3; past LIMIT OVERLONG is
raised once and counted; a quantum that has run marks its engine. -/
def Obligations.GroupsCommitOrAreKilled : Prop :=
  (∀ (q : RingRef) (w : Word) (t : Nat) (s : State), s.dev.sound = true →
    let n := ringNum q
    let x := dynOf n s.dev
    let d := commitAct n t w.toNat s.dev
    let hollow := x.zero && !x.other
    x.ended = some (w, t) →
    (outstanding n s.dev = true → exec (.groupCommitAct q) s = .next s) ∧
    (outstanding n s.dev = false → rankLost n s.dev = true → boundOf n s.dev = [] →
      ∃ m, exec (.groupCommitAct q) s = .next { s with dev := m } ∧ haltedWith n 2 s.dev m) ∧
    (outstanding n s.dev = false → rankLost n s.dev = false → hollow = false → d.reason = 0 →
      ∃ m, exec (.groupCommitAct q) s = .next { s with dev := m } ∧
        (∀ off ∈ ringRegs n 3 d.m, fRING_PTR_RERUN.get (rd off m) = fRING_PTR_FETCH.get (rd off m)) ∧
        m.rings = Sparse.upd RingDyn.idle d.m.rings n RingDyn.idle ∧
        (ringIsCe n = true → (leadOf (ringEngine n) d.m).isSome = true → (∀ g ∈ (dynOf n d.m).colls, g < 256) →
          ∀ g < 256, seqOf n g m = (seqOf n g d.m + ((dynOf n d.m).colls.filter (fun h => h = g)).length) % 2 ^ 32) ∧
        (bitsAt w.toNat 60 4 = 3 →
          arrival (bitsAt w.toNat 16 3) (bitsAt w.toNat 0 12) m =
            (arrival (bitsAt w.toNat 16 3) (bitsAt w.toNat 0 12) s.dev + bitsAt w.toNat 32 16) % 2 ^ 32) ∧
        memSame d.m m) ∧
    (outstanding n s.dev = false → rankLost n s.dev = false → hollow = false → d.reason ≠ 0 → d.reason < 16 → boundOf n d.m = [] →
      ∃ m, exec (.groupCommitAct q) s = .next { s with dev := m } ∧ haltedWith n d.reason d.m m) ∧
    (outstanding n s.dev = false → rankLost n s.dev = false → hollow = true → bitsAt w.toNat 60 4 ≠ 3 →
      ∃ m, exec (.groupCommitAct q) s = .next { s with dev := m } ∧
        m.rings = Sparse.upd RingDyn.idle s.dev.rings n RingDyn.idle ∧ memSame s.dev m ∧
        ∀ u ∈ ringTiles n s.dev, rdF (onTile aCHANTER_STATS u) fCHANTER_STATS_EMPTY m =
          min (2 ^ 16 - 1) (rdF (onTile aCHANTER_STATS u) fCHANTER_STATS_EMPTY s.dev + 1))) ∧
  (∀ (q : RingRef) (e : EngineRef) (p : Nat) (s : State), s.dev.sound = true →
    let n := ringNum q
    let g := engineNum e
    (ringOpen n s.dev = true → boundOf n s.dev = [] →
      (∃ m, exec (.groupKill q) s = .next { s with dev := m } ∧ killedGroup n s.dev m) ∧
      (∃ m, exec (.hardLimitExpiry q) s = .next { s with dev := m } ∧ haltedWith n 3 s.dev m)) ∧
    (preemptible g s.dev = some p → classReady g 1 s.dev = true → 2 ≤ ringClass p s.dev →
      ∃ m, exec (.preemptWaitExpiry e) s = .next { s with dev := m } ∧ killedGroup p s.dev m) ∧
    (preemptible g s.dev = some p → classReady g 0 s.dev = true → ringClass p s.dev ≠ 0 →
      ∃ m, exec (.expressPreempt e) s = .next { s with dev := m } ∧ killedGroup p s.dev m) ∧
    (openRing g s.dev = some p → (dynOf p s.dev).bound = true →
      exec (.preemptWaitExpiry e) s = .next s ∧ exec (.expressPreempt e) s = .next s) ∧
    ((engDyn g s.dev).served.isSome = true →
      ∃ m, exec (.quantumExpiry e) s = .next { s with dev := m } ∧ (engDyn g m).expired = true ∧
        (engDyn g m).served = (engDyn g s.dev).served ∧ m.regs = s.dev.regs ∧ m.mem = s.dev.mem) ∧
    ((dynOf n s.dev).open_ = true → (dynOf n s.dev).overlong = false →
      ∃ m, exec (.overlong q) s = .next { s with dev := m } ∧ (dynOf n m).overlong = true ∧ memSame s.dev m ∧
        (∀ d ∈ ringDies n s.dev, leafSet (cDIE_CHANTER_OVERLONG d) m = true) ∧
        ∀ u ∈ ringTiles n s.dev, rdF (onTile aCHANTER_STATS u) fCHANTER_STATS_OVERLONG m =
          min (2 ^ 16 - 1) (rdF (onTile aCHANTER_STATS u) fCHANTER_STATS_OVERLONG s.dev + 1)) ∧
    ((dynOf n s.dev).overlong = true → exec (.overlong q) s = .next s))

/-- R108, R134, R145: a HEAD write within the ring moves HEAD on every rank and nothing else; one beyond it is discarded and halts
the ring with reason 7. ACTION 1 clears the halt with FETCH at RERUN, ACTION 2 takes RERUN and FETCH to HEAD, both do
nothing to a ring that runs, and ACTION 3 halts a running ring with reason 8. A counter takes a write, then the increment
of the same cycle. -/
def Obligations.RingRegistersActAsTheirWrites : Prop :=
  ∀ (q : RingRef) (head : BitVec 32) (d : Die) (c : Fin 4096) (v inc : BitVec 32) (s : State), s.dev.sound = true →
    let n := ringNum q
    ((head.toNat + 2 ^ 32 - ringRerun n s.dev) % 2 ^ 32 ≤ 2 ^ ringSize n s.dev →
      ∃ m, exec (.ringHeadWrite q head) s = .next { s with dev := m } ∧
        (∀ off ∈ ringRegs n 2 s.dev, fRING_HEAD_HEAD.get (rd off m) = head.toNat) ∧
        regsSameBut (ringRegs n 2 s.dev) s.dev m ∧ memSame s.dev m) ∧
    ((head.toNat + 2 ^ 32 - ringRerun n s.dev) % 2 ^ 32 > 2 ^ ringSize n s.dev → ringHalted n s.dev = false →
      boundOf n s.dev = [] →
      ∃ m, exec (.ringHeadWrite q head) s = .next { s with dev := m } ∧ haltedWith n 7 s.dev m) ∧
    (ringHalted n s.dev = true → keptActs n s.dev = [] →
      ∃ m, exec (.ringResume q) s = .next { s with dev := m } ∧
        (∀ off ∈ ringRegs n 2 s.dev, fRING_HEAD_HALTED.get (rd off m) = 0 ∧ fRING_HEAD_REASON.get (rd off m) = 0) ∧
        (∀ off ∈ ringRegs n 3 s.dev, fRING_PTR_FETCH.get (rd off m) = ringRerun n s.dev) ∧
        regsSameBut (ringRegs n 2 s.dev ++ ringRegs n 3 s.dev) s.dev m ∧ memSame s.dev m) ∧
    (ringHalted n s.dev = true →
      ∃ m, exec (.ringDiscard q) s = .next { s with dev := m } ∧
        (∀ off ∈ ringRegs n 2 s.dev, fRING_HEAD_HALTED.get (rd off m) = 0 ∧ fRING_HEAD_HEAD.get (rd off m) = ringHead n s.dev) ∧
        (∀ off ∈ ringRegs n 3 s.dev, fRING_PTR_FETCH.get (rd off m) = ringHead n s.dev ∧
          fRING_PTR_RERUN.get (rd off m) = ringHead n s.dev) ∧
        regsSameBut (ringRegs n 2 s.dev ++ ringRegs n 3 s.dev) s.dev m ∧ memSame s.dev m) ∧
    (ringHalted n s.dev = false → exec (.ringResume q) s = .next s ∧ exec (.ringDiscard q) s = .next s) ∧
    (ringHalted n s.dev = false → boundOf n s.dev = [] →
      ∃ m, exec (.ringHaltAction q) s = .next { s with dev := m } ∧ haltedWith n 8 s.dev m) ∧
    (∃ m, exec (.arrivalCounterWrite d c v inc) s = .next { s with dev := m } ∧
      arrival d.val c.val m = (v.toNat + inc.toNat) % 2 ^ 32 ∧ regsSameBut [aDIE_ARRIVAL d.val c.val] s.dev m ∧
      memSame s.dev m)


/-! ### The Field Plan (chapter 05) -/

/-- The module with its change set frozen, as steps 2 to 4 of R164 judge it. -/
def frozenPlan (m : Dev) : Dev :=
  setPlanState 3 { m with plan := { m.plan with
    frozen := true
    frozenMask := m.shadow.map (fun x => (x.1, x.2.2))
    frozenTables := m.plan.stagedTables
    frozenStaged := m.plan.staged } }

/-- R162, R164: a LOAD is refused with BUSY while a load or a commit is under way, else its container is taken up; one whose
signature is refused changes no shadow, raises LOAD/SIGNATURE and leaves result 2; one that passes every check leaves result
1. After each row a step boundary of Piper may stand open (R178); `boundary` is what happens there. -/
def Obligations.LoadIsCheckedBeforeItsShadows : Prop :=
  ∀ (ok : Bool) (s : State), s.dev.sound = true → s.dev.piper.move = none →
    let st := planState s.dev
    (st = 1 ∨ st = 3 → ∃ m, exec .fplanLoad s = .next { s with dev := m } ∧ leafSet cFPLAN_COMMIT_BUSY m = true ∧
      m.shadow = s.dev.shadow ∧ m.plan = s.dev.plan ∧ memSame s.dev m) ∧
    (st ≠ 1 → st ≠ 3 → ∃ m, exec .fplanLoad s = .next { s with dev := m } ∧ planState m = 1 ∧ m.shadow = s.dev.shadow ∧
      m.plan.loading = some (rdF aFPLAN_SOURCE fFPLAN_SOURCE_ADDR s.dev * 64, rdF aFPLAN_SOURCE fFPLAN_SOURCE_LENGTH s.dev * 8) ∧
      regsSameBut [aFPLAN_STATUS] s.dev m) ∧
    (∀ a n, s.dev.plan.loading = some (a, n) →
      let r := readVia .headland a n { s.dev with plan := { s.dev.plan with loading := none } }
      r.st ≠ .held →
      (∃ m, exec (.fplanLoadDone false) s = .next { s with dev := boundary m } ∧ m.shadow = s.dev.shadow ∧ m.plan.loading = none ∧
        leafSet cFPLAN_LOAD_SIGNATURE m = true ∧ leafSet cSCARECROW_VERIFY_FAIL m = true ∧
        rdF aFPLAN_STATUS fFPLAN_STATUS_RESULT m = 2 ∧ memSame r.m m) ∧
      (∀ e, checkContainer (if r.st = .ok then r.data else []) ok r.m = .inl e →
        ∃ m, exec (.fplanLoadDone ok) s = .next { s with dev := boundary m } ∧ m.shadow = s.dev.shadow ∧
          m.plan.stagedTables = s.dev.plan.stagedTables ∧ leafSet (fplanCause e.cause) m = true ∧
          rdF aFPLAN_STATUS fFPLAN_STATUS_RESULT m = 2) ∧
      (∀ ss, checkContainer (if r.st = .ok then r.data else []) ok r.m = .inr ss →
        ∃ m, exec (.fplanLoadDone ok) s = .next { s with dev := boundary m } ∧ m.plan.loading = none ∧ memSame r.m m ∧
          rdF aFPLAN_STATUS fFPLAN_STATUS_RESULT m = 1))

/-- Nothing waits to be sent to other modules. -/
def nothingToSend (m : Dev) : Prop := m.net.later = [] ∧ m.tiers.peerOut = [] ∧ m.tiers.peerWant = []

/-- Registers whose commit writes no other shadowed register and no memory. -/
def commitsPlainly (n : RegName) : Bool :=
  n.info.rws ≠ 0 && !([.TILE_GRID_COLMAP, .TILE_SEEDBED_REGION, .DIE_SHARED_REGION, .RING_BASE, .RING_CTRL, .FIX_RING_BASE,
    .FIX_RING_CTRL, .WINDROW_COORD, .WINDROW_LINK_CTRL, .FABRIC_CACHE_RANGE, .BELLOWS_TILE_CLOCK, .PIPER_SHAPE, .PIPER_CTRL,
    .PIPER_EPOCH0, .STILE_RING, .ETH_PORT, .CHANTER_UCODE, .FPLAN_MEMBER, .HARROW_CTRL] : List RegName).contains n

/-- R156, R164, R167: a COMMIT during a load or a commit is refused with BUSY; of an empty change set it completes with result 3; a
failing agreement group or an offline unit in service refuses it with result 4 and moves no field; with units to park it
waits for them; and a change set that waits for none applies at once: the register takes the bits written, and the others
stand. -/
def Obligations.CommitChecksThenParksThenApplies : Prop :=
  ∀ s : State, s.dev.sound = true → s.dev.piper.move = none → nothingToSend s.dev →
    let st := planState s.dev
    let f := frozenPlan s.dev
    (st = 1 ∨ st = 3 → ∃ m, exec .fplanCommit s = .next { s with dev := boundary m } ∧ leafSet cFPLAN_COMMIT_BUSY m = true ∧
      m.shadow = s.dev.shadow ∧ m.plan = s.dev.plan) ∧
    (st ≠ 1 → st ≠ 3 → changeSetEmpty s.dev = true →
      ∃ m, exec .fplanCommit s = .next { s with dev := boundary m } ∧ rdF aFPLAN_STATUS fFPLAN_STATUS_RESULT m = 3 ∧
        regsSameBut [aFPLAN_STATUS] s.dev m ∧ m.shadow = s.dev.shadow ∧ memSame s.dev m) ∧
    (∀ i c, st ≠ 1 → st ≠ 3 → changeSetEmpty s.dev = false → failingGroup f = some (i, c) →
      let cause := if c = .incomplete then cFPLAN_COMMIT_GROUP_INCOMPLETE else cFPLAN_COMMIT_GROUP_INCONSISTENT
      ∃ m, exec .fplanCommit s = .next { s with dev := boundary m } ∧ rdF aFPLAN_STATUS fFPLAN_STATUS_RESULT m = 4 ∧ planState m = 2 ∧
        leafSet cause m = true ∧ m.shadow = s.dev.shadow ∧ m.plan.stagedTables = s.dev.plan.stagedTables ∧
        regsSameBut [aFPLAN_STATUS, aFPLAN_FAULT, cause.reg] s.dev m) ∧
    (st ≠ 1 → st ≠ 3 → changeSetEmpty s.dev = false → failingGroup f = none → (notOffline f).isSome = true →
      ∃ m, exec .fplanCommit s = .next { s with dev := boundary m } ∧ rdF aFPLAN_STATUS fFPLAN_STATUS_RESULT m = 4 ∧ planState m = 2 ∧
        leafSet cFPLAN_COMMIT_NOT_OFFLINE m = true ∧ m.shadow = s.dev.shadow ∧
        regsSameBut [aFPLAN_STATUS, aFPLAN_FAULT, cFPLAN_COMMIT_NOT_OFFLINE.reg] s.dev m) ∧
    (st ≠ 1 → st ≠ 3 → changeSetEmpty s.dev = false → failingGroup f = none → notOffline f = none → unitsToPark f ≠ [] →
      ∃ m, exec .fplanCommit s = .next { s with dev := boundary m } ∧ planState m = 3 ∧ m.plan.waiting = unitsToPark f ∧
        rdF aFPLAN_STATUS fFPLAN_STATUS_WAITING m = min 255 (unitsToPark f).length ∧ m.shadow = s.dev.shadow ∧
        regsSameBut [aFPLAN_STATUS] s.dev m) ∧
    (∀ o p v mk, st ≠ 1 → st ≠ 3 → s.dev.shadow = [(o, (v, mk))] → s.dev.plan.stagedTables = [] → locate o = some p →
      commitsPlainly p.name = true → failingGroup f = none → notOffline f = none → unitsToPark f = [] → evictedTiles f = [] →
      ∃ m, exec .fplanCommit s = .next { s with dev := boundary m } ∧ rd o m = (rd o s.dev &&& ~~~ mk) ||| (v &&& mk) ∧
        m.shadow = [] ∧ m.plan.frozen = false ∧ planState m = 0 ∧ rdF aFPLAN_STATUS fFPLAN_STATUS_RESULT m = 3 ∧
        rdF aFPLAN_ACTIVE fFPLAN_ACTIVE_COMMITS m =
          (rdF aFPLAN_ACTIVE fFPLAN_ACTIVE_COMMITS s.dev + 1) % 2 ^ fFPLAN_ACTIVE_COMMITS.w ∧ memSame s.dev m)

/-- R147, R164, R166, R167, R169, R295: a unit at its condition parks, and one that is not does not; once a commit's evicted regions are
zeros it applies, with EVICTED raised, unless a unit has taken up work again, for which it waits; a commit out of time ends with result 5, its change set still staged; ABORT empties
the change set. -/
def Obligations.ParkedUnitsWaitForOneAnother : Prop :=
  ∀ (u : PlanUnit) (s : State), s.dev.sound = true → s.dev.piper.move = none → nothingToSend s.dev →
    (s.dev.plan.frozen = true → s.dev.plan.waiting.contains u = true → unitAtCondition u s.dev = true →
      s.dev.plan.waiting.erase u ≠ [] →
      ∃ m, exec (.unitReady u) s = .next { s with dev := boundary m } ∧ m.plan.waiting = s.dev.plan.waiting.erase u ∧
        m.plan.parked = s.dev.plan.parked ++ [u] ∧ m.plan.frozen = true ∧ m.shadow = s.dev.shadow ∧
        regsSameBut [aFPLAN_STATUS] s.dev m ∧ memSame s.dev m) ∧
    (unitAtCondition u s.dev = false → exec (.unitReady u) s = .next { s with dev := boundary s.dev }) ∧
    (s.dev.plan.zeroing = true → (withdrawUnready s.dev).plan.waiting = [] →
      (∀ o ∈ frozenRegs s.dev, (locate o).map (fun p => p.name) ≠ some .HARROW_CTRL) →
      ∃ m, exec .evictionZeroingDone s = .next { s with dev := boundary m } ∧ m.plan.frozen = false ∧ m.plan.zeroing = false ∧
        m.plan.waiting = [] ∧ m.plan.parked = [] ∧ rdF aFPLAN_STATUS fFPLAN_STATUS_RESULT m = 3 ∧
        ∀ t ∈ evictedTiles s.dev, leafSet (cDIE_SEEDBED_EVICTED (dieOf t)) m = true ∧
          ∀ x ∈ regionsNaming t s.dev, ∀ a,
            4096 * rdF (aDIE_SHARED_REGION (dieOf t) x.1 x.2) fDIE_SHARED_REGION_BASE s.dev ≤ a →
            a < 4096 * (min 5119 (rdF (aDIE_SHARED_REGION (dieOf t) x.1 x.2) fDIE_SHARED_REGION_LIMIT s.dev) + 1) →
            ldByte (tileAddr t a) m = 0) ∧
    (s.dev.plan.zeroing = true → (withdrawUnready s.dev).plan.waiting ≠ [] →
      ∃ m, exec .evictionZeroingDone s = .next { s with dev := boundary m } ∧ m.plan.frozen = s.dev.plan.frozen ∧
        m.plan.waiting = (withdrawUnready s.dev).plan.waiting ∧ m.shadow = s.dev.shadow ∧
        regsSameBut [aFPLAN_STATUS] s.dev m ∧ memSame s.dev m) ∧
    (s.dev.plan.frozen = true →
      ∃ m, exec .fplanCommitTimeout s = .next { s with dev := boundary m } ∧ m.plan.frozen = false ∧ m.plan.parked = [] ∧
        m.shadow = s.dev.shadow ∧ m.plan.stagedTables = s.dev.plan.stagedTables ∧
        rdF aFPLAN_STATUS fFPLAN_STATUS_RESULT m = 5 ∧ leafSet cFPLAN_COMMIT_TIMEOUT m = true ∧
        regsSameBut [aFPLAN_STATUS, aFPLAN_FAULT, cFPLAN_COMMIT_TIMEOUT.reg] s.dev m ∧ memSame s.dev m) ∧
    (s.dev.plan.frozen = false → exec .fplanCommitTimeout s = .next { s with dev := boundary s.dev }) ∧
    (∃ m, exec .fplanAbort s = .next { s with dev := boundary m } ∧ m.shadow = [] ∧ m.plan.stagedTables = [] ∧ m.plan.frozen = false ∧
      rdF aFPLAN_STATUS fFPLAN_STATUS_RESULT m = 6 ∧ planState m = (if planState s.dev = 1 then 1 else 0) ∧
      regsSameBut [aFPLAN_STATUS] s.dev m ∧ memSame s.dev m)


/-! ### Steps, sessions and the Intake (chapters 06 and 07). Where no step is in flight a step boundary stands open after an act of
the lead (R178); `boundary` is what happens there, so each act is stated as the module that the boundary then works on. -/

/-- R177, R178, R180, R188, R516: with a step in flight no boundary stands open; a step that is not done stays in flight; a done
step of a slice lead commits its slots in order and its cancels, and sends the commit record of its sequence before the next
step is formed, ahead of what the acts send; a step out of time reruns with the same manifest, RERUNS counting, until RERUN_LIMIT,
and a step whose done counter stands at MEMBERS is not out of time. R187: the act of a
session's slot. A prompt chunk adds its rows to COMMITTED_LEN and PROMPT_DONE and leaves the session in PREFILL; both count the
commit and record the step; a turn whose cancel is due ends as cancelled; a turn that is over takes nothing. -/
def Obligations.StepsCommitSlotBySlot : Prop :=
  (∀ (rs : List SlotResult) (s : State), s.dev.sound = true →
    (s.dev.piper.step = none → exec (.stepCommit rs) s = .next { s with dev := boundary s.dev }) ∧
    (s.dev.piper.step.isSome = true ∨ piperHeld s.dev = true → boundary s.dev = s.dev) ∧
    (∀ st, s.dev.piper.step = some st →
      (stepDone s.dev = false → exec (.stepCommit rs) s = .next s) ∧
      (stepDone s.dev = true → isPoolLead s.dev = false → st.cancels = [] → s.dev.piper.ships = [] →
        ∀ sl, st.slots = [sl] →
        ∃ m0 a b, exec (.stepCommit rs) s = .next { s with dev := afterRecord (recordFirstOut s.dev st.seq b.set b.m) } ∧
          m0.mem = s.dev.mem ∧ m0.piper.step = none ∧ rdF aPIPER_STEP fPIPER_STEP_STATE m0 = 3 ∧
          regsSameBut [aPIPER_STEP] s.dev m0 ∧ a = commitSlot st.seq sl (resultAt rs 0) ⟨m0, []⟩ ∧
          b = boundaryActs st.seq a ∧ b.set = a.set ∧
            (∃ bytes rest, (recordFirstOut s.dev st.seq b.set b.m).out = b.m.out.take s.dev.out.length ++
              [.piper 1 b.m.piper.job bytes] ++ rest ++ b.m.out.drop s.dev.out.length ∧
            field bytes 0 8 = st.seq % 2 ^ 64 ∧ field bytes 8 4 = (b.set.length + b.m.piper.entries.length) % 2 ^ 32) ∧
          rdF aPIPER_STEP fPIPER_STEP_STEP_SEQ (recordFirstOut s.dev st.seq b.set b.m) =
            st.seq % 2 ^ fPIPER_STEP_STEP_SEQ.w) ∧
      (stepDone s.dev = true → exec .stepTimeout s = .next s) ∧
      (stepDone s.dev = false → disabling s.dev = false →
        rdF aPIPER_STEP fPIPER_STEP_RERUNS s.dev < rdF aPIPER_STEP_LIMIT fPIPER_STEP_LIMIT_RERUN_MAX s.dev →
        ∃ m, exec .stepTimeout s = .next { s with dev := m } ∧ m.piper.step = some st ∧
          leafSet cPIPER_STEP_TIMEOUT m = true ∧ .piper 2 s.dev.piper.job (manifestBytes st s.dev) ∈ m.out ∧
          rdF aPIPER_STEP fPIPER_STEP_RERUNS m =
            min (2 ^ fPIPER_STEP_RERUNS.w - 1) (rdF aPIPER_STEP fPIPER_STEP_RERUNS s.dev + 1)) ∧
      (stepDone s.dev = false → disabling s.dev = false →
        rdF aPIPER_STEP_LIMIT fPIPER_STEP_LIMIT_RERUN_MAX s.dev ≤ rdF aPIPER_STEP fPIPER_STEP_RERUNS s.dev →
        ∃ m, exec .stepTimeout s = .next { s with dev := boundary m } ∧ leafSet cPIPER_STEP_RERUN_LIMIT m = true ∧
          m.piper.step = none) ∧
      (stepDone s.dev = false → disabling s.dev = true →
        ∃ m, exec .stepTimeout s = .next { s with dev := m } ∧ m.piper.step = none ∧
          rdF aPIPER_STEP fPIPER_STEP_STATE m = 1 ∧ .piper 6 s.dev.piper.job (toLe 8 st.seq) ∈ m.out))) ∧
  (∀ (seq : Nat) (sl : Slot) (r : SlotResult) (m : Dev), m.sound = true →
    let s := sl.session
    let a := commitSlot seq sl r ⟨m, []⟩
    let n := actCounts seq s m
    (dGet dCOMMIT_SEQ s n = (dGet dCOMMIT_SEQ s m + 1) % 2 ^ 32 ∧ dGet dLAST_STEP s n = seq % 2 ^ 64) ∧
    (cancelNow s n = false → inTurn s m = true → stateOf s m ≠ sSHIPPING → sl.kind = 2 → r.stop = none →
      dGet dGENERATED s m ≠ dGet dMAX_NEW s m →
      a.set = [s] ∧ stateOf s a.m = sPREFILL ∧ a.m.out = m.out ∧
      dGet dCOMMITTED_LEN s a.m = (dGet dCOMMITTED_LEN s m + sl.rows) % 2 ^ 32 ∧
      dGet dPROMPT_DONE s a.m = (dGet dPROMPT_DONE s m + sl.rows) % 2 ^ 32 ∧
      dGet dCOMMIT_SEQ s a.m = (dGet dCOMMIT_SEQ s m + 1) % 2 ^ 32 ∧ memSameBut (sessAddr s m) 128 m a.m) ∧
    (cancelNow s n = false → inTurn s m = false → a = ⟨n, []⟩) ∧
    (cancelNow s n = true → rollbackOf s m = false → a.set = []))

/-- A member's writes of a manifest into its active tiles, and its reading of the step program. -/
def manifestWrites (bytes : List Byte) (m : Dev) : Run :=
  let b := slice bytes 0 (64 + 32 * shapeSlots m)
  writeManifest b (slotsFrom (shapeSlots m) (b.drop 64))
    (when (isSet aFABRIC_CACHE_CTRL fFABRIC_CACHE_CTRL_INVAL_AT_STEP m) cacheInvalidate m)
def manifestProgram (bytes : List Byte) (m : Dev) : ReadRes :=
  readProgram (field (slice bytes 0 (64 + 32 * shapeSlots m)) 16 8) (manifestWrites bytes m).m

/-- R178 step 6, R181, R225, R93: a member takes a manifest it has not taken (its sequence, state 2) and a commit record (its
sequence, state 1), and a module that is no member neither; a manifest that a refused write keeps from its tiles is not in force,
and one held up by an access waits; a run that lacked room goes on when its ring has room, and HEAD moves by what it copies. -/
def Obligations.MembersTakeManifestsAndRecords : Prop :=
  ∀ (bytes : List Byte) (s : State), s.dev.sound = true →
    (isMember s.dev = false → exec (.manifest bytes) s = .next s ∧ exec (.commitRecord bytes) s = .next s) ∧
    (isMember s.dev = true → field bytes 0 8 ≠ s.dev.piper.taken → (manifestWrites bytes s.dev).st = .ok →
      (manifestProgram bytes s.dev).st ≠ .held →
      ∃ m, exec (.manifest bytes) s = .next { s with dev := m } ∧ m.piper.taken = field bytes 0 8 ∧
        rdF aPIPER_STEP fPIPER_STEP_STATE m = 2) ∧
    (isMember s.dev = true → field bytes 0 8 ≠ s.dev.piper.taken →
      ((manifestWrites bytes s.dev).st = .held ∨ (manifestProgram bytes s.dev).st = .held →
        exec (.manifest bytes) s = .next { s with dev := heldBy 0 (manifestProgram bytes s.dev).m s.dev }) ∧
      ((manifestWrites bytes s.dev).st ≠ .held → (manifestWrites bytes s.dev).st ≠ .ok →
        (manifestProgram bytes s.dev).st ≠ .held →
        ∃ m, exec (.manifest bytes) s = .next { s with dev := m } ∧ m.piper = s.dev.piper ∧
          rd aPIPER_STEP m = rd aPIPER_STEP s.dev)) ∧
    (isMember s.dev = true → field bytes 0 8 = s.dev.piper.taken → field bytes 0 8 ≠ 0 →
      ∃ m, exec (.manifest bytes) s = .next { s with dev := m } ∧ m.piper.taken = s.dev.piper.taken ∧
        m.piper.rings = s.dev.piper.rings) ∧
    (isMember s.dev = true →
      ∃ m, exec (.commitRecord bytes) s = .next { s with dev := m } ∧ m.gleaner.applied = field bytes 0 8 ∧
        rdF aPIPER_STEP fPIPER_STEP_STATE m = 1 ∧
        rdF aPIPER_STEP fPIPER_STEP_STEP_SEQ m = field bytes 0 8 % 2 ^ fPIPER_STEP_STEP_SEQ.w) ∧
    (s.dev.piper.runs = [] → exec .ringRoomFreed s = .next s) ∧
    (∀ run rest q, s.dev.piper.runs = run :: rest → runRing run s.dev = some q → ringRoom q s.dev = 0 →
      exec .ringRoomFreed s = .next s) ∧
    (∀ run q, s.dev.piper.runs = [run] → runRing run s.dev = some q → ringRoom q s.dev ≠ 0 →
      let x := copyRun run s.dev
      x.left = none → x.st = .ok →
      ∃ m, exec .ringRoomFreed s = .next { s with dev := m } ∧ m.piper.runs = [] ∧ q ∈ m.piper.rings ∧
        ∀ off ∈ ringRegs q 2 x.m, fRING_HEAD_HEAD.get (rd off m) =
          (ringHead q s.dev + min (field run 4 4) (ringRoom q s.dev)) % 2 ^ 32)

/-- The messages of the Intake that a front end sends: the type, the message, and what an accepted one does. -/
def intakeRow (c : Instr) : Option (Nat × IntakeMsg × (Dev → Dev)) :=
  match c with
  | .request x => some (1, x, request x)
  | .promptMore x => some (2, x, promptMore x)
  | .cancel x => some (3, x, cancel x)
  | .close x => some (4, x, close x)
  | _ => none

/-- R202, R206: a message with a bad header or reserved byte is counted MALFORMED, one whose tag fails TAG_FAIL, and both are
discarded; an old one is answered by an ACK; one out of order is not taken; the next in order is taken by a slice lead: RX_NEXT
moves past it, its acknowledgement is taken, and then it acts. An ACK moves TX_ACKED and PEER_CREDIT. R184 to R186, R189, R204,
R205, R233: what an accepted message does. A handle that names no session in use is refused with reason 7; a REQUEST on a session in a
turn with reason 6, and one for a new session when no descriptor is free with reason 1 and SESSION_TABLE_FULL; a CANCEL or CLOSE
of a turn marks it for its next act, and a CANCEL after its end has END sent again unchanged; a REQUEST at a PAUSING session drops the
pause first; a CLOSE of a session in SUMMARY frees it; a PROMPT_MORE in its place stores its tokens. -/
def Obligations.IntakeActsOnItsMessages : Prop :=
  (∀ (c : Instr) (typ : Nat) (x : IntakeMsg) (act : Dev → Dev) (s : State),
    (intakeRow c = some (typ, x, act) ∨ (c = .ack x ∧ typ = 0x7F)) → s.dev.sound = true →
    let k := x.conn.toNat
    let on := isSet aINTAKE_CTRL fINTAKE_CTRL_ENABLE s.dev && !stopNow s.dev
    let good := !headerBad x s.dev && x.tagOk && decide (x.payload.length = x.length.toNat) && payloadClean typ x.payload
    (on = false → exec c s = .next s) ∧
    (on = true → headerBad x s.dev = true →
      ∃ m, exec c s = .next { s with dev := m } ∧ leafSet cINTAKE_FRAME_MALFORMED m = true ∧
        rdF aINTAKE_STATS fINTAKE_STATS_MALFORMED m =
          min (2 ^ fINTAKE_STATS_MALFORMED.w - 1) (rdF aINTAKE_STATS fINTAKE_STATS_MALFORMED s.dev + 1) ∧
        memSame s.dev m ∧ m.out = s.dev.out) ∧
    (on = true → headerBad x s.dev = false → x.tagOk = false →
      ∃ m, exec c s = .next { s with dev := m } ∧ leafSet cINTAKE_AUTH_TAG_FAIL m = true ∧
        rdF aINTAKE_STATS fINTAKE_STATS_TAG_FAIL m =
          min (2 ^ fINTAKE_STATS_TAG_FAIL.w - 1) (rdF aINTAKE_STATS fINTAKE_STATS_TAG_FAIL s.dev + 1) ∧
        memSame s.dev m ∧ m.out = s.dev.out) ∧
    (on = true → good = true → c = .ack x →
      ∃ m, exec c s = .next { s with dev := m } ∧ kGet kPEER_CREDIT k m = x.credit.toNat ∧
        kGet kTX_ACKED k m = (if kGet kTX_ACKED k s.dev < x.ack.toNat && x.ack.toNat ≤ kGet kTX_NEXT k s.dev then x.ack.toNat
          else kGet kTX_ACKED k s.dev) ∧
        kGet kRX_NEXT k m = kGet kRX_NEXT k s.dev ∧ memSameBut (connAddr k s.dev) 64 s.dev m) ∧
    (on = true → good = true → c ≠ .ack x → x.seq.toNat < kGet kRX_NEXT k s.dev →
      ∃ m bs, exec c s = .next { s with dev := m } ∧ m.out = s.dev.out ++ [.intake k bs] ∧ memSame s.dev m ∧
        regsSameBut [] s.dev m) ∧
    (on = true → good = true → c ≠ .ack x → kGet kRX_NEXT k s.dev < x.seq.toNat ∨
        (kGet kRX_NEXT k s.dev = x.seq.toNat ∧ isLead s.dev = false) → exec c s = .next s) ∧
    (on = true → good = true → c ≠ .ack x → x.seq.toNat = kGet kRX_NEXT k s.dev → isLead s.dev = true →
      ∃ m, exec c s = .next { s with dev := boundary (act m) } ∧ kGet kRX_NEXT k m = (x.seq.toNat + 1) % 2 ^ 64 ∧
        kGet kPEER_CREDIT k m = x.credit.toNat ∧ memSameBut (connAddr k s.dev) 64 s.dev m)) ∧
  (∀ (x : IntakeMsg) (m : Dev), m.sound = true →
    let c := x.conn.toNat
    let rid := x.requestId.toNat
    let h := field x.payload 0 8
    (handleSession h m = none → promptMore x m = sendRefuse c rid 7 m ∧ cancel x m = sendRefuse c rid 7 m ∧
      close x m = sendRefuse c rid 7 m ∧ (h ≠ 0 → request x m = sendRefuse c rid 7 m)) ∧
    (h = 0 → lowestFree m = none →
      ∃ m', request x m = sendRefuse c rid 1 m' ∧ leafSet cPIPER_SESSION_TABLE_FULL m' = true ∧ m'.mem = m.mem) ∧
    (∀ s, h ≠ 0 → handleSession h m = some s → inTurn s m = true → request x m = sendRefuse c rid 6 m) ∧
    (∀ s, h ≠ 0 → handleSession h m = some s → stateOf s m = sIDLE → isPausing s m = true →
      m.piper.waiting = [] → customerRefused c x.payload m = true →
      request x m = sendRefuse c rid 2 (pauseDrop s m)) ∧
    (∀ s, handleSession h m = some s → dGet dREQUEST_ID s m = rid → inTurn s m = false →
      cancel x m = queueMsg (dGet dCONN s m) ⟨0x83, rid,
        if Sparse.get [] m.piper.ends s = [] then endPayload s m else Sparse.get [] m.piper.ends s⟩ m) ∧
    (∀ s, handleSession h m = some s → dGet dREQUEST_ID s m = rid → inTurn s m = true →
      let n := cancel x m
      cancelOf s n = true ∧ rollbackOf s n = bitAt (field x.payload 8 1) 0 ∧ stateOf s n = stateOf s m ∧
        dGet dCANCEL_SEQ s n = dGet dCOMMIT_SEQ s m ∧ memSameBut (sessAddr s m) 128 m n ∧ n.regs = m.regs) ∧
    (∀ s, handleSession h m = some s → inTurn s m = true →
      let n := close x m
      cancelOf s n = true ∧ rollbackOf s n = true ∧ s ∈ n.piper.closing ∧ memSameBut (sessAddr s m) 128 m n) ∧
    (∀ s, handleSession h m = some s → stateOf s m = sSUMMARY →
      let n := close x m
      stateOf s n = sFREE ∧ s ∉ n.piper.closing ∧ memSameBut (sessAddr s m) 1 m n) ∧
    (∀ s, handleSession h m = some s → dGet dREQUEST_ID s m = rid → inTurn s m = true →
      m.piper.waiting = [] → field x.payload 8 4 = arrivedOf s m - summaryOf s m →
      let k := min (field x.payload 12 4) (dGet dPROMPT_LEN s m - arrivedOf s m)
      let n := promptMore x m
      n.piper.arrived = Sparse.upd (0, 0) m.piper.arrived s (arrivedOf s m + k, summaryOf s m) ∧
        ldBytes (dGet dPROMPT_ADDR s m + 4 * arrivedOf s m) (4 * k) n = slice (x.payload.drop 16) 0 (4 * k) ∧
        memSameBut (dGet dPROMPT_ADDR s m + 4 * arrivedOf s m) (4 * k) m n))

/-- A commit-record entry (R224). -/
def entryBytes (op s arg0 arg1 : Nat) : List Byte := toLe 1 op ++ toLe 1 0 ++ toLe 2 s ++ toLe 4 arg0 ++ toLe 8 arg1

/-- The acts that only a slice lead performs, by the session, epoch or group they name. -/
def leadRow (c : Instr) : Bool :=
  match c with
  | .ratioCheck | .handoffRecord _ _ | .shipLost _ | .retireDeadline _ | .pauseAfterExpiry _ | .pauseComplete _
  | .restoreComplete _ | .copyTimeout _ | .pauseExpiry _ | .kvShort _ => true
  | _ => false

/-- R193 to R199, R221, R222, R233 to R235: the acts of the slice lead on its sessions, each with the commit-record entry it makes;
a module that is no lead performs none of them. -/
def Obligations.LeadActsOnItsSessions : Prop :=
  (∀ (c : Instr) (s : State), leadRow c = true → isLead s.dev = false → exec c s = .next s) ∧
  ∀ (b : BitVec 16) (tok : BitVec 32) (e : Fin 8) (g : Fin 4) (s : State), s.dev.sound = true → isLead s.dev = true →
    let i := b.toNat
    let d := s.dev
    let es := d.piper.entries
    (∃ m, exec (.handoffRecord b tok) s = .next { s with dev := boundary m } ∧ m.mem = d.mem ∧ m.regs = d.regs ∧
      m.piper.ships = d.piper.ships.map (fun x => if x.session = i then { x with token := some tok.toNat } else x)) ∧
    (stateOf i d = sSHIPPING →
      ∃ m, exec (.shipLost b) s = .next { s with dev := boundary m } ∧ stateOf i m = sQUEUED ∧
        leafSet cPIPER_SHIP_LOST m = true ∧ m.piper.ships = d.piper.ships.filter (fun x => x.session ≠ i)) ∧
    (isSet (aPIPER_EPOCH0 e.val) fPIPER_EPOCH0_RETIRING d = true → rd (aPIPER_EPOCH1 e.val) d ≠ 0 → 0 < epochPins e.val d →
      ∃ m, exec (.retireDeadline e) s = .next { s with dev := boundary m } ∧ (∀ x, x ∈ m.piper.due ↔ x ∈ d.piper.due ∨ x = (1, e.val)) ∧
        m.mem = d.mem ∧ m.regs = d.regs) ∧
    (max 1 (limitOf 2 d) ≤ Sparse.get 0 d.piper.short g.val → (∀ k ∈ sessions d, canPause g.val k d = false) →
      ∃ m, exec (.kvShort g) s = .next { s with dev := boundary m } ∧ (∀ x, x ∈ m.piper.due ↔ x ∈ d.piper.due ∨ x = (2, g.val)) ∧
        m.mem = d.mem ∧ m.regs = d.regs) ∧
    (∀ k, stateOf i d = sIDLE → isPausing i d = false → limitOf 0 d ≠ 0 → spareCounter d = some k →
      copiedUnits i d ≤ mirror (lGet lGROUP i d) true (logOf i d) d →
      ∃ m, exec (.pauseAfterExpiry b) s = .next { s with dev := boundary m } ∧
        m.piper.counters = d.piper.counters ++ [(i, k)] ∧ m.piper.entries = es ++ [entryBytes 4 i 0 (counterRef k d)]) ∧
    (stateOf i d = sIDLE → isPausing i d = true → groupReported i d = true → d.piper.waiting = [] →
      ∃ m, exec (.pauseComplete b) s = .next { s with dev := boundary m } ∧ stateOf i m = sPAUSED ∧
        dGet dEXPIRY i m = (d.time.toNat + limitOf 1 d * 156250) % 2 ^ 64 ∧
        m.piper.counters = d.piper.counters.filter (fun x => x.1 ≠ i) ∧ m.piper.entries = es ++ [entryBytes 5 i 0 0]) ∧
    (stateOf i d = sPAUSED → isRestoring i d = true → groupReported i d = true →
      ∃ m, exec (.restoreComplete b) s = .next { s with dev := boundary (handleWaiting i m) } ∧ dGet dEXPIRY i m = 0 ∧
        m.piper.counters = d.piper.counters.filter (fun x => x.1 ≠ i) ∧ m.piper.entries = es ++ [entryBytes 8 i 0 0]) ∧
    (stateOf i d = sIDLE → isPausing i d = true →
      ∃ m, exec (.copyTimeout b) s = .next { s with dev := boundary m } ∧ leafSet cPIPER_KV_COPY_TIMEOUT m = true ∧
        m.piper.entries = es ++ [entryBytes 6 i 0 0]) ∧
    (stateOf i d = sPAUSED → isRestoring i d = true →
      ∃ m, exec (.copyTimeout b) s = .next { s with dev := boundary (raise cPIPER_KV_COPY_TIMEOUT (handleWaiting i m)) } ∧
        m.piper.entries = es ++ [entryBytes 9 i 0 0]) ∧
    (stateOf i d = sPAUSED → dGet dEXPIRY i d ≠ 0 →
      ∃ m, exec (.pauseExpiry b) s = .next { s with dev := boundary m } ∧
        (∀ x, x ∈ m.piper.due ↔ x ∈ d.piper.due ∨ x = (3, i)) ∧ m.mem = d.mem ∧ m.regs = d.regs) ∧
    (∀ m, stateOf i m = sPAUSED → dGet dEXPIRY i m ≠ 0 → m.sound = true →
      ∃ n, dueAct (3, i) m = handleWaiting i n ∧
        n.piper.entries = m.piper.entries ++ [entryBytes 9 i 0 0]) ∧
    (d.piper.sinceRatio < max 1 (rdF aPIPER_RATIO fPIPER_RATIO_INTERVAL d) → exec .ratioCheck s = .next s) ∧
    (max 1 (rdF aPIPER_RATIO fPIPER_RATIO_INTERVAL d) ≤ d.piper.sinceRatio →
      (isSet aPIPER_RATIO fPIPER_RATIO_ENABLE d = false ∨ d.piper.move.isSome = true →
        ∃ m, exec .ratioCheck s = .next { s with dev := m } ∧ m.piper.sinceRatio = 0 ∧ m.piper.move = d.piper.move ∧
          m.regs = d.regs ∧ m.mem = d.mem) ∧
      (isSet aPIPER_RATIO fPIPER_RATIO_ENABLE d = true → d.piper.move = none →
        rdF aPIPER_RATIO fPIPER_RATIO_HIGH d < promptQueue d →
        rdF aPIPER_RATIO fPIPER_RATIO_RUNG d < rdF aPIPER_RATIO fPIPER_RATIO_TOP d → planState d ≠ 1 → planState d ≠ 3 →
        ∃ m, exec .ratioCheck s = .next { s with dev := m } ∧
          m.piper.move = some ⟨true, rdF aPIPER_RATIO fPIPER_RATIO_RUNG d, false⟩ ∧ planState m = 1 ∧
          rd aFPLAN_SOURCE m = rd (aPIPER_LADDER (rdF aPIPER_RATIO fPIPER_RATIO_RUNG d) 0) d ∧
          regsSameBut [aFPLAN_SOURCE, aFPLAN_STATUS] d m ∧ m.mem = d.mem))

/-- R201, R202, R208: retransmission sends every unacknowledged message of a connection again, the oldest first, each sealed under its
own sequence with its header as authenticated data, and changes nothing else (the module has no bytes to send for a connection
without a key: free values); a connection opens and closes by its record, and closing one that is closed or opening one that is open does nothing.
R195, R223, R304, R305: a pool lead takes a hand-off request and reads the page tables it names; a lost device leaves its port, and a
lost Fallow device takes the Fallow tier with it. -/
def Obligations.ConnectionsAndDevicesComeAndGo : Prop :=
  (∀ (k : Fin 1024) (s : State), s.dev.sound = true →
    (∀ key, connOpen k.val s.dev = true → connKey k.val s.dev = some key →
      exec (.intakeRetransmit k) s = .next { s with dev := { s.dev with
        out := s.dev.out ++ (connOf k.val s.dev).unacked.map (fun u =>
          let header := intakeHeader u.2.typ u.2.payload.length k.val u.1 u.2.request s.dev
          .intake k.val (header ++ gcmSeal key (toLe 4 (k.val + 2 ^ 31) ++ toLe 8 u.1) header u.2.payload)) } }) ∧
    (connOpen k.val s.dev = true → connKey k.val s.dev = none →
      ∃ m, exec (.intakeRetransmit k) s = .next { s with dev := m } ∧ m = { s.dev with out := m.out, free := m.free } ∧
        m.out.length = s.dev.out.length + (connOf k.val s.dev).unacked.length) ∧
    (connOpen k.val s.dev = true →
      exec (.connectionOpen k) s = .next s ∧
      ∃ m, exec (.connectionClose k) s = .next { s with dev := boundary m } ∧
        ((sessions { s.dev with mem := memPut s.dev.mem (connAddr k.val s.dev) (toLe 1 0) }).all (fun i =>
            !inTurn i { s.dev with mem := memPut s.dev.mem (connAddr k.val s.dev) (toLe 1 0) }) = true →
          connOpen k.val m = false ∧ memSameBut (connAddr k.val s.dev) 1 s.dev m)) ∧
    (connOpen k.val s.dev = false → exec (.intakeRetransmit k) s = .next s ∧ exec (.connectionClose k) s = .next s ∧
      ∃ m, exec (.connectionOpen k) s = .next { s with dev := m } ∧ connOpen k.val m = true ∧
        memSameBut (connAddr k.val s.dev) 1 s.dev m ∧ m.regs = s.dev.regs)) ∧
  (∀ (h : Handoff) (p d : Fin 4) (s : State), s.dev.sound = true →
    (isPoolLead s.dev = false → exec (.handoffRequest h) s = .next s) ∧
    (isPoolLead s.dev = true → ∃ m, exec (.handoffRequest h) s = .next { s with dev := boundary m } ∧
      m.piper.pool = s.dev.piper.pool ++ [(h, 0)] ∧ m.mem = s.dev.mem ∧
      (h.pages = [] → m = { s.dev with piper := m.piper })) ∧
    (isFallowDevice p.val d.val s.dev = false →
      ∃ m, exec (.deviceLost p d) s = .next { s with dev := m } ∧
        bitAt (rdF (aPCIE_PORT p.val) fPCIE_PORT_UP m) d.val = false ∧
        bitAt (rdF (aPCIE_PORT p.val) fPCIE_PORT_NVME m) d.val = false ∧
        regsSameBut [aPCIE_PORT p.val] s.dev m ∧ m.mem = s.dev.mem ∧ m.tiers = s.dev.tiers) ∧
    (isFallowDevice p.val d.val s.dev = true → isLead s.dev = false →
      ∃ m, exec (.deviceLost p d) s = .next { s with dev := m } ∧ m.tiers.fallowLost = true ∧
        leafSet cTIER_CXL_DEVICE_LOST m = true ∧ bitAt (rdF (aPCIE_PORT p.val) fPCIE_PORT_CXL m) d.val = false) ∧
    (isFallowDevice p.val d.val s.dev = true → isLead s.dev = true → (∀ x ∈ sessions s.dev, stateOf x s.dev ≠ sPAUSED) →
      ∃ m, exec (.deviceLost p d) s = .next { s with dev := boundary m } ∧ m.tiers.fallowLost = true ∧
        leafSet cTIER_CXL_DEVICE_LOST m = true ∧ bitAt (rdF (aPCIE_PORT p.val) fPCIE_PORT_CXL m) d.val = false))

/-! ### Windrow links (chapter 12) -/

/-- A link sent one control record of a type (R344). -/
def sentRecord (l ctype : Nat) (m m' : Dev) : Prop :=
  ∃ seq ack body, m'.out = m.out ++ [.link l (flitBytes 3 7 0 seq ack (BitVec.ofNat 8 ctype :: body))]

/-- What a command that can take a link out of service does to it. -/
def linkActOf (c : Instr) : Option (Dev → Dev) :=
  match c with
  | .ident l r => some (identReceived l.val r)
  | .laneLoss l lane => some (laneLoss l.val lane.val)
  | .lane l mask step => some (laneHandshake l.val mask.toNat step.toNat)
  | .linkDown l why => some (linkDownEvent l.val why)
  | .sequencedFlit l check f => some (sequencedFlit l.val check f)
  | .retry l seq => some (retryReceived l.val seq)
  | .linkRetrain l => some (linkRetrain l.val)
  | .linkTakeOut l => some (linkTakeOut l.val)
  | .laneRecalibrate l lane => some (laneRecalibrate l.val lane.val)
  | _ => none

/-- Does a command leave every unit of a commit in progress in service? -/
def keepsCommit (c : Instr) (m : Dev) : Prop := ∀ f, linkActOf c = some f → blockLost m (f m) = false

/-- R340, R352 to R354: a link that may train leaves DOWN; training that locks three lanes or more with one FEC mode at both ends
sends an IDENT record (the lane settings kept of it may raise the generation of the Calibration partition), any other goes
DOWN under LINK/TRAIN_FAIL. A record is kept in LINK_PEER and answered with a
verdict; one that fails R353 quarantines the link with the first reason it fails, one without a common generation isolates
it, and two good verdicts bring it UP, or DEGRADED with three lanes, at the highest common generation. A link that may train no
longer goes DOWN from TRAINING and from IDENT. -/
def Obligations.LinksTrainAndIdentify : Prop :=
  ∀ (l : Fin 36) (lanes : BitVec 4) (fec : Bool) (r : IdentRecord) (s : State), s.dev.sound = true →
    let up := Nat.land lanes.toNat (rdF (aWINDROW_LINK_CTRL l.val) fWINDROW_LINK_CTRL_LANE_EN s.dev)
    let fecSet := isSet (aWINDROW_LINK_CTRL l.val) fWINDROW_LINK_CTRL_FEC_MODE s.dev
    let st := aWINDROW_LINK_STATUS l.val
    let peer := aWINDROW_LINK_PEER l.val
    let fault := identFault l.val r s.dev
    let low := max (genMin s.dev) r.genMin.toNat
    let high := min (genMax s.dev) r.genMax.toNat
    (linkState l.val s.dev = 0 → canTrain l.val s.dev = true →
      ∃ m, exec (.trainingStart l) s = .next { s with dev := m } ∧ linkState l.val m = 1 ∧ regsSameBut [st] s.dev m ∧
        memSame s.dev m) ∧
    (linkState l.val s.dev ≠ 0 ∨ canTrain l.val s.dev = false → exec (.trainingStart l) s = .next s) ∧
    (linkState l.val s.dev ≠ 1 → exec (.trainingDone l lanes fec) s = .next s) ∧
    (linkState l.val s.dev = 1 → canTrain l.val s.dev = false →
      ∃ m, exec (.trainingDone l lanes fec) s = .next { s with dev := m } ∧ linkState l.val m = 0 ∧ m.out = s.dev.out ∧
        memSame s.dev m) ∧
    (linkState l.val s.dev = 1 → canTrain l.val s.dev = true → fec = fecSet → 3 ≤ laneCount up →
      ∃ m, exec (.trainingDone l lanes fec) s = .next { s with dev := m } ∧ linkState l.val m = 2 ∧ lanesUp l.val m = up ∧
        linkOf l.val m = { LinkDyn.idle with queue := (linkOf l.val s.dev).queue } ∧ sentRecord l.val 3 s.dev m ∧
        regsSameBut [st, genReg 4] s.dev m ∧ memSame s.dev m) ∧
    (linkState l.val s.dev = 1 → canTrain l.val s.dev = true → fec ≠ fecSet ∨ laneCount up < 3 →
      ∃ m, exec (.trainingDone l lanes fec) s = .next { s with dev := m } ∧ linkState l.val m = 0 ∧
        leafSet cWINDROW_LINK_TRAIN_FAIL m = true ∧ m.out = s.dev.out ∧ memSame s.dev m) ∧
    (linkState l.val s.dev ≠ 2 → exec (.ident l r) s = .next s) ∧
    (linkState l.val s.dev = 2 → r.verdict = 0 → (linkOf l.val s.dev).mine = 0 →
      ∃ m, exec (.ident l r) s = .next { s with dev := m } ∧ linkState l.val m = 2 ∧ rd peer m = peerWord r ∧
        (linkOf l.val m).mine = (if fault = 0 then 1 else 2) ∧ sentRecord l.val 3 s.dev m ∧ regsSameBut [peer] s.dev m ∧
        memSame s.dev m) ∧
    (linkState l.val s.dev = 2 → r.verdict ≠ 0 → fault ≠ 0 →
      ∃ m, exec (.ident l r) s = .next { s with dev := m } ∧ linkState l.val m = 5 ∧
        rdF st fWINDROW_LINK_STATUS_QUAR_REASON m = fault ∧ leafSet cWINDROW_LINK_NEIGHBOUR_MISMATCH m = true ∧
        memSame s.dev m) ∧
    (linkState l.val s.dev = 2 → r.verdict = 1 → fault = 0 → canTrain l.val s.dev = false →
      ∃ m, exec (.ident l r) s = .next { s with dev := m } ∧ linkState l.val m = 0 ∧ lanesUp l.val m = 0 ∧ memSame s.dev m) ∧
    (linkState l.val s.dev = 2 → r.verdict = 1 → fault = 0 → canTrain l.val s.dev = true → high < low →
      ∃ m, exec (.ident l r) s = .next { s with dev := m } ∧ linkState l.val m = 6 ∧
        leafSet cWINDROW_LINK_GEN_INCOMPATIBLE m = true ∧ memSame s.dev m) ∧
    (linkState l.val s.dev = 2 → r.verdict = 1 → fault = 0 → canTrain l.val s.dev = true → low ≤ high →
      ∃ m, exec (.ident l r) s = .next { s with dev := m } ∧
        linkState l.val m = (if laneCount (lanesUp l.val s.dev) = 4 then 3 else 4) ∧
        rdF st fWINDROW_LINK_STATUS_GEN m = high ∧ rd peer m = peerWord r ∧ regsSameBut [st, peer] s.dev m ∧ memSame s.dev m)

/-- R342, R355, R513: a link that carries traffic and loses a lane runs on at three lanes, DEGRADED, and goes DOWN with fewer;
LANE sets the lanes it runs on, is answered, and a drop raises LINK/LANE_DEGRADED; a lost link goes DOWN with no lane under
LINK/DOWN, a spent RETRY_LIMIT under LINK/RETRY_LIMIT too. A link that carries no traffic loses nothing. R373, R513: ACTION 1 trains a link that may train and is not DISABLED; ACTION
2 disables a link once its retry buffer is acknowledged and starts no packet on it before; ACTION 3 drops a lane of a link that
is UP without a cause, and the lane rejoins, or stays out under LINK/LANE_DEGRADED. R167: a commit in progress that loses a link or
port of its set by one of these, by a flit or by a RETRY ends with FPLAN/COMMIT/BLOCK_LOST, its shadows kept. -/
def Obligations.LinksLoseLanesAndObeyActions : Prop :=
  (∀ (l : Fin 36) (lane : Fin 4) (mask : BitVec 4) (step : BitVec 8) (why : LinkLoss) (s : State), s.dev.sound = true →
    let left := Nat.land (lanesUp l.val s.dev) (15 - 2 ^ lane.val)
    let named := Nat.land mask.toNat (rdF (aWINDROW_LINK_CTRL l.val) fWINDROW_LINK_CTRL_LANE_EN s.dev)
    let has := bitAt (lanesUp l.val s.dev) lane.val
    let st := aWINDROW_LINK_STATUS l.val
    let falls := fun m : Dev => linkState l.val m = 0 ∧ lanesUp l.val m = 0 ∧ leafSet cWINDROW_LINK_DOWN m = true ∧
      memSame s.dev m
    (linkUp l.val s.dev = false → exec (.laneLoss l lane) s = .next s ∧ exec (.lane l mask step) s = .next s ∧
      exec (.linkDown l why) s = .next s) ∧
    (linkUp l.val s.dev = true →
      (has = false → exec (.laneLoss l lane) s = .next s) ∧
      (has = true → keepsCommit (.laneLoss l lane) s.dev → 3 ≤ laneCount left →
        ∃ m, exec (.laneLoss l lane) s = .next { s with dev := m } ∧ linkState l.val m = 4 ∧ lanesUp l.val m = left ∧
          sentRecord l.val 4 s.dev m ∧ leafSet cWINDROW_LINK_LANE_DEGRADED m = true ∧
          regsSameBut [st, cWINDROW_LINK_LANE_DEGRADED.reg] s.dev m ∧ memSame s.dev m) ∧
      (has = true → keepsCommit (.laneLoss l lane) s.dev → laneCount left < 3 →
        ∃ m, exec (.laneLoss l lane) s = .next { s with dev := m } ∧ falls m) ∧
      (named = lanesUp l.val s.dev → exec (.lane l mask step) s = .next s) ∧
      (named ≠ lanesUp l.val s.dev → keepsCommit (.lane l mask step) s.dev → 3 ≤ laneCount named →
        ∃ m, exec (.lane l mask step) s = .next { s with dev := m } ∧ lanesUp l.val m = named ∧
          linkState l.val m = (if laneCount named = 4 then 3 else 4) ∧ sentRecord l.val 4 s.dev m ∧
          (laneCount named < laneCount (lanesUp l.val s.dev) → leafSet cWINDROW_LINK_LANE_DEGRADED m = true) ∧
          regsSameBut [st, cWINDROW_LINK_LANE_DEGRADED.reg] s.dev m ∧ memSame s.dev m) ∧
      (named ≠ lanesUp l.val s.dev → keepsCommit (.lane l mask step) s.dev → laneCount named < 3 →
        ∃ m, exec (.lane l mask step) s = .next { s with dev := m } ∧ falls m) ∧
      (keepsCommit (.linkDown l why) s.dev → ∃ m, exec (.linkDown l why) s = .next { s with dev := m } ∧ falls m ∧
        (why = .retryLimit → leafSet cWINDROW_LINK_RETRY_LIMIT m = true)))) ∧
  (∀ (c : Instr) (f : Dev → Dev) (s : State), linkActOf c = some f →
    (blockLost s.dev (f s.dev) = false → exec c s = .next { s with dev := f s.dev }) ∧
    (s.dev.sound = true → blockLost s.dev (f s.dev) = true →
      ∃ m, exec c s = .next { s with dev := boundary (ratioReact 0 m) } ∧ m.plan.frozen = false ∧ m.plan.parked = [] ∧
        rdF aFPLAN_STATUS fFPLAN_STATUS_RESULT m = 5 ∧ leafSet cFPLAN_COMMIT_BLOCK_LOST m = true ∧
        m.shadow = (f s.dev).shadow)) ∧
  (∀ (l : Fin 36) (lane : Fin 4) (ok : Bool) (settings : List Byte) (s : State), s.dev.sound = true →
    let x := linkOf l.val s.dev
    let left := Nat.land (lanesUp l.val s.dev) (15 - 2 ^ lane.val)
    let back := Nat.lor (lanesUp l.val s.dev) (2 ^ lane.val)
    let st := aWINDROW_LINK_STATUS l.val
    (linkState l.val s.dev = 7 ∨ canTrain l.val s.dev = false → exec (.linkRetrain l) s = .next s) ∧
    (linkState l.val s.dev ≠ 7 → canTrain l.val s.dev = true → keepsCommit (.linkRetrain l) s.dev →
      ∃ m, exec (.linkRetrain l) s = .next { s with dev := m } ∧ linkState l.val m = 1 ∧ memSame s.dev m) ∧
    (linkUp l.val s.dev = false ∨ x.retryBuf = [] → keepsCommit (.linkTakeOut l) s.dev →
      ∃ m, exec (.linkTakeOut l) s = .next { s with dev := m } ∧ linkState l.val m = 7 ∧ lanesUp l.val m = 0 ∧ memSame s.dev m) ∧
    (linkUp l.val s.dev = true → x.retryBuf ≠ [] → x.queue = [] → keepsCommit (.linkTakeOut l) s.dev →
      ∃ m, exec (.linkTakeOut l) s = .next { s with dev := m } ∧ linkOf l.val m = { x with taking := true } ∧
        l.val ∉ portOpen (linkPort l.val s.dev) m ∧ m.regs = s.dev.regs ∧ memSame s.dev m) ∧
    (linkState l.val s.dev ≠ 3 → exec (.laneRecalibrate l lane) s = .next s) ∧
    (linkState l.val s.dev = 3 → 3 ≤ laneCount left → keepsCommit (.laneRecalibrate l lane) s.dev →
      ∃ m, exec (.laneRecalibrate l lane) s = .next { s with dev := m } ∧ linkState l.val m = 4 ∧ lanesUp l.val m = left ∧
        linkOf l.val m = { x with recal := some lane.val } ∧ sentRecord l.val 4 s.dev m ∧ regsSameBut [st] s.dev m ∧
        memSame s.dev m) ∧
    (x.recal = none → exec (.laneRecalDone l ok settings) s = .next s) ∧
    (x.recal = some lane.val → linkUp l.val s.dev = true →
      (∃ m, exec (.laneRecalDone l false settings) s = .next { s with dev := m } ∧
        leafSet cWINDROW_LINK_LANE_DEGRADED m = true ∧ linkOf l.val m = { x with recal := none } ∧
        regsSameBut [cWINDROW_LINK_LANE_DEGRADED.reg] s.dev m ∧ memSame s.dev m) ∧
      (∃ m, exec (.laneRecalDone l true settings) s = .next { s with dev := m } ∧ lanesUp l.val m = back ∧
        linkState l.val m = (if laneCount back = 4 then 3 else 4) ∧ linkOf l.val m = { x with recal := none } ∧
        memSame s.dev m)))

/-- R345, R346, R372: a flit that comes through in sequence is taken, its ACK passes flits of the retry buffer, and a packet that is
whole frees its part by a CREDIT; any other flit is discarded, and the first of a run is answered with a RETRY of the sequence
expected, as is the flit asked for when it is bad again; a RETRY replays the buffer from the sequence it names; both count, and
RETRY_LIMIT of them in a row that name one sequence take the link DOWN. Corrected and uncorrectable codewords count. CREDIT sets the
absolute counts of flits freed. -/
def Obligations.FlitsAreTakenInSequenceAndReplayed : Prop :=
  ∀ (l : Fin 36) (c : FlitCheck) (f : Flit) (seq : BitVec 12) (freed : List (BitVec 32)) (s : State), s.dev.sound = true →
    linkUp l.val s.dev = true →
    let x := linkOf l.val s.dev
    let stats := aWINDROW_LINK_STATS l.val
    let limit := max 1 (rdF (aWINDROW_LINK_CTRL l.val) fWINDROW_LINK_CTRL_RETRY_LIMIT s.dev)
    let run := fun q : BitVec 12 => if x.retryRun ≠ 0 ∧ x.retrySeq = q then x.retryRun + 1 else 1
    let counts := fun (g : Fld) (yes : Bool) (m : Dev) =>
      rdF stats g m = (if yes then min (2 ^ g.w - 1) (rdF stats g s.dev + 1) else rdF stats g s.dev)
    let words := fun m : Dev => counts fWINDROW_LINK_STATS_CORRECTED (c = .corrected) m ∧
      counts fWINDROW_LINK_STATS_UNCORRECTED (c = .uncorrectable) m
    let counted := fun m : Dev => linkState l.val m = linkState l.val s.dev ∧ regsSameBut [stats] s.dev m ∧ memSame s.dev m ∧
      counts fWINDROW_LINK_STATS_RETRIES true m
    let lost := fun m : Dev => linkState l.val m = 0 ∧ leafSet cWINDROW_LINK_RETRY_LIMIT m = true ∧
      leafSet cWINDROW_LINK_DOWN m = true ∧ memSame s.dev m
    let part := 2 * f.vc.toNat + f.sub.toNat
    (flitPasses c = true → f.fseq = x.recvSeq → x.taking = false → keepsCommit (.sequencedFlit l c f) s.dev →
      ∃ m, exec (.sequencedFlit l c f) s = .next { s with dev := m } ∧ (linkOf l.val m).recvSeq = x.recvSeq + 1 ∧
        (linkOf l.val m).discarding = false ∧ (linkOf l.val m).askRun = 0 ∧
        (linkOf l.val m).retryBuf = acked f.ack x.retryBuf ∧ words m ∧ regsSameBut [stats] s.dev m ∧ m.mem = s.dev.mem ∧
        ((m.out = s.dev.out ∧ (linkOf l.val m).freedHere = x.freedHere) ∨
          (sentRecord l.val 1 s.dev m ∧ Sparse.get [] (linkOf l.val m).assembling part = []))) ∧
    (flitPasses c = false ∨ f.fseq ≠ x.recvSeq → keepsCommit (.sequencedFlit l c f) s.dev →
      (x.discarding = true → f.fseq ≠ x.recvSeq →
        ∃ m, exec (.sequencedFlit l c f) s = .next { s with dev := m } ∧ m = { s.dev with regs := m.regs } ∧ words m ∧
          regsSameBut [stats] s.dev m) ∧
      (x.discarding = false ∨ f.fseq = x.recvSeq → x.askRun + 1 < limit →
        ∃ m, exec (.sequencedFlit l c f) s = .next { s with dev := m } ∧ counted m ∧ words m ∧
          m.out = s.dev.out ++ [.link l.val (flitBytes 3 7 0 x.sendSeq x.recvSeq
            (BitVec.ofNat 8 2 :: (List.replicate 3 0 ++ toLe 2 x.recvSeq.toNat)))] ∧
          (linkOf l.val m).recvSeq = x.recvSeq ∧ (linkOf l.val m).discarding = true ∧
          (linkOf l.val m).askRun = x.askRun + 1) ∧
      (x.discarding = false ∨ f.fseq = x.recvSeq → limit ≤ x.askRun + 1 →
        ∃ m, exec (.sequencedFlit l c f) s = .next { s with dev := m } ∧ lost m)) ∧
    (x.taking = false → keepsCommit (.retry l seq) s.dev → run seq < limit →
      ∃ m, exec (.retry l seq) s = .next { s with dev := m } ∧ counted m ∧
        m.out = s.dev.out ++ (acked seq x.retryBuf).map (fun g => .flit l.val (wireFlit g)) ∧
        (linkOf l.val m).retryBuf = acked seq x.retryBuf) ∧
    (x.taking = false → keepsCommit (.retry l seq) s.dev → limit ≤ run seq →
      ∃ m, exec (.retry l seq) s = .next { s with dev := m } ∧ lost m) ∧
    (x.queue = [] →
      ∃ m, exec (.credit l freed) s = .next { s with dev := m } ∧ m.regs = s.dev.regs ∧ m.mem = s.dev.mem ∧ m.out = s.dev.out ∧
        (linkOf l.val m).retryBuf = x.retryBuf ∧ (linkOf l.val m).sent = x.sent ∧
        ∀ k < 16, Sparse.get 0 (linkOf l.val m).freed k = (freed.getD k 0).toNat)

/-! ### Packets (chapters 11, 12) -/

/-- A die sent a NACK of a packet, in job 0 on the way back to its source, with the header copy (R350). -/
def nackSent (reason d : Nat) (p : Packet) (m m' : Dev) : Prop :=
  ∃ n, m'.out = m.out ++ [.packet d none n] ∧ n.typ.toNat = ptNACK ∧ n.dest = p.src ∧ n.job = 0 ∧ n.arg.toNat = reason ∧
    n.payload = headerOf p 0

/-- R339, R349, R357 to R362: a router hands a packet for this die to its interface, which keeps the link it came in on, sends any other out of a link of the PORT its entry
names, and of the DETOUR port once, with DETOUR set, when the first has no link; a packet that no port can carry is
discarded under ROUTE/UNREACHABLE and NACKed with reason 4, but no NACK answers a NACK; a malformed one is discarded. -/
def Obligations.RoutersCarryOrRefusePackets : Prop :=
  ∀ (d : Die) (via : Option (Fin 36)) (p : Packet) (l : Nat) (s : State), s.dev.sound = true →
    let e := routeEntry d.val (destCoordOf p) s.dev
    let port := bitsAt e 24 4
    let det := bitsAt e 16 4
    let mayDetour := !bitAt p.route.toNat 3 && portValid det s.dev
    let carried := fun (v : Nat) (det : Bool) (m : Dev) =>
      m.out = s.dev.out ++ [.packet (linkDie l) (some l) { p with route := routeAfter p v det s.dev }] ∧
        m.regs = s.dev.regs ∧ m.mem = s.dev.mem
    let starts := fun (v : Nat) (det : Bool) => chooseLink d.val v p s.dev = some l ∧ (linkOf l s.dev).queue = [] ∧
      canStart l { p with route := routeAfter p v det s.dev } s.dev = true
    let refused := fun m : Dev => leafSet cWINDROW_ROUTE_UNREACHABLE m = true ∧ memSame s.dev m ∧
      (p.typ.toNat ≠ ptNACK → nackSent 4 d.val p s.dev m) ∧ (p.typ.toNat = ptNACK → m.out = s.dev.out)
    (packetFormed p = false →
      ∃ m, exec (.packetRoute d via p) s = .next { s with dev := m } ∧ leafSet cWINDROW_PKT_MALFORMED m = true ∧
        m.out = s.dev.out ∧ regsSameBut [cWINDROW_PKT_MALFORMED.reg, aWINDROW_FAULT] s.dev m ∧ memSame s.dev m) ∧
    (packetFormed p = true →
      (bitAt e 31 = true → bitAt e 30 = true →
        ∃ m, exec (.packetRoute d via p) s = .next { s with dev := m } ∧
          m = { s.dev with out := s.dev.out ++ [.arrived (destDieOf p) p], net := m.net } ∧
          (via = none → m.net = s.dev.net) ∧
          ∀ v, via = some v → m.net = { s.dev.net with arrivals := s.dev.net.arrivals ++ [(p, v.val)] }) ∧
      (bitAt e 31 = false ∨ (bitAt e 30 = false ∧ portValid port s.dev = false) →
        ∃ m, exec (.packetRoute d via p) s = .next { s with dev := m } ∧ refused m) ∧
      (bitAt e 31 = true → bitAt e 30 = false → portValid port s.dev = true →
        (starts port false → ∃ m, exec (.packetRoute d via p) s = .next { s with dev := m } ∧ carried port false m) ∧
        (portOpen port s.dev = [] → mayDetour = true → starts det true →
          ∃ m, exec (.packetRoute d via p) s = .next { s with dev := m } ∧ carried det true m) ∧
        (portOpen port s.dev = [] → mayDetour = false ∨ portOpen det s.dev = [] →
          ∃ m, exec (.packetRoute d via p) s = .next { s with dev := m } ∧ refused m)))

/-- R325, R332, R350, R367: a packet delivered passes its check code, its job's membership, its job's key and its tag, in that
order; the first that fails raises its cause and sends its NACK and no unit sees the packet. A good one is expanded when it is
compressed and handed to its unit; one that does not expand is asked for once more: a clean resend counts as recovered, and a
second failure raises WINNOW/RETRY_FAIL. R334, R350, R406: a NACK that names a COPY
fails its request and halts its ring with reason 2; a RESEND has the source of the packet it names read again and sent
uncompressed under the same ARG; either one that names nothing the module awaits only leaves its queue. -/
def Obligations.DeliveryChecksNacksAndResends : Prop :=
  (∀ (check : PacketCheck) (p : Packet) (s : State), s.dev.sound = true → p.typ.toNat ≠ ptNACK →
    let d := destDieOf p
    let member := jobMember p.job.toNat s.dev
    let held := !isEncrypted p || holdsJobKey (jobSlot p.job.toNat (keyGenOf p) s.dev) s.dev
    let passes := check = .ok ∨ (check = .badTag ∧ isEncrypted p = false)
    let link := linkIn p s.dev
    let t := { s.dev with net := { s.dev.net with arrivals := s.dev.net.arrivals.erase (p, link) } }
    let x := expandBlock d link (srcCoordOf p) p.payload t
    let y := stageBad p x x.m
    let ends := fun m : Dev => leafSet (cDIE_WINNOW_RETRY_FAIL d) m = true ∧ askedFor p m = false
    let refused := fun (reason : Nat) (c : Cause) => ∃ m, exec (.packetDeliver check p) s = .next { s with dev := m } ∧
      leafSet c m = true ∧ nackSent reason d p s.dev m ∧ m.net.inbox = s.dev.net.inbox ∧ memSame s.dev m
    (check = .badCode → askedFor p s.dev = false → refused 1 cWINDROW_PKT_CHECK_FAIL) ∧
    (check = .badCode → askedFor p s.dev = true → ∃ m, exec (.packetDeliver check p) s = .next { s with dev := m } ∧ ends m ∧
      leafSet cWINDROW_PKT_CHECK_FAIL m = true) ∧
    (check ≠ .badCode → member = false → refused 3 cWINDROW_JOB_NOT_MEMBER) ∧
    (check ≠ .badCode → member = true → held = false → refused 5 cWINDROW_JOB_NO_KEY) ∧
    (check = .badTag → member = true → held = true → isEncrypted p = true → askedFor p s.dev = false →
      refused 2 cWINDROW_JOB_TAG_FAIL) ∧
    (passes → member = true → held = true →
      (isZipped p = false → askedFor p s.dev = false →
        exec (.packetDeliver check p) s = .next { s with dev := handUp p t }) ∧
      (isZipped p = false → askedFor p s.dev = true →
        ∃ m, exec (.packetDeliver check p) s = .next { s with dev := m } ∧ m.net.inbox = s.dev.net.inbox ++ [p] ∧
          (isPoison p = true → ends m) ∧
          (isPoison p = false → askedFor p m = false ∧ rdF (aWINNOW_ERR_STATS d) fWINNOW_ERR_STATS_RECOVERED m =
            min (2 ^ fWINNOW_ERR_STATS_RECOVERED.w - 1) (rdF (aWINNOW_ERR_STATS d) fWINNOW_ERR_STATS_RECOVERED s.dev + 1))) ∧
      (isZipped p = true → x.bad = false →
        exec (.packetDeliver check p) s =
          .next { s with dev := handUp { p with payload := x.data, flags := p.flags &&& 0xFE#8 } x.m }) ∧
      (isZipped p = true → x.bad = true → askedFor p x.m = false → sendStop p.job.toNat false x.m = none →
        ∃ m n, exec (.packetDeliver check p) s = .next { s with dev := m } ∧ m.out = y.out ++ [.packet d none n] ∧
          n.typ.toNat = ptRESEND ∧ n.dest = p.src ∧ n.arg = p.arg ∧ n.payload = headerOf p 0 ∧
          m.net.inbox = x.m.net.inbox ∧ askedFor p m = true ∧ memSame y m) ∧
      (isZipped p = true → x.bad = true → askedFor p x.m = true →
        ∃ m, exec (.packetDeliver check p) s = .next { s with dev := m } ∧ ends m))) ∧
  (∀ (p : Packet) (q : RingRef) (r : Request) (s : State), s.dev.sound = true →
    let die := bitsAt (copySrc p) 9 3
    let named := fun x : Request => x.die = die && x.p.typ.toNat = copyTyp p && x.p.arg = copyArg p
    (p.typ.toNat = ptNACK → copyTyp p = ptCOPY →
      (s.dev.net.reqs.find? named = none → exec (.nack p) s = .next { s with dev := takePacket p s.dev }) ∧
      (s.dev.net.reqs.find? named = some r → r.waiter = .copy (ringNum q) → nothingToSend s.dev →
        boundOf (ringNum q) s.dev = [] →
        ∃ m, exec (.nack p) s = .next { s with dev := m } ∧ leafSet (cDIE_FABRIC_ACCESS die) m = true ∧
          haltedWith (ringNum q) 2 s.dev m ∧ ∀ y ∈ m.net.reqs, y.waiter ≠ .copy (ringNum q))) ∧
    (p.typ.toNat = ptRESEND →
      (s.dev.net.reqs.find? named = none → exec (.linkResendRequest p) s = .next { s with dev := takePacket p s.dev }) ∧
      (∀ a, s.dev.net.reqs.find? named = some r → r.src = some a →
        let rr := readVia (agentMover r.die) a (field r.pre 8 2) (takePacket p s.dev)
        sendStop r.p.job.toNat (protectedAt a (field r.pre 8 2) s.dev) s.dev = none → rr.st ≠ .held →
        ∃ m n, exec (.linkResendRequest p) s = .next { s with dev := m } ∧ m.out = rr.m.out ++ [.packet r.die none n] ∧
          n.typ = r.p.typ ∧ n.dest = r.p.dest ∧ n.arg = r.p.arg ∧ isZipped n = false ∧ n.payload = r.pre ++ rr.data ∧
          (isPoison n = true ↔ rr.st ≠ .ok) ∧ memSame rr.m m)) ∧
    (p.typ.toNat ≠ ptNACK → exec (.nack p) s = .next s) ∧ (p.typ.toNat ≠ ptRESEND → exec (.linkResendRequest p) s = .next s))

/-! ### The memory fabric (chapter 14) -/

/-- The home answered a request: a response of a type to its source under its ARG and JOB, with a STATUS and data (R405, R406). -/
def answered (p : Packet) (typ status : Nat) (data : List Byte) (m m' : Dev) : Prop :=
  ∃ n, m'.out = m.out ++ [.packet (destDieOf p) none n] ∧ n.typ.toNat = typ ∧ n.dest = p.src ∧ n.job = p.job ∧ n.arg = p.arg ∧
    fxStatus n = status ∧ fxData n = data

/-- R317, R405, R406: a home answers a READ with the data and STATUS 0, with STATUS 2 and the data where it is poisoned, and with
another STATUS and no data where it is refused; a WRITE it performs whole or not at all, and answers with its STATUS. A request that
finds the fabric parked or an earlier request of its flow there, or whose access is held, stays with the home (R164, R314, R407); a
ROW request is the Gleaner's. -/
def Obligations.HomesServeReadsAndWrites : Prop :=
  (∀ (p : Packet) (s : State), fxRow p = true ∨ fabricWaits p s.dev = true →
    exec (.read p) s = .next s ∧ exec (.write p) s = .next s) ∧
  ∀ (p : Packet) (s : State), s.dev.sound = true → sendStop p.job.toNat false s.dev = none → fxRow p = false →
    fabricWaits p s.dev = false →
    let ag := Agent.remote (destDieOf p)
    let t := takePacket p s.dev
    let r := readVia ag (fxAddr p) (fxLen p) t
    let w := writeVia ag (fxAddr p) (fxData p) t
    let may := canWrite ag (fxAddr p) (fxData p).length t
    (p.typ.toNat = ptREAD →
      (prefixBad p = true ∨ protectedAt (fxAddr p) (fxLen p) s.dev = true →
        ∃ m, exec (.read p) s = .next { s with dev := m } ∧ answered p ptREAD_DATA 1 [] s.dev m ∧ memSame s.dev m ∧
          m.net.inbox = s.dev.net.inbox.erase p) ∧
      (prefixBad p = false → protectedAt (fxAddr p) (fxLen p) s.dev = false → r.st = .held →
        exec (.read p) s = .next { s with dev := heldBy p.job.toNat r.m s.dev }) ∧
      (prefixBad p = false → protectedAt (fxAddr p) (fxLen p) s.dev = false → r.st ≠ .held →
        ∃ m, exec (.read p) s = .next { s with dev := m } ∧ memSame r.m m ∧ m.net.inbox = s.dev.net.inbox.erase p ∧
          (r.st = .ok → answered p ptREAD_DATA 0 r.data r.m m) ∧ (r.st = .poison → answered p ptREAD_DATA 2 r.data r.m m) ∧
          (r.st = .unmapped → answered p ptREAD_DATA 4 [] r.m m) ∧
          (r.st = .region ∨ r.st = .noFrame → answered p ptREAD_DATA 1 [] r.m m))) ∧
    (p.typ.toNat = ptWRITE →
      (prefixBad p = true →
        ∃ m, exec (.write p) s = .next { s with dev := m } ∧ answered p ptCOMPLETION 1 [] s.dev m ∧ memSame s.dev m) ∧
      (prefixBad p = false → may = true → w.st = .held →
        exec (.write p) s = .next { s with dev := heldBy p.job.toNat w.m s.dev }) ∧
      (prefixBad p = false → may = false → nothingToSend s.dev → s.dev.tiers.peerGot = [] →
        ∃ m st, exec (.write p) s = .next { s with dev := m } ∧ st ≠ 0 ∧ answered p ptCOMPLETION st [] s.dev m ∧
          memSame s.dev m) ∧
      (prefixBad p = false → may = true → w.st = .ok → isPoison p = false → nothingToSend w.m → w.m.tiers.peerGot = [] →
        ∃ m, exec (.write p) s = .next { s with dev := m } ∧ answered p ptCOMPLETION 0 [] w.m m ∧ memSame w.m m) ∧
      (prefixBad p = false → may = true → w.st = .ok → isPoison p = true → nothingToSend w.m → w.m.tiers.peerGot = [] →
        ∃ m, exec (.write p) s = .next { s with dev := m } ∧ answered p ptCOMPLETION 2 [] w.m m))

/-- R411 to R413, R423: with the replay table off an ATOMIC changes nothing and is answered with STATUS 1; a new one is performed,
answered with the old value and recorded; one already recorded is answered from its record; so an ATOMIC delivered twice in
a row acts once; one whose access is held (status 99) stays with the home. -/
def Obligations.AtomicsActExactlyOnce : Prop :=
  ∀ (p : Packet) (s : State), s.dev.sound = true → p.typ.toNat = ptATOMIC → sendStop p.job.toNat false s.dev = none →
    fabricWaits p s.dev = false →
    let t := takePacket p s.dev
    let r := serveAtomicNew p t
    let on := isSet aFABRIC_REPLAY fFABRIC_REPLAY_ENABLE s.dev
    let op := bitsAt (fxExtra p) 0 8
    let stale := cDIE_FABRIC_STALE (destDieOf p)
    let counts := rdF aFABRIC_STATS fFABRIC_STATS_REPLAYED
    (on = false →
      ∃ m, exec (.atomic p) s = .next { s with dev := m } ∧ answered p ptCOMPLETION 1 (toLe 8 0) s.dev m ∧
        m.regs = s.dev.regs ∧ m.mem = s.dev.mem) ∧
    (on = true → replayOf p t = .fresh → r.status = 99 → exec (.atomic p) s = .next s) ∧
    (on = true → replayOf p t = .fresh → r.status ≠ 99 →
      ∃ m, exec (.atomic p) s = .next { s with dev := m } ∧ answered p ptCOMPLETION r.status (toLe 8 r.old) r.m m ∧
        replayOf p m = .seen r.status r.old ∧ memSameBut (replayAddr p t) 16 r.m m) ∧
    (∀ st old, on = true → replayOf p t = .seen st old →
      ∃ m, exec (.atomic p) s = .next { s with dev := m } ∧ answered p ptCOMPLETION st (toLe 8 old) s.dev m ∧
        memSame s.dev m ∧ regsSameBut [aFABRIC_STATS] s.dev m ∧ counts m = min (2 ^ fFABRIC_STATS_REPLAYED.w - 1) (counts s.dev + 1)) ∧
    (on = true → replayOf p t = .stale →
      ∃ m, exec (.atomic p) s = .next { s with dev := m } ∧ answered p ptCOMPLETION 3 (toLe 8 0) s.dev m ∧
        leafSet stale m = true ∧ memSame s.dev m) ∧
    (∀ key g off, prefixBad p = false → bitsAt (fxExtra p) 8 24 = 0 → op ≤ 6 → fxAddr p < 0x1_0000_0000 → fxAddr p % 4 = 0 →
      judge (.remote (destDieOf p)) (fxAddr p) 1 true t = .at key g off →
      judge (.remote (destDieOf p)) (fxAddr p) 4 true t = .at key g off → poisoned key 4 t = false →
      r.status = 0 ∧ r.old = ldN 4 key s.dev ∧ memSameBut key 4 s.dev r.m ∧
        ldN 4 key r.m = atomicOp op 32 (ldN 4 key s.dev) (field p.payload 16 8) (field p.payload 24 8)) ∧
    (∀ s1 s2, on = true → exec (.atomic p) s = .next s1 → exec (.atomic p) s1 = .next s2 →
      memSame s1.dev s2.dev ∧ regsSameBut [aFABRIC_STATS, aFABRIC_FAULT, stale.reg] s1.dev s2.dev)

/-- R415, R416, R423: a COPY packet's bytes are written and answered as they land; the LAST packet of a chunk whose bytes are all in
commits it with its increment, once, and its outcome is recorded, but waits for a resend that has been asked for (R334); with the
replay table off it is answered with STATUS 1. -/
def Obligations.ChunksCommitWithTheirIncrement : Prop :=
  ∀ (p : Packet) (s : State), s.dev.sound = true → p.typ.toNat = ptCOPY → sendStop p.job.toNat false s.dev = none →
    fabricWaits p s.dev = false →
    let ag := Agent.remote (destDieOf p)
    let t := takePacket p s.dev
    let w := writeVia ag (fxAddr p) (fxData p) t
    let on := isSet aFABRIC_REPLAY fFABRIC_REPLAY_ENABLE s.dev
    let ref := bitsAt (fxExtra p) 0 16
    let lands := prefixBad p = false ∧ canWrite ag (fxAddr p) (fxData p).length t = true ∧ w.st = .ok ∧ isPoison p = false
    (fxLast p = true → on = false →
      ∃ m, exec (.copy p) s = .next { s with dev := m } ∧ answered p ptCOMPLETION 1 [] s.dev m ∧ m.regs = s.dev.regs ∧
        m.mem = s.dev.mem) ∧
    (fxLast p = false → lands → (chunkOf p s.dev).last = none → 0 < fxLen p →
      ∃ m, exec (.copy p) s = .next { s with dev := m } ∧ answered p ptCOMPLETION 0 [] w.m m ∧ memSame w.m m ∧ m.regs = w.m.regs) ∧
    (fxLast p = true → on = true → lands → replayOf p t = .fresh → chunkOf p s.dev = ChunkRx.none → 0 < fxLen p →
      resendDue p s.dev = true →
      ∃ m, exec (.copy p) s = .next { s with dev := m } ∧ m.out = w.m.out ∧ (chunkOf p m).last = some p ∧ memSame w.m m ∧
        arrival (refDie ref) (refCounter ref) m = arrival (refDie ref) (refCounter ref) s.dev) ∧
    (fxLast p = true → on = true → lands → replayOf p t = .fresh → chunkOf p s.dev = ChunkRx.none → 0 < fxLen p →
      resendDue p s.dev = false →
      bitAt ref 15 = false →
      ∃ m, exec (.copy p) s = .next { s with dev := m } ∧ answered p ptCOMPLETION 0 [] w.m m ∧
        memSameBut (replayAddr p t) 16 w.m m ∧
        arrival (refDie ref) (refCounter ref) m =
          (arrival (refDie ref) (refCounter ref) s.dev + bitsAt (fxExtra p) 16 16) % 2 ^ 32 ∧
        ∃ old, replayOf p m = .seen 0 old) ∧
    (∀ st old, fxLast p = true → on = true → replayOf p t = .seen st old →
      ∃ m, exec (.copy p) s = .next { s with dev := m } ∧ answered p ptCOMPLETION st [] s.dev m ∧ memSame s.dev m ∧
        regsSameBut [aFABRIC_STATS] s.dev m)

/-- R309, R404, R406, R408 to R410, R414: the first response with STATUS 0 ends its request, and READ_DATA is kept for what asked for
it, and fills the line it covers when its READ asked for it; any other STATUS fails it and halts its ring with reason 2; a request without its response is sent
again as it was, and fails after RETRIES of that; an invalidation empties every cache. R414: the answer of a ring's KIND 5 act
writes the old value at RESULT on the tile that performed it, or nothing when RESULT is 0xFFFFFFFF; a STATUS other than 0 keeps
its record and halts the ring with reason 5. -/
def Obligations.ResponsesEndRequestsAndActs : Prop :=
  (∀ (p : Packet) (q : RingRef) (d : Die) (tag : BitVec 32) (r : Request) (s : State), s.dev.sound = true →
    nothingToSend s.dev → s.dev.gleaner.late = [] →
    let n := ringNum q
    let reqs := s.dev.net.reqs
    let failed := fun (c : Cause) (m : Dev) => leafSet c m = true ∧ haltedWith n 2 s.dev m
    let ofRing := r.waiter = .copy n ∧ r.die < 8 ∧ boundOf n s.dev = []
    (p.typ.toNat = ptCOMPLETION → reqs.find? (fun x => answers p x && x.p.typ.toNat ≠ ptREAD) = some r →
      (fxStatus p = 0 → (∀ a b c e, r.waiter ≠ .act a b c e) → (∀ a, r.waiter ≠ .fill a) →
        ∃ m, exec (.completion p) s = .next { s with dev := m } ∧ m.net.reqs = reqs.erase r ∧ m.regs = s.dev.regs ∧
          m.mem = s.dev.mem) ∧
      (fxStatus p ≠ 0 → ofRing →
        ∃ m, exec (.completion p) s = .next { s with dev := m } ∧ failed (cDIE_FABRIC_ACCESS r.die) m)) ∧
    (p.typ.toNat = ptREAD_DATA → reqs.any (fun x => answers p x && fxRow x.p) = false →
      reqs.find? (fun x => answers p x && x.p.typ.toNat = ptREAD && !fxRow x.p) = some r →
      (fxStatus p = 0 → (∃ k i, r.waiter = .table k i 2) ∨ (∃ die a k, r.waiter = .page die a k ∧ s.dev.tiers.evicting = []) →
        ∃ m, exec (.readData p) s = .next { s with dev := m } ∧ m.net.reqs = reqs.erase r ∧ m.regs = s.dev.regs ∧
          m.mem = s.dev.mem ∧
          (∀ k i, r.waiter = .table k i 2 → tablePart k i 2 m = fxData p) ∧
          (∀ die a k, r.waiter = .page die a k → ⟨die, a, k, fxData p, 0⟩ ∈ m.tiers.peerGot) ∧ (bitAt (field r.pre 10 1) 0 = false → m.net.cache = s.dev.net.cache) ∧
          (bitAt (field r.pre 10 1) 0 = true → isSet aFABRIC_CACHE_CTRL fFABRIC_CACHE_CTRL_ENABLE s.dev = true →
            cacheable (destCoordOf r.p) (field r.pre 0 8) 64 s.dev = true → s.dev.net.noFill.contains (argTag p.arg) = false →
            field r.pre 0 8 % 64 = 0 → fxLen p = 64 → (fxData p).length = 64 → (dieLines r.die s.dev).length < 32768 →
            m.net.cache = Sparse.upd [] s.dev.net.cache
              (cacheKey r.die r.p.job.toNat (globalOf (destCoordOf r.p) (field r.pre 0 8))) (fxData p))) ∧
      (fxStatus p ≠ 0 → ofRing →
        ∃ m, exec (.readData p) s = .next { s with dev := m } ∧ failed (cDIE_FABRIC_ACCESS r.die) m)) ∧
    (reqs.find? (fun x => x.die = d.val && argTag x.p.arg = tag.toNat) = none →
      exec (.fabricTimeout d tag) s = .next s) ∧
    (reqs.find? (fun x => x.die = d.val && argTag x.p.arg = tag.toNat) = some r →
      (r.resends < rdF aFABRIC_CTRL fFABRIC_CTRL_RETRIES s.dev →
        ∃ m, exec (.fabricTimeout d tag) s = .next { s with dev := m } ∧ m.out = s.dev.out ++ [.packet d.val none r.p] ∧
          { r with resends := r.resends + 1 } ∈ m.net.reqs ∧ regsSameBut [aFABRIC_STATS] s.dev m ∧ memSame s.dev m) ∧
      (rdF aFABRIC_CTRL fFABRIC_CTRL_RETRIES s.dev ≤ r.resends → ofRing →
        ∃ m, exec (.fabricTimeout d tag) s = .next { s with dev := m } ∧ failed (cDIE_FABRIC_TIMEOUT d.val) m)) ∧
    (∃ m, exec .cacheInvalidate s = .next { s with dev := m } ∧ m.net.cache = [] ∧ m.net.reqs = reqs ∧ m.regs = s.dev.regs ∧
      m.mem = s.dev.mem ∧ ∀ x ∈ reqs, x.p.typ.toNat = ptREAD → argTag x.p.arg ∈ m.net.noFill)) ∧
  (∀ (q : RingRef) (status : BitVec 8) (old : BitVec 64) (r : Request) (tile result size : Nat) (before after : List Request)
    (s : State), s.dev.sound = true →
    let n := ringNum q
    s.dev.net.reqs = before ++ r :: after → (∀ x ∈ before, ∀ t u v, x.waiter ≠ .act n t u v) → r.waiter = .act n tile result size →
    (status = 0 → result = 0xFFFFFFFF →
      exec (.atomicCompletion q status old) s = .next { s with dev := dropReq r s.dev }) ∧
    (status = 0 → tile < 144 → result + 8 ≤ 0x140_0000 → canWrite (.tile tile 9) (tl tile result) 8 s.dev = true →
      (writeVia (.tile tile 9) (tl tile result) (toLe 8 (old.toNat % 2 ^ (8 * size))) (dropReq r s.dev)).st = .ok →
      ∃ m, exec (.atomicCompletion q status old) s = .next { s with dev := m } ∧
        ldBytes (tileAddr tile result) 8 m = toLe 8 (old.toNat % 2 ^ (8 * size)) ∧
        memSameBut (tileAddr tile result) 8 s.dev m ∧ m.regs = s.dev.regs ∧ m.net.reqs = s.dev.net.reqs.erase r) ∧
    (status ≠ 0 → r.die < 8 → boundOf n s.dev = [] →
      ∃ m, exec (.atomicCompletion q status old) s = .next { s with dev := m } ∧ haltedWith n 5 s.dev m ∧
        leafSet (cDIE_FABRIC_ACCESS r.die) m = true ∧ { r with resends := 0 } ∈ m.net.failed))

/-! ### Drones and the host Coulter (chapters 08, 13) -/

/-- A Drone answered a packet: a marker of a kind to its source under its ARG (R382, R384). -/
def markerSent (kind : Nat) (p : Packet) (m m' : Dev) : Prop :=
  ∃ n, m'.out = m.out ++ [.packet (destDieOf p) none n] ∧ n.typ.toNat = ptMARKER ∧ n.dest = p.src ∧ n.job = p.job ∧
    n.arg = p.arg ∧ preKind n = kind

/-- R385, R388, R390: a lane binds when its context is free: the collective takes the group's attempt and its fingerprint, the
lane is bound, the ring's group can no longer be pre-empted, and the lane begins; with the Drones off, parked or held nothing binds.
R366: a lane that would send a protected payload in a plain job aborts its collective instead. A
collective whose lanes are all done is released and counted. R391, R392, R394, R395: an ABORT of the group's attempt ends the
bound collective that it names, moves the group to its next attempt and halts the ring with reason 9; one that finds none bound
leaves a tombstone, the oldest of 64 dropped; one of an attempt already past changes nothing. A watchdog ends its ring's
collective on the named context, bound or waiting to bind, or its SIGNAL, the same way. -/
def Obligations.CollectivesBindCompleteAndAbort : Prop :=
  (∀ (q : RingRef) (lane : Fin 128) (c : Coll) (l : LaneSt) (g : Grp) (s : State), s.dev.sound = true →
    let n := ringNum q
    let colls := s.dev.drone.colls
    let waits := colls.find? (fun x => x.ring = n && ctxFree x s.dev && x.lanes.any (fun y => y.lane = lane.val && !y.bound))
    let ends := colls.find? (fun x => x.ring = n && x.lanes.all (fun y => y.bound && y.done))
    let on := isSet aDRONE_CTRL fDRONE_CTRL_ENABLE s.dev
    let c1 := putLane { c with attempt := attemptOf c.group s.dev, fp := fingerprint c.desc c.group c.seq } { l with bound := true }
    (waits = none → exec (.collectiveBind q lane) s = .next s) ∧
    let stands := on && !isParked .drone s.dev && !droneHeld s.dev
    (waits = some c → stands = false → exec (.collectiveBind q lane) s = .next s) ∧
    (waits = some c → stands = true → colls = [c] → c.group < 256 → ringHalted n s.dev = false → isBound c = false →
      laneOf c lane.val = some l → groupOf c.group s.dev = some g → g.members ≠ 1 →
      sendStop c.job c.prot s.dev = some .plainProtected →
      ∃ m, exec (.collectiveBind q lane) s = .next { s with dev := m } ∧ leafSet cWINDROW_JOB_PLAIN_PROTECTED m = true ∧
        m.drone.colls = [] ∧ attemptOf c.group m = (attemptOf c.group s.dev + 1) % 16 ∧ haltedWith n 9 s.dev m) ∧
    (waits = some c → stands = true → laneOf c lane.val = some l → groupOf c.group s.dev = some g → boundAt c.ctx s.dev = none →
      sendStop c.job c.prot s.dev = none → s.dev.drone.held = [] →
      s.dev.drone.tombs.contains (c.job, c.group, attemptOf c.group s.dev) = false →
      ∃ m1, exec (.collectiveBind q lane) s =
          .next { s with dev := advanceLane c1 lane.val m1 } ∧
        m1.drone.colls = colls.map (fun x => if sameColl x c1 then c1 else x) ∧ (dynOf n m1).bound = true ∧
        m1.regs = s.dev.regs ∧ m1.mem = s.dev.mem ∧ m1.out = s.dev.out) ∧
    (ends = none → exec (.collectiveComplete q) s = .next s) ∧
    (ends = some c →
      ∃ m, exec (.collectiveComplete q) s = .next { s with dev := m } ∧
        m.drone.colls = colls.filter (fun x => !sameColl x c) ∧
        rdF aDRONE_STATS fDRONE_STATS_COMPLETED m = min (2 ^ 32 - 1) (rdF aDRONE_STATS fDRONE_STATS_COMPLETED s.dev + 1) ∧
        regsSameBut [aDRONE_STATS] s.dev m ∧ m.mem = s.dev.mem ∧ m.out = s.dev.out)) ∧
  (∀ (p : Packet) (q : RingRef) (c : Coll) (x : SignalSt) (s : State), s.dev.sound = true →
    let n := ringNum q
    let on := isSet aDRONE_CTRL fDRONE_CTRL_ENABLE s.dev
    let key : AbortKey := ⟨p.job.toNat, argGroup p.arg, argAttempt p.arg⟩
    let past := isBehind (attemptOf key.group s.dev) key.attempt
    let d := s.dev.drone
    let only := d.colls = [c] ∧ isBound c = true ∧ c.ring = n ∧ c.group < 256 ∧ ringHalted n s.dev = false
    let ended := fun m : Dev => m.drone.colls = [] ∧ attemptOf c.group m = (c.attempt + 1) % 16 ∧ haltedWith n 9 s.dev m
    (p.typ.toNat = ptABORT → on = false ∨ past = true → exec (.abort p) s = .next { s with dev := takePacket p s.dev }) ∧
    (p.typ.toNat = ptABORT → on = true → past = false → only → keyOf c = key →
      ∃ m, exec (.abort p) s = .next { s with dev := m } ∧ ended m ∧ leafSet cDRONE_COLL_ABORTED m = true) ∧
    (p.typ.toNat = ptABORT → on = true → past = false → (∀ y ∈ d.colls, isBound y = true → keyOf y ≠ key) →
      ∃ m, exec (.abort p) s = .next { s with dev := m } ∧ leafSet cDRONE_COLL_ABORTED m = true ∧ memSame s.dev m ∧
        m.drone.tombs = (if 64 ≤ d.tombs.length then d.tombs.drop 1 else d.tombs) ++ [(key.job, key.group, key.attempt)] ∧
        m.drone.colls = d.colls ∧ m.out = s.dev.out) ∧
    (only → c.ctx < 32 →
      ∃ m, exec (.droneWatchdog ⟨q, some (Fin.ofNat 32 c.ctx)⟩) s = .next { s with dev := m } ∧ ended m ∧ leafSet cDRONE_COLL_WATCHDOG m = true) ∧
    (d.colls = [c] → isBound c = false → c.ring = n → c.ctx < 32 → c.group < 256 →
      ∃ m, exec (.droneWatchdog ⟨q, some (Fin.ofNat 32 c.ctx)⟩) s = .next { s with dev := m } ∧ haltedWith n 9 s.dev m ∧
        leafSet cDRONE_COLL_WATCHDOG m = true) ∧
    (∀ k : Fin 32, d.colls.find? (fun y => y.ring = n && y.ctx = k.val) = none → exec (.droneWatchdog ⟨q, some k⟩) s = .next s) ∧
    (d.signals.find? (fun y => y.ring = n) = some x → boundOf n s.dev = [] →
      ∃ m, exec (.droneWatchdog ⟨q, none⟩) s = .next { s with dev := m } ∧ haltedWith n 9 s.dev m ∧
        leafSet cDRONE_SIGNAL_UNDELIVERED m = true ∧ ∀ y ∈ m.drone.signals, y.ring ≠ n) ∧
    (d.signals.find? (fun y => y.ring = n) = none → exec (.droneWatchdog ⟨q, none⟩) s = .next s))

/-- R164, R384, R385, R390, R391: while the Drones are held a chunk waits; a chunk of an attempt already past gives its credit back and is dropped; one that no collective has
bound waits; one whose fingerprint differs aborts the collective under DRONE/COLL_MISMATCH, one whose residue fails under
DRONE/RESIDUE_ERROR; one that its bound lane's phase expects is taken, its credit returned, and the lane goes on. -/
def Obligations.ChunksAreHeldTakenOrAbort : Prop :=
  ∀ (p : Packet) (q : RingRef) (ok : Bool) (c : Coll) (g : Grp) (l : LaneSt) (j : Nat) (s : State), s.dev.sound = true →
    p.typ.toNat = ptCHUNK → sendStop p.job.toNat false s.dev = none →
    let d := s.dev.drone
    let cur := attemptOf (argGroup p.arg) s.dev
    let on := isSet aDRONE_CTRL fDRONE_CTRL_ENABLE s.dev
    let l1 := { l with got := l.got ++ [(j, preOff p, chunkVals c.desc.ctype p)] }
    let meets := on = true ∧ argAttempt p.arg = cur ∧ boundAt (argCtx p.arg) s.dev = some c ∧ hasName c p = true ∧
      groupOf c.group s.dev = some g ∧ laneOf c (argLane p.arg) = some l ∧ l.bound = true ∧ l.tile < 144 ∧
      grpIndex g (srcCoordOf p) = some j
    let only := d.colls = [c] ∧ c.ring = ringNum q ∧ c.group < 256
    (droneHeld s.dev = true → exec (.chunk p ok) s = .next s) ∧
    (droneHeld s.dev = false →
    (on = false → exec (.chunk p ok) s = .next { s with dev := takePacket p s.dev }) ∧
    (on = true → isBehind cur (argAttempt p.arg) = true →
      ∃ m, exec (.chunk p ok) s = .next { s with dev := m } ∧ markerSent 2 p s.dev m ∧ m.drone = d ∧ m.regs = s.dev.regs ∧
        m.mem = s.dev.mem) ∧
    (on = true → isBehind cur (argAttempt p.arg) = false → argAttempt p.arg ≠ cur ∨ boundAt (argCtx p.arg) s.dev = none →
      exec (.chunk p ok) s = .next { s with dev := holdPacket p (takePacket p s.dev) }) ∧
    (meets → only → preFp p ≠ c.fp →
      ∃ m, exec (.chunk p ok) s = .next { s with dev := m } ∧ leafSet cDRONE_COLL_MISMATCH m = true) ∧
    (meets → only → preFp p = c.fp → isPoison p = false → c.desc.op < 5 → chunkAgrees c g l j p = true → ok = false →
      phaseAdds c.desc.op (argPhase p.arg) = true →
      ∃ m, exec (.chunk p ok) s = .next { s with dev := m } ∧ leafSet cDRONE_RESIDUE_ERROR m = true) ∧
    let k := ((opPhases c.desc.op).getD (argPhase p.arg) (.rs, 0)).2
    (meets → preFp p = c.fp → isPoison p = false → c.desc.op < 5 → chunkAgrees c g l j p = true →
      ok = true ∨ phaseAdds c.desc.op (argPhase p.arg) = false →
      (writeVia (agentDrone (dieOf l.tile)) (tl l.tile (slotAddr c.ctx k (grpPos g j k) (takePacket p s.dev))) p.payload
        (takePacket p s.dev)).st = .ok →
      argPhase p.arg = l.step → l.begun = true →
      ∃ m1, exec (.chunk p ok) s = .next { s with dev := advanceLane c l.lane m1 } ∧ markerSent 2 p s.dev m1 ∧
        m1.drone.colls = d.colls.map (fun x => if sameColl x c then putLane c l1 else x)))

/-- R248, R251 to R253, R382: the rows of a dispatch gather at the host until one is whole; a whole row is stored at its place in the
bay, its counter advances by one and its sender has its ACK; the source's end marker is noted. -/
def Obligations.DispatchedRowsLandInTheBay : Prop :=
  ∀ (p : Packet) (c : Coll) (g : Grp) (l : LaneSt) (j d : Nat) (s : State), s.dev.sound = true →
    sendStop p.job.toNat false s.dev = none →
    let t := takePacket p s.dev
    let rx := rxOf c s.dev
    let got := Sparse.get [] rx.parts j ++ p.payload.drop 16
    let rr := got.take 16
    let w := writeVia (agentCoulter d) (bayRowAddr d rx.records.length c.desc.n s.dev) ((got.take (16 + c.desc.n)).drop 16) t
    let l1 := { l with counted := l.counted + 1, froms := Sparse.upd 0 l.froms j (Sparse.get 0 l.froms j + 1) }
    let marked := { l with marks := Sparse.upd 0 l.marks j (preElems p + 1) }
    let meets := droneHeld s.dev = false ∧ isSet aDRONE_CTRL fDRONE_CTRL_ENABLE s.dev = true ∧
      argAttempt p.arg = attemptOf (argGroup p.arg) s.dev ∧ boundAt (argCtx p.arg) s.dev = some c ∧ hasName c p = true ∧
      groupOf c.group s.dev = some g ∧ laneOf c (argLane p.arg) = some l ∧ l.bound = true ∧ c.desc.op = 6 ∧
      grpIndex g (srcCoordOf p) = some j ∧ preFp p = c.fp ∧ isPoison p = false
    (p.typ.toNat = ptDISPATCH → meets → got.length < 16 + c.desc.n → 16 < p.payload.length →
      ∃ m1, exec (.dispatch p) s = .next { s with dev := advanceLane c l.lane m1 } ∧
        Sparse.get [] (rxOf c m1).parts j = got ∧ (rxOf c m1).records = rx.records ∧ m1.regs = s.dev.regs ∧
        m1.mem = s.dev.mem ∧ m1.out = s.dev.out) ∧
    (p.typ.toNat = ptDISPATCH → meets → 16 + c.desc.n ≤ got.length → hostDie s.dev = some d →
      peekN 4 (hostHalf d (rrGen rr) s.dev) s.dev = rrGen rr →
      bitAt (hostEntry d (rrGen rr) (rrLayer rr) (rrExpert rr) s.dev) 15 = true →
      rx.records.length < 1024 * hostWindows d s.dev → w.st = .ok → allArrived g l1 = false →
      ∃ m1, exec (.dispatch p) s = .next { s with dev := advanceLane c l.lane m1 } ∧ (rxOf c m1).records = rx.records ++ [rr] ∧
        memSame w.m m1 ∧ markerSent 3 p w.m m1 ∧
        arrival (refDie c.desc.counter) (refCounter c.desc.counter) m1 =
          (arrival (refDie c.desc.counter) (refCounter c.desc.counter) s.dev + 1) % 2 ^ 32) ∧
    (p.typ.toNat = ptMARKER → preKind p = 1 → meets → allArrived g marked = false →
      ∃ m1, exec (.routeEndMarker p) s = .next { s with dev := advanceLane c l.lane m1 } ∧
        m1.drone.colls = s.dev.drone.colls.map (fun x => if sameColl x c then putLane c marked else x) ∧ m1.regs = s.dev.regs ∧
        m1.mem = s.dev.mem ∧ m1.out = s.dev.out) ∧
    (p.typ.toNat ≠ ptMARKER ∨ preKind p ≠ 1 ∨ droneHeld s.dev = true → exec (.routeEndMarker p) s = .next s) ∧
    (p.typ.toNat ≠ ptDISPATCH ∨ droneHeld s.dev = true → exec (.dispatch p) s = .next s)

/-- R384, R395: a credit, and an ACK of a direct exchange, frees the first entry spent on its member under its ARG; a SACK takes its
member off the SIGNAL that waits for it, which waits no more when none is left. A SIGNAL's data and its increment are one act,
answered with a SACK, and a target that does not take the write changes nothing and NACKs with reason 6; while the Drones are held,
or the write is, both wait. -/
def Obligations.AnswersAndSignalsAreTaken : Prop :=
  ∀ (p : Packet) (x : SignalSt) (s : State), s.dev.sound = true → isSet aDRONE_CTRL fDRONE_CTRL_ENABLE s.dev = true →
    let d := s.dev.drone
    let dest := sigDest p.arg
    let data := p.payload.drop 8
    let ref := field p.payload 0 2
    let ag := agentDrone (signalDie p)
    let w := writeVia ag dest data (takePacket p s.dev)
    (droneHeld s.dev = true → exec (.marker p) s = .next s ∧ exec (.signalReceive p) s = .next s) ∧
    (p.typ.toNat = ptSIGNAL → droneHeld s.dev = false → isParked .drone s.dev = false → w.st = .held →
      exec (.signalReceive p) s = .next { s with dev := heldBy p.job.toNat w.m s.dev }) ∧
    (droneHeld s.dev = false →
    (p.typ.toNat = ptMARKER → preKind p = 2 ∨ preKind p = 3 → boundAt (argCtx p.arg) s.dev = none →
      ∃ m, exec (.marker p) s = .next { s with dev := m } ∧
        m.drone.spent = eraseFirst (fun y => y.coord = srcCoordOf p && y.arg = p.arg &&
          (if preKind p = 3 then y.axis = 3 else y.axis ≠ 3)) d.spent ∧
        m.drone.colls = d.colls ∧ m.regs = s.dev.regs ∧ m.mem = s.dev.mem) ∧
    (p.typ.toNat = ptMARKER → preKind p = 5 → d.signals = [x] → sigMatch (srcCoordOf p) (destDieOf p) p.arg x = true →
      ∃ m, exec (.marker p) s = .next { s with dev := m } ∧ m.regs = s.dev.regs ∧ m.mem = s.dev.mem ∧
        (x.left = [(srcCoordOf p, sigTag p.arg)] → m.drone.signals = []) ∧
        (1 < x.left.length → m.drone.signals = [{ x with left := x.left.erase (srcCoordOf p, sigTag p.arg) }])) ∧
    (p.typ.toNat = ptSIGNAL → isPoison p = false → bitAt ref 15 = false →
      canWrite ag dest data.length s.dev = true → sendStop p.job.toNat false s.dev = none → isParked .drone s.dev = false →
      w.st ≠ .held → nothingToSend w.m →
      ∃ m, exec (.signalReceive p) s = .next { s with dev := m } ∧ memSame w.m m ∧ markerSent 5 p w.m m ∧
        arrival (refDie ref) (refCounter ref) m =
          (arrival (refDie ref) (refCounter ref) s.dev + field p.payload 2 2) % 2 ^ 32) ∧
    (p.typ.toNat = ptSIGNAL → canWrite ag dest data.length s.dev = false ∨ isPoison p = true ∨ bitAt ref 15 = true →
      isParked .drone s.dev = false → w.st ≠ .held → nothingToSend s.dev →
      ∃ m, exec (.signalReceive p) s = .next { s with dev := m } ∧ nackSent 6 (destDieOf p) p s.dev m ∧ memSame s.dev m ∧
        arrival (refDie ref) (refCounter ref) m = arrival (refDie ref) (refCounter ref) s.dev))


/-! ### The Gleaner (chapter 09) -/

/-- R272, R278, R282: a home answers a row request with the row's class and stored bytes, and one whose stamp is ahead of the last
apply waits; an update record is staged, one of the same key replaced, and acknowledged, or refused with a STATUS. One whose access is
held (status 99), or that finds an earlier request of its flow there (R407), stays with the home. -/
def Obligations.HomesServeRowsAndStageRecords : Prop :=
  ∀ (p : Packet) (s : State), s.dev.sound = true → fxRow p = true → sendStop p.job.toNat false s.dev = none →
    let t := takePacket p s.dev
    let a := serveRow true (destDieOf p) (fxTable p) (fxLocalRow p) t
    let x := stageRecord (destDieOf p) (recordOf p) t
    (flowWaits p s.dev = true → exec (.rowRequest p) s = .next s ∧ exec (.updateRecord p) s = .next s) ∧
    (p.typ.toNat = ptREAD → flowWaits p s.dev = false →
      (prefixBad p = true →
        ∃ m, exec (.rowRequest p) s = .next { s with dev := m } ∧ answered p ptREAD_DATA 1 [] s.dev m ∧ memSame s.dev m) ∧
      (prefixBad p = false → stampWaits (fxExtra p) s.dev = true → exec (.rowRequest p) s = .next s) ∧
      (prefixBad p = false → stampWaits (fxExtra p) s.dev = false → a.status = 99 →
        exec (.rowRequest p) s = .next { s with dev := heldBy p.job.toNat a.m s.dev }) ∧
      (prefixBad p = false → stampWaits (fxExtra p) s.dev = false → a.status ≠ 99 →
        ∃ m, exec (.rowRequest p) s = .next { s with dev := m } ∧ memSame a.m m ∧ m.net.inbox = s.dev.net.inbox.erase p ∧
          (a.status = 0 → answered p ptREAD_DATA 0 (BitVec.ofNat 8 a.cls :: a.data) a.m m) ∧
          (a.status ≠ 0 → answered p ptREAD_DATA a.status [] a.m m) ∧ (homeDieOf s.dev = none → a.status = 4))) ∧
    (p.typ.toNat = ptWRITE → flowWaits p s.dev = false →
      (recordBad p = true →
        ∃ m, exec (.updateRecord p) s = .next { s with dev := m } ∧ answered p ptCOMPLETION 1 [] s.dev m ∧
          m.gleaner = s.dev.gleaner ∧ memSame s.dev m) ∧
      (recordBad p = false → isPoison p = true →
        ∃ m, exec (.updateRecord p) s = .next { s with dev := m } ∧ answered p ptCOMPLETION 2 [] s.dev m ∧
          m.gleaner = s.dev.gleaner ∧ memSame s.dev m) ∧
      (recordBad p = false → isPoison p = false → x.1 = 99 →
        exec (.updateRecord p) s = .next { s with dev := heldBy p.job.toNat x.2 s.dev }) ∧
      (recordBad p = false → isPoison p = false → x.1 ≠ 99 →
        ∃ m, exec (.updateRecord p) s = .next { s with dev := m } ∧ answered p ptCOMPLETION x.1 [] x.2 m ∧ memSame x.2 m ∧
          (x.1 = 0 → m.gleaner.staged = s.dev.gleaner.staged.filter (fun r => !sameKey r (recordOf p)) ++ [recordOf p]) ∧
          (x.1 ≠ 0 → m.gleaner = s.dev.gleaner)))

/-- R278 to R280: a row that arrives is kept for its GATHER, and the last one writes the output; a home that was not there halts
the ring with reason 5, any other failure with reason 2. R281, R283, R285: GLEANER_APPLY acts on the home die only and uses up
the records of stamp 0, but for those whose rows are held, which it applies later; a sweep acts where there is a home with refresh
enabled, waits while the previous list is being applied or throughput work is held (R426), and else lists local rows of its table with the class that each is to take. -/
def Obligations.GathersFinishAndHomesApply : Prop :=
  (∀ (p : Packet) (q : RingRef) (r : Request) (k : Nat) (g : GatherSt) (before after : List Request) (s : State),
    s.dev.sound = true → boundOf (ringNum q) s.dev = [] → nothingToSend s.dev →
    let n := ringNum q
    let g1 := { g with rows := Sparse.upd (0, []) g.rows k (field (fxData p) 0 1 + 1, (fxData p).drop 1) }
    let base := dropReq r (takePacket p s.dev)
    let f := finishGather g1 { base with gathers := [] }
    s.dev.net.reqs = before ++ r :: after → (∀ x ∈ before, answers p x = false) → answers p r = true →
    r.waiter = .row n g.id k →
    r.die < 8 →
    (fxStatus p = 0 → s.dev.gathers = [g] → g.ring = n →
      (gatherFull g1 = false →
        exec (.rowResponse p) s = .next { s with dev := { base with gathers := [g1] } }) ∧
      (gatherFull g1 = true → f.st = .ok → nothingToSend f.m → exec (.rowResponse p) s = .next { s with dev := f.m }) ∧
      (gatherFull g1 = true → f.st = .held →
        exec (.rowResponse p) s = .next { s with dev := pumpAll (heldBy (ringJob n s.dev) f.m s.dev) })) ∧
    (fxStatus p ≠ 0 →
      ∃ m, exec (.rowResponse p) s = .next { s with dev := m } ∧ leafSet (cDIE_FABRIC_ACCESS r.die) m = true ∧
        haltedWith n (if fxStatus p = 4 then 5 else 2) s.dev m ∧ m.gathers = s.dev.gathers.filter (fun y => y.ring ≠ n))) ∧
  (∀ (d : Die) (id : Fin 256) (s : State), s.dev.sound = true →
    (homeDieOf s.dev ≠ some d.val → exec (.gleanerApply d) s = .next s) ∧
    (homeDieOf s.dev = some d.val → s.dev.gleaner.late = [] →
      ∃ m, exec (.gleanerApply d) s = .next { s with dev := m } ∧ m.gleaner.applied = s.dev.gleaner.applied ∧
        m.gleaner.staged.filter (fun r => decide (r.stamp ≠ 0)) = s.dev.gleaner.staged.filter (fun r => decide (r.stamp ≠ 0)) ∧
        (0 ∈ m.gleaner.late ∨ ∀ r ∈ m.gleaner.staged, r.stamp ≠ 0)) ∧
    (homeDieOf s.dev = none → exec (.gleanerSweep id) s = .next s) ∧
    (homeDieOf s.dev = some d.val →
      (isSet (aGLEANER_REFRESH d.val) fGLEANER_REFRESH_ENABLE s.dev = false → exec (.gleanerSweep id) s = .next s) ∧
      (isSet (aGLEANER_REFRESH d.val) fGLEANER_REFRESH_ENABLE s.dev = true →
        movesOf id.val s.dev ≠ [] ∨ throughputHeld s.dev = true →
        ∃ m, exec (.gleanerSweep id) s = .next { s with dev := m } ∧ id.val ∈ m.gleaner.due ∧
          m.gleaner.moves = s.dev.gleaner.moves ∧ m.regs = s.dev.regs ∧ memSame s.dev m) ∧
      (∀ desc t, isSet (aGLEANER_REFRESH d.val) fGLEANER_REFRESH_ENABLE s.dev = true → movesOf id.val s.dev = [] →
        throughputHeld s.dev = false →
        (homeTable id.val (Run.start s.dev)).2 = some (d.val, desc, t) → (homeTable id.val (Run.start s.dev)).1.st = .ok →
        ∃ m l, exec (.gleanerSweep id) s = .next { s with dev := m } ∧
          m.gleaner.moves = Sparse.upd [] s.dev.gleaner.moves id.val l ∧ m.gleaner.staged = s.dev.gleaner.staged ∧
          (∀ x ∈ l, x.row < localRows t (selfCoord s.dev) ∧ x.cls ≤ 2) ∧ (l.map (fun x => x.row)).Pairwise (· < ·))))

/-! ### Pages, NVMe commands and bulk jobs (chapter 10) -/

/-- A page has been filled from its home (R311): its entry names the frame that was popped for it, it is neither BUSY nor DIRTY, the
frame holds the home's bytes, and a home that could not be read leaves it POISONED. -/
def pageFilled (page : Nat) (ok : Bool) (f : Nat × Nat) (m m' : Dev) : Prop :=
  let w := descFrame (f.2 / 2 ^ 28) (f.2 % 2 ^ 28) m
  let e := mapOf 1 page m'
  mWHERE.get e = mWHERE.get w ∧ mFRAME.get e = mFRAME.get w ∧ mBUSY.get e = 0 ∧ mDIRTY.get e = 0 ∧
    mPOISON.get e = (if ok then mPOISON.get (mapOf 1 page m) else 1) ∧ (∀ x ∈ m'.tiers.filling, x.1 ≠ page) ∧
    (∀ dst, ok = true → pageKey 1 page e = some dst →
      entryAddr 1 page m + 8 ≤ dst ∨ dst + 65536 ≤ entryAddr 1 page m →
      ldBytes dst 65536 m' = ldBytes (granaryBase + 65536 * page) 65536 m)

/-- R311, R313: a fault on a Granary page at its home pops a frame, sets BUSY, counts and has the home read by the NVMe controller that
holds it; one that finds no frame and nothing to evict waits; one without a pool is refused; the end of the read flips the entry to
the frame, or has the bytes sent to the peer that lends it; a fault that finds no frame in time ends under MOVER/NO_FRAME and halts
the rings that wait for it with reason 2, as does a migration. R307, R313: an NVMe command that succeeds ends the fill or the
write-back that waits for it, a write-back to a volatile cache after a Flush; an error is retried once, and a second error, or a
timeout, which aborts it, fails the command under its cause: the page of a failed read is POISONED, the page of a failed write-back
stays in its frame, and the ring of a failed migration halts with reason 2. -/
def Obligations.PagesFillAndNvmeCommandsEnd : Prop :=
  (∀ (d : Die) (q : RingRef) (page k i : Nat) (ok : Bool) (f w : Nat × Nat) (v : WaitMove) (m2 : Dev) (s : State),
    s.dev.sound = true → nothingToSend s.dev → s.dev.gleaner.late = [] →
    let n := ringNum q
    let e := mapOf 1 page s.dev
    let tiers := s.dev.tiers
    let ready := mapOn 1 s.dev = true ∧ page < rangePages 1 s.dev ∧ mVALID.get e = 1 ∧ mWHERE.get e = 0
    let fresh := (∀ x ∈ tiers.filling, x.1 ≠ page) ∧ (∀ x ∈ tiers.waitFrame, x.1 ≠ page) ∧ mBUSY.get e = 0 ∧ mMOVING.get e = 0 ∧
      tiers.fallowLost = false
    let begun := beginFault d.val page s.dev
    let st := entryAt e (descFrame (f.2 / 2 ^ 28) (f.2 % 2 ^ 28) s.dev)
    let quiet := tiers.waitFrame = [] ∧ tiers.waitMove = []
    (¬ready → exec (.pageFault d page) s = .next s) ∧
    (ready → faultPool e s.dev = none →
      ∃ m, exec (.pageFault d page) s = .next { s with dev := m } ∧ leafSet (cDIE_FABRIC_UNMAPPED d.val) m = true ∧
        regsSameBut [(cDIE_FABRIC_UNMAPPED d.val).reg] s.dev m ∧ m.mem = s.dev.mem ∧ m.out = s.dev.out) ∧
    (ready → fresh → faultPool e s.dev = some k → popFrame k 1 page begun = some (i, m2) →
      nvmeRoom (controllerOf page s.dev) s.dev = true →
      ∃ m, exec (.pageFault d page) s = .next { s with dev := m } ∧
        m.out = s.dev.out ++ [nvmeOut ⟨tiers.nvmeNext, false, false, page, false, .fill, d.val, true⟩ s.dev] ∧
        m.tiers.nvme = tiers.nvme ++ [⟨tiers.nvmeNext, false, false, page, false, .fill, d.val, true⟩] ∧
        m.tiers.filling = tiers.filling ++ [(page, k * 2 ^ 28 + i)] ∧ memSame m2 m ∧
        rdF aTIER_STATS fTIER_STATS_FAULTS m =
          min (2 ^ fTIER_STATS_FAULTS.w - 1) (rdF aTIER_STATS fTIER_STATS_FAULTS s.dev + 1) ∧
        regsSameBut [aTIER_STATS] s.dev m) ∧
    (ready → fresh → faultPool e s.dev = some k → popFrame k 1 page begun = none → evictStart k begun = none →
      ∃ m, exec (.pageFault d page) s = .next { s with dev := m } ∧ m.tiers.waitFrame = tiers.waitFrame ++ [(page, d.val)] ∧
        mBUSY.get (mapOf 1 page m) = 1 ∧ memSameBut (entryAddr 1 page s.dev) 8 s.dev m ∧ m.out = s.dev.out ∧
        regsSameBut [aTIER_STATS] s.dev m) ∧
    (tiers.filling.find? (fun x => x.1 = page) = none → exec (.pageFaultFill page ok) s = .next s) ∧
    (tiers.filling.find? (fun x => x.1 = page) = some f → waiterBusy (.fill page) s.dev = false →
      (quiet → ok = false ∨ (pageKey 1 page st).isSome = true →
        ∃ m, exec (.pageFaultFill page ok) s = .next { s with dev := m } ∧ pageFilled page ok f s.dev m ∧
          m.regs = s.dev.regs) ∧
      (ok = true → pageKey 1 page st = none →
        putFrame (fillDie page s.dev) 0 0 (.fill page) 1 page st (ldBytes (homeOf 1 page) 65536 s.dev)
          { s.dev with tiers := { tiers with nvme := tiers.nvme.filter (fun c => !(c.page = page && c.use = .fill)) } } = some m2 →
        m2.gleaner.late = [] → exec (.pageFaultFill page true) s = .next { s with dev := pumpAll m2 })) ∧
    (tiers.waitFrame.find? (fun x => x.1 = page) = none →
      (tiers.waitMove.find? (fun x => x.page = page) = none → exec (.noFrameTimeout page) s = .next s) ∧
      (tiers.waitMove.find? (fun x => x.page = page) = some v → v.die < 8 → v.q = n → boundOf n s.dev = [] →
        ∃ m, exec (.noFrameTimeout page) s = .next { s with dev := m } ∧ leafSet (cDIE_MOVER_NO_FRAME v.die) m = true ∧
          haltedWith n 2 s.dev m)) ∧
    (tiers.waitFrame.find? (fun x => x.1 = page) = some w → w.2 < 8 → s.dev.net.inbox = [] →
      ((∀ x ∈ tiers.pageWaits, x.2 ≠ page) →
        ∃ m, exec (.noFrameTimeout page) s = .next { s with dev := m } ∧ leafSet (cDIE_MOVER_NO_FRAME w.2) m = true ∧
          mBUSY.get (mapOf 1 page m) = 0 ∧ (∀ x ∈ m.tiers.waitFrame, x.1 ≠ page) ∧
          memSameBut (entryAddr 1 page s.dev) 8 s.dev m) ∧
      (tiers.pageWaits = [(n, page)] → boundOf n s.dev = [] →
        ∃ m, exec (.noFrameTimeout page) s = .next { s with dev := m } ∧ leafSet (cDIE_MOVER_NO_FRAME w.2) m = true ∧
          haltedWith n 2 s.dev m))) ∧
  (∀ (id : Nat) (q : RingRef) (st : NvmeStatus) (c : NvmeCmd) (f : Nat × Nat) (w : Waiter) (m1 : Dev) (s : State),
    s.dev.sound = true → nothingToSend s.dev → s.dev.gleaner.late = [] →
    let n := ringNum q
    let tiers := s.dev.tiers
    let found := tiers.nvme.find? (fun x => x.id = id && x.sent)
    let quiet := tiers.waitFrame = [] ∧ tiers.waitMove = []
    let e := mapOf 1 c.page s.dev
    let filling := c.use = .fill ∧ c.write = false ∧ tiers.filling.find? (fun x => x.1 = c.page) = some f ∧
      waiterBusy (.fill c.page) s.dev = false ∧
      (pageKey 1 c.page (entryAt e (descFrame (f.2 / 2 ^ 28) (f.2 % 2 ^ 28) s.dev))).isSome = true
    let abort := Out.nvmeAdmin 0x08 (controllerOf c.page s.dev / 4) (controllerOf c.page s.dev % 4)
    (found = none → exec (.nvmeCompletion id st) s = .next s ∧ exec (.nvmeTimeout id) s = .next s) ∧
    (found = some c → filling → quiet →
      (∃ m, exec (.nvmeCompletion id .success) s = .next { s with dev := m } ∧ pageFilled c.page true f s.dev m ∧
        m.regs = s.dev.regs) ∧
      (c.retried = true → ∃ m, exec (.nvmeCompletion id .error) s = .next { s with dev := m } ∧
        pageFilled c.page false f s.dev m ∧ leafSet cTIER_NVME_CMD_ERROR m = true) ∧
      (∃ m, exec (.nvmeTimeout id) s = .next { s with dev := m } ∧ pageFilled c.page false f s.dev m ∧
        leafSet cTIER_NVME_TIMEOUT m = true ∧ abort ∈ m.out)) ∧
    (found = some c → c.retried = false →
      ∃ m, exec (.nvmeCompletion id .error) s = .next { s with dev := m } ∧ m.out = s.dev.out ++ [nvmeOut c s.dev] ∧
        { c with retried := true } ∈ m.tiers.nvme ∧ m.regs = s.dev.regs ∧ m.mem = s.dev.mem) ∧
    (found = some c → c.write = true → c.use = .evict → quiet →
      (c.flush = false → homeVwc c.page s.dev = true →
        ∃ m y, exec (.nvmeCompletion id .success) s = .next { s with dev := m } ∧ y ∈ m.tiers.nvme ∧ y.flush = true ∧
          y.page = c.page ∧ y.use = .evict ∧ m.regs = s.dev.regs ∧ m.mem = s.dev.mem) ∧
      (∀ k i, c.flush = true ∨ homeVwc c.page s.dev = false → findFrame e s.dev = some (k, i) →
        ∃ m, exec (.nvmeCompletion id .success) s = .next { s with dev := m } ∧
          rdF aTIER_STATS fTIER_STATS_EVICTIONS m =
            min (2 ^ fTIER_STATS_EVICTIONS.w - 1) (rdF aTIER_STATS fTIER_STATS_EVICTIONS s.dev + 1) ∧
          regsSameBut [aTIER_STATS] s.dev m) ∧
      (∃ m, exec (.nvmeTimeout id) s = .next { s with dev := m } ∧ leafSet cTIER_NVME_TIMEOUT m = true ∧ abort ∈ m.out ∧
        mMOVING.get (mapOf 1 c.page m) = 0 ∧ memSameBut (entryAddr 1 c.page s.dev) 8 s.dev m)) ∧
    (found = some c → c.use = .move w →
      (c.write = true → c.flush = true ∨ homeVwc c.page s.dev = false →
        ∃ m, exec (.nvmeCompletion id .success) s = .next { s with dev := m } ∧ m.regs = s.dev.regs ∧ m.mem = s.dev.mem ∧
          m.tiers.nvme.length + 1 = tiers.nvme.length) ∧
      (c.write = false →
        putFrame c.die (w.group.getD bulkRing) ((w.group.map (fun r => ringJob r s.dev)).getD 0) w 1 c.page
          (stagedOf 1 c.page s.dev) (ldBytes (homeOf 1 c.page) 65536 s.dev) (nvmeTakeOut c s.dev) = some m1 →
        nothingToSend m1 → m1.gleaner.late = [] → exec (.nvmeCompletion id .success) s = .next { s with dev := m1 }) ∧
      (w = .migrate n → boundOf n s.dev = [] → c.retried = true →
        ∃ m, exec (.nvmeCompletion id .error) s = .next { s with dev := m } ∧ leafSet cTIER_NVME_CMD_ERROR m = true ∧
          haltedWith n 2 s.dev m)))

/-- R318, R319, R314, R426: one job runs and four wait, a fifth is refused under TIER/JOB_QUEUE_FULL; an entry begins its work unless
throughput work is held or the Mover parked, waits for the answers that its work needs, and is done when they are in and its act has
flipped its run: it counts up ENTRY and adds one to the job's counter, the last one ends the job and the next begins; an entry that
fails ends it under TIER/JOB_FAULT; a stop ends it after the entry under way. -/
def Obligations.BulkJobsRunEntryByEntry : Prop :=
  ∀ (counter : BitVec 16) (list : BitVec 40) (o : EntryOutcome) (j : Job) (held : List (Nat × Nat) × List (Nat × Nat)) (s : State),
    s.dev.sound = true →
    let tiers := s.dev.tiers
    let i := rdF aTIER_JOB_STATUS fTIER_JOB_STATUS_ENTRY s.dev
    let h := readVia (agentMover bulkDie) (j.list * 64) 4 s.dev
    let b := readVia (agentMover bulkDie) (j.list * 64 + 16 + 32 * i) 32 h.m
    let w := bulkWork b.data b.m
    let u := fun (held : List (Nat × Nat) × List (Nat × Nat)) (m : Dev) => { m with tiers := { m.tiers with bulk := some held } }
    let readable := h.st = .ok ∧ b.st = .ok ∧ 1 ≤ leNat h.data ∧ leNat h.data ≤ 65536
    let state := rdF aTIER_JOB_STATUS fTIER_JOB_STATUS_STATE
    let ref := j.counter.toNat
    let failed := fun m : Dev => leafSet cTIER_JOB_FAULT m = true ∧ m.tiers.running = none ∧ state m = 2
    let advances := fun (x m : Dev) => memSame x m ∧
      rdF aTIER_JOB_STATUS fTIER_JOB_STATUS_ENTRY m = (i + 1) % 2 ^ 32 ∧
      arrival (refDie ref) (refCounter ref) m = (arrival (refDie ref) (refCounter ref) x + 1) % 2 ^ 32 ∧
      (leNat h.data ≤ i + 1 → m.tiers.running = none ∧ state m = 0) ∧
      (i + 1 < leNat h.data → tiers.stopAsked = true → m.tiers.running = none ∧ state m = 3) ∧
      (i + 1 < leNat h.data → tiers.stopAsked = false → m.tiers.running = some j)
    (tiers.running.isSome = true → 4 ≤ tiers.jobs.length →
      ∃ m, exec (.bulkJobSubmit counter list) s = .next { s with dev := m } ∧ leafSet cTIER_JOB_QUEUE_FULL m = true ∧
        m.tiers = tiers ∧ regsSameBut [cTIER_JOB_QUEUE_FULL.reg] s.dev m ∧ m.mem = s.dev.mem) ∧
    (tiers.running.isSome = true → tiers.jobs.length < 4 →
      ∃ m, exec (.bulkJobSubmit counter list) s = .next { s with dev := m } ∧ m.tiers.running = tiers.running ∧
        m.tiers.jobs = tiers.jobs ++ [⟨counter, list.toNat⟩] ∧
        rdF aTIER_JOB_STATUS fTIER_JOB_STATUS_QUEUED m = tiers.jobs.length + 1 ∧
        regsSameBut [aTIER_JOB_STATUS] s.dev m ∧ m.mem = s.dev.mem) ∧
    (tiers.running = none → tiers.jobs = [] →
      ∃ m, exec (.bulkJobSubmit counter list) s = .next { s with dev := m } ∧
        m.tiers.running = some ⟨counter, list.toNat⟩ ∧ m.tiers.jobs = [] ∧ state m = 1 ∧
        rdF aTIER_JOB_STATUS fTIER_JOB_STATUS_ENTRY m = 0 ∧ regsSameBut [aTIER_JOB_STATUS] s.dev m ∧ m.mem = s.dev.mem) ∧
    (tiers.running = none → exec .bulkJobStop s = .next s ∧ exec (.bulkEntryCommit o) s = .next s) ∧
    (tiers.running.isSome = true →
      ∃ m, exec .bulkJobStop s = .next { s with dev := m } ∧ m.tiers = { tiers with stopAsked := true } ∧ m.regs = s.dev.regs ∧
        m.mem = s.dev.mem) ∧
    (tiers.bulk = none → throughputHeld s.dev = true ∨ isParked .mover s.dev = true → exec (.bulkEntryCommit o) s = .next s) ∧
    (tiers.running = some j → tiers.jobs = [] →
      (tiers.bulk.isSome = true ∨ (throughputHeld s.dev = false ∧ isParked .mover s.dev = false) →
        (h.st = .held ∨ b.st = .held → exec (.bulkEntryCommit o) s = .next { s with dev := holdFor bulkRing 0 b.m s.dev }) ∧
        (h.st ≠ .held → b.st ≠ .held → o = .failed ∨ tiers.bulkFailed = true ∨ ¬readable →
          ∃ m, exec (.bulkEntryCommit o) s = .next { s with dev := m } ∧ failed m)) ∧
      (tiers.bulk = none → throughputHeld s.dev = false → isParked .mover s.dev = false → readable → tiers.bulkFailed = false →
        (w.reason = 99 → exec (.bulkEntryCommit .done) s = .next { s with dev := holdFor bulkRing 0 w.m b.m }) ∧
        (w.reason ≠ 99 → w.reason ≠ 0 → ∃ m, exec (.bulkEntryCommit .done) s = .next { s with dev := m } ∧ failed m) ∧
        (w.reason = 0 → nothingToSend w.m → w.m.tiers.peerGot = [] →
          (waiterBusy .bulk w.m = true →
            exec (.bulkEntryCommit .done) s = .next { s with dev := u (w.moving, w.popped) w.m }) ∧
          (waiterBusy .bulk w.m = false →
            let x := bulkAct b.data (u (w.moving, w.popped) w.m)
            (x.1 = false → ∃ m, exec (.bulkEntryCommit .done) s = .next { s with dev := m } ∧ failed m) ∧
            (x.1 = true → ∃ m, exec (.bulkEntryCommit .done) s = .next { s with dev := m } ∧ advances x.2 m ∧
              (field b.data 24 8 = 0 → m.tiers.kept = x.2.tiers.kept ++ w.moving))))) ∧
      (tiers.bulk = some held → readable → tiers.bulkFailed = false →
        (waiterBusy .bulk b.m = true → exec (.bulkEntryCommit .done) s = .next { s with dev := b.m }) ∧
        (waiterBusy .bulk b.m = false →
          let x := bulkAct b.data (u held b.m)
          (x.1 = false → ∃ m, exec (.bulkEntryCommit .done) s = .next { s with dev := m } ∧ failed m) ∧
          (x.1 = true → ∃ m, exec (.bulkEntryCommit .done) s = .next { s with dev := m } ∧ advances x.2 m))))

/-! ### Stile (chapter 14) -/

/-- A Stile ring has halted (R422): HALTED is set and STILE/RING/HALT raised. -/
def stileHalted (r : Nat) (m : Dev) : Prop := stHalted r m = true ∧ leafSet cSTILE_RING_HALT m = true

/-- R108, R419 to R422: a poll serves the rings in order once the endpoints that lost VALID are dropped; a ring whose HEAD
overran it halts, a refused entry halts it with FETCH on it, and one that starts is sent and FETCH passes it; an access that has to wait for a page or a peer (R311) leaves the ring where
it stands. A completed entry
writes its answer, adds one to its counter, and RERUN passes it when it is the oldest; one whose endpoint has lost VALID fails with
the others of it (R418). R417, R422: a queue pair's error ends its
entries, marks its endpoint and halts their rings under STILE/QP/ERROR; a CNP halves its rate and each recovery adds a sixteenth
of line rate up to line rate; ACTION 1 starts a halted ring again from RERUN and ACTION 2 from HEAD, and neither touches a ring
that runs. -/
def Obligations.StileServesItsRings : Prop :=
  (∀ (r : Fin 8) (count : BitVec 32) (data : List Byte) (x : StileEntry) (s : State), s.dev.sound = true →
    let c := stFetch r.val s.dev
    let head := readVia .headland (stHeadAddr r.val s.dev) 8 s.dev
    let q := readVia .headland (stEntryAddr r.val c s.dev) 64 head.m
    let e := q.data
    let started := s.dev.stile.started
    let served := stServes r.val s.dev = true ∧ head.st = .ok ∧ countGap (stRerun r.val s.dev) (stHead r.val s.dev) ≤ 2 ^ stSize r.val s.dev
    let next := c ≠ stHead r.val head.m ∧ throughputHeld s.dev = false ∧ stHandled r.val c s.dev = false ∧ stRunning r.val s.dev < 64
    let fresh := next ∧ q.st = .ok ∧ seFence e = false
    let t := stTake x.entry data (stDrop r.val count.toNat s.dev)
    let ref := seCounter x.entry
    (stopNow s.dev = true → exec .stilePoll s = .next s) ∧
    (stopNow s.dev = false → (∀ n ∈ stEndpoints s.dev, epValid n s.dev = true) →
      exec .stilePoll s = .next { s with dev := forEach (List.range 8) stServe s.dev }) ∧
    (stServes r.val s.dev = false → stServe r.val s.dev = s.dev) ∧
    (stServes r.val s.dev = true → head.st = .ok →
      2 ^ stSize r.val s.dev < countGap (stRerun r.val s.dev) (stHead r.val s.dev) →
      stileHalted r.val (stServe r.val s.dev) ∧ stFetch r.val (stServe r.val s.dev) = c) ∧
    (stServes r.val s.dev = true → head.st = .held → stServe r.val s.dev = heldBy 0 head.m s.dev) ∧
    (served → next → q.st = .held → stServe r.val s.dev = heldBy 0 q.m head.m) ∧
    (served → fresh → ∀ w, stWaits e q.m = some w → stServe r.val s.dev = w) ∧
    (served → fresh → stRefused e q.m = true →
      stileHalted r.val (stServe r.val s.dev) ∧ stFetch r.val (stServe r.val s.dev) = c ∧
        (stServe r.val s.dev).stile.started = started ∧ leafSet cSTILE_XFER_REFUSED (stServe r.val s.dev) = true) ∧
    (served → fresh → stRefused e q.m = false → seOp e = 3 → field e 48 1 % 8 = 0 → canWrite .headland (seResult e) 8 q.m = true →
      (c + 1) % 2 ^ 32 = stHead r.val q.m →
      let m := stServe r.val s.dev
      stFetch r.val m = (c + 1) % 2 ^ 32 ∧ m.stile.started = started ++ [⟨r.val, c, e⟩] ∧ memSame q.m m ∧
        m.out = q.m.out ++ [.stile (seEndpoint e) 3 ((epGet (seEndpoint e) 32 8 q.m + seRemote e) % 2 ^ 64) (slice e 32 8)]) ∧
    (started.find? (fun y => y.ring = r.val && y.count = count.toNat) = none ∨ stopNow s.dev = true →
      exec (.stileEntryComplete r count data) s = .next s) ∧
    let under := started.find? (fun y => y.ring = r.val && y.count = count.toNat) = some x ∧ stopNow s.dev = false
    let valid := epValid (seEndpoint x.entry) s.dev
    (under → valid = false →
      ∃ m, exec (.stileEntryComplete r count data) s = .next { s with dev := m } ∧ stileHalted r.val m ∧
        m.stile.started = started.filter (fun y => seEndpoint y.entry ≠ seEndpoint x.entry)) ∧
    (under → valid = true → t.st = .ok →
      ∃ m, exec (.stileEntryComplete r count data) s = .next { s with dev := m } ∧ memSame t.m m ∧
        m.stile.started = started.filter (fun y => !(y.ring = r.val && y.count = count.toNat)) ∧
        arrival (refDie ref) (refCounter ref) m = (arrival (refDie ref) (refCounter ref) s.dev + 1) % 2 ^ 32 ∧
        (stRerun r.val s.dev = count.toNat → s.dev.stile.done = [] →
          stRerun r.val m = (count.toNat + 1) % 2 ^ 32 ∧ m.stile.done = [])) ∧
    (under → valid = true → t.st = .held →
      exec (.stileEntryComplete r count data) s = .next { s with dev := heldBy 0 t.m s.dev }) ∧
    (under → valid = true → t.st ≠ .ok → t.st ≠ .held →
      ∃ m, exec (.stileEntryComplete r count data) s = .next { s with dev := m } ∧ stileHalted r.val m)) ∧
  (∀ (n : Fin 256) (syndrome : BitVec 4) (r : Fin 8) (s : State), s.dev.sound = true →
    let mine := s.dev.stile.started.filter (fun x => seEndpoint x.entry = n.val)
    let ctl := aSTILE_RING_HEAD r.val
    let ptr := aSTILE_RING_PTR r.val
    (mine = [] → exec (.stileQpError n syndrome) s = .next s) ∧
    (mine ≠ [] → (∀ x ∈ mine, x.ring < 8) →
      ∃ m, exec (.stileQpError n syndrome) s = .next { s with dev := m } ∧
        (epValid n.val s.dev = true → leafSet cSTILE_QP_ERROR m = true) ∧
        (∀ x ∈ mine, stileHalted x.ring m) ∧
        m.stile.started = s.dev.stile.started.filter (fun x => seEndpoint x.entry ≠ n.val)) ∧
    (epValid n.val s.dev = false → exec (.cnp n) s = .next s) ∧
    (epValid n.val s.dev = true →
      ∃ m, exec (.cnp n) s = .next { s with dev := m } ∧ m.regs = s.dev.regs ∧ m.mem = s.dev.mem ∧
        m.stile.cut = Sparse.upd 0 s.dev.stile.cut n.val (65536 - qpRate n.val s.dev / 2)) ∧
    (∃ m, exec (.rateRecovery n) s = .next { s with dev := m } ∧ m.regs = s.dev.regs ∧ m.mem = s.dev.mem ∧
      m.stile.cut = Sparse.upd 0 s.dev.stile.cut n.val (65536 - min 65536 (qpRate n.val s.dev + 4096))) ∧
    (stHalted r.val s.dev = false → exec (.stileRingResume r) s = .next s ∧ exec (.stileRingDiscard r) s = .next s) ∧
    (stHalted r.val s.dev = true →
      (∃ m, exec (.stileRingResume r) s = .next { s with dev := m } ∧ stHalted r.val m = false ∧
        stFetch r.val m = stRerun r.val s.dev ∧ stRerun r.val m = stRerun r.val s.dev ∧ regsSameBut [ctl, ptr] s.dev m ∧
        m.mem = s.dev.mem) ∧
      (∃ m, exec (.stileRingDiscard r) s = .next { s with dev := m } ∧ stHalted r.val m = false ∧
        stFetch r.val m = stHead r.val s.dev ∧ stRerun r.val m = stHead r.val s.dev ∧ regsSameBut [ctl, ptr] s.dev m ∧
        m.mem = s.dev.mem ∧ ∀ y ∈ m.stile.done, y.1 ≠ r.val)))
end

