-- ==== Sys2Proof/Laws/Sparse.lean ====
section
/-! SUPPORT. The laws of sparse maps: what a read after a write gives, and that a write keeps the canonical form. -/
namespace Sys2Proof.Machine

variable {α : Type}

/-- Every key of a map is above `n`. -/
def Sparse.above (n : Nat) (m : Sparse α) : Prop := ∀ p ∈ m, n < p.1

/-- The canonical form by its head: its value is not the default, its key lies below the keys of a canonical rest. -/
theorem Sparse.wfD_cons [DecidableEq α] (d : Nat → α) (j : Nat) (v : α) (m : Sparse α) :
    Sparse.wfD d ((j, v) :: m) = true ↔ v ≠ d j ∧ Sparse.above j m ∧ Sparse.wfD d m = true := by
  induction m generalizing j v with
  | nil => simp [Sparse.wfD, Sparse.above]
  | cons p rest ih =>
    obtain ⟨k, w⟩ := p
    have unfold1 : Sparse.wfD d ((j, v) :: (k, w) :: rest) = true ↔
        v ≠ d j ∧ j < k ∧ Sparse.wfD d ((k, w) :: rest) = true := by
      simp [Sparse.wfD, and_assoc]
    rw [unfold1]
    constructor
    · rintro ⟨hv, hk, hr⟩
      refine ⟨hv, ?_, hr⟩
      intro p hp
      rcases List.mem_cons.1 hp with rfl | hp
      · exact hk
      · exact Nat.lt_trans hk (((ih k w).1 hr).2.1 p hp)
    · rintro ⟨hv, ha, hr⟩
      exact ⟨hv, ha (k, w) (by simp), hr⟩

theorem Sparse.wfD_nil [DecidableEq α] (d : Nat → α) : Sparse.wfD d ([] : Sparse α) = true := rfl

/-- A key below every key of a map reads as the default. -/
theorem Sparse.getD_above (d : Nat → α) {n k : Nat} {m : Sparse α} (h : Sparse.above n m) (hk : k ≤ n) :
    Sparse.getD d m k = d k := by
  cases m with
  | nil => rfl
  | cons p rest =>
    obtain ⟨j, v⟩ := p
    have hj : n < j := h (j, v) (by simp)
    have h1 : k ≠ j := by omega
    have h2 : k < j := by omega
    simp [Sparse.getD, h1, h2]

/-! ### `put` -/

theorem Sparse.getD_put_same (d : Nat → α) (m : Sparse α) (k : Nat) (x : α) : (m.put k x).getD d k = x := by
  induction m with
  | nil => simp [Sparse.put, Sparse.getD]
  | cons p rest ih =>
    obtain ⟨j, v⟩ := p
    by_cases h1 : k = j
    · simp [Sparse.put, h1, Sparse.getD]
    · by_cases h2 : k < j
      · simp [Sparse.put, h1, h2, Sparse.getD]
      · simp [Sparse.put, h1, h2, Sparse.getD, ih]

theorem Sparse.getD_put_ne (d : Nat → α) (m : Sparse α) {k i : Nat} (x : α) (h : i ≠ k) :
    (m.put k x).getD d i = m.getD d i := by
  induction m with
  | nil => simp [Sparse.put, Sparse.getD, h]
  | cons p rest ih =>
    obtain ⟨j, v⟩ := p
    by_cases h1 : k = j
    · subst h1
      simp [Sparse.put, Sparse.getD, h]
    · by_cases h2 : k < j
      · by_cases h3 : i < k
        · have h4 : i ≠ j := by omega
          have h5 : i < j := by omega
          simp [Sparse.put, Sparse.getD, h1, h2, h, h3, h4, h5]
        · simp [Sparse.put, Sparse.getD, h1, h2, h, h3]
      · simp [Sparse.put, Sparse.getD, h1, h2, ih]

theorem Sparse.above_put {n k : Nat} {m : Sparse α} {x : α} (h : Sparse.above n m) (hk : n < k) :
    Sparse.above n (m.put k x) := by
  induction m with
  | nil => simpa [Sparse.put, Sparse.above] using hk
  | cons p rest ih =>
    obtain ⟨j, v⟩ := p
    have hj : n < j := h (j, v) (by simp)
    have hr : Sparse.above n rest := fun p hp => h p (by simp [hp])
    by_cases h1 : k = j
    · intro p hp
      simp only [Sparse.put, h1, if_true, List.mem_cons] at hp
      rcases hp with rfl | hp
      · exact hj
      · exact hr p hp
    · by_cases h2 : k < j
      · intro p hp
        simp only [Sparse.put, h1, if_false, h2, if_true, List.mem_cons] at hp
        rcases hp with rfl | rfl | hp
        · exact hk
        · exact hj
        · exact hr p hp
      · intro p hp
        simp only [Sparse.put, h1, if_false, h2, List.mem_cons] at hp
        rcases hp with rfl | hp
        · exact hj
        · exact ih hr p hp

theorem Sparse.wfD_put [DecidableEq α] (d : Nat → α) {m : Sparse α} {k : Nat} {x : α} (h : m.wfD d = true) (hx : x ≠ d k) :
    (m.put k x).wfD d = true := by
  induction m with
  | nil => simpa [Sparse.put, Sparse.wfD] using hx
  | cons p rest ih =>
    obtain ⟨j, v⟩ := p
    obtain ⟨hv, ha, hr⟩ := (Sparse.wfD_cons d j v rest).1 h
    by_cases h1 : k = j
    · subst h1
      simp only [Sparse.put, if_true]
      exact (Sparse.wfD_cons d k x rest).2 ⟨hx, ha, hr⟩
    · by_cases h2 : k < j
      · simp only [Sparse.put, h1, if_false, h2, if_true]
        refine (Sparse.wfD_cons d k x _).2 ⟨hx, ?_, h⟩
        intro p hp
        rcases List.mem_cons.1 hp with rfl | hp
        · exact h2
        · exact Nat.lt_trans h2 (ha p hp)
      · simp only [Sparse.put, h1, if_false, h2]
        exact (Sparse.wfD_cons d j v _).2 ⟨hv, Sparse.above_put ha (by omega), ih hr⟩

/-! ### `drop` -/

theorem Sparse.above_drop {n k : Nat} {m : Sparse α} (h : Sparse.above n m) : Sparse.above n (m.drop k) := by
  induction m with
  | nil => simpa [Sparse.drop] using h
  | cons p rest ih =>
    obtain ⟨j, v⟩ := p
    have hr : Sparse.above n rest := fun p hp => h p (by simp [hp])
    by_cases h1 : k = j
    · simpa [Sparse.drop, h1] using hr
    · by_cases h2 : k < j
      · simpa [Sparse.drop, h1, h2] using h
      · intro p hp
        simp only [Sparse.drop, h1, if_false, h2, List.mem_cons] at hp
        rcases hp with rfl | hp
        · exact h (j, v) (by simp)
        · exact ih hr p hp

theorem Sparse.wfD_drop [DecidableEq α] (d : Nat → α) {m : Sparse α} {k : Nat} (h : m.wfD d = true) :
    (m.drop k).wfD d = true := by
  induction m with
  | nil => exact h
  | cons p rest ih =>
    obtain ⟨j, v⟩ := p
    obtain ⟨hv, ha, hr⟩ := (Sparse.wfD_cons d j v rest).1 h
    by_cases h1 : k = j
    · simpa [Sparse.drop, h1] using hr
    · by_cases h2 : k < j
      · simpa [Sparse.drop, h1, h2] using h
      · simp only [Sparse.drop, h1, if_false, h2]
        exact (Sparse.wfD_cons d j v _).2 ⟨hv, Sparse.above_drop ha, ih hr⟩

theorem Sparse.getD_drop_same [DecidableEq α] (d : Nat → α) {m : Sparse α} {k : Nat} (h : m.wfD d = true) :
    (m.drop k).getD d k = d k := by
  induction m with
  | nil => rfl
  | cons p rest ih =>
    obtain ⟨j, v⟩ := p
    obtain ⟨_, ha, hr⟩ := (Sparse.wfD_cons d j v rest).1 h
    by_cases h1 : k = j
    · subst h1
      simpa [Sparse.drop] using Sparse.getD_above d ha (Nat.le_refl k)
    · by_cases h2 : k < j
      · simp [Sparse.drop, h1, h2, Sparse.getD]
      · simpa [Sparse.drop, h1, h2, Sparse.getD] using ih hr

theorem Sparse.getD_drop_ne [DecidableEq α] (d : Nat → α) {m : Sparse α} {k i : Nat} (h : m.wfD d = true) (hi : i ≠ k) :
    (m.drop k).getD d i = m.getD d i := by
  induction m with
  | nil => rfl
  | cons p rest ih =>
    obtain ⟨j, v⟩ := p
    obtain ⟨_, ha, hr⟩ := (Sparse.wfD_cons d j v rest).1 h
    by_cases h1 : k = j
    · subst h1
      by_cases h3 : i < k
      · simpa [Sparse.drop, Sparse.getD, hi, h3] using Sparse.getD_above d ha (Nat.le_of_lt h3)
      · simp [Sparse.drop, Sparse.getD, hi, h3]
    · by_cases h2 : k < j
      · simp [Sparse.drop, h1, h2]
      · simp [Sparse.drop, h1, h2, Sparse.getD, ih hr]

/-! ### `setD` -/

/-- A write keeps the canonical form. -/
theorem Sparse.wfD_setD [DecidableEq α] (d : Nat → α) {m : Sparse α} {k : Nat} {x : α} (h : m.wfD d = true) :
    (m.setD d k x).wfD d = true := by
  unfold Sparse.setD
  by_cases hx : x = d k
  · simpa [hx] using Sparse.wfD_drop d h
  · simpa [hx] using Sparse.wfD_put d h hx

/-- A read of the key written gives the value written. -/
theorem Sparse.getD_setD_same [DecidableEq α] (d : Nat → α) {m : Sparse α} {k : Nat} {x : α} (h : m.wfD d = true) :
    (m.setD d k x).getD d k = x := by
  unfold Sparse.setD
  by_cases hx : x = d k
  · simpa [hx] using Sparse.getD_drop_same d h
  · simpa [hx] using Sparse.getD_put_same d m k x

/-- A read of another key gives what it gave. -/
theorem Sparse.getD_setD_ne [DecidableEq α] (d : Nat → α) {m : Sparse α} {k i : Nat} {x : α} (h : m.wfD d = true)
    (hi : i ≠ k) : (m.setD d k x).getD d i = m.getD d i := by
  unfold Sparse.setD
  by_cases hx : x = d k
  · simpa [hx] using Sparse.getD_drop_ne d h hi
  · simpa [hx] using Sparse.getD_put_ne d m x hi

theorem Sparse.get_upd_same [DecidableEq α] (d : α) {m : Sparse α} {k : Nat} {x : α}
    (h : m.wfD (fun _ => d) = true) : (m.upd d k x).get d k = x :=
  Sparse.getD_setD_same (fun _ => d) h

theorem Sparse.get_upd_ne [DecidableEq α] (d : α) {m : Sparse α} {k i : Nat} {x : α}
    (h : m.wfD (fun _ => d) = true) (hi : i ≠ k) : (m.upd d k x).get d i = m.get d i :=
  Sparse.getD_setD_ne (fun _ => d) h hi

theorem Sparse.wfD_upd [DecidableEq α] (d : α) {m : Sparse α} {k : Nat} {x : α} (h : m.wfD (fun _ => d) = true) :
    (m.upd d k x).wfD (fun _ => d) = true :=
  Sparse.wfD_setD (fun _ => d) h

/-- A filter keeps the canonical form. -/
theorem Sparse.wfD_filter [DecidableEq α] (d : Nat → α) (p : Nat × α → Bool) {m : Sparse α} (h : m.wfD d = true) :
    Sparse.wfD d (m.filter p) = true := by
  induction m with
  | nil => rfl
  | cons q rest ih =>
    obtain ⟨j, v⟩ := q
    obtain ⟨hv, ha, hr⟩ := (Sparse.wfD_cons d j v rest).1 h
    by_cases hp : p (j, v) = true
    · rw [List.filter_cons_of_pos hp]
      exact (Sparse.wfD_cons d j v _).2 ⟨hv, fun q hq => ha q (List.mem_filter.1 hq).1, ih hr⟩
    · rw [List.filter_cons_of_neg hp]
      exact ih hr

end Sys2Proof.Machine
end

