-- ==== Sys2Proof/Laws/State.lean ====
section
/-! SUPPORT. What each update of the module leaves as it was: one lemma for each field. -/
namespace Sys2Proof.Machine

variable (m : Dev)

@[simp] theorem wr_time (o : Nat) (v : Word) : (wr o v m).time = m.time := rfl
@[simp] theorem wr_shadow (o : Nat) (v : Word) : (wr o v m).shadow = m.shadow := rfl
@[simp] theorem wr_waitingWrite (o : Nat) (v : Word) : (wr o v m).waitingWrite = m.waitingWrite := rfl
@[simp] theorem wr_pendSelMgmt (o : Nat) (v : Word) : (wr o v m).pendSelMgmt = m.pendSelMgmt := rfl
@[simp] theorem wr_mem (o : Nat) (v : Word) : (wr o v m).mem = m.mem := rfl
@[simp] theorem wr_poisonLane (o : Nat) (v : Word) : (wr o v m).poisonLane = m.poisonLane := rfl
@[simp] theorem wr_poisonField (o : Nat) (v : Word) : (wr o v m).poisonField = m.poisonField := rfl
@[simp] theorem wr_acc (o : Nat) (v : Word) : (wr o v m).acc = m.acc := rfl
@[simp] theorem wr_rings (o : Nat) (v : Word) : (wr o v m).rings = m.rings := rfl
@[simp] theorem wr_engines (o : Nat) (v : Word) : (wr o v m).engines = m.engines := rfl
@[simp] theorem wr_plan (o : Nat) (v : Word) : (wr o v m).plan = m.plan := rfl
@[simp] theorem wr_banks (o : Nat) (v : Word) : (wr o v m).banks = m.banks := rfl
@[simp] theorem wr_tiers (o : Nat) (v : Word) : (wr o v m).tiers = m.tiers := rfl
@[simp] theorem wr_weights (o : Nat) (v : Word) : (wr o v m).weights = m.weights := rfl
@[simp] theorem wr_nextWeights (o : Nat) (v : Word) : (wr o v m).nextWeights = m.nextWeights := rfl
@[simp] theorem wr_tineSeed (o : Nat) (v : Word) : (wr o v m).tineSeed = m.tineSeed := rfl
@[simp] theorem wr_selfTest (o : Nat) (v : Word) : (wr o v m).selfTest = m.selfTest := rfl
@[simp] theorem wr_links (o : Nat) (v : Word) : (wr o v m).links = m.links := rfl
@[simp] theorem wr_net (o : Nat) (v : Word) : (wr o v m).net = m.net := rfl
@[simp] theorem wr_drone (o : Nat) (v : Word) : (wr o v m).drone = m.drone := rfl
@[simp] theorem wr_coulter (o : Nat) (v : Word) : (wr o v m).coulter = m.coulter := rfl
@[simp] theorem wr_keys (o : Nat) (v : Word) : (wr o v m).keys = m.keys := rfl
@[simp] theorem wr_lastAdapt (o : Nat) (v : Word) : (wr o v m).lastAdapt = m.lastAdapt := rfl
@[simp] theorem wr_fixSeq (o : Nat) (v : Word) : (wr o v m).fixSeq = m.fixSeq := rfl
@[simp] theorem wr_gathers (o : Nat) (v : Word) : (wr o v m).gathers = m.gathers := rfl
@[simp] theorem wr_gleaner (o : Nat) (v : Word) : (wr o v m).gleaner = m.gleaner := rfl
@[simp] theorem wr_piper (o : Nat) (v : Word) : (wr o v m).piper = m.piper := rfl
@[simp] theorem wr_stile (o : Nat) (v : Word) : (wr o v m).stile = m.stile := rfl
@[simp] theorem wr_bellows (o : Nat) (v : Word) : (wr o v m).bellows = m.bellows := rfl
@[simp] theorem wr_power (o : Nat) (v : Word) : (wr o v m).power = m.power := rfl
@[simp] theorem wr_jtag (o : Nat) (v : Word) : (wr o v m).jtag = m.jtag := rfl
@[simp] theorem wr_mesh (o : Nat) (v : Word) : (wr o v m).mesh = m.mesh := rfl
@[simp] theorem wr_slots (o : Nat) (v : Word) : (wr o v m).slots = m.slots := rfl
@[simp] theorem wr_eth (o : Nat) (v : Word) : (wr o v m).eth = m.eth := rfl
@[simp] theorem wr_mgmt (o : Nat) (v : Word) : (wr o v m).mgmt = m.mgmt := rfl
@[simp] theorem wr_nvm (o : Nat) (v : Word) : (wr o v m).nvm = m.nvm := rfl
@[simp] theorem wr_scare (o : Nat) (v : Word) : (wr o v m).scare = m.scare := rfl
@[simp] theorem wr_out (o : Nat) (v : Word) : (wr o v m).out = m.out := rfl
@[simp] theorem wr_free (o : Nat) (v : Word) : (wr o v m).free = m.free := rfl

@[simp] theorem wrF_time (o : Nat) (f : Fld) (n : Nat) : (wrF o f n m).time = m.time := rfl
@[simp] theorem wrF_shadow (o : Nat) (f : Fld) (n : Nat) : (wrF o f n m).shadow = m.shadow := rfl
@[simp] theorem wrF_waitingWrite (o : Nat) (f : Fld) (n : Nat) : (wrF o f n m).waitingWrite = m.waitingWrite := rfl
@[simp] theorem wrF_pendSelMgmt (o : Nat) (f : Fld) (n : Nat) : (wrF o f n m).pendSelMgmt = m.pendSelMgmt := rfl
@[simp] theorem wrF_mem (o : Nat) (f : Fld) (n : Nat) : (wrF o f n m).mem = m.mem := rfl
@[simp] theorem wrF_poisonLane (o : Nat) (f : Fld) (n : Nat) : (wrF o f n m).poisonLane = m.poisonLane := rfl
@[simp] theorem wrF_poisonField (o : Nat) (f : Fld) (n : Nat) : (wrF o f n m).poisonField = m.poisonField := rfl
@[simp] theorem wrF_acc (o : Nat) (f : Fld) (n : Nat) : (wrF o f n m).acc = m.acc := rfl
@[simp] theorem wrF_rings (o : Nat) (f : Fld) (n : Nat) : (wrF o f n m).rings = m.rings := rfl
@[simp] theorem wrF_engines (o : Nat) (f : Fld) (n : Nat) : (wrF o f n m).engines = m.engines := rfl
@[simp] theorem wrF_plan (o : Nat) (f : Fld) (n : Nat) : (wrF o f n m).plan = m.plan := rfl
@[simp] theorem wrF_banks (o : Nat) (f : Fld) (n : Nat) : (wrF o f n m).banks = m.banks := rfl
@[simp] theorem wrF_tiers (o : Nat) (f : Fld) (n : Nat) : (wrF o f n m).tiers = m.tiers := rfl
@[simp] theorem wrF_weights (o : Nat) (f : Fld) (n : Nat) : (wrF o f n m).weights = m.weights := rfl
@[simp] theorem wrF_nextWeights (o : Nat) (f : Fld) (n : Nat) : (wrF o f n m).nextWeights = m.nextWeights := rfl
@[simp] theorem wrF_tineSeed (o : Nat) (f : Fld) (n : Nat) : (wrF o f n m).tineSeed = m.tineSeed := rfl
@[simp] theorem wrF_selfTest (o : Nat) (f : Fld) (n : Nat) : (wrF o f n m).selfTest = m.selfTest := rfl
@[simp] theorem wrF_links (o : Nat) (f : Fld) (n : Nat) : (wrF o f n m).links = m.links := rfl
@[simp] theorem wrF_net (o : Nat) (f : Fld) (n : Nat) : (wrF o f n m).net = m.net := rfl
@[simp] theorem wrF_drone (o : Nat) (f : Fld) (n : Nat) : (wrF o f n m).drone = m.drone := rfl
@[simp] theorem wrF_coulter (o : Nat) (f : Fld) (n : Nat) : (wrF o f n m).coulter = m.coulter := rfl
@[simp] theorem wrF_keys (o : Nat) (f : Fld) (n : Nat) : (wrF o f n m).keys = m.keys := rfl
@[simp] theorem wrF_lastAdapt (o : Nat) (f : Fld) (n : Nat) : (wrF o f n m).lastAdapt = m.lastAdapt := rfl
@[simp] theorem wrF_fixSeq (o : Nat) (f : Fld) (n : Nat) : (wrF o f n m).fixSeq = m.fixSeq := rfl
@[simp] theorem wrF_gathers (o : Nat) (f : Fld) (n : Nat) : (wrF o f n m).gathers = m.gathers := rfl
@[simp] theorem wrF_gleaner (o : Nat) (f : Fld) (n : Nat) : (wrF o f n m).gleaner = m.gleaner := rfl
@[simp] theorem wrF_piper (o : Nat) (f : Fld) (n : Nat) : (wrF o f n m).piper = m.piper := rfl
@[simp] theorem wrF_stile (o : Nat) (f : Fld) (n : Nat) : (wrF o f n m).stile = m.stile := rfl
@[simp] theorem wrF_bellows (o : Nat) (f : Fld) (n : Nat) : (wrF o f n m).bellows = m.bellows := rfl
@[simp] theorem wrF_power (o : Nat) (f : Fld) (n : Nat) : (wrF o f n m).power = m.power := rfl
@[simp] theorem wrF_jtag (o : Nat) (f : Fld) (n : Nat) : (wrF o f n m).jtag = m.jtag := rfl
@[simp] theorem wrF_mesh (o : Nat) (f : Fld) (n : Nat) : (wrF o f n m).mesh = m.mesh := rfl
@[simp] theorem wrF_slots (o : Nat) (f : Fld) (n : Nat) : (wrF o f n m).slots = m.slots := rfl
@[simp] theorem wrF_eth (o : Nat) (f : Fld) (n : Nat) : (wrF o f n m).eth = m.eth := rfl
@[simp] theorem wrF_mgmt (o : Nat) (f : Fld) (n : Nat) : (wrF o f n m).mgmt = m.mgmt := rfl
@[simp] theorem wrF_nvm (o : Nat) (f : Fld) (n : Nat) : (wrF o f n m).nvm = m.nvm := rfl
@[simp] theorem wrF_scare (o : Nat) (f : Fld) (n : Nat) : (wrF o f n m).scare = m.scare := rfl
@[simp] theorem wrF_out (o : Nat) (f : Fld) (n : Nat) : (wrF o f n m).out = m.out := rfl
@[simp] theorem wrF_free (o : Nat) (f : Fld) (n : Nat) : (wrF o f n m).free = m.free := rfl

@[simp] theorem countSat_time (o : Nat) (f : Fld) (n : Nat) : (countSat o f n m).time = m.time := rfl
@[simp] theorem countSat_shadow (o : Nat) (f : Fld) (n : Nat) : (countSat o f n m).shadow = m.shadow := rfl
@[simp] theorem countSat_waitingWrite (o : Nat) (f : Fld) (n : Nat) : (countSat o f n m).waitingWrite = m.waitingWrite := rfl
@[simp] theorem countSat_pendSelMgmt (o : Nat) (f : Fld) (n : Nat) : (countSat o f n m).pendSelMgmt = m.pendSelMgmt := rfl
@[simp] theorem countSat_mem (o : Nat) (f : Fld) (n : Nat) : (countSat o f n m).mem = m.mem := rfl
@[simp] theorem countSat_poisonLane (o : Nat) (f : Fld) (n : Nat) : (countSat o f n m).poisonLane = m.poisonLane := rfl
@[simp] theorem countSat_poisonField (o : Nat) (f : Fld) (n : Nat) : (countSat o f n m).poisonField = m.poisonField := rfl
@[simp] theorem countSat_acc (o : Nat) (f : Fld) (n : Nat) : (countSat o f n m).acc = m.acc := rfl
@[simp] theorem countSat_rings (o : Nat) (f : Fld) (n : Nat) : (countSat o f n m).rings = m.rings := rfl
@[simp] theorem countSat_engines (o : Nat) (f : Fld) (n : Nat) : (countSat o f n m).engines = m.engines := rfl
@[simp] theorem countSat_plan (o : Nat) (f : Fld) (n : Nat) : (countSat o f n m).plan = m.plan := rfl
@[simp] theorem countSat_banks (o : Nat) (f : Fld) (n : Nat) : (countSat o f n m).banks = m.banks := rfl
@[simp] theorem countSat_tiers (o : Nat) (f : Fld) (n : Nat) : (countSat o f n m).tiers = m.tiers := rfl
@[simp] theorem countSat_weights (o : Nat) (f : Fld) (n : Nat) : (countSat o f n m).weights = m.weights := rfl
@[simp] theorem countSat_nextWeights (o : Nat) (f : Fld) (n : Nat) : (countSat o f n m).nextWeights = m.nextWeights := rfl
@[simp] theorem countSat_tineSeed (o : Nat) (f : Fld) (n : Nat) : (countSat o f n m).tineSeed = m.tineSeed := rfl
@[simp] theorem countSat_selfTest (o : Nat) (f : Fld) (n : Nat) : (countSat o f n m).selfTest = m.selfTest := rfl
@[simp] theorem countSat_links (o : Nat) (f : Fld) (n : Nat) : (countSat o f n m).links = m.links := rfl
@[simp] theorem countSat_net (o : Nat) (f : Fld) (n : Nat) : (countSat o f n m).net = m.net := rfl
@[simp] theorem countSat_drone (o : Nat) (f : Fld) (n : Nat) : (countSat o f n m).drone = m.drone := rfl
@[simp] theorem countSat_coulter (o : Nat) (f : Fld) (n : Nat) : (countSat o f n m).coulter = m.coulter := rfl
@[simp] theorem countSat_keys (o : Nat) (f : Fld) (n : Nat) : (countSat o f n m).keys = m.keys := rfl
@[simp] theorem countSat_lastAdapt (o : Nat) (f : Fld) (n : Nat) : (countSat o f n m).lastAdapt = m.lastAdapt := rfl
@[simp] theorem countSat_fixSeq (o : Nat) (f : Fld) (n : Nat) : (countSat o f n m).fixSeq = m.fixSeq := rfl
@[simp] theorem countSat_gathers (o : Nat) (f : Fld) (n : Nat) : (countSat o f n m).gathers = m.gathers := rfl
@[simp] theorem countSat_gleaner (o : Nat) (f : Fld) (n : Nat) : (countSat o f n m).gleaner = m.gleaner := rfl
@[simp] theorem countSat_piper (o : Nat) (f : Fld) (n : Nat) : (countSat o f n m).piper = m.piper := rfl
@[simp] theorem countSat_stile (o : Nat) (f : Fld) (n : Nat) : (countSat o f n m).stile = m.stile := rfl
@[simp] theorem countSat_bellows (o : Nat) (f : Fld) (n : Nat) : (countSat o f n m).bellows = m.bellows := rfl
@[simp] theorem countSat_power (o : Nat) (f : Fld) (n : Nat) : (countSat o f n m).power = m.power := rfl
@[simp] theorem countSat_jtag (o : Nat) (f : Fld) (n : Nat) : (countSat o f n m).jtag = m.jtag := rfl
@[simp] theorem countSat_mesh (o : Nat) (f : Fld) (n : Nat) : (countSat o f n m).mesh = m.mesh := rfl
@[simp] theorem countSat_slots (o : Nat) (f : Fld) (n : Nat) : (countSat o f n m).slots = m.slots := rfl
@[simp] theorem countSat_eth (o : Nat) (f : Fld) (n : Nat) : (countSat o f n m).eth = m.eth := rfl
@[simp] theorem countSat_mgmt (o : Nat) (f : Fld) (n : Nat) : (countSat o f n m).mgmt = m.mgmt := rfl
@[simp] theorem countSat_nvm (o : Nat) (f : Fld) (n : Nat) : (countSat o f n m).nvm = m.nvm := rfl
@[simp] theorem countSat_scare (o : Nat) (f : Fld) (n : Nat) : (countSat o f n m).scare = m.scare := rfl
@[simp] theorem countSat_out (o : Nat) (f : Fld) (n : Nat) : (countSat o f n m).out = m.out := rfl
@[simp] theorem countSat_free (o : Nat) (f : Fld) (n : Nat) : (countSat o f n m).free = m.free := rfl

@[simp] theorem countWrap_time (o : Nat) (f : Fld) (n : Nat) : (countWrap o f n m).time = m.time := rfl
@[simp] theorem countWrap_shadow (o : Nat) (f : Fld) (n : Nat) : (countWrap o f n m).shadow = m.shadow := rfl
@[simp] theorem countWrap_waitingWrite (o : Nat) (f : Fld) (n : Nat) : (countWrap o f n m).waitingWrite = m.waitingWrite := rfl
@[simp] theorem countWrap_pendSelMgmt (o : Nat) (f : Fld) (n : Nat) : (countWrap o f n m).pendSelMgmt = m.pendSelMgmt := rfl
@[simp] theorem countWrap_mem (o : Nat) (f : Fld) (n : Nat) : (countWrap o f n m).mem = m.mem := rfl
@[simp] theorem countWrap_poisonLane (o : Nat) (f : Fld) (n : Nat) : (countWrap o f n m).poisonLane = m.poisonLane := rfl
@[simp] theorem countWrap_poisonField (o : Nat) (f : Fld) (n : Nat) : (countWrap o f n m).poisonField = m.poisonField := rfl
@[simp] theorem countWrap_acc (o : Nat) (f : Fld) (n : Nat) : (countWrap o f n m).acc = m.acc := rfl
@[simp] theorem countWrap_rings (o : Nat) (f : Fld) (n : Nat) : (countWrap o f n m).rings = m.rings := rfl
@[simp] theorem countWrap_engines (o : Nat) (f : Fld) (n : Nat) : (countWrap o f n m).engines = m.engines := rfl
@[simp] theorem countWrap_plan (o : Nat) (f : Fld) (n : Nat) : (countWrap o f n m).plan = m.plan := rfl
@[simp] theorem countWrap_banks (o : Nat) (f : Fld) (n : Nat) : (countWrap o f n m).banks = m.banks := rfl
@[simp] theorem countWrap_tiers (o : Nat) (f : Fld) (n : Nat) : (countWrap o f n m).tiers = m.tiers := rfl
@[simp] theorem countWrap_weights (o : Nat) (f : Fld) (n : Nat) : (countWrap o f n m).weights = m.weights := rfl
@[simp] theorem countWrap_nextWeights (o : Nat) (f : Fld) (n : Nat) : (countWrap o f n m).nextWeights = m.nextWeights := rfl
@[simp] theorem countWrap_tineSeed (o : Nat) (f : Fld) (n : Nat) : (countWrap o f n m).tineSeed = m.tineSeed := rfl
@[simp] theorem countWrap_selfTest (o : Nat) (f : Fld) (n : Nat) : (countWrap o f n m).selfTest = m.selfTest := rfl
@[simp] theorem countWrap_links (o : Nat) (f : Fld) (n : Nat) : (countWrap o f n m).links = m.links := rfl
@[simp] theorem countWrap_net (o : Nat) (f : Fld) (n : Nat) : (countWrap o f n m).net = m.net := rfl
@[simp] theorem countWrap_drone (o : Nat) (f : Fld) (n : Nat) : (countWrap o f n m).drone = m.drone := rfl
@[simp] theorem countWrap_coulter (o : Nat) (f : Fld) (n : Nat) : (countWrap o f n m).coulter = m.coulter := rfl
@[simp] theorem countWrap_keys (o : Nat) (f : Fld) (n : Nat) : (countWrap o f n m).keys = m.keys := rfl
@[simp] theorem countWrap_lastAdapt (o : Nat) (f : Fld) (n : Nat) : (countWrap o f n m).lastAdapt = m.lastAdapt := rfl
@[simp] theorem countWrap_fixSeq (o : Nat) (f : Fld) (n : Nat) : (countWrap o f n m).fixSeq = m.fixSeq := rfl
@[simp] theorem countWrap_gathers (o : Nat) (f : Fld) (n : Nat) : (countWrap o f n m).gathers = m.gathers := rfl
@[simp] theorem countWrap_gleaner (o : Nat) (f : Fld) (n : Nat) : (countWrap o f n m).gleaner = m.gleaner := rfl
@[simp] theorem countWrap_piper (o : Nat) (f : Fld) (n : Nat) : (countWrap o f n m).piper = m.piper := rfl
@[simp] theorem countWrap_stile (o : Nat) (f : Fld) (n : Nat) : (countWrap o f n m).stile = m.stile := rfl
@[simp] theorem countWrap_bellows (o : Nat) (f : Fld) (n : Nat) : (countWrap o f n m).bellows = m.bellows := rfl
@[simp] theorem countWrap_power (o : Nat) (f : Fld) (n : Nat) : (countWrap o f n m).power = m.power := rfl
@[simp] theorem countWrap_jtag (o : Nat) (f : Fld) (n : Nat) : (countWrap o f n m).jtag = m.jtag := rfl
@[simp] theorem countWrap_mesh (o : Nat) (f : Fld) (n : Nat) : (countWrap o f n m).mesh = m.mesh := rfl
@[simp] theorem countWrap_slots (o : Nat) (f : Fld) (n : Nat) : (countWrap o f n m).slots = m.slots := rfl
@[simp] theorem countWrap_eth (o : Nat) (f : Fld) (n : Nat) : (countWrap o f n m).eth = m.eth := rfl
@[simp] theorem countWrap_mgmt (o : Nat) (f : Fld) (n : Nat) : (countWrap o f n m).mgmt = m.mgmt := rfl
@[simp] theorem countWrap_nvm (o : Nat) (f : Fld) (n : Nat) : (countWrap o f n m).nvm = m.nvm := rfl
@[simp] theorem countWrap_scare (o : Nat) (f : Fld) (n : Nat) : (countWrap o f n m).scare = m.scare := rfl
@[simp] theorem countWrap_out (o : Nat) (f : Fld) (n : Nat) : (countWrap o f n m).out = m.out := rfl
@[simp] theorem countWrap_free (o : Nat) (f : Fld) (n : Nat) : (countWrap o f n m).free = m.free := rfl

@[simp] theorem stBytes_time (a : Nat) (bs : List Byte) : (stBytes a bs m).time = m.time := rfl
@[simp] theorem stBytes_regs (a : Nat) (bs : List Byte) : (stBytes a bs m).regs = m.regs := rfl
@[simp] theorem stBytes_shadow (a : Nat) (bs : List Byte) : (stBytes a bs m).shadow = m.shadow := rfl
@[simp] theorem stBytes_waitingWrite (a : Nat) (bs : List Byte) : (stBytes a bs m).waitingWrite = m.waitingWrite := rfl
@[simp] theorem stBytes_pendSelMgmt (a : Nat) (bs : List Byte) : (stBytes a bs m).pendSelMgmt = m.pendSelMgmt := rfl
@[simp] theorem stBytes_poisonLane (a : Nat) (bs : List Byte) : (stBytes a bs m).poisonLane = m.poisonLane := rfl
@[simp] theorem stBytes_poisonField (a : Nat) (bs : List Byte) : (stBytes a bs m).poisonField = m.poisonField := rfl
@[simp] theorem stBytes_acc (a : Nat) (bs : List Byte) : (stBytes a bs m).acc = m.acc := rfl
@[simp] theorem stBytes_rings (a : Nat) (bs : List Byte) : (stBytes a bs m).rings = m.rings := rfl
@[simp] theorem stBytes_engines (a : Nat) (bs : List Byte) : (stBytes a bs m).engines = m.engines := rfl
@[simp] theorem stBytes_plan (a : Nat) (bs : List Byte) : (stBytes a bs m).plan = m.plan := rfl
@[simp] theorem stBytes_banks (a : Nat) (bs : List Byte) : (stBytes a bs m).banks = m.banks := rfl
@[simp] theorem stBytes_tiers (a : Nat) (bs : List Byte) : (stBytes a bs m).tiers = m.tiers := rfl
@[simp] theorem stBytes_weights (a : Nat) (bs : List Byte) : (stBytes a bs m).weights = m.weights := rfl
@[simp] theorem stBytes_nextWeights (a : Nat) (bs : List Byte) : (stBytes a bs m).nextWeights = m.nextWeights := rfl
@[simp] theorem stBytes_tineSeed (a : Nat) (bs : List Byte) : (stBytes a bs m).tineSeed = m.tineSeed := rfl
@[simp] theorem stBytes_selfTest (a : Nat) (bs : List Byte) : (stBytes a bs m).selfTest = m.selfTest := rfl
@[simp] theorem stBytes_links (a : Nat) (bs : List Byte) : (stBytes a bs m).links = m.links := rfl
@[simp] theorem stBytes_net (a : Nat) (bs : List Byte) : (stBytes a bs m).net = m.net := rfl
@[simp] theorem stBytes_drone (a : Nat) (bs : List Byte) : (stBytes a bs m).drone = m.drone := rfl
@[simp] theorem stBytes_coulter (a : Nat) (bs : List Byte) : (stBytes a bs m).coulter = m.coulter := rfl
@[simp] theorem stBytes_keys (a : Nat) (bs : List Byte) : (stBytes a bs m).keys = m.keys := rfl
@[simp] theorem stBytes_lastAdapt (a : Nat) (bs : List Byte) : (stBytes a bs m).lastAdapt = m.lastAdapt := rfl
@[simp] theorem stBytes_fixSeq (a : Nat) (bs : List Byte) : (stBytes a bs m).fixSeq = m.fixSeq := rfl
@[simp] theorem stBytes_gathers (a : Nat) (bs : List Byte) : (stBytes a bs m).gathers = m.gathers := rfl
@[simp] theorem stBytes_gleaner (a : Nat) (bs : List Byte) : (stBytes a bs m).gleaner = m.gleaner := rfl
@[simp] theorem stBytes_piper (a : Nat) (bs : List Byte) : (stBytes a bs m).piper = m.piper := rfl
@[simp] theorem stBytes_stile (a : Nat) (bs : List Byte) : (stBytes a bs m).stile = m.stile := rfl
@[simp] theorem stBytes_bellows (a : Nat) (bs : List Byte) : (stBytes a bs m).bellows = m.bellows := rfl
@[simp] theorem stBytes_power (a : Nat) (bs : List Byte) : (stBytes a bs m).power = m.power := rfl
@[simp] theorem stBytes_jtag (a : Nat) (bs : List Byte) : (stBytes a bs m).jtag = m.jtag := rfl
@[simp] theorem stBytes_mesh (a : Nat) (bs : List Byte) : (stBytes a bs m).mesh = m.mesh := rfl
@[simp] theorem stBytes_slots (a : Nat) (bs : List Byte) : (stBytes a bs m).slots = m.slots := rfl
@[simp] theorem stBytes_eth (a : Nat) (bs : List Byte) : (stBytes a bs m).eth = m.eth := rfl
@[simp] theorem stBytes_mgmt (a : Nat) (bs : List Byte) : (stBytes a bs m).mgmt = m.mgmt := rfl
@[simp] theorem stBytes_nvm (a : Nat) (bs : List Byte) : (stBytes a bs m).nvm = m.nvm := rfl
@[simp] theorem stBytes_scare (a : Nat) (bs : List Byte) : (stBytes a bs m).scare = m.scare := rfl
@[simp] theorem stBytes_out (a : Nat) (bs : List Byte) : (stBytes a bs m).out = m.out := rfl
@[simp] theorem stBytes_free (a : Nat) (bs : List Byte) : (stBytes a bs m).free = m.free := rfl

@[simp] theorem stN_time (n a v : Nat) : (stN n a v m).time = m.time := rfl
@[simp] theorem stN_regs (n a v : Nat) : (stN n a v m).regs = m.regs := rfl
@[simp] theorem stN_shadow (n a v : Nat) : (stN n a v m).shadow = m.shadow := rfl
@[simp] theorem stN_waitingWrite (n a v : Nat) : (stN n a v m).waitingWrite = m.waitingWrite := rfl
@[simp] theorem stN_pendSelMgmt (n a v : Nat) : (stN n a v m).pendSelMgmt = m.pendSelMgmt := rfl
@[simp] theorem stN_poisonLane (n a v : Nat) : (stN n a v m).poisonLane = m.poisonLane := rfl
@[simp] theorem stN_poisonField (n a v : Nat) : (stN n a v m).poisonField = m.poisonField := rfl
@[simp] theorem stN_acc (n a v : Nat) : (stN n a v m).acc = m.acc := rfl
@[simp] theorem stN_rings (n a v : Nat) : (stN n a v m).rings = m.rings := rfl
@[simp] theorem stN_engines (n a v : Nat) : (stN n a v m).engines = m.engines := rfl
@[simp] theorem stN_plan (n a v : Nat) : (stN n a v m).plan = m.plan := rfl
@[simp] theorem stN_banks (n a v : Nat) : (stN n a v m).banks = m.banks := rfl
@[simp] theorem stN_tiers (n a v : Nat) : (stN n a v m).tiers = m.tiers := rfl
@[simp] theorem stN_weights (n a v : Nat) : (stN n a v m).weights = m.weights := rfl
@[simp] theorem stN_nextWeights (n a v : Nat) : (stN n a v m).nextWeights = m.nextWeights := rfl
@[simp] theorem stN_tineSeed (n a v : Nat) : (stN n a v m).tineSeed = m.tineSeed := rfl
@[simp] theorem stN_selfTest (n a v : Nat) : (stN n a v m).selfTest = m.selfTest := rfl
@[simp] theorem stN_links (n a v : Nat) : (stN n a v m).links = m.links := rfl
@[simp] theorem stN_net (n a v : Nat) : (stN n a v m).net = m.net := rfl
@[simp] theorem stN_drone (n a v : Nat) : (stN n a v m).drone = m.drone := rfl
@[simp] theorem stN_coulter (n a v : Nat) : (stN n a v m).coulter = m.coulter := rfl
@[simp] theorem stN_keys (n a v : Nat) : (stN n a v m).keys = m.keys := rfl
@[simp] theorem stN_lastAdapt (n a v : Nat) : (stN n a v m).lastAdapt = m.lastAdapt := rfl
@[simp] theorem stN_fixSeq (n a v : Nat) : (stN n a v m).fixSeq = m.fixSeq := rfl
@[simp] theorem stN_gathers (n a v : Nat) : (stN n a v m).gathers = m.gathers := rfl
@[simp] theorem stN_gleaner (n a v : Nat) : (stN n a v m).gleaner = m.gleaner := rfl
@[simp] theorem stN_piper (n a v : Nat) : (stN n a v m).piper = m.piper := rfl
@[simp] theorem stN_stile (n a v : Nat) : (stN n a v m).stile = m.stile := rfl
@[simp] theorem stN_bellows (n a v : Nat) : (stN n a v m).bellows = m.bellows := rfl
@[simp] theorem stN_power (n a v : Nat) : (stN n a v m).power = m.power := rfl
@[simp] theorem stN_jtag (n a v : Nat) : (stN n a v m).jtag = m.jtag := rfl
@[simp] theorem stN_mesh (n a v : Nat) : (stN n a v m).mesh = m.mesh := rfl
@[simp] theorem stN_slots (n a v : Nat) : (stN n a v m).slots = m.slots := rfl
@[simp] theorem stN_eth (n a v : Nat) : (stN n a v m).eth = m.eth := rfl
@[simp] theorem stN_mgmt (n a v : Nat) : (stN n a v m).mgmt = m.mgmt := rfl
@[simp] theorem stN_nvm (n a v : Nat) : (stN n a v m).nvm = m.nvm := rfl
@[simp] theorem stN_scare (n a v : Nat) : (stN n a v m).scare = m.scare := rfl
@[simp] theorem stN_out (n a v : Nat) : (stN n a v m).out = m.out := rfl
@[simp] theorem stN_free (n a v : Nat) : (stN n a v m).free = m.free := rfl

@[simp] theorem st8_time (a : Nat) (v : Word) : (st8 a v m).time = m.time := rfl
@[simp] theorem st8_regs (a : Nat) (v : Word) : (st8 a v m).regs = m.regs := rfl
@[simp] theorem st8_shadow (a : Nat) (v : Word) : (st8 a v m).shadow = m.shadow := rfl
@[simp] theorem st8_waitingWrite (a : Nat) (v : Word) : (st8 a v m).waitingWrite = m.waitingWrite := rfl
@[simp] theorem st8_pendSelMgmt (a : Nat) (v : Word) : (st8 a v m).pendSelMgmt = m.pendSelMgmt := rfl
@[simp] theorem st8_poisonLane (a : Nat) (v : Word) : (st8 a v m).poisonLane = m.poisonLane := rfl
@[simp] theorem st8_poisonField (a : Nat) (v : Word) : (st8 a v m).poisonField = m.poisonField := rfl
@[simp] theorem st8_acc (a : Nat) (v : Word) : (st8 a v m).acc = m.acc := rfl
@[simp] theorem st8_rings (a : Nat) (v : Word) : (st8 a v m).rings = m.rings := rfl
@[simp] theorem st8_engines (a : Nat) (v : Word) : (st8 a v m).engines = m.engines := rfl
@[simp] theorem st8_plan (a : Nat) (v : Word) : (st8 a v m).plan = m.plan := rfl
@[simp] theorem st8_banks (a : Nat) (v : Word) : (st8 a v m).banks = m.banks := rfl
@[simp] theorem st8_tiers (a : Nat) (v : Word) : (st8 a v m).tiers = m.tiers := rfl
@[simp] theorem st8_weights (a : Nat) (v : Word) : (st8 a v m).weights = m.weights := rfl
@[simp] theorem st8_nextWeights (a : Nat) (v : Word) : (st8 a v m).nextWeights = m.nextWeights := rfl
@[simp] theorem st8_tineSeed (a : Nat) (v : Word) : (st8 a v m).tineSeed = m.tineSeed := rfl
@[simp] theorem st8_selfTest (a : Nat) (v : Word) : (st8 a v m).selfTest = m.selfTest := rfl
@[simp] theorem st8_links (a : Nat) (v : Word) : (st8 a v m).links = m.links := rfl
@[simp] theorem st8_net (a : Nat) (v : Word) : (st8 a v m).net = m.net := rfl
@[simp] theorem st8_drone (a : Nat) (v : Word) : (st8 a v m).drone = m.drone := rfl
@[simp] theorem st8_coulter (a : Nat) (v : Word) : (st8 a v m).coulter = m.coulter := rfl
@[simp] theorem st8_keys (a : Nat) (v : Word) : (st8 a v m).keys = m.keys := rfl
@[simp] theorem st8_lastAdapt (a : Nat) (v : Word) : (st8 a v m).lastAdapt = m.lastAdapt := rfl
@[simp] theorem st8_fixSeq (a : Nat) (v : Word) : (st8 a v m).fixSeq = m.fixSeq := rfl
@[simp] theorem st8_gathers (a : Nat) (v : Word) : (st8 a v m).gathers = m.gathers := rfl
@[simp] theorem st8_gleaner (a : Nat) (v : Word) : (st8 a v m).gleaner = m.gleaner := rfl
@[simp] theorem st8_piper (a : Nat) (v : Word) : (st8 a v m).piper = m.piper := rfl
@[simp] theorem st8_stile (a : Nat) (v : Word) : (st8 a v m).stile = m.stile := rfl
@[simp] theorem st8_bellows (a : Nat) (v : Word) : (st8 a v m).bellows = m.bellows := rfl
@[simp] theorem st8_power (a : Nat) (v : Word) : (st8 a v m).power = m.power := rfl
@[simp] theorem st8_jtag (a : Nat) (v : Word) : (st8 a v m).jtag = m.jtag := rfl
@[simp] theorem st8_mesh (a : Nat) (v : Word) : (st8 a v m).mesh = m.mesh := rfl
@[simp] theorem st8_slots (a : Nat) (v : Word) : (st8 a v m).slots = m.slots := rfl
@[simp] theorem st8_eth (a : Nat) (v : Word) : (st8 a v m).eth = m.eth := rfl
@[simp] theorem st8_mgmt (a : Nat) (v : Word) : (st8 a v m).mgmt = m.mgmt := rfl
@[simp] theorem st8_nvm (a : Nat) (v : Word) : (st8 a v m).nvm = m.nvm := rfl
@[simp] theorem st8_scare (a : Nat) (v : Word) : (st8 a v m).scare = m.scare := rfl
@[simp] theorem st8_out (a : Nat) (v : Word) : (st8 a v m).out = m.out := rfl
@[simp] theorem st8_free (a : Nat) (v : Word) : (st8 a v m).free = m.free := rfl

@[simp] theorem stZeros_time (a n : Nat) : (stZeros a n m).time = m.time := rfl
@[simp] theorem stZeros_regs (a n : Nat) : (stZeros a n m).regs = m.regs := rfl
@[simp] theorem stZeros_shadow (a n : Nat) : (stZeros a n m).shadow = m.shadow := rfl
@[simp] theorem stZeros_waitingWrite (a n : Nat) : (stZeros a n m).waitingWrite = m.waitingWrite := rfl
@[simp] theorem stZeros_pendSelMgmt (a n : Nat) : (stZeros a n m).pendSelMgmt = m.pendSelMgmt := rfl
@[simp] theorem stZeros_poisonLane (a n : Nat) : (stZeros a n m).poisonLane = m.poisonLane := rfl
@[simp] theorem stZeros_poisonField (a n : Nat) : (stZeros a n m).poisonField = m.poisonField := rfl
@[simp] theorem stZeros_acc (a n : Nat) : (stZeros a n m).acc = m.acc := rfl
@[simp] theorem stZeros_rings (a n : Nat) : (stZeros a n m).rings = m.rings := rfl
@[simp] theorem stZeros_engines (a n : Nat) : (stZeros a n m).engines = m.engines := rfl
@[simp] theorem stZeros_plan (a n : Nat) : (stZeros a n m).plan = m.plan := rfl
@[simp] theorem stZeros_banks (a n : Nat) : (stZeros a n m).banks = m.banks := rfl
@[simp] theorem stZeros_tiers (a n : Nat) : (stZeros a n m).tiers = m.tiers := rfl
@[simp] theorem stZeros_weights (a n : Nat) : (stZeros a n m).weights = m.weights := rfl
@[simp] theorem stZeros_nextWeights (a n : Nat) : (stZeros a n m).nextWeights = m.nextWeights := rfl
@[simp] theorem stZeros_tineSeed (a n : Nat) : (stZeros a n m).tineSeed = m.tineSeed := rfl
@[simp] theorem stZeros_selfTest (a n : Nat) : (stZeros a n m).selfTest = m.selfTest := rfl
@[simp] theorem stZeros_links (a n : Nat) : (stZeros a n m).links = m.links := rfl
@[simp] theorem stZeros_net (a n : Nat) : (stZeros a n m).net = m.net := rfl
@[simp] theorem stZeros_drone (a n : Nat) : (stZeros a n m).drone = m.drone := rfl
@[simp] theorem stZeros_coulter (a n : Nat) : (stZeros a n m).coulter = m.coulter := rfl
@[simp] theorem stZeros_keys (a n : Nat) : (stZeros a n m).keys = m.keys := rfl
@[simp] theorem stZeros_lastAdapt (a n : Nat) : (stZeros a n m).lastAdapt = m.lastAdapt := rfl
@[simp] theorem stZeros_fixSeq (a n : Nat) : (stZeros a n m).fixSeq = m.fixSeq := rfl
@[simp] theorem stZeros_gathers (a n : Nat) : (stZeros a n m).gathers = m.gathers := rfl
@[simp] theorem stZeros_gleaner (a n : Nat) : (stZeros a n m).gleaner = m.gleaner := rfl
@[simp] theorem stZeros_piper (a n : Nat) : (stZeros a n m).piper = m.piper := rfl
@[simp] theorem stZeros_stile (a n : Nat) : (stZeros a n m).stile = m.stile := rfl
@[simp] theorem stZeros_bellows (a n : Nat) : (stZeros a n m).bellows = m.bellows := rfl
@[simp] theorem stZeros_power (a n : Nat) : (stZeros a n m).power = m.power := rfl
@[simp] theorem stZeros_jtag (a n : Nat) : (stZeros a n m).jtag = m.jtag := rfl
@[simp] theorem stZeros_mesh (a n : Nat) : (stZeros a n m).mesh = m.mesh := rfl
@[simp] theorem stZeros_slots (a n : Nat) : (stZeros a n m).slots = m.slots := rfl
@[simp] theorem stZeros_eth (a n : Nat) : (stZeros a n m).eth = m.eth := rfl
@[simp] theorem stZeros_mgmt (a n : Nat) : (stZeros a n m).mgmt = m.mgmt := rfl
@[simp] theorem stZeros_nvm (a n : Nat) : (stZeros a n m).nvm = m.nvm := rfl
@[simp] theorem stZeros_scare (a n : Nat) : (stZeros a n m).scare = m.scare := rfl
@[simp] theorem stZeros_out (a n : Nat) : (stZeros a n m).out = m.out := rfl
@[simp] theorem stZeros_free (a n : Nat) : (stZeros a n m).free = m.free := rfl

@[simp] theorem clearWhole_time (a n : Nat) : (clearWhole a n m).time = m.time := rfl
@[simp] theorem clearWhole_regs (a n : Nat) : (clearWhole a n m).regs = m.regs := rfl
@[simp] theorem clearWhole_shadow (a n : Nat) : (clearWhole a n m).shadow = m.shadow := rfl
@[simp] theorem clearWhole_waitingWrite (a n : Nat) : (clearWhole a n m).waitingWrite = m.waitingWrite := rfl
@[simp] theorem clearWhole_pendSelMgmt (a n : Nat) : (clearWhole a n m).pendSelMgmt = m.pendSelMgmt := rfl
@[simp] theorem clearWhole_mem (a n : Nat) : (clearWhole a n m).mem = m.mem := rfl
@[simp] theorem clearWhole_acc (a n : Nat) : (clearWhole a n m).acc = m.acc := rfl
@[simp] theorem clearWhole_rings (a n : Nat) : (clearWhole a n m).rings = m.rings := rfl
@[simp] theorem clearWhole_engines (a n : Nat) : (clearWhole a n m).engines = m.engines := rfl
@[simp] theorem clearWhole_plan (a n : Nat) : (clearWhole a n m).plan = m.plan := rfl
@[simp] theorem clearWhole_banks (a n : Nat) : (clearWhole a n m).banks = m.banks := rfl
@[simp] theorem clearWhole_tiers (a n : Nat) : (clearWhole a n m).tiers = m.tiers := rfl
@[simp] theorem clearWhole_weights (a n : Nat) : (clearWhole a n m).weights = m.weights := rfl
@[simp] theorem clearWhole_nextWeights (a n : Nat) : (clearWhole a n m).nextWeights = m.nextWeights := rfl
@[simp] theorem clearWhole_tineSeed (a n : Nat) : (clearWhole a n m).tineSeed = m.tineSeed := rfl
@[simp] theorem clearWhole_selfTest (a n : Nat) : (clearWhole a n m).selfTest = m.selfTest := rfl
@[simp] theorem clearWhole_links (a n : Nat) : (clearWhole a n m).links = m.links := rfl
@[simp] theorem clearWhole_net (a n : Nat) : (clearWhole a n m).net = m.net := rfl
@[simp] theorem clearWhole_drone (a n : Nat) : (clearWhole a n m).drone = m.drone := rfl
@[simp] theorem clearWhole_coulter (a n : Nat) : (clearWhole a n m).coulter = m.coulter := rfl
@[simp] theorem clearWhole_keys (a n : Nat) : (clearWhole a n m).keys = m.keys := rfl
@[simp] theorem clearWhole_lastAdapt (a n : Nat) : (clearWhole a n m).lastAdapt = m.lastAdapt := rfl
@[simp] theorem clearWhole_fixSeq (a n : Nat) : (clearWhole a n m).fixSeq = m.fixSeq := rfl
@[simp] theorem clearWhole_gathers (a n : Nat) : (clearWhole a n m).gathers = m.gathers := rfl
@[simp] theorem clearWhole_gleaner (a n : Nat) : (clearWhole a n m).gleaner = m.gleaner := rfl
@[simp] theorem clearWhole_piper (a n : Nat) : (clearWhole a n m).piper = m.piper := rfl
@[simp] theorem clearWhole_stile (a n : Nat) : (clearWhole a n m).stile = m.stile := rfl
@[simp] theorem clearWhole_bellows (a n : Nat) : (clearWhole a n m).bellows = m.bellows := rfl
@[simp] theorem clearWhole_power (a n : Nat) : (clearWhole a n m).power = m.power := rfl
@[simp] theorem clearWhole_jtag (a n : Nat) : (clearWhole a n m).jtag = m.jtag := rfl
@[simp] theorem clearWhole_mesh (a n : Nat) : (clearWhole a n m).mesh = m.mesh := rfl
@[simp] theorem clearWhole_slots (a n : Nat) : (clearWhole a n m).slots = m.slots := rfl
@[simp] theorem clearWhole_eth (a n : Nat) : (clearWhole a n m).eth = m.eth := rfl
@[simp] theorem clearWhole_mgmt (a n : Nat) : (clearWhole a n m).mgmt = m.mgmt := rfl
@[simp] theorem clearWhole_nvm (a n : Nat) : (clearWhole a n m).nvm = m.nvm := rfl
@[simp] theorem clearWhole_scare (a n : Nat) : (clearWhole a n m).scare = m.scare := rfl
@[simp] theorem clearWhole_out (a n : Nat) : (clearWhole a n m).out = m.out := rfl
@[simp] theorem clearWhole_free (a n : Nat) : (clearWhole a n m).free = m.free := rfl

@[simp] theorem poisonRange_time (a n : Nat) : (poisonRange a n m).time = m.time := rfl
@[simp] theorem poisonRange_regs (a n : Nat) : (poisonRange a n m).regs = m.regs := rfl
@[simp] theorem poisonRange_shadow (a n : Nat) : (poisonRange a n m).shadow = m.shadow := rfl
@[simp] theorem poisonRange_waitingWrite (a n : Nat) : (poisonRange a n m).waitingWrite = m.waitingWrite := rfl
@[simp] theorem poisonRange_pendSelMgmt (a n : Nat) : (poisonRange a n m).pendSelMgmt = m.pendSelMgmt := rfl
@[simp] theorem poisonRange_mem (a n : Nat) : (poisonRange a n m).mem = m.mem := rfl
@[simp] theorem poisonRange_acc (a n : Nat) : (poisonRange a n m).acc = m.acc := rfl
@[simp] theorem poisonRange_rings (a n : Nat) : (poisonRange a n m).rings = m.rings := rfl
@[simp] theorem poisonRange_engines (a n : Nat) : (poisonRange a n m).engines = m.engines := rfl
@[simp] theorem poisonRange_plan (a n : Nat) : (poisonRange a n m).plan = m.plan := rfl
@[simp] theorem poisonRange_banks (a n : Nat) : (poisonRange a n m).banks = m.banks := rfl
@[simp] theorem poisonRange_tiers (a n : Nat) : (poisonRange a n m).tiers = m.tiers := rfl
@[simp] theorem poisonRange_weights (a n : Nat) : (poisonRange a n m).weights = m.weights := rfl
@[simp] theorem poisonRange_nextWeights (a n : Nat) : (poisonRange a n m).nextWeights = m.nextWeights := rfl
@[simp] theorem poisonRange_tineSeed (a n : Nat) : (poisonRange a n m).tineSeed = m.tineSeed := rfl
@[simp] theorem poisonRange_selfTest (a n : Nat) : (poisonRange a n m).selfTest = m.selfTest := rfl
@[simp] theorem poisonRange_links (a n : Nat) : (poisonRange a n m).links = m.links := rfl
@[simp] theorem poisonRange_net (a n : Nat) : (poisonRange a n m).net = m.net := rfl
@[simp] theorem poisonRange_drone (a n : Nat) : (poisonRange a n m).drone = m.drone := rfl
@[simp] theorem poisonRange_coulter (a n : Nat) : (poisonRange a n m).coulter = m.coulter := rfl
@[simp] theorem poisonRange_keys (a n : Nat) : (poisonRange a n m).keys = m.keys := rfl
@[simp] theorem poisonRange_lastAdapt (a n : Nat) : (poisonRange a n m).lastAdapt = m.lastAdapt := rfl
@[simp] theorem poisonRange_fixSeq (a n : Nat) : (poisonRange a n m).fixSeq = m.fixSeq := rfl
@[simp] theorem poisonRange_gathers (a n : Nat) : (poisonRange a n m).gathers = m.gathers := rfl
@[simp] theorem poisonRange_gleaner (a n : Nat) : (poisonRange a n m).gleaner = m.gleaner := rfl
@[simp] theorem poisonRange_piper (a n : Nat) : (poisonRange a n m).piper = m.piper := rfl
@[simp] theorem poisonRange_stile (a n : Nat) : (poisonRange a n m).stile = m.stile := rfl
@[simp] theorem poisonRange_bellows (a n : Nat) : (poisonRange a n m).bellows = m.bellows := rfl
@[simp] theorem poisonRange_power (a n : Nat) : (poisonRange a n m).power = m.power := rfl
@[simp] theorem poisonRange_jtag (a n : Nat) : (poisonRange a n m).jtag = m.jtag := rfl
@[simp] theorem poisonRange_mesh (a n : Nat) : (poisonRange a n m).mesh = m.mesh := rfl
@[simp] theorem poisonRange_slots (a n : Nat) : (poisonRange a n m).slots = m.slots := rfl
@[simp] theorem poisonRange_eth (a n : Nat) : (poisonRange a n m).eth = m.eth := rfl
@[simp] theorem poisonRange_mgmt (a n : Nat) : (poisonRange a n m).mgmt = m.mgmt := rfl
@[simp] theorem poisonRange_nvm (a n : Nat) : (poisonRange a n m).nvm = m.nvm := rfl
@[simp] theorem poisonRange_scare (a n : Nat) : (poisonRange a n m).scare = m.scare := rfl
@[simp] theorem poisonRange_out (a n : Nat) : (poisonRange a n m).out = m.out := rfl
@[simp] theorem poisonRange_free (a n : Nat) : (poisonRange a n m).free = m.free := rfl

@[simp] theorem stData_time (a : Nat) (bs : List Byte) : (stData a bs m).time = m.time := rfl
@[simp] theorem stData_regs (a : Nat) (bs : List Byte) : (stData a bs m).regs = m.regs := rfl
@[simp] theorem stData_shadow (a : Nat) (bs : List Byte) : (stData a bs m).shadow = m.shadow := rfl
@[simp] theorem stData_waitingWrite (a : Nat) (bs : List Byte) : (stData a bs m).waitingWrite = m.waitingWrite := rfl
@[simp] theorem stData_pendSelMgmt (a : Nat) (bs : List Byte) : (stData a bs m).pendSelMgmt = m.pendSelMgmt := rfl
@[simp] theorem stData_acc (a : Nat) (bs : List Byte) : (stData a bs m).acc = m.acc := rfl
@[simp] theorem stData_rings (a : Nat) (bs : List Byte) : (stData a bs m).rings = m.rings := rfl
@[simp] theorem stData_engines (a : Nat) (bs : List Byte) : (stData a bs m).engines = m.engines := rfl
@[simp] theorem stData_plan (a : Nat) (bs : List Byte) : (stData a bs m).plan = m.plan := rfl
@[simp] theorem stData_banks (a : Nat) (bs : List Byte) : (stData a bs m).banks = m.banks := rfl
@[simp] theorem stData_tiers (a : Nat) (bs : List Byte) : (stData a bs m).tiers = m.tiers := rfl
@[simp] theorem stData_weights (a : Nat) (bs : List Byte) : (stData a bs m).weights = m.weights := rfl
@[simp] theorem stData_nextWeights (a : Nat) (bs : List Byte) : (stData a bs m).nextWeights = m.nextWeights := rfl
@[simp] theorem stData_tineSeed (a : Nat) (bs : List Byte) : (stData a bs m).tineSeed = m.tineSeed := rfl
@[simp] theorem stData_selfTest (a : Nat) (bs : List Byte) : (stData a bs m).selfTest = m.selfTest := rfl
@[simp] theorem stData_links (a : Nat) (bs : List Byte) : (stData a bs m).links = m.links := rfl
@[simp] theorem stData_net (a : Nat) (bs : List Byte) : (stData a bs m).net = m.net := rfl
@[simp] theorem stData_drone (a : Nat) (bs : List Byte) : (stData a bs m).drone = m.drone := rfl
@[simp] theorem stData_coulter (a : Nat) (bs : List Byte) : (stData a bs m).coulter = m.coulter := rfl
@[simp] theorem stData_keys (a : Nat) (bs : List Byte) : (stData a bs m).keys = m.keys := rfl
@[simp] theorem stData_lastAdapt (a : Nat) (bs : List Byte) : (stData a bs m).lastAdapt = m.lastAdapt := rfl
@[simp] theorem stData_fixSeq (a : Nat) (bs : List Byte) : (stData a bs m).fixSeq = m.fixSeq := rfl
@[simp] theorem stData_gathers (a : Nat) (bs : List Byte) : (stData a bs m).gathers = m.gathers := rfl
@[simp] theorem stData_gleaner (a : Nat) (bs : List Byte) : (stData a bs m).gleaner = m.gleaner := rfl
@[simp] theorem stData_piper (a : Nat) (bs : List Byte) : (stData a bs m).piper = m.piper := rfl
@[simp] theorem stData_stile (a : Nat) (bs : List Byte) : (stData a bs m).stile = m.stile := rfl
@[simp] theorem stData_bellows (a : Nat) (bs : List Byte) : (stData a bs m).bellows = m.bellows := rfl
@[simp] theorem stData_power (a : Nat) (bs : List Byte) : (stData a bs m).power = m.power := rfl
@[simp] theorem stData_jtag (a : Nat) (bs : List Byte) : (stData a bs m).jtag = m.jtag := rfl
@[simp] theorem stData_mesh (a : Nat) (bs : List Byte) : (stData a bs m).mesh = m.mesh := rfl
@[simp] theorem stData_slots (a : Nat) (bs : List Byte) : (stData a bs m).slots = m.slots := rfl
@[simp] theorem stData_eth (a : Nat) (bs : List Byte) : (stData a bs m).eth = m.eth := rfl
@[simp] theorem stData_mgmt (a : Nat) (bs : List Byte) : (stData a bs m).mgmt = m.mgmt := rfl
@[simp] theorem stData_nvm (a : Nat) (bs : List Byte) : (stData a bs m).nvm = m.nvm := rfl
@[simp] theorem stData_scare (a : Nat) (bs : List Byte) : (stData a bs m).scare = m.scare := rfl
@[simp] theorem stData_out (a : Nat) (bs : List Byte) : (stData a bs m).out = m.out := rfl
@[simp] theorem stData_free (a : Nat) (bs : List Byte) : (stData a bs m).free = m.free := rfl

@[simp] theorem emit_time (x : Out) : (emit x m).time = m.time := rfl
@[simp] theorem emit_regs (x : Out) : (emit x m).regs = m.regs := rfl
@[simp] theorem emit_shadow (x : Out) : (emit x m).shadow = m.shadow := rfl
@[simp] theorem emit_waitingWrite (x : Out) : (emit x m).waitingWrite = m.waitingWrite := rfl
@[simp] theorem emit_pendSelMgmt (x : Out) : (emit x m).pendSelMgmt = m.pendSelMgmt := rfl
@[simp] theorem emit_mem (x : Out) : (emit x m).mem = m.mem := rfl
@[simp] theorem emit_poisonLane (x : Out) : (emit x m).poisonLane = m.poisonLane := rfl
@[simp] theorem emit_poisonField (x : Out) : (emit x m).poisonField = m.poisonField := rfl
@[simp] theorem emit_acc (x : Out) : (emit x m).acc = m.acc := rfl
@[simp] theorem emit_rings (x : Out) : (emit x m).rings = m.rings := rfl
@[simp] theorem emit_engines (x : Out) : (emit x m).engines = m.engines := rfl
@[simp] theorem emit_plan (x : Out) : (emit x m).plan = m.plan := rfl
@[simp] theorem emit_banks (x : Out) : (emit x m).banks = m.banks := rfl
@[simp] theorem emit_tiers (x : Out) : (emit x m).tiers = m.tiers := rfl
@[simp] theorem emit_weights (x : Out) : (emit x m).weights = m.weights := rfl
@[simp] theorem emit_nextWeights (x : Out) : (emit x m).nextWeights = m.nextWeights := rfl
@[simp] theorem emit_tineSeed (x : Out) : (emit x m).tineSeed = m.tineSeed := rfl
@[simp] theorem emit_selfTest (x : Out) : (emit x m).selfTest = m.selfTest := rfl
@[simp] theorem emit_links (x : Out) : (emit x m).links = m.links := rfl
@[simp] theorem emit_net (x : Out) : (emit x m).net = m.net := rfl
@[simp] theorem emit_drone (x : Out) : (emit x m).drone = m.drone := rfl
@[simp] theorem emit_coulter (x : Out) : (emit x m).coulter = m.coulter := rfl
@[simp] theorem emit_keys (x : Out) : (emit x m).keys = m.keys := rfl
@[simp] theorem emit_lastAdapt (x : Out) : (emit x m).lastAdapt = m.lastAdapt := rfl
@[simp] theorem emit_fixSeq (x : Out) : (emit x m).fixSeq = m.fixSeq := rfl
@[simp] theorem emit_gathers (x : Out) : (emit x m).gathers = m.gathers := rfl
@[simp] theorem emit_gleaner (x : Out) : (emit x m).gleaner = m.gleaner := rfl
@[simp] theorem emit_piper (x : Out) : (emit x m).piper = m.piper := rfl
@[simp] theorem emit_stile (x : Out) : (emit x m).stile = m.stile := rfl
@[simp] theorem emit_bellows (x : Out) : (emit x m).bellows = m.bellows := rfl
@[simp] theorem emit_power (x : Out) : (emit x m).power = m.power := rfl
@[simp] theorem emit_jtag (x : Out) : (emit x m).jtag = m.jtag := rfl
@[simp] theorem emit_mesh (x : Out) : (emit x m).mesh = m.mesh := rfl
@[simp] theorem emit_slots (x : Out) : (emit x m).slots = m.slots := rfl
@[simp] theorem emit_eth (x : Out) : (emit x m).eth = m.eth := rfl
@[simp] theorem emit_mgmt (x : Out) : (emit x m).mgmt = m.mgmt := rfl
@[simp] theorem emit_nvm (x : Out) : (emit x m).nvm = m.nvm := rfl
@[simp] theorem emit_scare (x : Out) : (emit x m).scare = m.scare := rfl
@[simp] theorem emit_free (x : Out) : (emit x m).free = m.free := rfl

@[simp] theorem useFree_time (n : Nat) : (useFree n m).time = m.time := rfl
@[simp] theorem useFree_regs (n : Nat) : (useFree n m).regs = m.regs := rfl
@[simp] theorem useFree_shadow (n : Nat) : (useFree n m).shadow = m.shadow := rfl
@[simp] theorem useFree_waitingWrite (n : Nat) : (useFree n m).waitingWrite = m.waitingWrite := rfl
@[simp] theorem useFree_pendSelMgmt (n : Nat) : (useFree n m).pendSelMgmt = m.pendSelMgmt := rfl
@[simp] theorem useFree_mem (n : Nat) : (useFree n m).mem = m.mem := rfl
@[simp] theorem useFree_poisonLane (n : Nat) : (useFree n m).poisonLane = m.poisonLane := rfl
@[simp] theorem useFree_poisonField (n : Nat) : (useFree n m).poisonField = m.poisonField := rfl
@[simp] theorem useFree_acc (n : Nat) : (useFree n m).acc = m.acc := rfl
@[simp] theorem useFree_rings (n : Nat) : (useFree n m).rings = m.rings := rfl
@[simp] theorem useFree_engines (n : Nat) : (useFree n m).engines = m.engines := rfl
@[simp] theorem useFree_plan (n : Nat) : (useFree n m).plan = m.plan := rfl
@[simp] theorem useFree_banks (n : Nat) : (useFree n m).banks = m.banks := rfl
@[simp] theorem useFree_tiers (n : Nat) : (useFree n m).tiers = m.tiers := rfl
@[simp] theorem useFree_weights (n : Nat) : (useFree n m).weights = m.weights := rfl
@[simp] theorem useFree_nextWeights (n : Nat) : (useFree n m).nextWeights = m.nextWeights := rfl
@[simp] theorem useFree_tineSeed (n : Nat) : (useFree n m).tineSeed = m.tineSeed := rfl
@[simp] theorem useFree_selfTest (n : Nat) : (useFree n m).selfTest = m.selfTest := rfl
@[simp] theorem useFree_links (n : Nat) : (useFree n m).links = m.links := rfl
@[simp] theorem useFree_net (n : Nat) : (useFree n m).net = m.net := rfl
@[simp] theorem useFree_drone (n : Nat) : (useFree n m).drone = m.drone := rfl
@[simp] theorem useFree_coulter (n : Nat) : (useFree n m).coulter = m.coulter := rfl
@[simp] theorem useFree_keys (n : Nat) : (useFree n m).keys = m.keys := rfl
@[simp] theorem useFree_lastAdapt (n : Nat) : (useFree n m).lastAdapt = m.lastAdapt := rfl
@[simp] theorem useFree_fixSeq (n : Nat) : (useFree n m).fixSeq = m.fixSeq := rfl
@[simp] theorem useFree_gathers (n : Nat) : (useFree n m).gathers = m.gathers := rfl
@[simp] theorem useFree_gleaner (n : Nat) : (useFree n m).gleaner = m.gleaner := rfl
@[simp] theorem useFree_piper (n : Nat) : (useFree n m).piper = m.piper := rfl
@[simp] theorem useFree_stile (n : Nat) : (useFree n m).stile = m.stile := rfl
@[simp] theorem useFree_bellows (n : Nat) : (useFree n m).bellows = m.bellows := rfl
@[simp] theorem useFree_power (n : Nat) : (useFree n m).power = m.power := rfl
@[simp] theorem useFree_jtag (n : Nat) : (useFree n m).jtag = m.jtag := rfl
@[simp] theorem useFree_mesh (n : Nat) : (useFree n m).mesh = m.mesh := rfl
@[simp] theorem useFree_slots (n : Nat) : (useFree n m).slots = m.slots := rfl
@[simp] theorem useFree_eth (n : Nat) : (useFree n m).eth = m.eth := rfl
@[simp] theorem useFree_mgmt (n : Nat) : (useFree n m).mgmt = m.mgmt := rfl
@[simp] theorem useFree_nvm (n : Nat) : (useFree n m).nvm = m.nvm := rfl
@[simp] theorem useFree_scare (n : Nat) : (useFree n m).scare = m.scare := rfl
@[simp] theorem useFree_out (n : Nat) : (useFree n m).out = m.out := rfl

@[simp] theorem addLog_time (r : List Byte) : (addLog r m).time = m.time := rfl
@[simp] theorem addLog_regs (r : List Byte) : (addLog r m).regs = m.regs := rfl
@[simp] theorem addLog_shadow (r : List Byte) : (addLog r m).shadow = m.shadow := rfl
@[simp] theorem addLog_waitingWrite (r : List Byte) : (addLog r m).waitingWrite = m.waitingWrite := rfl
@[simp] theorem addLog_pendSelMgmt (r : List Byte) : (addLog r m).pendSelMgmt = m.pendSelMgmt := rfl
@[simp] theorem addLog_mem (r : List Byte) : (addLog r m).mem = m.mem := rfl
@[simp] theorem addLog_poisonLane (r : List Byte) : (addLog r m).poisonLane = m.poisonLane := rfl
@[simp] theorem addLog_poisonField (r : List Byte) : (addLog r m).poisonField = m.poisonField := rfl
@[simp] theorem addLog_acc (r : List Byte) : (addLog r m).acc = m.acc := rfl
@[simp] theorem addLog_rings (r : List Byte) : (addLog r m).rings = m.rings := rfl
@[simp] theorem addLog_engines (r : List Byte) : (addLog r m).engines = m.engines := rfl
@[simp] theorem addLog_plan (r : List Byte) : (addLog r m).plan = m.plan := rfl
@[simp] theorem addLog_banks (r : List Byte) : (addLog r m).banks = m.banks := rfl
@[simp] theorem addLog_tiers (r : List Byte) : (addLog r m).tiers = m.tiers := rfl
@[simp] theorem addLog_weights (r : List Byte) : (addLog r m).weights = m.weights := rfl
@[simp] theorem addLog_nextWeights (r : List Byte) : (addLog r m).nextWeights = m.nextWeights := rfl
@[simp] theorem addLog_tineSeed (r : List Byte) : (addLog r m).tineSeed = m.tineSeed := rfl
@[simp] theorem addLog_selfTest (r : List Byte) : (addLog r m).selfTest = m.selfTest := rfl
@[simp] theorem addLog_links (r : List Byte) : (addLog r m).links = m.links := rfl
@[simp] theorem addLog_net (r : List Byte) : (addLog r m).net = m.net := rfl
@[simp] theorem addLog_drone (r : List Byte) : (addLog r m).drone = m.drone := rfl
@[simp] theorem addLog_coulter (r : List Byte) : (addLog r m).coulter = m.coulter := rfl
@[simp] theorem addLog_keys (r : List Byte) : (addLog r m).keys = m.keys := rfl
@[simp] theorem addLog_lastAdapt (r : List Byte) : (addLog r m).lastAdapt = m.lastAdapt := rfl
@[simp] theorem addLog_fixSeq (r : List Byte) : (addLog r m).fixSeq = m.fixSeq := rfl
@[simp] theorem addLog_gathers (r : List Byte) : (addLog r m).gathers = m.gathers := rfl
@[simp] theorem addLog_gleaner (r : List Byte) : (addLog r m).gleaner = m.gleaner := rfl
@[simp] theorem addLog_piper (r : List Byte) : (addLog r m).piper = m.piper := rfl
@[simp] theorem addLog_stile (r : List Byte) : (addLog r m).stile = m.stile := rfl
@[simp] theorem addLog_bellows (r : List Byte) : (addLog r m).bellows = m.bellows := rfl
@[simp] theorem addLog_power (r : List Byte) : (addLog r m).power = m.power := rfl
@[simp] theorem addLog_jtag (r : List Byte) : (addLog r m).jtag = m.jtag := rfl
@[simp] theorem addLog_mesh (r : List Byte) : (addLog r m).mesh = m.mesh := rfl
@[simp] theorem addLog_slots (r : List Byte) : (addLog r m).slots = m.slots := rfl
@[simp] theorem addLog_eth (r : List Byte) : (addLog r m).eth = m.eth := rfl
@[simp] theorem addLog_mgmt (r : List Byte) : (addLog r m).mgmt = m.mgmt := rfl
@[simp] theorem addLog_scare (r : List Byte) : (addLog r m).scare = m.scare := rfl
@[simp] theorem addLog_out (r : List Byte) : (addLog r m).out = m.out := rfl
@[simp] theorem addLog_free (r : List Byte) : (addLog r m).free = m.free := rfl

@[simp] theorem summaryEvent_time : (summaryEvent m).time = m.time := rfl
@[simp] theorem summaryEvent_regs : (summaryEvent m).regs = m.regs := rfl
@[simp] theorem summaryEvent_shadow : (summaryEvent m).shadow = m.shadow := rfl
@[simp] theorem summaryEvent_waitingWrite : (summaryEvent m).waitingWrite = m.waitingWrite := rfl
@[simp] theorem summaryEvent_pendSelMgmt : (summaryEvent m).pendSelMgmt = m.pendSelMgmt := rfl
@[simp] theorem summaryEvent_mem : (summaryEvent m).mem = m.mem := rfl
@[simp] theorem summaryEvent_poisonLane : (summaryEvent m).poisonLane = m.poisonLane := rfl
@[simp] theorem summaryEvent_poisonField : (summaryEvent m).poisonField = m.poisonField := rfl
@[simp] theorem summaryEvent_acc : (summaryEvent m).acc = m.acc := rfl
@[simp] theorem summaryEvent_rings : (summaryEvent m).rings = m.rings := rfl
@[simp] theorem summaryEvent_engines : (summaryEvent m).engines = m.engines := rfl
@[simp] theorem summaryEvent_plan : (summaryEvent m).plan = m.plan := rfl
@[simp] theorem summaryEvent_banks : (summaryEvent m).banks = m.banks := rfl
@[simp] theorem summaryEvent_tiers : (summaryEvent m).tiers = m.tiers := rfl
@[simp] theorem summaryEvent_weights : (summaryEvent m).weights = m.weights := rfl
@[simp] theorem summaryEvent_nextWeights : (summaryEvent m).nextWeights = m.nextWeights := rfl
@[simp] theorem summaryEvent_tineSeed : (summaryEvent m).tineSeed = m.tineSeed := rfl
@[simp] theorem summaryEvent_selfTest : (summaryEvent m).selfTest = m.selfTest := rfl
@[simp] theorem summaryEvent_links : (summaryEvent m).links = m.links := rfl
@[simp] theorem summaryEvent_net : (summaryEvent m).net = m.net := rfl
@[simp] theorem summaryEvent_drone : (summaryEvent m).drone = m.drone := rfl
@[simp] theorem summaryEvent_coulter : (summaryEvent m).coulter = m.coulter := rfl
@[simp] theorem summaryEvent_keys : (summaryEvent m).keys = m.keys := rfl
@[simp] theorem summaryEvent_lastAdapt : (summaryEvent m).lastAdapt = m.lastAdapt := rfl
@[simp] theorem summaryEvent_fixSeq : (summaryEvent m).fixSeq = m.fixSeq := rfl
@[simp] theorem summaryEvent_gathers : (summaryEvent m).gathers = m.gathers := rfl
@[simp] theorem summaryEvent_gleaner : (summaryEvent m).gleaner = m.gleaner := rfl
@[simp] theorem summaryEvent_piper : (summaryEvent m).piper = m.piper := rfl
@[simp] theorem summaryEvent_stile : (summaryEvent m).stile = m.stile := rfl
@[simp] theorem summaryEvent_bellows : (summaryEvent m).bellows = m.bellows := rfl
@[simp] theorem summaryEvent_power : (summaryEvent m).power = m.power := rfl
@[simp] theorem summaryEvent_jtag : (summaryEvent m).jtag = m.jtag := rfl
@[simp] theorem summaryEvent_mesh : (summaryEvent m).mesh = m.mesh := rfl
@[simp] theorem summaryEvent_slots : (summaryEvent m).slots = m.slots := rfl
@[simp] theorem summaryEvent_eth : (summaryEvent m).eth = m.eth := rfl
@[simp] theorem summaryEvent_nvm : (summaryEvent m).nvm = m.nvm := rfl
@[simp] theorem summaryEvent_scare : (summaryEvent m).scare = m.scare := rfl
@[simp] theorem summaryEvent_out : (summaryEvent m).out = m.out := rfl
@[simp] theorem summaryEvent_free : (summaryEvent m).free = m.free := rfl

@[simp] theorem tick_regs : (tick m).regs = m.regs := rfl
@[simp] theorem tick_shadow : (tick m).shadow = m.shadow := rfl
@[simp] theorem tick_waitingWrite : (tick m).waitingWrite = m.waitingWrite := rfl
@[simp] theorem tick_pendSelMgmt : (tick m).pendSelMgmt = m.pendSelMgmt := rfl
@[simp] theorem tick_mem : (tick m).mem = m.mem := rfl
@[simp] theorem tick_poisonLane : (tick m).poisonLane = m.poisonLane := rfl
@[simp] theorem tick_poisonField : (tick m).poisonField = m.poisonField := rfl
@[simp] theorem tick_acc : (tick m).acc = m.acc := rfl
@[simp] theorem tick_rings : (tick m).rings = m.rings := rfl
@[simp] theorem tick_engines : (tick m).engines = m.engines := rfl
@[simp] theorem tick_plan : (tick m).plan = m.plan := rfl
@[simp] theorem tick_banks : (tick m).banks = m.banks := rfl
@[simp] theorem tick_tiers : (tick m).tiers = m.tiers := rfl
@[simp] theorem tick_weights : (tick m).weights = m.weights := rfl
@[simp] theorem tick_nextWeights : (tick m).nextWeights = m.nextWeights := rfl
@[simp] theorem tick_tineSeed : (tick m).tineSeed = m.tineSeed := rfl
@[simp] theorem tick_selfTest : (tick m).selfTest = m.selfTest := rfl
@[simp] theorem tick_links : (tick m).links = m.links := rfl
@[simp] theorem tick_net : (tick m).net = m.net := rfl
@[simp] theorem tick_drone : (tick m).drone = m.drone := rfl
@[simp] theorem tick_coulter : (tick m).coulter = m.coulter := rfl
@[simp] theorem tick_keys : (tick m).keys = m.keys := rfl
@[simp] theorem tick_lastAdapt : (tick m).lastAdapt = m.lastAdapt := rfl
@[simp] theorem tick_fixSeq : (tick m).fixSeq = m.fixSeq := rfl
@[simp] theorem tick_gathers : (tick m).gathers = m.gathers := rfl
@[simp] theorem tick_gleaner : (tick m).gleaner = m.gleaner := rfl
@[simp] theorem tick_piper : (tick m).piper = m.piper := rfl
@[simp] theorem tick_stile : (tick m).stile = m.stile := rfl
@[simp] theorem tick_bellows : (tick m).bellows = m.bellows := rfl
@[simp] theorem tick_power : (tick m).power = m.power := rfl
@[simp] theorem tick_jtag : (tick m).jtag = m.jtag := rfl
@[simp] theorem tick_mesh : (tick m).mesh = m.mesh := rfl
@[simp] theorem tick_slots : (tick m).slots = m.slots := rfl
@[simp] theorem tick_eth : (tick m).eth = m.eth := rfl
@[simp] theorem tick_mgmt : (tick m).mgmt = m.mgmt := rfl
@[simp] theorem tick_nvm : (tick m).nvm = m.nvm := rfl
@[simp] theorem tick_scare : (tick m).scare = m.scare := rfl
@[simp] theorem tick_out : (tick m).out = m.out := rfl
@[simp] theorem tick_free : (tick m).free = m.free := rfl

end Sys2Proof.Machine
end

