-- ==== Sys2Proof/Laws/Ops.lean ====
section
/-! SUPPORT. One lemma for each shared operation: what it does to registers, leaves and memory, and that it keeps the
canonical forms. -/
namespace Sys2Proof.Machine

/-! ### Folding -/

/-- What every effect keeps, a fold of effects keeps. -/
theorem forEach_keeps {α : Type} (P : Dev → Prop) (xs : List α) (f : α → Dev → Dev) (m : Dev)
    (hf : ∀ x ∈ xs, ∀ m, P m → P (f x m)) (h : P m) : P (forEach xs f m) := by
  induction xs generalizing m with
  | nil => exact h
  | cons x rest ih =>
    exact ih (f x m) (fun y hy => hf y (by simp [hy])) (hf x (by simp) m h)

theorem when_keeps (P : Dev → Prop) (c : Bool) (f : Dev → Dev) (m : Dev) (hf : P m → P (f m)) (h : P m) :
    P (when c f m) := by
  unfold when
  split
  · exact hf h
  · exact h

@[simp] theorem when_true (f : Dev → Dev) (m : Dev) : when true f m = f m := rfl
@[simp] theorem when_false (f : Dev → Dev) (m : Dev) : when false f m = m := rfl

/-! ### Registers -/

theorem rd_wr_same {m : Dev} (h : regsWf m = true) (o : Nat) (v : Word) : rd o (wr o v m) = v :=
  Sparse.getD_setD_same resetWord h

theorem rd_wr_ne {m : Dev} (h : regsWf m = true) {o p : Nat} (v : Word) (hp : p ≠ o) : rd p (wr o v m) = rd p m :=
  Sparse.getD_setD_ne resetWord h hp

theorem regsWf_wr {m : Dev} (h : regsWf m = true) (o : Nat) (v : Word) : regsWf (wr o v m) = true :=
  Sparse.wfD_setD resetWord h

theorem regsWf_wrF {m : Dev} (h : regsWf m = true) (o : Nat) (f : Fld) (n : Nat) : regsWf (wrF o f n m) = true :=
  regsWf_wr h o _

theorem rd_wrF_ne {m : Dev} (h : regsWf m = true) {o p : Nat} (f : Fld) (n : Nat) (hp : p ≠ o) :
    rd p (wrF o f n m) = rd p m :=
  rd_wr_ne h _ hp

/-- Registers that are equal read alike. -/
theorem rd_congr {m n : Dev} (h : m.regs = n.regs) (o : Nat) : rd o m = rd o n := by
  unfold rd
  rw [h]

/-! ### Fields -/

theorem BitVec_getLsbD_ofNat_shift (n lo w i : Nat) :
    (BitVec.ofNat 64 (n % 2 ^ w * 2 ^ lo)).getLsbD i = (decide (i < 64) && decide (lo ≤ i) && decide (i - lo < w) &&
      n.testBit (i - lo)) := by
  rw [BitVec.getLsbD_ofNat]
  by_cases hi : lo ≤ i
  · have h1 : (n % 2 ^ w * 2 ^ lo).testBit i = (n % 2 ^ w).testBit (i - lo) := by
      rw [Nat.testBit_mul_two_pow]
      simp [hi]
    rw [h1, Nat.testBit_mod_two_pow]
    simp [hi, Bool.and_assoc]
  · have h1 : (n % 2 ^ w * 2 ^ lo).testBit i = false := by
      rw [Nat.testBit_mul_two_pow]
      simp [hi]
    simp [h1, hi]

theorem Fld_mask_getLsbD (f : Fld) (i : Nat) :
    f.mask.getLsbD i = (decide (i < 64) && decide (f.lo ≤ i) && decide (i - f.lo < f.w)) := by
  have h := BitVec_getLsbD_ofNat_shift (2 ^ f.w - 1) f.lo f.w i
  have hm : (2 ^ f.w - 1) % 2 ^ f.w = 2 ^ f.w - 1 := Nat.mod_eq_of_lt (Nat.sub_lt (Nat.two_pow_pos _) (by omega))
  rw [hm] at h
  unfold Fld.mask
  rw [h, Nat.testBit_two_pow_sub_one]
  cases decide (i < 64) <;> cases decide (f.lo ≤ i) <;> cases decide (i - f.lo < f.w) <;> rfl

/-- The bits of a word with a field replaced. -/
theorem Fld_put_getLsbD (f : Fld) (v : Word) (n i : Nat) :
    (f.put v n).getLsbD i = (decide (i < 64) &&
      (if f.lo ≤ i ∧ i - f.lo < f.w then n.testBit (i - f.lo) else v.getLsbD i)) := by
  unfold Fld.put
  rw [BitVec.getLsbD_or, BitVec.getLsbD_and, BitVec.getLsbD_not, BitVec_getLsbD_ofNat_shift, Fld_mask_getLsbD]
  by_cases h1 : i < 64
  · by_cases h2 : f.lo ≤ i
    · by_cases h3 : i - f.lo < f.w
      · simp [h1, h2, h3]
      · simp [h1, h2, h3]
    · simp [h1, h2]
  · have h4 : v.getLsbD i = false := BitVec.getLsbD_of_ge v i (by omega)
    simp [h1, h4]

theorem Fld_get_testBit (f : Fld) (v : Word) (i : Nat) :
    (f.get v).testBit i = (decide (i < f.w) && v.getLsbD (f.lo + i)) := by
  unfold Fld.get bitsAt
  rw [Nat.testBit_mod_two_pow, ← Nat.shiftRight_eq_div_pow, Nat.testBit_shiftRight]
  rfl

/-- A field reads as it was written, cut to its width. -/
theorem Fld_get_put (f : Fld) (v : Word) (n : Nat) (h : f.lo + f.w ≤ 64) : f.get (f.put v n) = n % 2 ^ f.w := by
  apply Nat.eq_of_testBit_eq
  intro i
  rw [Fld_get_testBit, Fld_put_getLsbD, Nat.testBit_mod_two_pow]
  by_cases hi : i < f.w
  · have h1 : f.lo + i < 64 := by omega
    have h2 : f.lo ≤ f.lo + i := by omega
    have h3 : f.lo + i - f.lo = i := by omega
    simp [hi, h1, h3]
  · simp [hi]

/-- A write of one field leaves a field beside it. -/
theorem Fld_get_put_other (f g : Fld) (v : Word) (n : Nat) (h : g.lo + g.w ≤ f.lo ∨ f.lo + f.w ≤ g.lo) (hg : g.lo + g.w ≤ 64) :
    g.get (f.put v n) = g.get v := by
  apply Nat.eq_of_testBit_eq
  intro i
  rw [Fld_get_testBit, Fld_get_testBit, Fld_put_getLsbD]
  by_cases hi : i < g.w
  · have h1 : g.lo + i < 64 := by omega
    have h2 : ¬ (f.lo ≤ g.lo + i ∧ g.lo + i - f.lo < f.w) := by omega
    simp [hi, h1, h2]
  · simp [hi]

theorem rdF_wrF_same {m : Dev} (h : regsWf m = true) (o : Nat) (f : Fld) (n : Nat) (hf : f.lo + f.w ≤ 64) :
    rdF o f (wrF o f n m) = n % 2 ^ f.w := by
  unfold rdF wrF
  rw [rd_wr_same h, Fld_get_put f _ n hf]

theorem rdF_wrF_other {m : Dev} (h : regsWf m = true) (o : Nat) (f g : Fld) (n : Nat)
    (hd : g.lo + g.w ≤ f.lo ∨ f.lo + f.w ≤ g.lo) (hg : g.lo + g.w ≤ 64) : rdF o g (wrF o f n m) = rdF o g m := by
  unfold rdF wrF
  rw [rd_wr_same h, Fld_get_put_other f g _ n hd hg]

theorem rdF_wrF_ne {m : Dev} (h : regsWf m = true) {o p : Nat} (f g : Fld) (n : Nat) (hp : p ≠ o) :
    rdF p g (wrF o f n m) = rdF p g m := by
  unfold rdF
  rw [rd_wrF_ne h f n hp]

theorem Fld_get_lt (f : Fld) (v : Word) : f.get v < 2 ^ f.w := Nat.mod_lt _ (Nat.two_pow_pos _)

/-- A saturating count rises to at most its largest value. -/
theorem rdF_countSat {m : Dev} (h : regsWf m = true) (o : Nat) (f : Fld) (k : Nat) (hf : f.lo + f.w ≤ 64) :
    rdF o f (countSat o f k m) = min (2 ^ f.w - 1) (rdF o f m + k) := by
  unfold countSat
  rw [rdF_wrF_same h o f _ hf]
  unfold satAdd
  apply Nat.mod_eq_of_lt
  have := Nat.two_pow_pos f.w
  omega

/-! ### Causes -/

theorem raise_regs (c : Cause) (m : Dev) : (raise c m).regs = (setLeaf c m).regs := by
  unfold raise watchSummary
  split <;> split <;> rfl

theorem rd_raise (c : Cause) (m : Dev) (o : Nat) : rd o (raise c m) = rd o (setLeaf c m) := rd_congr (raise_regs c m) o

/-- A raised cause changes no register but its leaf register. -/
theorem rd_raise_ne {m : Dev} (h : regsWf m = true) (c : Cause) {o : Nat} (ho : o ≠ c.reg) :
    rd o (raise c m) = rd o m := by
  rw [rd_raise]
  exact rd_wr_ne h _ ho

theorem rdF_raise_ne {m : Dev} (h : regsWf m = true) (c : Cause) {o : Nat} (f : Fld) (ho : o ≠ c.reg) :
    rdF o f (raise c m) = rdF o f m := by
  unfold rdF
  rw [rd_raise_ne h c ho]

theorem regsWf_raise {m : Dev} (h : regsWf m = true) (c : Cause) : regsWf (raise c m) = true := by
  unfold regsWf
  rw [raise_regs]
  exact regsWf_wr h _ _

/-- A raised cause's leaf is set. -/
theorem leafSet_raise {m : Dev} (h : regsWf m = true) (c : Cause) : leafSet c (raise c m) = true := by
  unfold leafSet
  rw [rd_raise]
  unfold setLeaf
  rw [rd_wr_same h, BitVec.getLsbD_or, BitVec.getLsbD_ofNat]
  have hb : c.leaf % 64 < 64 := Nat.mod_lt _ (by omega)
  simp [hb]

theorem leafSet_of_rd {c : Cause} {m n : Dev} (h : rd c.reg m = rd c.reg n) : leafSet c m = leafSet c n := by
  unfold leafSet
  rw [h]

theorem raise_mem (c : Cause) (m : Dev) : (raise c m).mem = m.mem := by
  unfold raise watchSummary
  split <;> split <;> rfl

theorem raise_time (c : Cause) (m : Dev) : (raise c m).time = m.time := by
  unfold raise watchSummary
  split <;> split <;> rfl

theorem raise_poisonLane (c : Cause) (m : Dev) : (raise c m).poisonLane = m.poisonLane := by
  unfold raise watchSummary
  split <;> split <;> rfl

theorem raise_poisonField (c : Cause) (m : Dev) : (raise c m).poisonField = m.poisonField := by
  unfold raise watchSummary
  split <;> split <;> rfl

theorem raise_keys (c : Cause) (m : Dev) : (raise c m).keys = m.keys := by
  unfold raise watchSummary
  split <;> split <;> rfl

/-! ### Memory -/

theorem memPut_wf (mem : List Host.Cell) (a : Nat) (bs : List Byte) (h : Memory.wf mem = true) :
    Memory.wf (memPut mem a bs) = true := by
  induction bs generalizing mem a with
  | nil => exact h
  | cons b rest ih => exact ih _ _ (Sparse.wfD_upd (0 : Byte) h)

/-- Every write of bytes keeps the canonical form of memory. -/
theorem stBytes_wf {m : Dev} (a : Nat) (bs : List Byte) (h : Memory.wf m.mem = true) :
    Memory.wf (stBytes a bs m).mem = true :=
  memPut_wf _ _ _ h

theorem stData_wf {m : Dev} (a : Nat) (bs : List Byte) (h : Memory.wf m.mem = true) :
    Memory.wf (stData a bs m).mem = true :=
  memPut_wf _ _ _ h

theorem memPut_get_out (mem : List Host.Cell) (a : Nat) (bs : List Byte) (h : Memory.wf mem = true) (x : Nat)
    (hx : x < a ∨ a + bs.length ≤ x) : Sparse.get (0 : Byte) (memPut mem a bs) x = Sparse.get (0 : Byte) mem x := by
  induction bs generalizing mem a with
  | nil => rfl
  | cons b rest ih =>
    have hne : x ≠ a := by
      simp only [List.length_cons] at hx
      omega
    have h2 : x < a + 1 ∨ a + 1 + rest.length ≤ x := by
      simp only [List.length_cons] at hx
      omega
    rw [memPut, ih _ _ (Sparse.wfD_upd (0 : Byte) h) h2, Sparse.get_upd_ne (0 : Byte) h hne]

theorem memPut_get_in (mem : List Host.Cell) (a : Nat) (bs : List Byte) (h : Memory.wf mem = true) (i : Nat)
    (hi : i < bs.length) : Sparse.get (0 : Byte) (memPut mem a bs) (a + i) = bs.getD i 0 := by
  induction bs generalizing mem a i with
  | nil => simp at hi
  | cons b rest ih =>
    have hw := Sparse.wfD_upd (0 : Byte) (k := a) (x := b) h
    cases i with
    | zero =>
      rw [memPut, memPut_get_out _ _ _ hw (a + 0) (by omega)]
      simpa using Sparse.get_upd_same (0 : Byte) (k := a) (x := b) h
    | succ j =>
      have hj : j < rest.length := by simpa using hi
      have e : a + (j + 1) = a + 1 + j := by omega
      rw [memPut, e, ih _ _ hw j hj]
      simp

/-- A byte outside a write keeps its value. -/
theorem ldByte_stBytes_out {m : Dev} (h : Memory.wf m.mem = true) (a : Nat) (bs : List Byte) (x : Nat)
    (hx : x < a ∨ a + bs.length ≤ x) : ldByte x (stBytes a bs m) = ldByte x m :=
  memPut_get_out _ _ _ h x hx

/-- A byte inside a write has the value written. -/
theorem ldByte_stBytes_in {m : Dev} (h : Memory.wf m.mem = true) (a : Nat) (bs : List Byte) (i : Nat) (hi : i < bs.length) :
    ldByte (a + i) (stBytes a bs m) = bs.getD i 0 :=
  memPut_get_in _ _ _ h i hi

/-- What was written is read back. -/
theorem ldBytes_stBytes_same {m : Dev} (h : Memory.wf m.mem = true) (a : Nat) (bs : List Byte) :
    ldBytes a bs.length (stBytes a bs m) = bs := by
  apply List.ext_getElem
  · simp [ldBytes]
  · intro i h1 h2
    simp only [ldBytes, List.getElem_map, List.getElem_range]
    rw [ldByte_stBytes_in h a bs i h2]
    simp [List.getD, h2]

/-- The first bytes of what was written are read back. -/
theorem ldBytes_stBytes_take {m : Dev} (h : Memory.wf m.mem = true) (a n : Nat) (bs : List Byte) (hn : n ≤ bs.length) :
    ldBytes a n (stBytes a bs m) = bs.take n := by
  have e : (ldBytes a bs.length (stBytes a bs m)).take n = bs.take n := by rw [ldBytes_stBytes_same h a bs]
  simpa [ldBytes, ← List.map_take, List.take_range, Nat.min_eq_left hn] using e

theorem ldByte_congr {m n : Dev} (h : m.mem = n.mem) (a : Nat) : ldByte a m = ldByte a n := by
  unfold ldByte
  rw [h]

/-- A write of bytes keeps a module sound. -/
theorem sound_stBytes {m : Dev} (h : m.sound = true) (a : Nat) (bs : List Byte) : (stBytes a bs m).sound = true := by
  simp only [Dev.sound, Bool.and_eq_true] at h ⊢
  exact ⟨⟨⟨⟨⟨⟨⟨memPut_wf _ a bs h.1.1.1.1.1.1.1, h.1.1.1.1.1.1.2⟩, h.1.1.1.1.1.2⟩, h.1.1.1.1.2⟩, h.1.1.1.2⟩, h.1.1.2⟩, h.1.2⟩, h.2⟩

/-! ### Little-endian numbers -/

theorem toLe_length (n v : Nat) : (toLe n v).length = n := by
  induction n generalizing v with
  | zero => rfl
  | succ n ih => simp [toLe, ih]

theorem leNat_toLe (n v : Nat) : leNat (toLe n v) = v % 256 ^ n := by
  induction n generalizing v with
  | zero => simp [toLe, leNat, Nat.mod_one]
  | succ n ih =>
    have hb : (BitVec.ofNat 8 v).toNat = v % 256 := by simp [BitVec.toNat_ofNat]
    rw [toLe, leNat, ih, hb, Nat.pow_succ, Nat.mul_comm (256 ^ n) 256, Nat.mod_mul]

/-! ### Poison marks -/

theorem marksPut_wf (marks : Sparse Bool) (us : List Nat) (p : Bool) (h : marks.wfD (fun _ => false) = true) :
    (marksPut marks us p).wfD (fun _ => false) = true := by
  unfold marksPut
  induction us generalizing marks with
  | nil => exact h
  | cons u rest ih => exact ih _ (Sparse.wfD_upd false h)

theorem marksWf_clearWhole {m : Dev} (h : marksWf m = true) (a n : Nat) : marksWf (clearWhole a n m) = true := by
  unfold marksWf at h ⊢
  rw [Bool.and_eq_true] at h ⊢
  constructor
  · show Sparse.wfD _ (if inWindow a then _ else _) = true
    split
    · exact marksPut_wf _ _ _ h.1
    · exact h.1
  · show Sparse.wfD _ (if inMarked a then _ else _) = true
    split
    · exact marksPut_wf _ _ _ h.2
    · exact h.2

theorem marksWf_poisonRange {m : Dev} (h : marksWf m = true) (a n : Nat) : marksWf (poisonRange a n m) = true := by
  unfold marksWf at h ⊢
  rw [Bool.and_eq_true] at h ⊢
  constructor
  · show Sparse.wfD _ (if (inWindow a && decide (n ≠ 0)) = true then _ else _) = true
    split
    · exact marksPut_wf _ _ _ h.1
    · exact h.1
  · show Sparse.wfD _ (if (inMarked a && decide (n ≠ 0)) = true then _ else _) = true
    split
    · exact marksPut_wf _ _ _ h.2
    · exact h.2

end Sys2Proof.Machine
end

