-- ==== Sys2Proof/Laws/Nvm.lean ====
section
/-! SUPPORT. What a copy of an NVM partition holds once it has been written with its footer (R453, R454). -/
namespace Sys2Proof.Machine

/-! ### Lengths of digests -/

theorem keccakRound_length (s : List Word) (rc : Word) : (keccakRound s rc).length = 25 := by
  simp [keccakRound]

theorem foldl_keccak_length (cs : List Word) (s : List Word) (h : s.length = 25) :
    (cs.foldl keccakRound s).length = 25 := by
  induction cs generalizing s with
  | nil => exact h
  | cons c rest ih => exact ih _ (keccakRound_length s c)

theorem keccakF_length (s : List Word) (h : s.length = 25) : (keccakF s).length = 25 :=
  foldl_keccak_length _ _ h

theorem absorbAll_length (n : Nat) (bs : List Byte) (s : List Word) (h : s.length = 25) :
    (absorbAll n bs s).length = 25 := by
  induction n generalizing bs s with
  | zero => exact h
  | succ n ih => exact ih _ _ (keccakF_length _ (by simp))

theorem flatten_toLe_length (k : Nat) (ws : List Word) :
    ((ws.map (fun w => toLe k w.toNat)).flatten).length = k * ws.length := by
  induction ws with
  | nil => simp
  | cons w rest ih =>
    rw [List.map_cons, List.flatten_cons, List.length_append, ih, toLe_length, List.length_cons, Nat.mul_succ, Nat.add_comm]

theorem squeeze_length (n : Nat) (s : List Word) (h : s.length = 25) : (squeeze n s).length = 136 * n := by
  induction n generalizing s with
  | zero => rfl
  | succ n ih =>
    rw [squeeze, List.length_append, ih _ (keccakF_length s h), flatten_toLe_length, List.length_take, h]
    omega

/-- A digest has the length asked for. -/
theorem shake256_length (n : Nat) (bs : List Byte) : (shake256 n bs).length = n := by
  simp only [shake256, List.length_take]
  rw [squeeze_length _ _ (absorbAll_length _ _ _ (by simp))]
  omega

/-! ### Bytes of NVM -/

theorem nvmBytes_length (a n : Nat) (m : Dev) : (nvmBytes a n m).length = n := by simp [nvmBytes]

/-- A read inside what was written gives that part of it. -/
theorem nvmBytes_nvmPut_in {m : Dev} (h : Memory.wf m.nvm.bytes = true) (a o n : Nat) (bs : List Byte)
    (hn : o + n ≤ bs.length) : nvmBytes (a + o) n (nvmPut a bs m) = (bs.drop o).take n := by
  apply List.ext_getElem
  · simp only [nvmBytes_length, List.length_take, List.length_drop]
    omega
  · intro i h1 h2
    have hi : i < n := by simpa [nvmBytes_length] using h1
    have hb : o + i < bs.length := by omega
    simp only [nvmBytes, nvmPut, List.getElem_map, List.getElem_range, List.getElem_take, List.getElem_drop]
    rw [Nat.add_assoc, memPut_get_in _ _ _ h (o + i) hb]
    simp [List.getD, hb]

/-- A read outside what was written gives what it gave. -/
theorem nvmBytes_nvmPut_out {m : Dev} (h : Memory.wf m.nvm.bytes = true) (a x n : Nat) (bs : List Byte)
    (hx : x + n ≤ a ∨ a + bs.length ≤ x) : nvmBytes x n (nvmPut a bs m) = nvmBytes x n m := by
  apply List.map_congr_left
  intro i hi
  have := List.mem_range.1 hi
  exact memPut_get_out _ _ _ h _ (by omega)

/-- The first bytes of a read. -/
theorem take_nvmBytes (a n k : Nat) (m : Dev) (h : k ≤ n) : (nvmBytes a n m).take k = nvmBytes a k m := by
  simp [nvmBytes, ← List.map_take, List.take_range, Nat.min_eq_left h]

theorem nvmPut_wf {m : Dev} (h : Memory.wf m.nvm.bytes = true) (a : Nat) (bs : List Byte) :
    Memory.wf (nvmPut a bs m).nvm.bytes = true := memPut_wf _ _ _ h

theorem footerBytes_length (gen state : Nat) (content : List Byte) : (footerBytes gen state content).length = 64 := by
  simp [footerBytes, toLe_length, shake256_length]

/-- The parts of a footer. -/
theorem footerBytes_parts (gen state : Nat) (content : List Byte) :
    (footerBytes gen state content).take 4 = [0x47#8, 0x5A#8, 0x4E#8, 0x56#8] ∧
    ((footerBytes gen state content).drop 4).take 4 = toLe 4 gen ∧
    ((footerBytes gen state content).drop 8).take 1 = toLe 1 state ∧
    ((footerBytes gen state content).drop 12).take 4 = toLe 4 content.length ∧
    ((footerBytes gen state content).drop 16).take 32 = shake256 32 content := by
  have hl : (shake256 32 content).length = 32 := shake256_length _ _
  refine ⟨?_, ?_, ?_, ?_, ?_⟩ <;> simp [footerBytes, toLe, hl]

section
variable {m : Dev} {p : NvmPart} {c : Nat} (h : Memory.wf m.nvm.bytes = true) (hp : footerAt (p.footer + c) + 64 ≤ p.copy c)
  (gen state : Nat) (content : List Byte)
include h

theorem writeCopy_footer (o n : Nat) (hn : o + n ≤ 64) :
    nvmBytes (footerAt (p.footer + c) + o) n (writeCopy p c gen state content m) =
      ((footerBytes gen state content).drop o).take n :=
  nvmBytes_nvmPut_in (nvmPut_wf h _ _) _ _ _ _ (by rw [footerBytes_length]; exact hn)

theorem ftGen_writeCopy (hg : gen < 2 ^ 32) : ftGen (p.footer + c) (writeCopy p c gen state content m) = gen := by
  unfold ftGen nvmN
  rw [writeCopy_footer h gen state content 4 4 (by omega), (footerBytes_parts gen state content).2.1, leNat_toLe]
  omega

theorem ftState_writeCopy (hs : state < 256) : ftState (p.footer + c) (writeCopy p c gen state content m) = state := by
  unfold ftState nvmN
  rw [writeCopy_footer h gen state content 8 1 (by omega), (footerBytes_parts gen state content).2.2.1, leNat_toLe]
  omega

theorem ftLength_writeCopy (hl : content.length < 2 ^ 32) :
    ftLength (p.footer + c) (writeCopy p c gen state content m) = content.length := by
  unfold ftLength nvmN
  rw [writeCopy_footer h gen state content 12 4 (by omega), (footerBytes_parts gen state content).2.2.2.1, leNat_toLe]
  omega

include hp

theorem content_writeCopy : nvmBytes (p.copy c) content.length (writeCopy p c gen state content m) = content := by
  unfold writeCopy
  rw [nvmBytes_nvmPut_out (nvmPut_wf h _ _) _ _ _ _ (Or.inr (by rw [footerBytes_length]; exact hp))]
  have := nvmBytes_nvmPut_in h (p.copy c) 0 content.length content (by omega)
  simpa using this

theorem nvmCopy_writeCopy (hl : content.length < 2 ^ 32) : nvmCopy p c (writeCopy p c gen state content m) = content := by
  unfold nvmCopy
  rw [ftLength_writeCopy h gen state content hl, content_writeCopy h hp]

/-- A copy written with a generation is valid. -/
theorem copyValid_writeCopy (hg : gen < 2 ^ 32) (h0 : gen ≠ 0) (hl : content.length < 2 ^ 32) (hs : content.length ≤ p.size) :
    copyValid p c (writeCopy p c gen state content m) = true := by
  simp only [copyValid]
  have h1 : nvmBytes (footerAt (p.footer + c)) 4 (writeCopy p c gen state content m) = [0x47#8, 0x5A#8, 0x4E#8, 0x56#8] := by
    have := writeCopy_footer (p := p) (c := c) h gen state content 0 4 (by omega)
    simpa using this.trans (footerBytes_parts gen state content).1
  have h2 : nvmBytes (footerAt (p.footer + c) + 16) 32 (writeCopy p c gen state content m) = shake256 32 content := by
    rw [writeCopy_footer h gen state content 16 32 (by omega), (footerBytes_parts gen state content).2.2.2.2]
  rw [h1, h2, ftGen_writeCopy h gen state content hg, ftLength_writeCopy h gen state content hl,
    content_writeCopy h hp]
  simp [h0, hs]

theorem copyGen_writeCopy (hg : gen < 2 ^ 32) (h0 : gen ≠ 0) (hl : content.length < 2 ^ 32) (hs : content.length ≤ p.size) :
    copyGen p c (writeCopy p c gen state content m) = gen := by
  unfold copyGen
  rw [copyValid_writeCopy h hp gen state content hg h0 hl hs, ftGen_writeCopy h gen state content hg]
  simp
end

/-- Bytes outside a copy and its footer stay. -/
theorem writeCopy_out {m : Dev} (h : Memory.wf m.nvm.bytes = true) (p : NvmPart) (c gen state : Nat) (content : List Byte)
    (x n : Nat) (h1 : x + n ≤ footerAt (p.footer + c) ∨ footerAt (p.footer + c) + 64 ≤ x)
    (h2 : x + n ≤ p.copy c ∨ p.copy c + content.length ≤ x) :
    nvmBytes x n (writeCopy p c gen state content m) = nvmBytes x n m := by
  unfold writeCopy
  rw [nvmBytes_nvmPut_out (nvmPut_wf h _ _) _ _ _ _ (by rw [footerBytes_length]; exact h1),
    nvmBytes_nvmPut_out h _ _ _ _ h2]

/-- A copy whose footer does not begin with the magic bytes has no generation. -/
theorem copyGen_noMagic (p : NvmPart) (c : Nat) (m : Dev)
    (h : nvmBytes (footerAt (p.footer + c)) 4 m ≠ [0x47#8, 0x5A#8, 0x4E#8, 0x56#8]) : copyGen p c m = 0 := by
  simp [copyGen, copyValid, h]

/-- The half in force when one half has been written and the other is not valid. -/
theorem halfBytes_writeCopy {m : Dev} (h : Memory.wf m.nvm.bytes = true) (code : Nat) (p : NvmPart) (gen state : Nat)
    (content : List Byte) (hc : nvmPart code = some p) (hp : footerAt (p.footer + 0) + 64 ≤ p.copy 0) (hg : gen < 2 ^ 32) (h0 : gen ≠ 0)
    (hl : content.length < 2 ^ 32) (hs : content.length ≤ p.size) (hx : footerAt (p.footer + 1) + 4 ≤ p.copy 0)
    (hm : nvmBytes (footerAt (p.footer + 1)) 4 m ≠ [0x47#8, 0x5A#8, 0x4E#8, 0x56#8]) :
    halfBytes code (writeCopy p 0 gen state content m) = content := by
  have g0 : copyGen p 0 (writeCopy p 0 gen state content m) = gen := copyGen_writeCopy h hp gen state content hg h0 hl hs
  have g1 : copyGen p 1 (writeCopy p 0 gen state content m) = 0 := by
    apply copyGen_noMagic
    rw [writeCopy_out h p 0 gen state content _ _ (by simp only [footerAt]; omega) (Or.inl hx)]
    exact hm
  have b : bestCopy p (writeCopy p 0 gen state content m) = some 0 := by simp [bestCopy, g0, g1, h0]
  simp only [halfBytes, hc, b]
  exact nvmCopy_writeCopy h hp gen state content hl

/-- No half is in force when neither copy is valid. -/
theorem halfBytes_none (code : Nat) (p : NvmPart) (m : Dev) (hc : nvmPart code = some p) (h0 : copyGen p 0 m = 0)
    (h1 : copyGen p 1 m = 0) : halfBytes code m = [] := by
  simp [halfBytes, hc, bestCopy, h0, h1]

/-- A write to NVM keeps a module sound. -/
theorem sound_nvmPut {m : Dev} (h : m.sound = true) (a : Nat) (bs : List Byte) : (nvmPut a bs m).sound = true := by
  simp only [Dev.sound, Bool.and_eq_true] at h ⊢
  exact ⟨⟨⟨⟨h.1.1.1.1, memPut_wf _ a bs h.1.1.1.2⟩, h.1.1.2⟩, h.1.2⟩, h.2⟩

theorem sound_writeCopy {m : Dev} (h : m.sound = true) (p : NvmPart) (c gen state : Nat) (content : List Byte) :
    (writeCopy p c gen state content m).sound = true := sound_nvmPut (sound_nvmPut h _ _) _ _

end Sys2Proof.Machine
end

