-- ==== Sys2Proof/Tests/Slice0.lean ====
section
/-! SUPPORT. Witnesses: for each statement, concrete modules and operands that meet the hypotheses of each of its clauses, with what
a command does there where that is cheap to evaluate; then the queue's own tests and an ill-formed command for each check of
WellFormed. -/
namespace Sys2Proof.Tests
open Sys2Proof Sys2Proof.Machine
set_option maxRecDepth 100000
set_option Elab.async false

/-! ### The machine and its registers -/

def test_dev : Dev := Dev.reset
def test_st (m : Dev) : State := ⟨m, []⟩

/-- The module after a command. -/
def test_after (c : Instr) (m : Dev) : Dev :=
  match exec c (test_st m) with
  | .next s => s.dev
  | _ => m

/-- A sound module with STOPPING set, and one with STOPPED set. -/
def test_stopping : Dev := wrF aBELLOWS_STOP fBELLOWS_STOP_STOPPING 1 test_dev
def test_stopped : Dev := wrF aBELLOWS_STOP fBELLOWS_STOP_STOPPED 1 test_dev

theorem test_witness_StepKeepsTheModuleSound :
    test_dev.sound = true ∧ ∃ s', step ⟨test_dev, [.brakeAssert]⟩ = .next s' := ⟨by decide +kernel, _, rfl⟩

theorem test_witness_LocalTimeIsSetByNoCommand : ∃ s', exec .brakeAssert (test_st test_dev) = .next s' := ⟨_, rfl⟩

/-- R4: a narrow access and an unaligned one, at offsets where a register is and where none is. -/
theorem test_witness_NarrowOrUnalignedAccess :
    regsWf test_dev = true ∧ (4 ≠ 8 ∨ 1024 % 8 ≠ 0) ∧ (8 ≠ 8 ∨ 1025 % 8 ≠ 0) ∧
    leafSet cHEADLAND_REGACC_ALIGN (test_after (.registerWrite .firmware 1025 8 5) test_dev) = true ∧
    leafSet cHEADLAND_REGACC_UNMAPPED (test_after (.registerWrite .firmware 0xA0001 8 5) test_dev) = false ∧
    (regRead .firmware 0xA0001 8 test_dev).2 = 0xFFFFFFFFFFFFFFFF#64 := by decide +kernel

/-- R5: the first offset after the TIER block, and the last aligned one of register space. -/
theorem test_witness_UnmappedAccess :
    regsWf test_dev = true ∧ 0xA0000 % 8 = 0 ∧ locate 0xA0000 = none ∧ 0xFFFFF8 % 8 = 0 ∧ locate 0xFFFFF8 = none ∧
    (regRead .management 0xFFFFF8 8 test_dev).2 = 0#64 ∧
    leafSet cHEADLAND_REGACC_UNMAPPED (test_after (.registerWrite .firmware 0xA0000 8 5) test_dev) = true := by decide +kernel

/-- HEADLAND_NVM_SRC, a plain RW register; TILE_NORMWATCH_TABLE, whose RW bits are of class boundary; FPLAN_FAULT, W1C. -/
theorem test_witness_RegisterWriteActsByAccessCode :
    test_dev.sound = true ∧ (locate aHEADLAND_NVM_SRC).any (fun p => writesPlainly p.name && p.name.info.rws = 0) = true ∧
    (locate (aTILE_NORMWATCH_TABLE 0 0 1)).any (fun p => writesPlainly p.name && p.name.info.rws = 0) = true ∧
    (locate aFPLAN_FAULT).any (fun p => writesPlainly p.name && p.name.info.rws = 0) = true ∧
    rd aHEADLAND_NVM_SRC (test_after (.registerWrite .firmware aHEADLAND_NVM_SRC 8 0x123456789#64) test_dev) = 0x123456789#64 := by
  decide +kernel

/-- BELLOWS_THERM, RWS alone: by the firmware, and by the management channel while DIRECT_ALLOWED is 0. -/
theorem test_witness_ShadowWriteLeavesActiveValue :
    test_dev.sound = true ∧ (locate aBELLOWS_THERM).any (fun p => p.name.info.rw = 0 && p.name.info.wo = 0 &&
      p.name.info.w1c = 0 && p.name.info.rws ≠ 0) = true ∧
    isSet aFPLAN_ACTIVE fFPLAN_ACTIVE_DIRECT_ALLOWED test_dev = false ∧
    rd aBELLOWS_THERM (test_after (.registerWrite .firmware aBELLOWS_THERM 8 0) test_dev) = rd aBELLOWS_THERM test_dev ∧
    leafSet cFPLAN_SHADOW_DIRECT_REFUSED (test_after (.registerWrite .management aBELLOWS_THERM 8 0) test_dev) = true ∧
    (test_dev.shadow = [] ∧ test_dev.plan.frozen = false ∧ aBELLOWS_THERM ≠ aWINDROW_JOB 0 ∧
      pinnedClear aBELLOWS_THERM 0 (BitVec.ofNat 64 RegName.BELLOWS_THERM.info.rws) test_dev = false) ∧
    isSet aFPLAN_ACTIVE fFPLAN_ACTIVE_DIRECT_ALLOWED (wrF aFPLAN_ACTIVE fFPLAN_ACTIVE_DIRECT_ALLOWED 1 test_dev) = true := by
  decide +kernel

/-- R480: a module with a leaf of HEADLAND set. -/
theorem test_witness_LeafClear : regsWf (setLeaf cHEADLAND_REGACC_UNMAPPED test_dev) = true := by decide +kernel

/-- R478: a cause of the last block and one of a leaf above 63, with nothing masked. -/
theorem test_witness_UnmaskedCausePullsIntNLow :
    (∀ c ∈ [(⟨49, 1⟩ : Cause), ⟨10, 90⟩, ⟨0, 0⟩], regsWf test_dev = true ∧ c.block < 50 ∧ c.leaf < 128 ∧
      test_dev.power.resetLow = false ∧ (rd (aINT_LEAF_MASK c.block (c.leaf / 64)) test_dev).getLsbD (c.leaf % 64) = false ∧
      (rd (aINT_BLOCK_MASK c.block) test_dev).getLsbD (c.leaf / 8) = false ∧
      (rd aINT_SUMMARY_MASK test_dev).getLsbD c.block = false) := by decide +kernel

/-- R150: a write to a norm-watch threshold of tile 0 that waits, with the tile at its boundary and with its engine's group
open. -/
def test_waiting : Dev :=
  { test_dev with waitingWrite := [(aTILE_NORMWATCH_TABLE 0 0 1, (0x42#64, 0xFF#64))] }
/-- Tile 0 is rank 0 of engine 0, whose ring 0 has a group open. -/
def test_openGroup : Dev :=
  { wr (aFPLAN_MEMBER 0) (fFPLAN_MEMBER_VALID.of 1) test_waiting with
    rings := [(0, { RingDyn.idle with open_ := true })]
    engines := [(0, ⟨some 0, false, []⟩)] }

theorem test_witness_BoundaryWrites :
    regsWf test_waiting = true ∧ regsWf test_openGroup = true ∧
    (locate (aTILE_NORMWATCH_TABLE 0 0 1)).map (fun p => p.unit) = some (tileIdx ⟨0, 0⟩) ∧
    unitAtCondition (.tile ⟨0, 0⟩) test_waiting = true ∧ unitAtCondition (.tile ⟨0, 0⟩) test_openGroup = false ∧
    rd (aTILE_NORMWATCH_TABLE 0 0 1) (test_after (.boundaryWriteApply ⟨0, 0⟩) test_waiting) = 0x42#64 := by decide +kernel

/-! ### The mesh, the oscillators and Bellows -/

/-- R13: an edge with all modules that falls to 13, and to 12; R11: edge 9 is D3's. -/
theorem test_witness_MeshEdge :
    regsWf test_dev = true ∧ Sparse.get false test_dev.mesh.edgeDown 9 = false ∧ 12 + Sparse.get 0 test_dev.mesh.lost 9 < 25 ∧
    13 + Sparse.get 0 test_dev.mesh.lost 9 < 25 ∧
    leafSet (cDIE_FABRIC_EDGE_DEGRADED 3) (test_after (.edgeDegraded 9 13) test_dev) = true ∧
    leafSet (cDIE_FABRIC_EDGE_DOWN 3) (test_after (.edgeDegraded 9 12) test_dev) = true := by decide +kernel

/-- R16: the first bridge down, then the second. -/
def test_bridge0 : Dev := test_after (.bridgeDown 0) test_dev

theorem test_witness_BridgeAndOscillators :
    regsWf test_dev = true ∧ Sparse.get false test_dev.mesh.bridgeDown 0 = false ∧
    Sparse.get false test_dev.mesh.bridgeDown 1 = false ∧ regsWf test_bridge0 = true ∧
    Sparse.get false test_bridge0.mesh.bridgeDown 1 = false ∧ Sparse.get false test_bridge0.mesh.bridgeDown 0 = true ∧
    stopNow test_dev = false ∧ stopNow test_bridge0 = false ∧
    1 ≤ rdF aHEADLAND_RESOURCE_SUMMARY fHEADLAND_RESOURCE_SUMMARY_BRIDGES_UP
      (wrF aHEADLAND_RESOURCE_SUMMARY fHEADLAND_RESOURCE_SUMMARY_BRIDGES_UP 2 test_dev) ∧
    rdF aBELLOWS_STOP fBELLOWS_STOP_REASON (test_after (.bridgeDown 1) test_bridge0) = 6 ∧
    rdF aBELLOWS_STOP fBELLOWS_STOP_REASON (test_after (.refLoss .mhz100) test_dev) = 5 := by decide +kernel

theorem test_witness_StopInOrder :
    regsWf test_dev = true ∧ regsWf test_stopping = true ∧ stopNow test_dev = false ∧ stopNow test_stopping = true ∧
    (1 ≤ 1 ∧ 7 ≤ 7) ∧ rdF aBELLOWS_STOP fBELLOWS_STOP_REASON (test_after (.stop .firmware) test_dev) = 7 := by decide +kernel

theorem test_witness_StoppedModule :
    regsWf test_stopping = true ∧ isSet aBELLOWS_STOP fBELLOWS_STOP_STOPPING test_stopping = true ∧
    test_stopping.power.resetDue = false := by decide +kernel

/-- R427: a module that runs and one that has stopped; the last tile is not being swept. -/
theorem test_witness_ControlPeriod :
    regsWf test_dev = true ∧ regsWf test_stopped = true ∧ 143 < 144 ∧
    isSet aBELLOWS_STOP fBELLOWS_STOP_STOPPED test_dev = false ∧ isSet aBELLOWS_STOP fBELLOWS_STOP_STOPPED test_stopped = true ∧
    Sparse.get false test_dev.bellows.sweeping 143 = false := by decide +kernel

/-- R434, R435, R444: BRAKE clear and set, a fall under way and none. -/
def test_brake : Dev := wrF aBELLOWS_STATE fBELLOWS_STATE_BRAKE 1 test_dev

theorem test_witness_CapBrakeAndDroop :
    regsWf test_dev = true ∧ regsWf test_brake = true ∧ regsWf test_stopping = true ∧
    isSet aBELLOWS_STOP fBELLOWS_STOP_STOPPING test_stopping = true ∧ isSet aBELLOWS_STOP fBELLOWS_STOP_STOPPING test_dev = false ∧
    isSet aBELLOWS_STATE fBELLOWS_STATE_BRAKE test_brake = true ∧ isSet aBELLOWS_STATE fBELLOWS_STATE_BRAKE test_dev = false := by
  decide +kernel

/-- R436 at its thresholds: 95 degrees slows a tile, 110 stops the module; a stack's critical value; coolant at 45, 60 and 70. -/
theorem test_witness_Heat :
    test_dev.sound = true ∧ stopNow test_dev = false ∧
    ((∀ c ∈ [(95 : Int)], c < tileCrit test_dev) ∧ therm fBELLOWS_THERM_TILE_THROTTLE_C test_dev ≤ 95 ∧ 0 < [(95 : Int)].length) ∧
    (∃ c ∈ [(110 : Int)], tileCrit test_dev ≤ c) ∧
    ((∀ c ∈ ([] : List Int), c < tileCrit test_dev) ∧ ∃ c ∈ [hbmCrit test_dev], hbmCrit test_dev ≤ c) ∧
    ((69 : Int) < therm fBELLOWS_THERM_OUTLET_CRIT_C test_dev ∧
      (therm fBELLOWS_THERM_INLET_MAX_C test_dev ≤ 69 ∨ therm fBELLOWS_THERM_OUTLET_MAX_C test_dev ≤ 69)) ∧
    therm fBELLOWS_THERM_OUTLET_CRIT_C test_dev ≤ 70 := by decide +kernel

/-- R429: a tile in service, one out of service, one being swept; a test that fails at the first step and one that passes all. -/
def test_roleOne : Dev := wrF (onTile aTILE_ID 5) fTILE_ID_ROLE 1 test_dev
def test_roleZero : Dev := wrF (onTile aTILE_ID 5) fTILE_ID_ROLE 0 test_dev
def test_swept : Dev := { test_roleZero with bellows := { test_roleZero.bellows with sweeping := [(5, true)] } }

theorem test_witness_CalibrationSweep :
    regsWf test_roleOne = true ∧ regsWf test_roleZero = true ∧ regsWf test_swept = true ∧
    stopNow test_roleOne = false ∧ stopNow test_roleZero = false ∧ stopNow test_swept = false ∧ tileIdx ⟨0, 5⟩ = 5 ∧
    roleOf 5 test_roleOne ≠ 0 ∧ roleOf 5 test_roleZero = 0 ∧ Sparse.get false test_roleZero.bellows.sweeping 5 = false ∧
    Sparse.get false test_swept.bellows.sweeping 5 = true ∧ (15 : Nat) ≤ 15 ∧
    rdF (onTile aBELLOWS_TILE_CAL 5) fBELLOWS_TILE_CAL_FOUND_MHZ (test_after (.calSweepDone ⟨0, 5⟩ 15) test_swept) = 2050 ∧
    rdF (onTile aBELLOWS_TILE_CAL 5) fBELLOWS_TILE_CAL_FOUND_MHZ (test_after (.calSweepDone ⟨0, 5⟩ 1) test_swept) = 1750 := by
  decide +kernel

/-! ### Resets, boot and firmware -/

def test_unpowered : Dev := { test_dev with power := ⟨false, false, false, false, false⟩ }
def test_falling : Dev := { test_stopping with power := { test_stopping.power with resetDue := true } }

theorem test_witness_Resets :
    (∀ m ∈ [test_dev, test_unpowered, test_falling, test_stopped], m.sound = true ∧ m.nvm.store = none) ∧
    test_unpowered.power.converter = false ∧ test_dev.power.converter = true ∧ test_dev.power.pwrOk = true ∧
    (isSet aBELLOWS_STOP fBELLOWS_STOP_STOPPING test_falling = true ∧ test_falling.power.resetDue = true) ∧
    (test_stopped.power.pwrOk = true ∧ isSet aBELLOWS_STOP fBELLOWS_STOP_STOPPED test_stopped = true) ∧
    stopNow test_dev = false := by decide +kernel

/-- An identity record that is locked, with one byte in its digest field. -/
def test_record (b : Byte) : Dev := nvmPut 4032 [b] (nvmPut 8 (toLe 8 0x0F1E2D3C4B5A6978) test_dev)

/-- Its first 4,032 bytes are the same whatever that byte is. -/
theorem test_record_prefix (b : Byte) :
    (idRecord (test_record b)).take 4032 = nvmBytes 0 4032 (nvmPut 8 (toLe 8 0x0F1E2D3C4B5A6978) test_dev) := by
  unfold idRecord test_record
  rw [take_nvmBytes _ _ _ _ (by omega), nvmBytes_nvmPut_out (nvmPut_wf (by rfl) _ _) _ _ _ _ (by simp)]

/-- The digest does not cover its own field, so of two records that differ there one is bad. -/
theorem test_one_record_is_bad : idDigestOk (test_record 0) = false ∨ idDigestOk (test_record 1) = false := by
  have e : patch ((idRecord (test_record 0)).take 4032) 8 (List.replicate 8 0) =
      patch ((idRecord (test_record 1)).take 4032) 8 (List.replicate 8 0) := by rw [test_record_prefix, test_record_prefix]
  have d : slice (idRecord (test_record 0)) 4032 32 ≠ slice (idRecord (test_record 1)) 4032 32 := by decide +kernel
  by_cases h : idDigestOk (test_record 0) = true
  · right
    simp only [idDigestOk, decide_eq_true_eq, decide_eq_false_iff_not] at h ⊢
    rw [← e, ← h]
    exact fun x => d x.symm
  · left
    exact Bool.eq_false_iff.2 h

/-- Stage 10 is waiting for epoch 3, which stands verified. -/
def test_stageTen : Dev :=
  wr (aSCARE_EPOCH 3) (fSCARE_EPOCH_VERIFIED.of 1 ||| fSCARE_EPOCH_MODEL_ID.of 77) (wrF aHEADLAND_BOOT fHEADLAND_BOOT_STAGE 10 test_dev)

theorem test_witness_BootStage1 (b : Byte) (hb : b = 0 ∨ b = 1) :
    (test_record b).sound = true ∧ (test_record b).power.pwrOk = true ∧ stopNow (test_record b) = false ∧
    (test_record b).plan.booted = false ∧ bootStageOf (test_record b) = 0 ∧ idLocked (test_record b) = true := by
  rcases hb with rfl | rfl <;> decide +kernel

theorem test_witness_BootStopsOrServes :
    test_stageTen.sound = true ∧ test_stageTen.power.pwrOk = true ∧ stopNow test_stageTen = false ∧
    test_stageTen.plan.booted = false ∧ bootStageOf test_stageTen = 10 ∧
    (isSet (aSCARE_EPOCH 3) fSCARE_EPOCH_VERIFIED test_stageTen = true ∧
      rdF (aSCARE_EPOCH 3) fSCARE_EPOCH_MODEL_ID test_stageTen = 77) := by decide +kernel

/-- The least firmware image: a header and a signature block by public slot 1. -/
def test_fwHead : List Byte :=
  [0x47#8, 0x5A#8, 0x46#8, 0x57#8, 1#8, 0#8, 0xB0#8, 0#8] ++ toLe 4 1 ++ toLe 4 0 ++ toLe 4 2112 ++ toLe 4 64 ++ List.replicate 40 0
def test_sigBlock (signed : List Byte) : List Byte :=
  [0#8, 0#8, 1#8, 0#8, 0#8, 0#8, 0#8, 0#8] ++ shake256 64 signed ++ List.replicate 1976 0
def test_fwImage : List Byte := test_fwHead ++ test_sigBlock test_fwHead

/-- Slot 1 holds a key of a role. -/
def test_slotOne (role : Nat) : Dev := wr (aSCARE_PUBSLOT 1) (fSCARE_PUBSLOT_VALID.of 1 ||| fSCARE_PUBSLOT_ROLE.of role) test_dev
def test_fwPart : NvmPart := ⟨0x0800000, 0x1000000, 0x800000, 6⟩
def test_fw : Dev := writeCopy test_fwPart 1 1 0 test_fwImage (test_slotOne 1)
def test_trial : Dev := wrF aHEADLAND_FW_STATUS fHEADLAND_FW_STATUS_STATE 1 test_dev

theorem test_sigBlock_length (signed : List Byte) : (test_sigBlock signed).length = 2048 := by
  simp [test_sigBlock, shake256_length]

theorem test_sigBlock_digest (a signed : List Byte) : signedDigest a.length (a ++ test_sigBlock signed) = shake256 64 signed := by
  simp [signedDigest, slice, test_sigBlock, shake256_length, List.take_append, List.drop_append]

/-- Bytes that a signature block over them ends verify, under a slot that holds a key of the role. -/
theorem test_signedBy (role : Nat) (c : List Byte) (m : Dev) (h : roleKey (field (c ++ test_sigBlock c) (c.length + 2) 1) role m = true) :
    signedBy role c.length (c ++ test_sigBlock c) true m = true := by
  simp [signedBy, test_sigBlock_digest, test_sigBlock_length, h]

theorem test_fwImage_length : test_fwImage.length = 2112 := by
  rw [test_fwImage, List.length_append, test_sigBlock_length]
  decide +kernel

/-- The Keys partition of that module is empty. -/
theorem test_fw_noKeys (c : Nat) (hc : c ≤ 1) : copyGen ⟨0x010000, 0x018000, 0x8000, 0⟩ c test_fw = 0 := by
  have hm : ∀ c ≤ 1, nvmBytes (footerAt (0 + c)) 4 (test_slotOne 1) ≠ [0x47#8, 0x5A#8, 0x4E#8, 0x56#8] := by decide +kernel
  apply copyGen_noMagic
  show nvmBytes (footerAt (0 + c)) 4 (writeCopy test_fwPart 1 1 0 test_fwImage (test_slotOne 1)) ≠ _
  have h1 : footerAt (0 + c) + 4 ≤ footerAt (test_fwPart.footer + 1) := by simp only [footerAt, test_fwPart]; omega
  have h2 : footerAt (0 + c) + 4 ≤ test_fwPart.copy 1 := by
    have : test_fwPart.copy 1 = 0x1000000 := by rfl
    rw [this]
    simp only [footerAt]
    omega
  rw [writeCopy_out (by rfl) _ _ _ _ _ _ _ (Or.inl h1) (Or.inl h2)]
  exact hm c hc

theorem test_fw_header : fwHeaderOk test_fwImage = true := by
  unfold fwHeaderOk
  rw [test_fwImage_length]
  decide +kernel

theorem test_fw_signed : signedBy 1 (field test_fwImage 20 4) test_fwImage true test_fw = true := by
  have hf : field test_fwImage 20 4 = test_fwHead.length := by decide +kernel
  rw [hf]
  exact test_signedBy 1 test_fwHead test_fw (by decide +kernel)

theorem test_fw_floor : kSecFloor test_fw ≤ fwVersion test_fwImage := by
  have hk : halfBytes 1 test_fw = [] :=
    halfBytes_none 1 _ test_fw rfl (test_fw_noKeys 0 (by omega)) (test_fw_noKeys 1 (by omega))
  have hz : field (slice [] 0 0x8000) 8 4 ≤ fwVersion test_fwImage := by decide +kernel
  unfold kSecFloor keysHalf
  rw [hk]
  exact hz

/-- An image verifies by its header, its signature block and its SECURITY_VERSION (R468). -/
theorem test_verifies (c : List Byte) (m : Dev) (h1 : fwHeaderOk c = true) (h2 : signedBy 1 (field c 20 4) c true m = true)
    (h3 : kSecFloor m ≤ fwVersion c) : fwVerifies c true m = true := by
  simp [fwVerifies, h1, h2, h3]

theorem test_fw_verifies : fwVerifies test_fwImage true test_fw = true :=
  test_verifies _ _ test_fw_header test_fw_signed test_fw_floor

theorem test_witness_FirmwareTrial :
    (test_fw.sound = true ∧ test_fw.nvm.store = none ∧ nvmDefer test_fw = false ∧ fwRunning test_fw = 0 ∧
      otherReady test_fw = true ∧ fwVerifies (copyOf 2 (1 - fwRunning test_fw) test_fw) true test_fw = true) ∧
    (test_dev.sound = true ∧ test_dev.nvm.store = none ∧ nvmDefer test_dev = false ∧ otherReady test_dev = false) ∧
    (test_trial.sound = true ∧ test_trial.nvm.store = none ∧ nvmDefer test_trial = false ∧ fwState test_trial = 1) := by
  have hr : fwRunning test_fw = 0 := by decide +kernel
  have hp : nvmPart 2 = some test_fwPart := rfl
  have hw : Memory.wf (test_slotOne 1).nvm.bytes = true := by decide +kernel
  have hl : test_fwImage.length < 2 ^ 32 := by rw [test_fwImage_length]; omega
  have hs : test_fwImage.length ≤ test_fwPart.size := by rw [test_fwImage_length]; decide
  have hv : copyValid test_fwPart 1 test_fw = true :=
    copyValid_writeCopy hw (by decide) 1 0 test_fwImage (by omega) (by omega) hl hs
  have hst : ftState (6 + 1) test_fw = 0 := ftState_writeCopy (p := test_fwPart) (c := 1) hw 1 0 test_fwImage (by omega)
  have hc : copyOf 2 1 test_fw = test_fwImage := by
    simp only [copyOf, hp]
    exact nvmCopy_writeCopy hw (by decide) 1 0 test_fwImage hl
  refine ⟨⟨sound_writeCopy (by decide +kernel) _ _ _ _ _, by rfl, by rfl, hr, ?_, ?_⟩, by decide +kernel, by decide +kernel⟩
  · simp [otherReady, hp, hr, hv, hst]
  · rw [hr, hc]
    exact test_fw_verifies

/-! ### NVM and keys -/

/-- Stack 0 is in service, so the Field's first 64 KiB can be read and written. -/
def test_field : Dev := wrF (aHARROW_CTRL 0) fHARROW_CTRL_IN_SERVICE 1 test_dev

/-- A STORE of 8 bytes of the Field into partition 4, under a generation. -/
def test_store (gen : Nat) : Dev :=
  wr aHEADLAND_NVM_CTRL (fHEADLAND_NVM_CTRL_PARTITION.of 4 ||| fHEADLAND_NVM_CTRL_GENERATION.of gen)
    (wr aHEADLAND_NVM_SRC (fHEADLAND_NVM_SRC_ADDR.of (fieldBase / 64) ||| fHEADLAND_NVM_SRC_LENGTH.of 1) test_field)
def test_storing (j : StoreJob) : Dev := { test_dev with nvm := { test_dev.nvm with store := some j } }
def test_lowVolts (m : Dev) : Dev := { m with bellows := { m.bellows with supply := [3] } }

theorem test_witness_StoreIsChecked :
    ((test_storing ⟨4, 0, 1, 0, []⟩).sound = true ∧ (test_storing ⟨4, 0, 1, 0, []⟩).nvm.store.isSome = true) ∧
    (∀ m ∈ [test_store 0, test_store 1, test_lowVolts (test_store 1)], m.sound = true ∧ m.nvm.store = none ∧
      (nvmSource m).st = .ok ∧ (nvmSource m).m = m ∧ (nvmSource m).data.length = 8 ∧
      rdF aHEADLAND_NVM_CTRL fHEADLAND_NVM_CTRL_PARTITION m = 4) ∧
    (nvmPart 4).any (fun p => copyGen p 0 (test_store 1) = 0 && copyGen p 1 (test_store 1) = 0 && decide (8 ≤ p.size)) = true ∧
    rdF aHEADLAND_NVM_CTRL fHEADLAND_NVM_CTRL_GENERATION (test_store 0) = 0 ∧
    rdF aHEADLAND_NVM_CTRL fHEADLAND_NVM_CTRL_GENERATION (test_store 1) = 1 ∧
    contentOk 4 [] true (test_store 1) = true ∧ nvmDefer (test_store 1) = false ∧ nvmDefer (test_lowVolts (test_store 1)) = true := by
  decide +kernel

/-- A STORE of the firmware partition and one of another, each under way. -/
theorem test_witness_StoreCommits :
    ∀ j ∈ [(⟨2, 1, 1, 1, [7#8]⟩ : StoreJob), ⟨5, 0, 2 ^ 32 - 1, 0, []⟩], (test_storing j).sound = true ∧
      (test_storing j).nvm.store = some j ∧ ((nvmPart j.partition).any (fun p => decide (j.data.length ≤ p.size)) = true) ∧
      nvmDefer (test_storing j) = false ∧ j.length = j.data.length ∧ 0 < j.gen ∧ j.gen < 2 ^ 32 ∧ j.copy ≤ 1 ∧
      (test_storing j).mgmt.update.state ≠ 5 := by decide +kernel

/-- Two records wait at the log's last slot. -/
def test_log : Dev :=
  { test_store 1 with nvm := { (test_store 1).nvm with gathered := [List.replicate 64 1, List.replicate 64 2], logNext := 262143 } }

theorem test_witness_LogRecords :
    test_log.sound = true ∧ nvmDefer test_log = false ∧ test_log.nvm.store = none ∧
    (let r := readVia .headland (rdF aHEADLAND_NVM_SRC fHEADLAND_NVM_SRC_ADDR test_log * 64) 64 test_log
     r.st = .ok ∧ r.m = test_log ∧ r.data.length = 64) ∧
    (test_log.nvm.gathered.all (fun x => x.length = 64)) = true ∧ test_log.nvm.gathered.length ≤ 262144 ∧
    test_log.nvm.logNext < 262144 := by decide +kernel

/-- A Keys half of the bytes given, followed by zeros. -/
def test_keysPart : NvmPart := ⟨0x010000, 0x018000, 0x8000, 0⟩
def test_keys (content : List Byte) (m : Dev) : Dev := writeCopy test_keysPart 0 1 2 content m

theorem test_keys_half (content : List Byte) (m : Dev) (hm : m.nvm.bytes = []) (hl : content.length ≤ 0x8000) :
    keysHalf (test_keys content m) = slice content 0 0x8000 := by
  have hw : Memory.wf m.nvm.bytes = true := by rw [hm]; rfl
  unfold keysHalf test_keys
  rw [halfBytes_writeCopy hw 1 test_keysPart 1 2 content rfl (by decide) (by omega) (by omega) (by omega) hl (by decide)]
  have : nvmBytes (footerAt (test_keysPart.footer + 1)) 4 m = [0#8, 0#8, 0#8, 0#8] := by
    simp [nvmBytes, hm, Sparse.get, Sparse.getD, List.range, List.range.loop]
  rw [this]
  decide

/-- OWNED is set. -/
def test_ownedBytes : List Byte := List.replicate 12 0 ++ [1#8]
/-- SCARE_KEY_CTRL names the first bytes of the Field. -/
def test_keyCtrl : Dev := wr aSCARE_KEY_CTRL (fSCARE_KEY_CTRL_ADDR.of (fieldBase / 64)) test_field
def test_owned : Dev := test_keys test_ownedBytes test_keyCtrl

theorem test_owned_is : kOwned test_owned = true := by
  unfold kOwned
  rw [show keysHalf test_owned = slice test_ownedBytes 0 0x8000 from test_keys_half _ _ rfl (by decide)]
  decide +kernel

/-- Keys of an owned module and of one that is not; the input of a key action can be read. -/
theorem test_witness_KeyActions :
    (test_owned.sound = true ∧ kOwned test_owned = true ∧ nvmDefer test_owned = false ∧
      (keyInput 1825 test_owned).m = test_owned ∧ (keyInput 1825 test_owned).st = .ok) ∧
    (test_keyCtrl.sound = true ∧ kOwned test_keyCtrl = false ∧ nvmDefer test_keyCtrl = false ∧
      freeSlot test_keyCtrl = some 0 ∧
      (keyInput 1825 test_keyCtrl).m = test_keyCtrl ∧ (keyInput 1825 test_keyCtrl).st = .ok) ∧
    (16 ≤ (16 : BitVec 8).toNat ∧ (15 : BitVec 8).toNat < 16) :=
  ⟨⟨sound_writeCopy (by decide +kernel) _ _ _ _ _, test_owned_is, by rfl, by rfl, by decide +kernel⟩,
    by decide +kernel, by decide⟩

/-- Wrap key 0 is present with SEQ 5, and public slot 0 holds the root key. -/
def test_keyBytes : List Byte :=
  List.replicate 16 0 ++ toLe 4 5 ++ List.replicate 44 0 ++ [1#8] ++ List.replicate 8127 0 ++ [1#8]
/-- The Field begins with a blob for slot 16 under a SEQ. -/
def test_blob (seq : Nat) : Dev := test_keys test_keyBytes (stBytes fieldBase [16#8, 1#8, 0#8, 0#8, BitVec.ofNat 8 seq] test_keyCtrl)
/-- The Field begins with a public entry of role 1 that slot 0 signs. -/
def test_keyEntry : Dev := test_keys test_keyBytes (stBytes fieldBase [1#8, 1#8, 0#8] test_keyCtrl)

theorem test_keyBytes_half (m : Dev) (h : m.nvm.bytes = []) : keysHalf (test_keys test_keyBytes m) = slice test_keyBytes 0 0x8000 :=
  test_keys_half _ _ h (by decide +kernel)

theorem test_witness_KeyInstall (seq : Nat) (h : seq = 5 ∨ seq = 6) :
    (test_blob seq).sound = true ∧ nvmDefer (test_blob seq) = false ∧
    (keyInput 64 (test_blob seq)).st = .ok ∧ (keyInput 64 (test_blob seq)).m = test_blob seq ∧
    (let b := (keyInput 64 (test_blob seq)).data
     field b 2 1 = 0 ∧ field b 1 1 = 1 ∧ field b 0 1 = 16 ∧ field b 4 4 = seq) ∧
    anyByte (kWrapKey 0 (test_blob seq)) = true ∧ kWrapSeq 0 (test_blob seq) = 5 := by
  have hk : keysHalf (test_blob seq) = slice test_keyBytes 0 0x8000 := test_keyBytes_half _ rfl
  have hw : anyByte (kWrapKey 0 (test_blob seq)) = true ∧ kWrapSeq 0 (test_blob seq) = 5 := by
    unfold kWrapKey kWrapSeq
    rw [hk]
    decide +kernel
  refine ⟨?_, by rfl, ?_, ?_, ?_, hw⟩
  · exact sound_writeCopy (by rcases h with rfl | rfl <;> decide +kernel) _ _ _ _ _
  · rcases h with rfl | rfl <;> decide +kernel
  · rcases h with rfl | rfl <;> rfl
  · rcases h with rfl | rfl <;> decide +kernel

theorem test_witness_KeyPublic :
    test_keyEntry.sound = true ∧ nvmDefer test_keyEntry = false ∧ (keyInput 0x1000 test_keyEntry).st = .ok ∧
    (keyInput 0x1000 test_keyEntry).m = test_keyEntry ∧ freeSlot test_keyEntry = some 1 ∧
    (let e := (keyInput 0x1000 test_keyEntry).data
     field e 0 1 = 1 ∧ field e 1 1 = 1 ∧ field e 2 1 = 0) ∧ authorityOk 1 0 test_keyEntry = true := by
  have hk : keysHalf test_keyEntry = slice test_keyBytes 0 0x8000 := test_keyBytes_half _ rfl
  refine ⟨sound_writeCopy (by decide +kernel) _ _ _ _ _, by rfl, by decide +kernel, by rfl, ?_, by decide +kernel, ?_⟩
  · unfold freeSlot kSlot
    rw [hk]
    decide +kernel
  · unfold authorityOk kSlot
    rw [hk]
    decide +kernel

/-- A manifest of no pieces that slot 1 signs, at the Field's first bytes; the model key is of role 3. -/
def test_mfHead : List Byte := [0x47#8, 0x5A#8, 0x4D#8, 0x4D#8] ++ toLe 4 1 ++ toLe 4 77 ++ toLe 4 0 ++ toLe 4 64 ++ List.replicate 44 0
def test_manifest : List Byte := test_mfHead ++ test_sigBlock test_mfHead
def test_digestRegs (role : Nat) : Dev :=
  wr aSCARE_DIGEST_CTRL (fSCARE_DIGEST_CTRL_MANIFEST.of (fieldBase / 64))
    (wr (aSCARE_PUBSLOT 1) (fSCARE_PUBSLOT_VALID.of 1 ||| fSCARE_PUBSLOT_ROLE.of role) test_field)
def test_digest (role : Nat) : Dev := stBytes fieldBase test_manifest (test_digestRegs role)

theorem test_manifest_length : test_manifest.length = 2112 := by
  rw [test_manifest, List.length_append, test_sigBlock_length]
  decide +kernel

theorem test_digest_reads (n role : Nat) (h : role = 1 ∨ role = 3) (hn : n = 64 ∨ n = 2112) :
    readVia .headland fieldBase n (test_digest role) = ⟨test_digest role, .ok, test_manifest.take n⟩ := by
  have e : readVia .headland fieldBase n (test_digest role) = ⟨test_digest role, .ok, ldBytes fieldBase n (test_digest role)⟩ := by
    rcases h with rfl | rfl <;> rcases hn with rfl | rfl <;> rfl
  rw [e, test_digest, ldBytes_stBytes_take (by rcases h with rfl | rfl <;> rfl) _ _ _ (by rw [test_manifest_length]; omega)]

/-- What the digest rule reads: the header and the manifest, from the module with VERIFIED clear, and its signature. -/
theorem test_witness_DigestStart (role : Nat) (h : role = 1 ∨ role = 3) :
    (test_digest role).sound = true ∧ (test_digest role).scare.job = none ∧
    rdF aSCARE_DIGEST_CTRL fSCARE_DIGEST_CTRL_EPOCH (test_digest role) = 0 ∧
    rdF aSCARE_DIGEST_CTRL fSCARE_DIGEST_CTRL_MANIFEST (test_digest role) * 64 = fieldBase ∧
    wrF (aSCARE_EPOCH 0) fSCARE_EPOCH_VERIFIED 0 (test_digest role) = test_digest role ∧
    readVia .headland fieldBase 64 (test_digest role) = ⟨test_digest role, .ok, test_manifest.take 64⟩ ∧
    mfSig (test_manifest.take 64) = 64 ∧
    readVia .headland fieldBase (64 + 2048) (test_digest role) = ⟨test_digest role, .ok, test_manifest⟩ ∧
    manifestForm test_manifest = true ∧
    signedBy 3 64 test_manifest true (test_digest role) = decide (role = 3) := by
  refine ⟨?_, by rfl, ?_, ?_, ?_, test_digest_reads 64 role h (.inl rfl), by decide +kernel, ?_, by decide +kernel, ?_⟩
  · exact sound_stBytes (by rcases h with rfl | rfl <;> decide +kernel) _ _
  · rcases h with rfl | rfl <;> decide +kernel
  · rcases h with rfl | rfl <;> decide +kernel
  · rcases h with rfl | rfl <;> rfl
  · have := test_digest_reads 2112 role h (.inr rfl)
    rw [List.take_of_length_le (by rw [test_manifest_length])] at this
    exact this
  · rcases h with rfl | rfl
    · have : roleKey (field test_manifest (64 + 2) 1) 3 (test_digest 1) = false := by decide +kernel
      simp [signedBy, this]
    · exact test_signedBy 3 test_mfHead (test_digest 3) (by decide +kernel)

/-- A digest job of one piece of no bytes: its entry holds the digest of nothing, or another. -/
def test_piece (d : List Byte) : DigestJob :=
  ⟨3, [0x47#8, 0x5A#8, 0x4D#8, 0x4D#8] ++ toLe 4 1 ++ toLe 4 77 ++ toLe 4 1 ++ toLe 4 112 ++ List.replicate 44 0 ++
    toLe 16 0 ++ d, 0⟩
def test_job (d : List Byte) : Dev := { test_dev with scare := { test_dev.scare with job := some (test_piece d) } }

theorem test_witness_DigestDone :
    (test_job []).sound = true ∧ (test_job []).scare.job = some (test_piece []) ∧ (test_piece []).epoch < 8 ∧
    mfPieces (test_piece []).manifest = 1 ∧
    (∀ i < 1, pieceOk (test_piece (shake256 32 [])) i (test_job (shake256 32 [])) = true) ∧
    pieceOk (test_piece []) 0 (test_job []) = false := by decide +kernel

/-! ### The management channel, boundary scan and Ethernet -/

def test_addressed : Dev := wrF aHEADLAND_MGMT_STATUS fHEADLAND_MGMT_STATUS_DYN_ADDR 0x2A test_dev
def test_inReset : Dev := { test_dev with power := { test_dev.power with resetLow := true } }

theorem test_witness_PortAnswers :
    regsWf test_dev = true ∧ portAlive test_dev = true ∧ dynAddr test_dev = 0 ∧
    regsWf test_addressed = true ∧ portAlive test_addressed = true ∧ dynAddr test_addressed ≠ 0 ∧
    { test_dev with mgmt := { test_dev.mgmt with rstact := 1 } }.mgmt.rstact = 1 ∧
    portAlive test_inReset = false ∧ portAlive test_unpowered = false ∧ ((1 : BitVec 8) ≠ 0 ∧ (1 : BitVec 8) ≠ 0xFF) := by
  decide +kernel

/-- REG_READ of a register and at an offset where there is none. -/
theorem test_witness_VendorMessages :
    portAlive test_dev = true ∧ (8 : BitVec 32).toNat % 8 = 0 ∧ (locate (0x400 : BitVec 32).toNat).isSome = true := by
  decide +kernel

/-- A certified module with a locked record, and one with another LOCK. -/
def test_certified : Dev := wrF aHEADLAND_BOOT fHEADLAND_BOOT_CERTIFIED 1 (nvmPut 8 (toLe 8 0x0F1E2D3C4B5A6978) test_dev)
def test_part : Dev := wrF aHEADLAND_BOOT fHEADLAND_BOOT_CERTIFIED 1 test_dev
/-- A generated private key without a certificate, and a certificate of one byte. -/
def test_keyMade : Dev := test_keys (List.replicate 0x100 0 ++ [1#8]) test_dev
def test_certBytes : List Byte := List.replicate 0x1800 0 ++ [1#8]
def test_certMade : Dev := test_keys test_certBytes test_dev

theorem test_witness_AttestAndCert :
    (test_certified.sound = true ∧ portAlive test_certified = true ∧ maySign test_certified = true) ∧
    (test_dev.sound = true ∧ portAlive test_dev = true ∧ maySign test_dev = false ∧ maySign test_part = false) ∧
    (List.replicate 32 (0 : Byte)).length = 32 ∧ ([] : List Byte).length ≠ 32 ∧
    (0 < (List.replicate 2046 (0 : Byte)).length ∧ (List.replicate 2046 (0 : Byte)).length ≤ 2046) ∧
    (test_keyMade.sound = true ∧ portAlive test_keyMade = true ∧ kCertified test_keyMade = false ∧
      anyByte (kPrivateKey test_keyMade) = true ∧ nvmDefer test_keyMade = false) ∧
    (test_certMade.sound = true ∧ portAlive test_certMade = true ∧ kCertified test_certMade = true) := by
  have h1 : keysHalf test_keyMade = slice (List.replicate 0x100 0 ++ [1#8]) 0 0x8000 := test_keys_half _ _ rfl (by decide +kernel)
  have h2 : keysHalf test_certMade = slice test_certBytes 0 0x8000 := test_keys_half _ _ rfl (by decide +kernel)
  refine ⟨by decide +kernel, by decide +kernel, by decide +kernel, by decide, by decide +kernel,
    ⟨sound_writeCopy (by decide +kernel) _ _ _ _ _, by rfl, ?_, ?_, by rfl⟩, sound_writeCopy (by decide +kernel) _ _ _ _ _, by rfl, ?_⟩
  · unfold kCertified
    rw [h1]
    decide +kernel
  · unfold kPrivateKey
    rw [h1]
    decide +kernel
  · unfold kCertified
    rw [h2]
    decide +kernel

/-- A staged image of 8 bytes; data that ends at its length and data that passes it. -/
def test_image : Image := ⟨0, 8, [], false⟩
def test_stagedImage : Dev := { test_dev with mgmt := { test_dev.mgmt with image := some test_image } }

theorem test_witness_ImageMessages :
    regsWf test_stagedImage = true ∧ portAlive test_stagedImage = true ∧ test_stagedImage.mgmt.image = some test_image ∧
    ((1 : BitVec 8).toNat ≤ 1 ∧ (0xC00000 : BitVec 32).toNat ≤ 12 * 2 ^ 20) ∧
    (4 : BitVec 32).toNat + (List.replicate 4 (0 : Byte)).length ≤ test_image.length ∧
    test_image.length < (5 : BitVec 32).toNat + (List.replicate 4 (0 : Byte)).length ∧
    imageVerifies test_image true test_stagedImage = false := by decide +kernel

def test_event : Dev := { test_dev with mgmt := { test_dev.mgmt with events := [5#64] } }
def test_update (u : Update) : Dev := { test_stagedImage with mgmt := { test_stagedImage.mgmt with update := u } }

theorem test_witness_Pldm :
    (regsWf test_dev = true ∧ portAlive test_dev = true ∧ isSet aBELLOWS_STOP fBELLOWS_STOP_STOPPING test_dev = false) ∧
    (regsWf test_event = true ∧ portAlive test_event = true ∧ test_event.mgmt.events = [5#64]) ∧
    (∀ u ∈ [(⟨0, 0, 0, 0, 0⟩ : Update), ⟨1, 0, 0, 0, 0⟩, ⟨2, 0, 0, 0, 0⟩, ⟨3, 0, 8, 1, 0⟩, ⟨6, 1, 8, 1, 8⟩],
      regsWf (test_update u) = true ∧ portAlive (test_update u) = true ∧ (test_update u).mgmt.update = u ∧
      (test_update u).mgmt.image = some test_image) ∧
    (genRises 0 1 (test_update ⟨2, 0, 0, 0, 0⟩) = true ∧ genRises 0 0 (test_update ⟨2, 0, 0, 0, 0⟩) = false) ∧
    ((0 : BitVec 32).toNat = (⟨3, 0, 8, 1, 0⟩ : Update).received ∧ 0 < [(0 : Byte)].length ∧ 0 + [(0 : Byte)].length < 8) := by
  decide +kernel

/-- R507: power good and RESET_N low, and RESET_N high. -/
theorem test_witness_BoundaryScan : testEffective test_inReset = true ∧ testEffective test_dev = false := by decide +kernel

/-- An Ethernet port enabled; one up, with PFC on priority 0. -/
def test_port : Dev := wrF (aETH_PORT 1) fETH_PORT_ENABLE 1 test_dev
def test_portUp : Dev := wrF (aETH_PORT 1) fETH_PORT_PFC 1 (wrF (aETH_PORT 1) fETH_PORT_UP 1 test_port)

theorem test_witness_EthernetPorts :
    (regsWf test_port = true ∧ isSet (aETH_PORT 1) fETH_PORT_ENABLE test_port = true ∧ stopNow test_port = false) ∧
    (regsWf test_portUp = true ∧ ethUp 1 test_portUp = true ∧ isSet (aETH_PORT 1) fETH_PORT_PFC test_portUp = true ∧
      rdF (aETH_PORT 1) fETH_PORT_PFC_PRIORITY test_portUp = (3 : BitVec 3).toNat ∧ (1 : BitVec 16) ≠ 0) := by decide +kernel

/-! ### Seedbed, Field and the grid -/

/-- A master of a tile may read and write all its rows. -/
def test_region (t k : Nat) (m : Dev) : Dev :=
  wr (aTILE_SEEDBED_REGION (dieOf t) (numOf t) k 0) (fTILE_SEEDBED_REGION_VALID.of 1 ||| fTILE_SEEDBED_REGION_READ.of 1 |||
    fTILE_SEEDBED_REGION_WRITE.of 1 ||| fTILE_SEEDBED_REGION_LIMIT.of 5119) m
def test_regions : Dev := test_region 0 9 (test_region 0 1 (test_region 0 0 test_dev))
def test_bankReq (write : Bool) : BankReq := ⟨0, 5119, write, 0xFF#64, 0x1234#512, .clean⟩

theorem test_witness_SeedbedBank :
    (test_regions.sound = true ∧ (test_bankReq true).ecc = .clean ∧ (test_bankReq true).row < 5120 ∧
      putOffOf (bankNum (.tile ⟨0, 0⟩ 63)) test_regions = none ∧ waitingAt (bankNum (.tile ⟨0, 0⟩ 63)) test_regions = [] ∧
      (∀ k < 10, (bankGate (.tile ⟨0, 0⟩ 63) k).waits test_regions = false) ∧
      reqAllowed (.tile ⟨0, 0⟩ 63) (test_bankReq true) test_regions = true ∧
      reqAllowed (.tile ⟨0, 0⟩ 63) (test_bankReq false) test_regions = true ∧
      poisoned (wordAddr (.tile ⟨0, 0⟩ 63) 5119) 64 test_regions = false) ∧
    (test_dev.sound = true ∧ putOffOf (bankNum (.tile ⟨0, 0⟩ 63)) test_dev = none ∧
      waitingAt (bankNum (.tile ⟨0, 0⟩ 63)) test_dev = [] ∧ (∀ k < 10, (bankGate (.tile ⟨0, 0⟩ 63) k).waits test_dev = false) ∧
      reqAllowed (.tile ⟨0, 0⟩ 63) (test_bankReq true) test_dev = false) ∧
    ([0, 1, 9].map (fun k => { test_bankReq false with master := k })).all (fun r =>
      reqAllowed (.tile ⟨0, 0⟩ 63) r test_regions && !r.write) = true := by decide +kernel

/-- The last granule of stack 0's first page, in service and out of it. -/
def test_fieldReq (write : Bool) (mask : BitVec 32) (ecc : EccEvent) : FieldReq := ⟨0, 2047, write, mask, 0x77#256, ecc⟩
def test_scrub : Dev := wrF (aHARROW_CTRL 0) fHARROW_CTRL_SCRUB_HOURS 24 test_field

theorem test_witness_FieldAccesses :
    (test_field.sound = true ∧ (test_fieldReq false 0 .clean).ok = true ∧ fieldStack (32 * 2047) = 0 ∧ stackUp 0 test_field = true) ∧
    (test_dev.sound = true ∧ stackUp 0 test_dev = false) ∧
    (test_scrub.sound = true ∧ stackUp 0 test_scrub = true ∧ rdF (aHARROW_CTRL 0) fHARROW_CTRL_SCRUB_HOURS test_scrub ≠ 0 ∧
      2 ^ 36 - 1 < 2 ^ 36 ∧ (rd (aHARROW_FAULT 0) test_scrub).getLsbD 63 = false) := by decide +kernel

/-- One GF4 element times one GI4 element; the least and the greatest pass are allowed. -/
def test_pass : PassSpec := ⟨1, true, 1, 1, 1, 0, 1, 0, 144, 4096, 144, 0, 0⟩

theorem test_witness_GridPass :
    test_regions.sound = true ∧ 1 ≤ test_pass.rows ∧ test_pass.rows ≤ 256 ∧ 1 ≤ test_pass.cols ∧ test_pass.cols ≤ 256 ∧
    1 ≤ test_pass.k ∧ test_pass.k ≤ 256 ∧ pairOk test_pass.fmtA.toNat test_pass.fmtW.toNat = true ∧
    isBf16 test_pass.fmtA.toNat = false ∧ (passRows 0 test_pass test_regions).1.st = .ok := by decide +kernel

/-- A drain of a full row to the last 1,024 bytes of the tile. -/
def test_drain : DrainSpec := ⟨1, 1, 256, 0, 0, 0, 0x140_0000 - 1024, 1024, false, 0⟩

theorem test_witness_Drain :
    test_regions.sound = true ∧ test_drain.rows = 1 ∧ 1 ≤ test_drain.cols ∧ test_drain.cols ≤ 256 ∧ test_drain.outFmt = 0 ∧
    test_drain.epilogue = 0 ∧ test_drain.reference = false ∧ test_drain.outAddr % 64 = 0 ∧
    test_drain.outAddr + 1024 ≤ 0x140_0000 ∧
    canWrite (.tile 0 0) (tl 0 test_drain.outAddr) (4 * test_drain.cols) test_regions = true ∧
    tileMasterParked 0 0 test_regions = false := by decide +kernel

def test_selfTesting : Dev := { test_roleZero with selfTest := [(5, true)] }

theorem test_witness_SelfTest :
    (test_roleZero.sound = true ∧ roleOf 5 test_roleZero = 0 ∧ Sparse.get false test_roleZero.selfTest 5 = false) ∧
    (test_roleOne.sound = true ∧ roleOf 5 test_roleOne ≠ 0) ∧
    (test_selfTesting.sound = true ∧ Sparse.get false test_selfTesting.selfTest 5 = true) := by decide +kernel

/-! ### Rings, groups and commit acts -/

/-- Ring 0 of compute engine 0 has one tile and one entry at the Field's first bytes. -/
def test_ceRing (e : List Byte) : Dev :=
  stBytes fieldBase e (wr (tileRingReg 0 0 2) (fRING_HEAD_HEAD.of 1) (wr (tileRingReg 0 0 1) (fRING_CTRL_ENABLE.of 1)
    (wr (tileRingReg 0 0 0) (fRING_BASE_BASE.of (fieldBase / 64)) (wr (aFPLAN_MEMBER 0) (fFPLAN_MEMBER_VALID.of 1)
      (wrF (onTile aTILE_ID 0) fTILE_ID_ROLE 1 test_field)))))

/-- Ring 0 of a fixed engine of die 0 has one entry there; tile 0 is in service. -/
def test_fixReg (k j : Nat) : Nat := aFIX_RING_BASE 0 k 0 + 8 * j
def test_fixRing (k : Nat) (e : List Byte) : Dev :=
  stBytes fieldBase e (wr (test_fixReg k 2) (fRING_HEAD_HEAD.of 1) (wr (test_fixReg k 1) (fRING_CTRL_ENABLE.of 1)
    (wr (test_fixReg k 0) (fRING_BASE_BASE.of (fieldBase / 64)) (wrF (onTile aTILE_ID 0) fTILE_ID_ROLE 1 test_field))))

/-- A list with single bytes set. -/
def test_bytes (n : Nat) (xs : List (Nat × Nat)) : List Byte :=
  (List.range n).map (fun i => BitVec.ofNat 8 (((xs.find? (fun x => x.1 = i)).map (fun x => x.2)).getD 0))

/-- One entry of each opcode: products, attention, norm, route, append and gather of no rows (ROUTE with its map in the Field), a copy and a move, a SIGNAL of no
data to group 0, and a COMMIT with a KIND 3 word. The GATHER has one output row and a descriptor in the Field. -/
def test_entryOf (op : Nat) : List Byte :=
  test_bytes 64 ((0, op) :: (match op with
    | 0x01 => [(36, 1), (40, 1)]
    | 0x02 => [(32, 1), (36, 1)]
    | 0x03 => [(29, 1)]
    | 0x04 => [(20, 16)]
    | 0x10 => [(18, 128), (23, 2), (24, 1), (26, 1)]
    | 0x11 => [(23, 1)]
    | 0x12 => [(2, 1), (18, 128), (23, 2)]
    | 0x14 => [(8, 64), (13, 2), (16, 128), (21, 2), (24, 8), (28, 5), (30, 1), (33, 2)]
    | 0x23 => [(56, 7), (60, 2), (63, 0x30)]
    | _ => []))

/-- Group 0 has this module alone, and the Drones are on. -/
def test_grouped (m : Dev) : Dev :=
  { wr aDRONE_CTRL (fDRONE_CTRL_ENABLE.of 1) m with
    plan := { m.plan with tables := memPut [] (tableKey 6 1 0) (test_bytes 34 [(0, 1), (1, 1), (3, 1), (4, 1), (5, 1), (33, 0x80)]) } }

/-- What a started command must meet (R105, R118), with what its ring fetches. -/
def test_starts (c : Instr) (m : Dev) : Bool :=
  match ringWork c with
  | none => false
  | some (q, op, ok, body) =>
    let n := ringNum q
    let r := fetchEntry n m
    m.sound && ringCanStart n m && decide (r.st = .ok) && decide (cmdOpcode r.data = op) &&
      (entryOk r.data && rankOk n r.data r.m && ok r.data r.m) && (op ≠ opMOVE || !moveWaits n m) &&
      !((op = opMOVE || op = opCOPY) && moverHeld n m) &&
      decide ((body r.data (openGroup n r.m)).reason = 0)

theorem test_witness_StartedProducts :
    test_starts (.gemm (.ce 0 0)) (test_ceRing (test_entryOf 0x01)) = true ∧
    test_starts (.fused (.ce 0 0)) (test_grouped (test_ceRing (test_entryOf 0x02))) = true := by decide +kernel

theorem test_witness_StartedTileCommands :
    test_starts (.attend (.ce 0 0)) (test_ceRing (test_entryOf 0x03)) = true ∧
    test_starts (.norm (.ce 0 0)) (test_ceRing (test_entryOf 0x04)) = true := by decide +kernel

theorem test_witness_StartedFixedCommands :
    test_starts (.route (.fixed 0 .coulter 0)) (test_grouped (test_fixRing 0 (test_entryOf 0x10))) = true ∧
    test_starts (.append (.fixed 0 .drill 0)) (test_fixRing 1 (test_entryOf 0x11)) = true ∧
    test_starts (.gather (.fixed 0 .gleaner 0)) (test_fixRing 2 (test_entryOf 0x12)) = true := by decide +kernel

theorem test_witness_StartedMoverCommands :
    test_starts (.move (.fixed 0 .mover 0)) (test_fixRing 3 (test_entryOf 0x13)) = true ∧
    test_starts (.copyAsync (.fixed 0 .mover 0)) (test_fixRing 3 (test_entryOf 0x14)) = true ∧
    test_starts (.signal (.fixed 0 .mover 0)) (test_grouped (test_fixRing 3 (test_entryOf 0x21))) = true ∧
    test_starts (.commit (.fixed 0 .mover 0)) (test_fixRing 3 (test_entryOf 0x23)) = true := by decide +kernel


/-- A command whose entry halts its ring: what the fetch answers, what the checks answer, and the reason of its work. -/
def test_fetch (c : Instr) (m : Dev) : Option (AStat × Bool × Nat) :=
  (ringWork c).map (fun w =>
    let n := ringNum w.1
    let r := fetchEntry n m
    (r.st, entryOk r.data && rankOk n r.data r.m && w.2.2.1 r.data r.m, (w.2.2.2 r.data (openGroup n r.m)).reason))

/-- Its premises on the ring. -/
def test_mayFetch (n : Nat) (m : Dev) : Bool := m.sound && ringCanStart n m && (boundOf n m).isEmpty

/-- The ring's entry lies in a stack that is out of service; its K is 0; its opcode is not in the table; its group is invalid. -/
def test_entryAway : Dev := wr (tileRingReg 0 0 0) (fRING_BASE_BASE.of ((fieldBase + 65536) / 64)) (test_ceRing [])
def test_entryK0 : Dev := test_ceRing (test_bytes 64 [(0, 1)])
def test_entryNone : Dev := test_ceRing (test_bytes 64 [(0, 0xEE)])
def test_entryNoGroup : Dev := test_fixRing 0 (test_entryOf 0x10)

theorem test_witness_EntryUnreadableOrRefused :
    (test_mayFetch 0 test_entryAway && test_mayFetch 0 test_entryK0 && test_mayFetch 0 test_entryNone) = true ∧
    (test_fetch (.gemm (.ce 0 0)) test_entryAway).map (fun x => x.1) ≠ some .ok ∧
    (test_fetch (.gemm (.ce 0 0)) test_entryK0).map (fun x => (x.1, x.2.1)) = some (.ok, false) ∧
    (test_fetch (.gemm (.ce 0 0)) test_entryNone).map (fun x => (x.1, x.2.1)) = some (.ok, false) ∧
    opcodes.contains 0xEE = false := by decide +kernel

theorem test_witness_EntryWorkFails :
    test_mayFetch 128 test_entryNoGroup = true ∧
    test_fetch (.route (.fixed 0 .coulter 0)) test_entryNoGroup = some (.ok, true, 5) := by decide +kernel

/-! ### WAIT and FENCE -/

/-- A WAIT for counter 0 of die 0 to reach 0, and one for 7; a FENCE. -/
def test_wait (v : Nat) : Dev := test_fixRing 3 (test_bytes 64 [(0, 0x20), (12, v)])
def test_fence : Dev := test_fixRing 3 (test_bytes 64 [(0, 0x22)])
/-- A ring state on Mover ring 0 of die 0, which is ring 140. -/
def test_ringAt (x : RingDyn) (m : Dev) : Dev := { m with rings := [(140, x)] }

theorem test_witness_Wait :
    (test_mayFetch 140 (test_wait 0) && test_mayFetch 140 (test_wait 7)) = true ∧
    (let r := readVia (agentMover 0) fieldBase 64 (test_wait 7)
     r.st = .ok ∧ (entryOk r.data && rankOk 140 r.data r.m) = true ∧ cmdOpcode r.data = opWAIT ∧ counterReached 0 0 r.m = true ∧
      counterReached (field r.data 8 2) (field r.data 12 4) r.m = false) := by decide +kernel

/-- A WAIT that waits for a counter that has reached its value, and for one that has not. -/
def test_waited (v : BitVec 32) : Dev := test_ringAt { RingDyn.idle with wait := some (0, v, 9) } (test_wait 0)
/-- The same at a boundary, its ring no longer enabled. -/
def test_waitOff : Dev := wr (test_fixReg 3 1) 0 (test_waited 0)

theorem test_witness_WaitEnds :
    ((test_waited 0).sound && (test_waited 7).sound) = true ∧ (dynOf 140 (test_waited 7)).wait = some (0, 7, 9) ∧
    counterReached 0 0 (test_waited 0) = true ∧ counterReached 0 7 (test_waited 7) = false ∧
    (dynOf 140 (test_waited 0)).wait = some (0, 0, 9) ∧ (dynOf 140 (test_waited 0)).open_ = false ∧
    ringCanStart 140 (setDyn 140 { dynOf 140 (test_waited 0) with wait := none } (test_waited 0)) = true ∧
    ringCanStart 140 (setDyn 140 { dynOf 140 test_waitOff with wait := none } test_waitOff) = false ∧
    boundOf 140 (test_waited 7) = [] := by decide +kernel

/-- A SIGNAL of ring 140 that still waits for its answers. -/
def test_outstanding (m : Dev) : Dev :=
  { m with drone := { m.drone with
      signals := [{ ring := 140, die := 0, group := 0, dest := 0, left := [(0, 0)] }] } }
def test_fenced (sc : Nat) : Dev := test_ringAt { RingDyn.idle with fence := some sc } test_fence

theorem test_witness_Fence :
    test_mayFetch 140 test_fence = true ∧
    (let r := readVia (agentMover 0) fieldBase 64 test_fence
     r.st = .ok ∧ (entryOk r.data && rankOk 140 r.data r.m) = true ∧ cmdOpcode r.data = opFENCE ∧
      fenceMet 140 (field r.data 8 1) r.m = true) ∧
    (test_outstanding (test_fenced 0)).sound = true ∧ (dynOf 140 (test_fenced 0)).fence = some 0 ∧
    fenceMet 140 0 (test_fenced 0) = true ∧ fenceMet 140 0 (test_outstanding (test_fenced 0)) = false := by decide +kernel

/-! ### Commit acts -/

/-- A group that has ended with a word, by the work it did: with work, or of zero-work commands alone. -/
def test_ended (w : Word) (zero : Bool) : Dev :=
  test_ringAt { RingDyn.idle with ended := some (w, 0), open_ := true, zero := zero, colls := [0, 0, 255] }
    (test_grouped (test_fixRing 3 (test_entryOf 0x23)))
/-- The same of ring 0 of compute engine 0. -/
def test_endedCe : Dev :=
  { test_ceRing (test_entryOf 0x23) with
    rings := [(0, { RingDyn.idle with ended := some (0#64, 0), open_ := true, colls := [0, 0, 255] })] }
/-- The same with its tile lost. -/
def test_lostRank : Dev := wrF (onTile aTILE_ID 0) fTILE_ID_ROLE 0 test_endedCe
/-- KIND 3: counter 0 of die 0 by 65,535; KIND 6 does not exist, so its act is none; KIND 1 without a base fails. -/
def test_kind3 : Word := 0x3000FFFF00000000#64

theorem test_witness_CommitAct :
    ((test_ended test_kind3 false).sound && test_endedCe.sound) = true ∧
    (dynOf 140 (test_ended test_kind3 false)).ended = some (test_kind3, 0) ∧
    outstanding 140 (test_ended test_kind3 false) = false ∧ outstanding 140 (test_outstanding (test_ended 0 false)) = true ∧
    (commitAct 140 0 test_kind3.toNat (test_ended test_kind3 false)).reason = 0 ∧ bitsAt test_kind3.toNat 60 4 = 3 ∧
    outstanding 0 test_endedCe = false ∧ (commitAct 0 0 0 test_endedCe).reason = 0 ∧ rankLost 0 test_endedCe = false ∧
    rankLost 140 (test_ended test_kind3 false) = false ∧ rankLost 0 test_lostRank = true ∧ boundOf 0 test_lostRank = [] ∧
    (dynOf 0 test_lostRank).ended = some (0, 0) ∧ outstanding 0 test_lostRank = false ∧ test_lostRank.sound = true ∧
    (leadOf (ringEngine 0) test_endedCe).isSome = true ∧ (∀ g ∈ (dynOf 0 test_endedCe).colls, g < 256) ∧
    seqOf 0 0 (test_after (.groupCommitAct (.ce 0 0)) test_endedCe) = 2 ∧
    seqOf 0 255 (test_after (.groupCommitAct (.ce 0 0)) test_endedCe) = 1 := by decide +kernel

theorem test_witness_CommitActHollow :
    (test_ended 0 true).sound = true ∧ (dynOf 140 (test_ended 0 true)).ended = some (0, 0) ∧
    ((dynOf 140 (test_ended 0 true)).zero && !(dynOf 140 (test_ended 0 true)).other) = true ∧ bitsAt 0 60 4 ≠ 3 ∧
    outstanding 140 (test_ended 0 true) = false ∧ rankLost 140 (test_ended 0 true) = false := by decide +kernel

/-! ### Kills, budgets and ring registers -/

/-- Mover ring 0 of die 0, of class 2, has a group open; ring 1, of another class, has an entry. -/
def test_rival (cls : Nat) (x : RingDyn) : Dev :=
  { wr (test_fixReg 3 2 + 32) (fRING_HEAD_HEAD.of 1) (wr (test_fixReg 3 1 + 32) (fRING_CTRL_ENABLE.of 1 ||| fRING_CTRL_CLASS.of cls)
      (wr (test_fixReg 3 1) (fRING_CTRL_ENABLE.of 1 ||| fRING_CTRL_CLASS.of 2) (test_ringAt x (test_wait 0)))) with
    engines := [(19, ⟨some 140, false, []⟩)] }
def test_open : RingDyn := { RingDyn.idle with open_ := true }

theorem test_witness_Kills :
    (test_rival 1 test_open).sound = true ∧ ringNum (.fixed 0 .mover 0) = 140 ∧ engineNum (.fixed 0 .mover) = 19 ∧
    ringOpen 140 (test_rival 1 test_open) = true ∧ boundOf 140 (test_rival 1 test_open) = [] ∧
    preemptible 19 (test_rival 1 test_open) = some 140 ∧ classReady 19 1 (test_rival 1 test_open) = true ∧
    2 ≤ ringClass 140 (test_rival 1 test_open) ∧ preemptible 19 (test_rival 0 test_open) = some 140 ∧
    classReady 19 0 (test_rival 0 test_open) = true ∧ ringClass 140 (test_rival 0 test_open) ≠ 0 := by decide +kernel

theorem test_witness_KillsSparedAndBudgets :
    (test_rival 1 { test_open with bound := true }).sound = true ∧
    openRing 19 (test_rival 1 { test_open with bound := true }) = some 140 ∧
    (dynOf 140 (test_rival 1 { test_open with bound := true })).bound = true ∧
    (engDyn 19 (test_rival 1 test_open)).served.isSome = true ∧
    (dynOf 140 (test_rival 1 test_open)).overlong = false ∧
    (test_rival 1 { test_open with overlong := true }).sound = true ∧
    (dynOf 140 (test_rival 1 { test_open with overlong := true })).overlong = true := by decide +kernel

/-- A halted ring with FETCH beyond RERUN, and one with RERUN near the end of the count. -/
def test_halted : Dev :=
  wr (test_fixReg 3 2) (fRING_HEAD_HEAD.of 9 ||| fRING_HEAD_HALTED.of 1 ||| fRING_HEAD_REASON.of 6)
    (wr (test_fixReg 3 3) (fRING_PTR_FETCH.of 7 ||| fRING_PTR_RERUN.of 5) (test_wait 0))
def test_lateRerun : Dev := wr (test_fixReg 3 3) (fRING_PTR_FETCH.of (2 ^ 32 - 1) ||| fRING_PTR_RERUN.of (2 ^ 32 - 1)) (test_wait 0)

theorem test_witness_RingRegisters :
    (test_halted.sound && (test_wait 0).sound && test_lateRerun.sound) = true ∧ ringSize 140 test_lateRerun = 6 ∧
    (63 + 2 ^ 32 - ringRerun 140 test_lateRerun) % 2 ^ 32 ≤ 2 ^ 6 ∧ (64 + 2 ^ 32 - ringRerun 140 test_lateRerun) % 2 ^ 32 > 2 ^ 6 ∧
    ringHalted 140 test_lateRerun = false ∧ boundOf 140 test_lateRerun = [] ∧ ringHalted 140 test_halted = true ∧
    keptActs 140 test_halted = [] ∧ ringHead 140 (test_after (.ringHeadWrite (.fixed 0 .mover 0) 63#32) test_lateRerun) = 63 ∧
    ringFetch 140 (test_after (.ringResume (.fixed 0 .mover 0)) test_halted) = 5 ∧
    ringRerun 140 (test_after (.ringDiscard (.fixed 0 .mover 0)) test_halted) = 9 := by decide +kernel

/-! ### The Field Plan -/

/-- The plan unit in a state. -/
def test_planState (n : Nat) (m : Dev) : Dev := setPlanState n m

/-- A container of one strip, one record to BELLOWS_THERM, that a key of slot 1 signs; `kind` is its KIND. -/
def test_planBody : List Byte :=
  [0x47#8, 0x5A#8, 0x46#8, 0x50#8, 1#8, 0#8, 0#8, 0#8] ++ toLe 8 77 ++ toLe 8 0 ++ toLe 4 5 ++ [0xB0#8, 0#8, 0#8, 0#8] ++ toLe 4 1 ++
    toLe 4 0 ++ toLe 4 120 ++ List.replicate 20 0 ++ toLe 4 56 ++ [2#8, 0#8, 0#8, 0#8] ++ toLe 4 1 ++ List.replicate 20 0 ++
    toLe 2 0x20 ++ toLe 6 0 ++ toLe 8 0x5F6E555F69283C46 ++ toLe 8 0xFFFFFFFFFFFFFFFF
def test_planDigest : List Byte := toLe 64 6206106384671244521822801764688336741162520007829183865238381172332399373919285238616581978124742775860373969570964123995329334365906497247771927964843448
def test_container : List Byte :=
  test_planBody ++ [1#8, 0#8, 1#8, 0#8, 0#8, 0#8, 0#8, 0#8] ++ test_planDigest ++ List.replicate 1976 0

/-- The container lies at the Field's first bytes, and a load of it is under way. -/
def test_planRegs (job : Option (Nat × Nat)) : Dev :=
  wr aFPLAN_STATUS (fFPLAN_STATUS_STATE.of 1) (wr (aSCARE_PUBSLOT 1) (fSCARE_PUBSLOT_VALID.of 1 ||| fSCARE_PUBSLOT_ROLE.of 2)
    { test_field with plan := { test_field.plan with loading := job } })
def test_loading (job : Option (Nat × Nat)) : Dev := stBytes fieldBase test_container (test_planRegs job)

theorem test_witness_LoadTakenUpOrBusy :
    (test_planState 3 test_dev).sound = true ∧ test_dev.sound = true ∧ test_dev.piper.move = none ∧
    planState (test_planState 3 test_dev) = 3 ∧ planState (test_planState 1 test_dev) = 1 ∧ planState test_dev ≠ 1 ∧
    planState test_dev ≠ 3 := by decide +kernel

theorem test_container_length : test_container.length = 2168 := by decide +kernel

theorem test_loading_reads :
    readVia .headland fieldBase 2168 (test_loading none) = ⟨test_loading none, .ok, test_container⟩ := by
  have e : readVia .headland fieldBase 2168 (test_loading none) =
    ⟨test_loading none, .ok, ldBytes fieldBase 2168 (test_loading none)⟩ := by rfl
  rw [e, test_loading, ldBytes_stBytes_take (by rfl) _ _ _ (by rw [test_container_length]), List.take_of_length_le
    (by rw [test_container_length])]

/-- A load whose signature passes and one whose signature fails. -/
theorem test_witness_LoadChecked :
    (test_loading (some (fieldBase, 2168))).sound = true ∧ (test_loading (some (fieldBase, 2168))).piper.move = none ∧
    (test_loading (some (fieldBase, 2168))).plan.loading = some (fieldBase, 2168) ∧
    { test_loading (some (fieldBase, 2168)) with plan := { (test_loading (some (fieldBase, 2168))).plan with loading := none } } =
      test_loading none ∧
    readVia .headland fieldBase 2168 (test_loading none) = ⟨test_loading none, .ok, test_container⟩ ∧
    (∃ ss, checkContainer test_container true (test_loading none) = .inr ss) ∧
    (∃ e, checkContainer test_container false (test_loading none) = .inl e) := by
  refine ⟨sound_stBytes (by decide +kernel) _ _, by rfl, by rfl, by rfl, test_loading_reads, ?_, ?_⟩
  · have h : (checkContainer test_container true (test_loading none)).isRight = true := by decide +kernel
    exact ⟨_, Sum.eq_right_getRight_of_isRight h⟩
  · exact ⟨⟨1, 0, 0, 0, 0⟩, by simp [checkContainer, planSigned]⟩

/-! #### Commits -/

/-- A change set: registers, each with the value and the mask written. -/
def test_staged (xs : List (Nat × Word × Word)) (m : Dev) : Dev := { m with shadow := xs }

/-- VALID of a member alone; a ring base off its size; DIE of a stack in service; a Coulter's host map; a thermal limit. -/
def test_memberAlone : Dev := test_staged [(aFPLAN_MEMBER 0, fFPLAN_MEMBER_VALID.of 1, fFPLAN_MEMBER_VALID.of 1)] test_dev
def test_ringOff : Dev :=
  test_staged [(test_fixReg 0 0, fRING_BASE_BASE.of 1, fRING_BASE_BASE.mask), (test_fixReg 0 1, fRING_CTRL_SIZE_LOG2.of 6,
    fRING_CTRL_SIZE_LOG2.mask)] test_dev
def test_stackOff : Dev :=
  test_staged [(aHARROW_CTRL 0, ~~~ rd (aHARROW_CTRL 0) test_field, BitVec.ofNat 64 RegName.HARROW_CTRL.info.offline)] test_field
def test_coulterHost : Dev := test_staged [(aCOULTER_HOST 0, 0x40#64, BitVec.ofNat 64 RegName.COULTER_HOST.info.rws)] test_dev
def test_thermal : Dev := test_staged [(aBELLOWS_THERM, 0x60#64, 0xFF#64)] test_dev

theorem test_witness_CommitRefused :
    (test_memberAlone.sound && test_ringOff.sound && test_stackOff.sound) = true ∧ changeSetEmpty test_dev = true ∧
    (changeSetEmpty test_memberAlone || changeSetEmpty test_ringOff || changeSetEmpty test_stackOff) = false ∧
    failingGroup (frozenPlan test_memberAlone) = some (0, .incomplete) ∧
    failingGroup (frozenPlan test_ringOff) = some (2, .inconsistent) ∧ failingGroup (frozenPlan test_stackOff) = none ∧
    (notOffline (frozenPlan test_stackOff)).isSome = true := by decide +kernel

theorem test_witness_CommitWaits :
    test_coulterHost.sound = true ∧ test_coulterHost.piper.move = none ∧ planState test_coulterHost = 0 ∧
    changeSetEmpty test_coulterHost = false ∧ failingGroup (frozenPlan test_coulterHost) = none ∧
    notOffline (frozenPlan test_coulterHost) = none ∧ unitsToPark (frozenPlan test_coulterHost) = [.fixed 0 .coulter] := by
  decide +kernel

theorem test_witness_CommitApplies :
    test_thermal.sound = true ∧ planState test_thermal = 0 ∧ test_thermal.shadow = [(aBELLOWS_THERM, (0x60#64, 0xFF#64))] ∧
    test_thermal.plan.stagedTables = [] ∧ (locate aBELLOWS_THERM).any (fun p => commitsPlainly p.name) = true ∧
    failingGroup (frozenPlan test_thermal) = none ∧ notOffline (frozenPlan test_thermal) = none ∧
    unitsToPark (frozenPlan test_thermal) = [] ∧ evictedTiles (frozenPlan test_thermal) = [] := by decide +kernel

/-! #### Parking, evictions, time-outs -/

/-- A frozen change set that waits for the Drones and the Stile, and one that waits for an engine with an open group. -/
def test_frozen : Dev := { test_dev with plan := { test_dev.plan with frozen := true, waiting := [.drone, .stile] } }

/-- The spare tile 17 of die 0 stands in while a die-shared region of two rows names it; the regions are being zeroed. -/
def test_zeroing : Dev :=
  let m := wr (aDIE_SHARED_REGION 0 0 0) (fDIE_SHARED_REGION_VALID.of 1 ||| fDIE_SHARED_REGION_TILE.of 17 |||
    fDIE_SHARED_REGION_BASE.of 5118 ||| fDIE_SHARED_REGION_LIMIT.of 5119) test_dev
  let f := fFPLAN_MEMBER_ROLE.mask
  { test_staged [(aFPLAN_MEMBER 17, fFPLAN_MEMBER_ROLE.of 3, f)] m with
    plan := { m.plan with frozen := true, frozenMask := [(aFPLAN_MEMBER 17, f)], zeroing := true } }

theorem test_witness_Parked :
    test_frozen.sound = true ∧ test_frozen.piper.move = none ∧ test_frozen.plan.frozen = true ∧
    test_frozen.plan.waiting.contains .drone = true ∧ unitAtCondition .drone test_frozen = true ∧
    test_frozen.plan.waiting.erase .drone = [.stile] ∧ test_openGroup.sound = true ∧
    unitAtCondition (.engine 0) test_openGroup = false ∧ test_dev.plan.frozen = false := by decide +kernel

theorem test_witness_Zeroing :
    test_zeroing.sound = true ∧ test_zeroing.piper.move = none ∧ test_zeroing.plan.zeroing = true ∧
    evictedTiles test_zeroing = [17] ∧ regionsNaming 17 test_zeroing = [(0, 0)] := by decide +kernel

/-! ### Steps -/

/-- 64-KiB areas of the Field's first bytes. -/
def test_area (k : Nat) : Nat := fieldBase + 65536 * k

/-- A module whose Piper has a role, with its tables in the Field: sessions, connections, buckets, the D0 directory, and the record of
epoch 0. -/
def test_piper (role : Nat) : Dev :=
  wr aPIPER_CTRL (fPIPER_CTRL_ENABLE.of 1 ||| fPIPER_CTRL_ROLE.of role)
    (wr aPIPER_SESSION_BASE (fPIPER_SESSION_BASE_BASE.of (test_area 16 / 65536))
      (wr aINTAKE_CTRL (fINTAKE_CTRL_ENABLE.of 1) (wr aINTAKE_CONN_BASE (fINTAKE_CONN_BASE_BASE.of (test_area 512 / 65536))
        (wr (aDRILL_KV_DIR 0) (fDRILL_KV_DIR_BASE.of (test_area 1024 / 65536))
          (wr aPIPER_BUCKET_BASE (fPIPER_BUCKET_BASE_BASE.of (test_area 1536 / 65536))
            (wr (aTIER_EPOCH_REC 0) (fTIER_EPOCH_REC_ADDR.of (test_area 2048 / 64)) test_field))))))
def test_lead : Dev := test_piper 1

/-- The module with a session's descriptor: its state byte, then single bytes; its handle is its number with generation 1, its
prompt buffer an area of its own, and its turn may take one token. -/
def test_sess (s flags : Nat) (xs : List (Nat × Nat)) (m : Dev) : Dev :=
  stBytes (sessAddr s m) (test_bytes 128 ([(0, flags), (8, s), (10, 1), (48, 1), (122, s), (125, 2), (1, 64)] ++ xs)) m

/-- The lead with a step in flight. -/
def test_inFlight (st : StepSt) (m : Dev) : Dev := { m with piper := { m.piper with step := some st } }
def test_slot (kind : Nat) : Slot := ⟨1, kind, 4, 0, 3, 0, 0xFFFF, 0, 0⟩
def test_step : StepSt := ⟨1, 0, [test_slot 2], [], 0⟩
def test_stepping : Dev := test_inFlight test_step (test_sess 1 2 [(40, 9)] test_lead)
/-- The same with one member to report, with RERUNS at its limit, and with a commit under way that takes ENABLE to 0. -/
def test_notDone : Dev := wrF aPIPER_CTRL fPIPER_CTRL_MEMBERS 1 test_stepping
def test_atLimit : Dev :=
  wrF aPIPER_STEP fPIPER_STEP_RERUNS (rdF aPIPER_STEP_LIMIT fPIPER_STEP_LIMIT_RERUN_MAX test_notDone) test_notDone
def test_disabling : Dev :=
  { test_notDone with
    shadow := [(aPIPER_CTRL, (0, fPIPER_CTRL_ENABLE.mask))]
    plan := { test_notDone.plan with frozen := true, frozenMask := [(aPIPER_CTRL, fPIPER_CTRL_ENABLE.mask)], waiting := [.piper] } }

theorem test_witness_StepCommits :
    (test_lead.sound && test_stepping.sound && test_notDone.sound) = true ∧ test_lead.piper.step = none ∧
    test_stepping.piper.step = some test_step ∧ stepDone test_notDone = false ∧ stepDone test_stepping = true ∧
    isPoolLead test_stepping = false ∧ test_step.cancels = [] ∧ test_stepping.piper.ships = [] ∧ test_step.slots = [test_slot 2] := by
  decide +kernel

theorem test_witness_StepReruns :
    (test_atLimit.sound && test_disabling.sound) = true ∧ test_atLimit.piper.step = some test_step ∧
    test_disabling.piper.step = some test_step ∧ piperHeld test_disabling = true ∧ disabling test_disabling = true ∧
    disabling test_notDone = false ∧ disabling test_atLimit = false ∧ stepDone test_atLimit = false ∧ stepDone test_disabling = false ∧
    test_notDone.piper.step = some test_step ∧
    rdF aPIPER_STEP fPIPER_STEP_RERUNS test_notDone < rdF aPIPER_STEP_LIMIT fPIPER_STEP_LIMIT_RERUN_MAX test_notDone ∧
    rdF aPIPER_STEP_LIMIT fPIPER_STEP_LIMIT_RERUN_MAX test_atLimit ≤ rdF aPIPER_STEP fPIPER_STEP_RERUNS test_atLimit := by
  decide +kernel

/-- Session 1 in PREFILL, IDLE, and in PREFILL with a cancel due at this act. -/
def test_prefill : Dev := test_sess 1 2 [(40, 9)] test_lead
def test_idle : Dev := test_sess 1 5 [] test_lead
def test_cancelDue : Dev := test_sess 1 18 [(40, 9)] test_lead

theorem test_witness_CommitSlot :
    (test_prefill.sound && test_idle.sound && test_cancelDue.sound) = true ∧
    cancelNow 1 (actCounts 7 1 test_prefill) = false ∧ inTurn 1 test_prefill = true ∧ stateOf 1 test_prefill ≠ sSHIPPING ∧
    (test_slot 2).kind = 2 ∧ (resultAt [] 0).stop = none ∧ dGet dGENERATED 1 test_prefill ≠ dGet dMAX_NEW 1 test_prefill ∧
    cancelNow 1 (actCounts 7 1 test_idle) = false ∧ inTurn 1 test_idle = false ∧
    cancelNow 1 (actCounts 7 1 test_cancelDue) = true ∧ rollbackOf 1 test_cancelDue = false ∧
    dGet dCOMMITTED_LEN 1 (commitSlot 7 (test_slot 2) (resultAt [] 0) ⟨test_prefill, []⟩).m = 3 := by decide +kernel

/-- A member, and one whose run of 2 entries lacked room in ring 0 of engine 0. -/
def test_member : Dev := test_piper 2
def test_run : List Byte := [0x10#8, 0#8, 0#8, 0#8] ++ toLe 4 2 ++ toLe 8 (fieldBase + 8192)
def test_lacking (head : Nat) : Dev :=
  let m := wr (tileRingReg 0 0 2) (fRING_HEAD_HEAD.of head) (test_ceRing [])
  { m with piper := { m.piper with runs := [test_run] } }

theorem test_witness_Members :
    (test_member.sound && test_lead.sound && (test_lacking 64).sound && (test_lacking 62).sound) = true ∧
    isMember test_lead = false ∧ isMember test_member = true ∧ field (toLe 8 5) 0 8 ≠ test_member.piper.taken ∧
    field (toLe 8 5) 0 8 = { test_member.piper with taken := 5 }.taken ∧ test_member.piper.runs = [] ∧
    (test_lacking 64).piper.runs = test_run :: [] ∧ runRing test_run (test_lacking 64) = some 0 ∧
    ringRoom 0 (test_lacking 64) = 0 ∧ runRing test_run (test_lacking 62) = some 0 ∧ ringRoom 0 (test_lacking 62) = 2 ∧
    (copyRun test_run (test_lacking 62)).left = none ∧ (copyRun test_run (test_lacking 62)).st = .ok ∧
    ((manifestWrites (toLe 8 5) test_member).st = .ok ∧ (manifestProgram (toLe 8 5) test_member).st ≠ .held) ∧
    ringHead 0 (test_after .ringRoomFreed (test_lacking 62)) = 64 := by decide +kernel

/-! ### Messages of the Intake -/

/-- Connection 0 is open. -/
def test_conn (m : Dev) : Dev := stBytes (connAddr 0 m) [1#8] m
def test_front : Dev := test_conn test_lead
/-- A message on it: its length, sequence, REQUEST_ID and payload. -/
def test_msg (seq rid : Nat) (p : List Byte) : IntakeMsg :=
  ⟨0, 0, 1, BitVec.ofNat 16 p.length, 0, BitVec.ofNat 64 seq, 0, 8, 0, BitVec.ofNat 64 rid, p, true⟩
/-- The handle of session 1, and payloads that begin with it. -/
def test_handle : Nat := 65537
def test_h (p : List Byte) : List Byte := toLe 8 test_handle ++ p
def test_cancelMsg (seq : Nat) : IntakeMsg := test_msg seq 0 (test_h [1#8])
/-- What R202 asks of a message beside its order. -/
def test_good (typ : Nat) (x : IntakeMsg) (m : Dev) : Bool :=
  isSet aINTAKE_CTRL fINTAKE_CTRL_ENABLE m && !stopNow m && !headerBad x m && x.tagOk &&
    decide (x.payload.length = x.length.toNat) && payloadClean typ x.payload
/-- RX_NEXT of connection 0 at 5. -/
def test_taken5 : Dev := kSet kRX_NEXT 0 5 test_front

theorem test_witness_IntakeOrder :
    (test_front.sound && test_taken5.sound && test_lead.sound) = true ∧
    (intakeRow (.cancel (test_cancelMsg 5))).isSome = true ∧
    test_good 3 (test_cancelMsg 4) test_taken5 = true ∧ kGet kRX_NEXT 0 test_taken5 = 5 ∧
    test_good 3 (test_cancelMsg 5) test_taken5 = true ∧ test_good 3 (test_cancelMsg 6) test_taken5 = true ∧
    isLead test_taken5 = true ∧ test_good 0x7F (test_msg (2 ^ 63) 0 []) test_taken5 = true ∧
    headerBad { test_cancelMsg 5 with reserved := 1 } test_taken5 = true ∧ headerBad (test_cancelMsg 5) test_lead = true ∧
    isSet aINTAKE_CTRL fINTAKE_CTRL_ENABLE test_dev = false := by decide +kernel

/-- A tag that fails, and a module that leads no slice. -/
theorem test_witness_IntakeRefusals :
    headerBad (test_cancelMsg 5) test_taken5 = false ∧ { test_cancelMsg 5 with tagOk := false }.tagOk = false ∧
    (kSet kRX_NEXT 0 5 (test_conn test_member)).sound = true ∧
    test_good 3 (test_cancelMsg 5) (kSet kRX_NEXT 0 5 (test_conn test_member)) = true ∧
    isLead (kSet kRX_NEXT 0 5 (test_conn test_member)) = false := by decide +kernel

/-- Session 1 in PREFILL, session 1 in SUMMARY, and a table in which none is free. -/
def test_turn : Dev := test_conn test_prefill
def test_summary : Dev := test_conn (test_sess 1 7 [] test_lead)
/-- Session 1 IDLE and PAUSING, on a connection whose customers begin at 5; a REQUEST on it by customer 0. -/
def test_pausingTurn : Dev := kSet kCUSTOMER_LO 0 5 (test_conn (lSet lFLAGS 1 1 test_idle))

theorem test_witness_MessagesAct :
    (test_turn.sound && test_summary.sound && test_front.sound) = true ∧ handleSession test_handle test_front = none ∧
    handleSession test_handle test_turn = some 1 ∧ dGet dREQUEST_ID 1 test_turn = 0 ∧ inTurn 1 test_turn = true ∧
    test_pausingTurn.sound = true ∧ handleSession test_handle test_pausingTurn = some 1 ∧ stateOf 1 test_pausingTurn = sIDLE ∧
    isPausing 1 test_pausingTurn = true ∧ test_pausingTurn.piper.waiting = [] ∧
    customerRefused 0 (test_h (List.replicate 64 0)) test_pausingTurn = true ∧ inTurn 1 test_pausingTurn = false ∧
    dGet dREQUEST_ID 1 test_pausingTurn = 0 ∧
    handleSession test_handle test_summary = some 1 ∧ stateOf 1 test_summary = sSUMMARY ∧ test_turn.piper.waiting = [] ∧
    field (test_h (toLe 4 0 ++ toLe 4 2 ++ toLe 8 0x0000000500000006)) 8 4 = arrivedOf 1 test_turn - summaryOf 1 test_turn := by
  decide +kernel

/-! ### Connections, devices, pools -/

/-- An unacknowledged END on connection 1023, whose KEY_SLOT is 40; with a key there. -/
def test_unacked : Dev :=
  setConn 1023 ⟨[], [(0, ⟨0x83, 0, toLe 12 0⟩)], 0, false⟩ (stBytes (connAddr 1023 test_lead) [1#8, 40#8] test_lead)
def test_unackedKey : Dev := { test_unacked with keys := [(40, ⟨1, 7⟩)] }

theorem test_witness_Connections :
    (test_unacked.sound && test_unackedKey.sound && test_lead.sound) = true ∧ connOpen 1023 test_unackedKey = true ∧
    connKey 1023 test_unackedKey = some (toLe 32 7) ∧ connKey 1023 test_unacked = none ∧ connOpen 1023 test_unacked = true ∧ connOpen 1023 test_lead = false ∧
    (sessions { test_unacked with mem := memPut test_unacked.mem (connAddr 1023 test_unacked) (toLe 1 0) }).all (fun i =>
      !inTurn i { test_unacked with mem := memPut test_unacked.mem (connAddr 1023 test_unacked) (toLe 1 0) }) = true := by
  decide +kernel

/-- A pool lead; port 3's device 3, and a Fallow device there: the one way of the decode. -/
def test_pool : Dev := test_piper 3
def test_fallow (m : Dev) : Dev :=
  wr aTIER_FALLOW_DECODE (fTIER_FALLOW_DECODE_ENABLE.of 1) (wr aTIER_FALLOW_WAYS 15#64 (wrF (aPCIE_PORT 3) fPCIE_PORT_CXL 8 m))
def test_fallowDevice : Dev := test_fallow test_dev
def test_fallowLead : Dev := test_fallow test_lead

theorem test_witness_PoolAndDevices :
    (test_pool.sound && test_lead.sound && test_dev.sound) = true ∧ isPoolLead test_pool = true ∧ isPoolLead test_lead = false ∧
    isFallowDevice 3 3 test_dev = false ∧ isLead test_dev = false ∧ test_fallowDevice.sound = true ∧
    isFallowDevice 3 3 test_fallowDevice = true ∧ isLead test_fallowDevice = false ∧ test_fallowLead.sound = true ∧
    isFallowDevice 3 3 test_fallowLead = true ∧ isLead test_fallowLead = true ∧ (∀ x ∈ sessions test_fallowLead, stateOf x test_fallowLead ≠ sPAUSED) := by
  decide +kernel

/-! #### A table with no descriptor free -/

/-- The first bytes of n descriptors from an address, all in state 1. -/
def test_rows : Nat → Nat → List Host.Cell
  | _, 0 => []
  | b, n + 1 => (b, 1#8) :: test_rows (b + 128) n

def test_full : Dev := { test_lead with mem := test_rows (test_area 16) 65536 }

theorem test_rows_above (b n k : Nat) (h : k < b) : Sparse.above k (test_rows b n) := by
  induction n generalizing b with
  | zero => simp [test_rows, Sparse.above]
  | succ n ih =>
    intro p hp
    rcases List.mem_cons.mp hp with rfl | hp
    · exact h
    · exact ih (b + 128) (by omega) p hp

theorem test_rows_wf (b n : Nat) : Memory.wf (test_rows b n) = true := by
  unfold Memory.wf
  induction n generalizing b with
  | zero => rfl
  | succ n ih =>
    rw [test_rows, Sparse.wfD_cons]
    exact ⟨by decide, test_rows_above _ _ _ (by omega), ih _⟩

theorem test_rows_mem (b n s : Nat) (h : s < n) : (b + 128 * s, 1#8) ∈ test_rows b n := by
  induction n generalizing b s with
  | zero => omega
  | succ n ih =>
    cases s with
    | zero => simp [test_rows]
    | succ s =>
      have := ih (b + 128) s (by omega)
      simp only [test_rows, List.mem_cons]
      right
      have e : b + 128 * (s + 1) = b + 128 + 128 * s := by omega
      rwa [e]

theorem test_rows_get (b n s : Nat) (h : s < n) : Sparse.get (0 : Byte) (test_rows b n) (b + 128 * s) = 1#8 := by
  induction n generalizing b s with
  | zero => omega
  | succ n ih =>
    cases s with
    | zero => simp [test_rows, Sparse.get, Sparse.getD]
    | succ s =>
      have := ih (b + 128) s (by omega)
      have e : b + 128 * (s + 1) = b + 128 + 128 * s := by omega
      rw [e]
      simpa [test_rows, Sparse.get, Sparse.getD, show b + 128 + 128 * s ≠ b from by omega,
        show ¬ b + 128 + 128 * s < b from by omega] using this

theorem test_full_addr (s : Nat) : sessAddr s test_full = test_area 16 + 128 * s := by
  have h : rdF aPIPER_SESSION_BASE fPIPER_SESSION_BASE_BASE test_full * 65536 = test_area 16 := by rfl
  rw [sessAddr, h]

theorem test_full_state (s : Nat) (h : s < 65536) : stateOf s test_full = 1 := by
  have hb : ldByte (test_area 16 + 128 * s) test_full = 1#8 := test_rows_get _ _ _ h
  have e : flagByte s test_full = 1 := by
    rw [flagByte, test_full_addr, ldN]
    simp [ldBytes, List.range_succ, hb, leNat]
  rw [stateOf, e]

theorem test_full_used (s : Nat) (h : s < 65536) : s ∈ sessions test_full := by
  have hm : (test_area 16 + 128 * s, 1#8) ∈ test_full.mem := test_rows_mem _ _ _ h
  have ha : sessAddr 0 test_full = test_area 16 := by simpa using test_full_addr 0
  unfold sessions
  rw [List.mem_filter, ha]
  refine ⟨?_, by simp [test_full_state s h, sFREE]⟩
  rw [List.mem_map]
  refine ⟨_, List.mem_filter.mpr ⟨hm, ?_⟩, ?_⟩
  · simp only [decide_eq_true_eq]; omega
  · simp

/-- The premises of a REQUEST for a new session when no descriptor is free. -/
theorem test_witness_TableFull : test_full.sound = true ∧ lowestFree test_full = none := by
  refine ⟨?_, ?_⟩
  · have h : (regsWf test_full && marksWf test_full && keysWf test_full && nvmWf test_full && heatWf test_full && accWf test_full &&
        linksWf test_full) = true := by decide +kernel
    have hm : Memory.wf test_full.mem = true := test_rows_wf _ _
    simp only [Bool.and_eq_true] at h
    simp [Dev.sound, hm, h]
  · unfold lowestFree
    rw [Option.filter_eq_none_iff]
    intro x hx
    have hp := List.find?_some hx
    simp only [Bool.not_eq_true', List.contains_eq_mem, decide_eq_false_iff_not] at hp
    simp only [decide_eq_true_eq, Nat.not_lt]
    by_contra hlt
    exact hp (test_full_used x (by omega))

/-! ### The slice lead's acts on its sessions -/

/-- The ledger's FLAGS of session 1, the directory's limits and counters, and the record of epoch 0 with one pin. -/
def test_ledger (flags : Nat) (m : Dev) : Dev := lSet lFLAGS 1 flags m
def test_limits (m : Dev) : Dev := setKvHdr 4 196 60 (setKvHdr 2 216 1 (setKvHdr 2 214 0x0005 m))
def test_shipping : Dev :=
  let m := test_sess 1 3 [] test_lead
  { m with piper := { m.piper with ships := [⟨1, none⟩] } }
def test_retiring : Dev :=
  stN 4 (test_area 2048) 1 (wr (aPIPER_EPOCH1 0) 1#64 (wr (aPIPER_EPOCH0 0) (fPIPER_EPOCH0_RETIRING.of 1) test_lead))
def test_short : Dev := { test_lead with piper := { test_lead.piper with short := [(3, 1)] } }
def test_pausing : Dev := test_ledger 1 (test_limits test_idle)
def test_paused (flags : Nat) : Dev := test_ledger flags (test_limits (test_sess 1 6 [(88, 7)] test_lead))

theorem test_witness_LeadActs :
    (test_lead.sound && test_shipping.sound && test_retiring.sound && test_short.sound) = true ∧ isLead test_dev = false ∧
    isLead test_shipping = true ∧ stateOf 1 test_shipping = sSHIPPING ∧ isLead test_retiring = true ∧
    isSet (aPIPER_EPOCH0 0) fPIPER_EPOCH0_RETIRING test_retiring = true ∧ rd (aPIPER_EPOCH1 0) test_retiring ≠ 0 ∧
    0 < epochPins 0 test_retiring ∧ isLead test_short = true ∧
    max 1 (limitOf 2 test_short) ≤ Sparse.get 0 test_short.piper.short 3 ∧
    (∀ k ∈ sessions test_short, canPause 3 k test_short = false) := by
  decide +kernel

theorem test_witness_Pauses :
    ((test_limits test_idle).sound && test_pausing.sound && (test_paused 0).sound && (test_paused 2).sound) = true ∧
    isLead test_pausing = true ∧ stateOf 1 (test_limits test_idle) = sIDLE ∧ isPausing 1 (test_limits test_idle) = false ∧
    limitOf 0 (test_limits test_idle) ≠ 0 ∧ spareCounter (test_limits test_idle) = some 0 ∧
    copiedUnits 1 (test_limits test_idle) ≤
      mirror (lGet lGROUP 1 (test_limits test_idle)) true (logOf 1 (test_limits test_idle)) (test_limits test_idle) ∧
    stateOf 1 test_pausing = sIDLE ∧ isPausing 1 test_pausing = true ∧ groupReported 1 test_pausing = true ∧
    test_pausing.piper.waiting = [] ∧ stateOf 1 (test_paused 2) = sPAUSED ∧ isRestoring 1 (test_paused 2) = true ∧
    groupReported 1 (test_paused 2) = true ∧ stateOf 1 (test_paused 0) = sPAUSED ∧ isRestoring 1 (test_paused 0) = false ∧
    dGet dEXPIRY 1 (test_paused 0) ≠ 0 := by decide +kernel

/-- Ratio control is on at rung 0 of 1, and session 1 waits with 1,024 prompt tokens; a step has passed since the last check, or
none has. -/
def test_ratio (since : Nat) : Dev :=
  let m := wr aPIPER_RATIO (fPIPER_RATIO_ENABLE.of 1 ||| fPIPER_RATIO_TOP.of 1) test_prefill
  { m with piper := { m.piper with arrived := [(1, (1024, 0))], sinceRatio := since } }
def test_ratioOff : Dev := wr aPIPER_RATIO 0 (test_ratio 1)

theorem test_witness_Ratio :
    ((test_ratio 0).sound && (test_ratio 1).sound && test_ratioOff.sound) = true ∧ isLead (test_ratio 1) = true ∧
    (test_ratio 0).piper.sinceRatio < max 1 (rdF aPIPER_RATIO fPIPER_RATIO_INTERVAL (test_ratio 0)) ∧
    max 1 (rdF aPIPER_RATIO fPIPER_RATIO_INTERVAL (test_ratio 1)) ≤ (test_ratio 1).piper.sinceRatio ∧
    isSet aPIPER_RATIO fPIPER_RATIO_ENABLE test_ratioOff = false ∧
    isSet aPIPER_RATIO fPIPER_RATIO_ENABLE (test_ratio 1) = true ∧ (test_ratio 1).piper.move = none ∧
    rdF aPIPER_RATIO fPIPER_RATIO_HIGH (test_ratio 1) < promptQueue (test_ratio 1) ∧
    rdF aPIPER_RATIO fPIPER_RATIO_RUNG (test_ratio 1) < rdF aPIPER_RATIO fPIPER_RATIO_TOP (test_ratio 1) ∧
    planState (test_ratio 1) = 0 := by decide +kernel

/-! ### Windrow links -/

/-- A module of a 4 × 4 × 5 torus at its origin, with every link enabled. -/
def test_torus : Dev :=
  wr aWINDROW_COORD (fWINDROW_COORD_VALID.of 1 ||| fWINDROW_COORD_DIM_X.of 4 ||| fWINDROW_COORD_DIM_Y.of 4 |||
    fWINDROW_COORD_DIM_Z.of 5) test_field
/-- Link l is enabled with its lanes and RETRY_LIMIT 2, in a state with lanes up. -/
def test_link (l state lanes : Nat) : Dev :=
  wrF (aWINDROW_LINK_CTRL l) fWINDROW_LINK_CTRL_ENABLE 1 (wrF (aWINDROW_LINK_CTRL l) fWINDROW_LINK_CTRL_LANE_EN 15
    (wrF (aWINDROW_LINK_CTRL l) fWINDROW_LINK_CTRL_RETRY_LIMIT 2
      (setState l state (setLanes l lanes test_torus))))
def test_withLink (l : Nat) (x : LinkDyn) (m : Dev) : Dev := setLink l x m

/-- Link l, no longer enabled. -/
def test_cut (l state : Nat) : Dev := wrF (aWINDROW_LINK_CTRL l) fWINDROW_LINK_CTRL_ENABLE 0 (test_link l state 15)

theorem test_witness_LinkTraining :
    ((test_link 35 0 0).sound && (test_link 35 1 0).sound && (test_link 35 3 15).sound) = true ∧
    linkState 35 (test_link 35 0 0) = 0 ∧ canTrain 35 (test_link 35 0 0) = true ∧ canTrain 35 test_dev = false ∧
    linkState 35 (test_link 35 1 0) = 1 ∧ canTrain 35 (test_link 35 1 0) = true ∧ linkState 35 (test_cut 35 1) = 1 ∧
    canTrain 35 (test_cut 35 1) = false ∧ (test_cut 35 1).sound = true ∧ isSet (aWINDROW_LINK_CTRL 35) fWINDROW_LINK_CTRL_FEC_MODE (test_link 35 1 0) = false ∧
    3 ≤ laneCount (Nat.land 7 (rdF (aWINDROW_LINK_CTRL 35) fWINDROW_LINK_CTRL_LANE_EN (test_link 35 1 0))) ∧
    laneCount (Nat.land 3 (rdF (aWINDROW_LINK_CTRL 35) fWINDROW_LINK_CTRL_LANE_EN (test_link 35 1 0))) < 3 ∧
    linkState 35 (test_after (.trainingDone 35 7 false) (test_lowVolts (test_link 35 1 0))) = 2 := by decide +kernel

/-- The record that link 0 must find at its neighbour, with generations and a verdict; and one whose DIR is wrong. -/
def test_ident (lo hi v : Nat) : IdentRecord :=
  ⟨BitVec.ofNat 8 lo, BitVec.ofNat 8 hi, 64#16, 1#8, 1#8, BitVec.ofNat 8 v, rd aWINDROW_APPLIANCE test_dev, 5#64⟩
def test_identBad (v : Nat) : IdentRecord := { test_ident 2 4 v with dir := 0 }

theorem test_witness_Ident :
    ((test_link 0 2 15).sound && (test_link 0 2 7).sound) = true ∧ linkState 0 (test_link 0 2 15) = 2 ∧
    (linkOf 0 (test_link 0 2 15)).mine = 0 ∧ (test_ident 2 4 0).verdict = 0 ∧ identFault 0 (test_ident 2 4 0) (test_link 0 2 15) = 0 ∧
    (test_identBad 1).verdict ≠ 0 ∧ identFault 0 (test_identBad 1) (test_link 0 2 15) = 4 ∧
    identFault 0 (test_ident 5 6 1) (test_link 0 2 15) = 0 ∧
    min (genMax (test_link 0 2 15)) (test_ident 5 6 1).genMax.toNat < max (genMin (test_link 0 2 15)) (test_ident 5 6 1).genMin.toNat ∧
    max (genMin (test_link 0 2 7)) (test_ident 4 6 1).genMin.toNat ≤ min (genMax (test_link 0 2 7)) (test_ident 4 6 1).genMax.toNat ∧
    identFault 0 (test_ident 4 6 1) (test_link 0 2 7) = 0 ∧ canTrain 0 (test_link 0 2 7) = true ∧ canTrain 0 (test_link 0 2 15) = true ∧
    linkState 0 (test_cut 0 2) = 2 ∧ identFault 0 (test_ident 4 6 1) (test_cut 0 2) = 0 ∧ canTrain 0 (test_cut 0 2) = false ∧
    linkState 0 (test_after (.ident 0 (test_ident 4 6 1)) (test_link 0 2 7)) = 4 := by decide +kernel

theorem test_witness_Lanes :
    ((test_link 0 3 15).sound && (test_link 0 4 7).sound && (test_link 0 0 0).sound) = true ∧ linkUp 0 (test_link 0 0 0) = false ∧
    linkUp 0 (test_link 0 3 15) = true ∧ linkUp 0 (test_link 0 4 7) = true ∧ bitAt (lanesUp 0 (test_link 0 4 7)) 3 = false ∧
    bitAt (lanesUp 0 (test_link 0 3 15)) 3 = true ∧ 3 ≤ laneCount (Nat.land (lanesUp 0 (test_link 0 3 15)) (15 - 2 ^ 3)) ∧
    bitAt (lanesUp 0 (test_link 0 4 7)) 0 = true ∧ laneCount (Nat.land (lanesUp 0 (test_link 0 4 7)) (15 - 2 ^ 0)) < 3 ∧
    3 ≤ laneCount (Nat.land 14 (rdF (aWINDROW_LINK_CTRL 0) fWINDROW_LINK_CTRL_LANE_EN (test_link 0 3 15))) ∧
    laneCount (Nat.land 12 (rdF (aWINDROW_LINK_CTRL 0) fWINDROW_LINK_CTRL_LANE_EN (test_link 0 3 15))) < 3 ∧
    Nat.land 15 (rdF (aWINDROW_LINK_CTRL 0) fWINDROW_LINK_CTRL_LANE_EN (test_link 0 3 15)) = lanesUp 0 (test_link 0 3 15) ∧
    Nat.land 14 (rdF (aWINDROW_LINK_CTRL 0) fWINDROW_LINK_CTRL_LANE_EN (test_link 0 3 15)) ≠ lanesUp 0 (test_link 0 3 15) := by
  decide +kernel

/-- A command that leaves no change set frozen keeps the commit; one whose set holds the only link up of port 0, or the port, loses it
with the link. -/
theorem test_keepsCommit (c : Instr) (m : Dev) (hp : ∀ f, linkActOf c = some f → (f m).plan.frozen = false) :
    keepsCommit c m := by
  intro f hf
  simp [blockLost, hp f hf]

def test_inCommit (u : PlanUnit) : Dev :=
  let m := test_link 0 3 15
  { m with plan := { m.plan with frozen := true, parked := [u] } }

theorem test_witness_BlockLost :
    (∀ u ∈ [PlanUnit.link 0, .port 0], (test_inCommit u).sound = true ∧
      blockLost (test_inCommit u) (linkDownEvent 0 .noValidFlit (test_inCommit u)) = true ∧
      blockLost (test_inCommit u) (laneLoss 0 3 (test_inCommit u)) = false) ∧
    (linkActOf (.linkDown 0 .noValidFlit)).isSome = true ∧
    (∀ c ∈ [Instr.laneLoss 0 3, .lane 0 14 0, .linkDown 0 .noValidFlit, .linkRetrain 0, .linkTakeOut 0, .laneRecalibrate 0 2],
      ∀ f, linkActOf c = some f → (f (test_link 0 3 15)).plan.frozen = false) := by
  refine ⟨by decide +kernel, by decide +kernel, ?_⟩
  intro c hc f hf
  simp only [List.mem_cons, List.not_mem_nil, or_false] at hc
  rcases hc with rfl | rfl | rfl | rfl | rfl | rfl <;> (simp only [linkActOf, Option.some.injEq] at hf; subst hf; decide +kernel)

/-- A flit of sequence n, and a link with one that is not acknowledged; a link whose lane 2 is out for recalibration. -/
def test_flit (n : Nat) : Flit := ⟨BitVec.ofNat 12 n, 0, 1, 0, true, List.replicate 248 0⟩
def test_buffered : Dev := test_withLink 0 { LinkDyn.idle with retryBuf := [test_flit 0, test_flit 1], sendSeq := 2 } (test_link 0 3 15)
def test_recal : Dev := test_withLink 0 { LinkDyn.idle with recal := some 2 } (test_link 0 4 11)

theorem test_witness_LinkActions :
    (test_buffered.sound && test_recal.sound && (test_link 0 7 0).sound && (test_link 0 5 0).sound) = true ∧
    linkState 0 (test_link 0 7 0) = 7 ∧ linkState 0 (test_link 0 5 0) ≠ 7 ∧ canTrain 0 (test_link 0 5 0) = true ∧
    linkUp 0 (test_link 0 5 0) = false ∧ linkUp 0 test_buffered = true ∧ (linkOf 0 test_buffered).retryBuf ≠ [] ∧
    (linkOf 0 test_buffered).queue = [] ∧ linkState 0 (test_link 0 5 0) ≠ 3 ∧ linkState 0 test_buffered = 3 ∧
    3 ≤ laneCount (Nat.land (lanesUp 0 test_buffered) (15 - 2 ^ 2)) ∧ (linkOf 0 test_buffered).recal = none ∧
    (linkOf 0 test_recal).recal = some 2 ∧ linkUp 0 test_recal = true := by decide +kernel

/-- A link that discards since a bad flit, and one that has asked for sequence 1 once already and been asked for it once. -/
def test_discarding : Dev := test_withLink 0 { LinkDyn.idle with discarding := true } (test_link 0 3 15)
def test_asked : Dev :=
  test_withLink 0 { LinkDyn.idle with recvSeq := 1, askRun := 1, retrySeq := 1, retryRun := 1, retryBuf := [test_flit 0, test_flit 1] }
    (test_link 0 3 15)

theorem test_witness_Flits :
    (test_buffered.sound && test_discarding.sound && test_asked.sound) = true ∧ linkUp 0 test_asked = true ∧
    (test_flit 0).fseq = (linkOf 0 test_buffered).recvSeq ∧ (linkOf 0 test_buffered).taking = false ∧
    (test_flit 0).fseq ≠ (linkOf 0 test_asked).recvSeq ∧ (linkOf 0 test_discarding).discarding = true ∧
    (test_flit 1).fseq ≠ (linkOf 0 test_discarding).recvSeq ∧ (linkOf 0 test_asked).discarding = false ∧
    (linkOf 0 test_discarding).askRun + 1 < max 1 (rdF (aWINDROW_LINK_CTRL 0) fWINDROW_LINK_CTRL_RETRY_LIMIT test_discarding) ∧
    max 1 (rdF (aWINDROW_LINK_CTRL 0) fWINDROW_LINK_CTRL_RETRY_LIMIT test_asked) ≤ (linkOf 0 test_asked).askRun + 1 ∧
    (flitPasses .corrected = true ∧ flitPasses .badCrc = false) ∧ 1 < max 1 (rdF (aWINDROW_LINK_CTRL 0) fWINDROW_LINK_CTRL_RETRY_LIMIT test_buffered) ∧
    max 1 (rdF (aWINDROW_LINK_CTRL 0) fWINDROW_LINK_CTRL_RETRY_LIMIT test_asked) ≤ (linkOf 0 test_asked).retryRun + 1 ∧
    (linkOf 0 test_asked).taking = false ∧ (linkOf 0 test_asked).queue = [] := by decide +kernel

/-! ### Routers and packets -/

/-- A VC0 packet of a type from the module to itself, or to a coordinate. -/
def test_packet (typ dest : Nat) (payload : List Byte) : Packet :=
  ⟨BitVec.ofNat 8 typ, 0, BitVec.ofNat 16 dest, 0, 0, 0, 0, 6, 0, 0, payload⟩

/-- The routing entry of a destination at die 0: VALID, LOCAL, PORT, DETOUR. -/
def test_route (dest : Nat) (entry : Nat) (m : Dev) : Dev :=
  { m with plan := { m.plan with tables := putTable (tableKey 0xA0 16 (8 + 4 * dest), toLe 4 entry) m.plan.tables } }
def test_entry (port det : Nat) : Nat := 2 ^ 31 + port * 2 ^ 24 + det * 2 ^ 16

/-- Destination 64 by port 0, with port 1 as detour: link 0 of port 0 up; only link 1 of port 1 up; none up. -/
def test_byPort : Dev := test_route 64 (test_entry 0 1) (test_link 0 3 15)
def test_byDetour : Dev := test_route 64 (test_entry 0 1) (test_link 1 3 15)
def test_byNone : Dev := test_route 64 (test_entry 0 1) test_torus

theorem test_witness_Routes :
    (test_byPort.sound && test_byDetour.sound && test_byNone.sound && test_torus.sound) = true ∧
    packetFormed (test_packet 0x10 64 []) = true ∧ packetFormed (test_packet 0 64 []) = false ∧
    packetFormed (test_packet 0x20 64 []) = false ∧ packetFormed { test_packet ptNACK 64 [] with vc := 5 } = true ∧
    bitAt (routeEntry 0 64 test_torus) 31 = false ∧
    bitAt (routeEntry 0 0 (test_route 0 (2 ^ 31 + 2 ^ 30) test_torus)) 31 = true ∧
    bitAt (routeEntry 0 0 (test_route 0 (2 ^ 31 + 2 ^ 30) test_torus)) 30 = true ∧
    portValid 12 test_torus = false ∧ routeEntry 0 64 test_byPort = test_entry 0 1 ∧ portValid 0 test_byPort = true ∧
    chooseLink 0 0 (test_packet 0x10 64 []) test_byPort = some 0 ∧ (linkOf 0 test_byPort).queue = [] ∧
    canStart 0 { test_packet 0x10 64 [] with route := routeAfter (test_packet 0x10 64 []) 0 false test_byPort } test_byPort = true ∧
    portOpen 0 test_byDetour = [] ∧ portValid 1 test_byDetour = true ∧
    chooseLink 0 1 (test_packet 0x10 64 []) test_byDetour = some 1 ∧
    canStart 1 { test_packet 0x10 64 [] with route := routeAfter (test_packet 0x10 64 []) 1 true test_byDetour } test_byDetour = true ∧
    portOpen 0 test_byNone = [] ∧ portOpen 1 test_byNone = [] := by decide +kernel

/-! ### Delivered packets, NACKs and RESENDs -/

/-- A packet of job 5, the module a member, with and without its key; and a packet that names job 6. -/
def test_ofJob (job flags : Nat) : Packet := { test_packet ptWRITE 0 [1, 2, 3] with job := BitVec.ofNat 8 job, flags := BitVec.ofNat 8 flags }
def test_member5 : Dev := wr (aWINDROW_JOB 5) (fWINDROW_JOB_MEMBER.of 1 ||| fWINDROW_JOB_KEY_SLOT0.of 16) test_field
def test_keyed5 : Dev := { test_member5 with keys := [(16, ⟨2, 7⟩)] }
/-- A resend of a packet has been asked for. -/
def test_askedAgain (p : Packet) (m : Dev) : Dev := { m with net := { m.net with retried := [p] } }

theorem test_witness_Delivery :
    (test_field.sound && test_member5.sound && test_keyed5.sound) = true ∧ (test_ofJob 5 2).typ.toNat ≠ ptNACK ∧
    jobMember 6 test_field = false ∧ jobMember 5 test_member5 = true ∧ isEncrypted (test_ofJob 5 2) = true ∧
    holdsJobKey (jobSlot 5 (keyGenOf (test_ofJob 5 2)) test_member5) test_member5 = false ∧
    holdsJobKey (jobSlot 5 (keyGenOf (test_ofJob 5 2)) test_keyed5) test_keyed5 = true ∧ isEncrypted (test_ofJob 5 0) = false ∧
    isZipped (test_ofJob 5 0) = false ∧ askedFor (test_ofJob 5 0) test_keyed5 = false ∧
    askedFor (test_ofJob 5 0) (test_askedAgain (test_ofJob 5 0) test_keyed5) = true ∧
    (test_askedAgain (test_ofJob 5 0) test_keyed5).sound = true ∧ isPoison (test_ofJob 5 0) = false ∧
    isPoison (test_ofJob 5 4) = true ∧ askedFor (test_ofJob 5 4) (test_askedAgain (test_ofJob 5 4) test_keyed5) = true := by
  decide +kernel

/-- Slot 1 of die 0 holds a table whose symbol 0 has a code of one bit; a block of one zero byte, and one with a header out of
range. -/
def test_coded : Dev :=
  let m := wr (slotReg0 0 1) (fWINNOW_SLOT0_VALID.of 1) test_field
  { m with plan := { m.plan with tables := [(tableKey 0xA0 1 64, 1#8)] } }
def test_zipped (declared : Nat) : Packet :=
  { test_packet ptWRITE 0 (toLe 1 1 ++ toLe 1 0 ++ toLe 2 declared ++ toLe 2 1 ++ toLe 2 0 ++ [0#8]) with flags := 1 }

theorem test_witness_DeliveryExpands :
    test_coded.sound = true ∧ jobMember 0 test_coded = true ∧ isZipped (test_zipped 1) = true ∧
    (expandBlock 0 0 0 (test_zipped 1).payload test_coded).bad = false ∧
    (expandBlock 0 0 0 (test_zipped 1).payload test_coded).data = [0#8] ∧
    (expandBlock 0 0 0 (test_zipped 0).payload test_coded).bad = true ∧
    askedFor (test_zipped 0) (expandBlock 0 0 0 (test_zipped 0).payload test_coded).m = false ∧
    sendStop 0 false (expandBlock 0 0 0 (test_zipped 0).payload test_coded).m = none ∧
    askedFor (test_zipped 0) (expandBlock 0 0 0 (test_zipped 0).payload (test_askedAgain (test_zipped 0) test_coded)).m = true := by
  decide +kernel

/-- The COPY request of Mover ring 0 of die 0 for 16 bytes at the Field's first bytes, to module 64, and a NACK and a RESEND that
name it. -/
def test_copyPacket : Packet := { test_packet ptCOPY 64 [] with vc := 2, arg := fabricArg 9 1 }
def test_request (w : Waiter) (p : Packet) : Request := ⟨0, p, w, 0, fabricPrefix 0x40 16 0 0 0, some fieldBase⟩
def test_asking (w : Waiter) (p : Packet) : Dev :=
  { test_wait 0 with net := { test_dev.net with reqs := [test_request w p] } }
def test_named (typ : Nat) : Packet := { test_packet typ 0 (headerOf test_copyPacket 0) with vc := 5 }

theorem test_witness_NacksAndResends :
    (test_asking (.copy 140) test_copyPacket).sound = true ∧ copyTyp (test_named ptNACK) = ptCOPY ∧
    (test_asking (.copy 140) test_copyPacket).net.reqs.find? (fun x => x.die = bitsAt (copySrc (test_named ptNACK)) 9 3 &&
      x.p.typ.toNat = copyTyp (test_named ptNACK) && x.p.arg = copyArg (test_named ptNACK)) =
      some (test_request (.copy 140) test_copyPacket) ∧
    test_dev.net.reqs = [] ∧ (test_asking (.copy 140) test_copyPacket).net.later = [] ∧
    boundOf 140 (test_asking (.copy 140) test_copyPacket) = [] ∧ (test_named ptRESEND).typ.toNat = ptRESEND ∧
    (test_request (.copy 140) test_copyPacket).src = some fieldBase ∧
    nothingToSend (test_asking (.copy 140) test_copyPacket) ∧ sendStop 0 (protectedAt fieldBase 16 (test_asking (.copy 140)
      test_copyPacket)) (test_asking (.copy 140) test_copyPacket) = none ∧
    (readVia (agentMover 0) fieldBase 16 (takePacket (test_named ptRESEND) (test_asking (.copy 140) test_copyPacket))).st = .ok := by
  refine ⟨by decide +kernel, by decide +kernel, by decide +kernel, by decide +kernel, by decide +kernel, by decide +kernel,
    by decide +kernel, by decide +kernel, ⟨rfl, rfl, rfl⟩, by decide +kernel, by decide +kernel⟩

/-- R14: the open group of Mover ring 140 of D0 has a request under way that its link on D1 carries, so edge 0 carries it; no other
ring has one. -/
def test_crossing : Dev :=
  let m := test_asking (.copy 140) test_copyPacket
  { m with rings := [(140, test_open)], net := { m.net with reqs := [{ test_request (.copy 140) test_copyPacket with
      p := { test_copyPacket with dest := placeWord 0 1 } }] } }

theorem test_witness_EdgeKills :
    test_crossing.sound = true ∧ (∀ r < 256, ringCrosses 0 r test_crossing = decide (r = 140)) ∧
    (∀ r < 256, ringCrosses 9 r test_dev = false) ∧ ringOpen 140 (test_after (.edgeDown 0) test_crossing) = false := by
  decide +kernel

/-! ### The memory fabric -/

/-- The replay table is on, in the Field. -/
def test_home : Dev := wr aFABRIC_REPLAY (fFABRIC_REPLAY_ENABLE.of 1 ||| fFABRIC_REPLAY_BASE.of (test_area 4096 / 65536)) test_field
/-- A fabric packet of a type to die 0, with REQ_ID 1. -/
def test_fx (typ addr len flags extra : Nat) (data : List Byte) : Packet :=
  { test_packet typ 0 (fabricPrefix addr len flags 0 extra ++ data) with vc := 4, arg := fabricArg 9 1 }
def test_served (p : Packet) (m : Dev) : AStat := (readVia (.remote (destDieOf p)) (fxAddr p) (fxLen p) (takePacket p m)).st

/-- A poisoned granule, a protected range, and a Seedbed address that no region lets a remote module read. -/
def test_poisoned : Dev := { test_home with poisonField := [(fieldBase / 32, true)] }
def test_protected : Dev :=
  wr (aTIER_PROTECT 0) (fTIER_PROTECT_VALID.of 1 ||| fTIER_PROTECT_BASE.of (fieldBase / 65536) |||
    fTIER_PROTECT_LIMIT.of (fieldBase / 65536)) test_home
def test_read (a : Nat) : Packet := test_fx ptREAD a 16 0 0 []
def test_write (a flags : Nat) : Packet := { test_fx ptWRITE a 2 0 0 [7, 8] with flags := BitVec.ofNat 8 flags }

def test_fabricParked : Dev := { test_home with plan := { test_home.plan with frozen := true, parked := [.fabric] } }

/-- A request that has come before another. -/
def test_behind (p : Packet) : Dev := { test_home with net := { test_home.net with inbox := [p, test_read fieldBase] } }

theorem test_witness_HomesRead :
    (test_home.sound && test_poisoned.sound && test_protected.sound) = true ∧ sendStop 0 false test_home = none ∧
    fabricWaits (test_read fieldBase) test_home = false ∧ fabricWaits (test_read fieldBase) test_fabricParked = true ∧
    fabricWaits (test_read fieldBase) (test_behind (test_read 0)) = true ∧
    fabricWaits (test_read fieldBase) (test_behind { test_read 0 with vc := 5 }) = false ∧
    fxRow (test_read fieldBase) = false ∧ prefixBad (test_fx ptREAD (2 ^ 46) 16 0 0 []) = true ∧
    prefixBad (test_fx ptREAD (2 ^ 46 - 1) 16 0 0 []) = false ∧ prefixBad (test_read fieldBase) = false ∧
    protectedAt fieldBase 16 test_protected = true ∧ protectedAt (fieldBase + 65536) 16 test_protected = false ∧
    protectedAt fieldBase 16 test_home = false ∧ test_served (test_read fieldBase) test_home = .ok ∧
    test_served (test_read fieldBase) test_poisoned = .poison ∧ test_served (test_read (fieldBase + 65536)) test_home = .unmapped ∧
    test_served (test_read (tileAddr 0 0)) test_home = .region := by decide +kernel

theorem test_witness_HomesWrite :
    prefixBad (test_fx ptWRITE fieldBase 3 0 0 [7, 8]) = true ∧ prefixBad (test_write fieldBase 0) = false ∧
    canWrite (.remote 0) (fieldBase + 65536) 2 (takePacket (test_write (fieldBase + 65536) 0) test_home) = false ∧
    canWrite (.remote 0) fieldBase 2 (takePacket (test_write fieldBase 0) test_home) = true ∧
    (writeVia (.remote 0) fieldBase [7, 8] (takePacket (test_write fieldBase 0) test_home)).st = .ok ∧
    isPoison (test_write fieldBase 0) = false ∧ isPoison (test_write fieldBase 4) = true ∧
    fabricWaits (test_write fieldBase 0) test_home = false ∧ fxRow (test_write fieldBase 4) = false ∧ nothingToSend test_home ∧ test_home.tiers.peerGot = [] ∧
    (∀ p ∈ [test_write fieldBase 0, test_write fieldBase 4],
      nothingToSend (writeVia (.remote 0) fieldBase [7, 8] (takePacket p test_home)).m ∧
      (writeVia (.remote 0) fieldBase [7, 8] (takePacket p test_home)).m.tiers.peerGot = []) := by
  simp only [nothingToSend]
  decide +kernel

/-- A fetch-and-add of 4 bytes; its record in the table, and the record of a later one. -/
def test_atomic : Packet := test_fx ptATOMIC (fieldBase + 64) 0 0 0 (toLe 8 5 ++ toLe 8 0)
def test_recorded (seq : Nat) : Dev :=
  stBytes (replayAddr test_atomic test_home) (toLe 4 seq ++ toLe 2 0 ++ toLe 1 0 ++ toLe 1 0 ++ toLe 8 7) test_home

theorem test_witness_Atomics :
    (test_home.sound && (test_recorded 1).sound && (test_recorded 4097).sound && test_field.sound) = true ∧
    test_atomic.typ.toNat = ptATOMIC ∧ fabricWaits test_atomic test_home = false ∧ sendStop 0 false test_home = none ∧
    isSet aFABRIC_REPLAY fFABRIC_REPLAY_ENABLE test_field = false ∧ isSet aFABRIC_REPLAY fFABRIC_REPLAY_ENABLE test_home = true ∧
    replayOf test_atomic (takePacket test_atomic test_home) = .fresh ∧
    (serveAtomicNew test_atomic (takePacket test_atomic test_home)).status ≠ 99 ∧
    replayOf test_atomic (takePacket test_atomic (test_recorded 1)) = .seen 0 7 ∧
    replayOf test_atomic (takePacket test_atomic (test_recorded 4097)) = .stale := by decide +kernel

/-- A region of tile 0 lets other modules write its rows. -/
def test_lowHome : Dev :=
  wr (aTILE_SEEDBED_REGION 0 0 8 0) (fTILE_SEEDBED_REGION_VALID.of 1 ||| fTILE_SEEDBED_REGION_READ.of 1 |||
    fTILE_SEEDBED_REGION_WRITE.of 1 ||| fTILE_SEEDBED_REGION_LIMIT.of 5119) test_home
def test_lowAtomic (op : Nat) : Packet := test_fx ptATOMIC (tileAddr 0 8) 0 0 op (toLe 8 5 ++ toLe 8 0)

theorem test_witness_AtomicResult :
    test_lowHome.sound = true ∧ prefixBad (test_lowAtomic 6) = false ∧ bitsAt (fxExtra (test_lowAtomic 6)) 8 24 = 0 ∧
    bitsAt (fxExtra (test_lowAtomic 6)) 0 8 ≤ 6 ∧ fxAddr (test_lowAtomic 6) < 0x1_0000_0000 ∧ fxAddr (test_lowAtomic 6) % 4 = 0 ∧
    (∃ key g off, judge (.remote 0) (fxAddr (test_lowAtomic 6)) 1 true (takePacket (test_lowAtomic 6) test_lowHome) = .at key g off ∧
      judge (.remote 0) (fxAddr (test_lowAtomic 6)) 4 true (takePacket (test_lowAtomic 6) test_lowHome) = .at key g off ∧
      poisoned key 4 (takePacket (test_lowAtomic 6) test_lowHome) = false) := by
  refine ⟨by decide +kernel, by decide +kernel, by decide +kernel, by decide +kernel, by decide +kernel, by decide +kernel, 8,
    .tile 0 8, 8, by decide +kernel, by decide +kernel, by decide +kernel⟩

/-- Packets of a chunk of two bytes to counter 0 of die 0 by 65,535: one before the last, and the last. -/
def test_chunkPacket (flags extra : Nat) : Packet := test_fx ptCOPY fieldBase 2 flags extra [7, 8]
def test_lands (p : Packet) (m : Dev) : Bool :=
  !prefixBad p && canWrite (.remote 0) (fxAddr p) (fxData p).length (takePacket p m) &&
    decide ((writeVia (.remote 0) (fxAddr p) (fxData p) (takePacket p m)).st = .ok) && !isPoison p

theorem test_witness_Chunks :
    test_home.sound = true ∧ fabricWaits (test_chunkPacket 4 0xFFFF0000) test_home = false ∧
    fxLast (test_chunkPacket 4 0xFFFF0000) = true ∧ fxLast (test_chunkPacket 0 0) = false ∧
    test_lands (test_chunkPacket 0 0) test_home = true ∧ (chunkOf (test_chunkPacket 0 0) test_home).last = none ∧
    0 < fxLen (test_chunkPacket 0 0) ∧ test_lands (test_chunkPacket 4 0xFFFF0000) test_home = true ∧
    replayOf (test_chunkPacket 4 0xFFFF0000) (takePacket (test_chunkPacket 4 0xFFFF0000) test_home) = .fresh ∧
    chunkOf (test_chunkPacket 4 0xFFFF0000) test_home = ChunkRx.none ∧
    bitAt (bitsAt (fxExtra (test_chunkPacket 4 0xFFFF0000)) 0 16) 15 = false ∧ resendDue (test_chunkPacket 4 0xFFFF0000) test_home = false ∧
    resendDue (test_chunkPacket 4 0xFFFF0000) (test_askedAgain (test_chunkPacket 0 0) test_home) = true ∧
    replayOf (test_chunkPacket 4 0xFFFF0000) (takePacket (test_chunkPacket 4 0xFFFF0000) (test_recorded 1)) = .seen 0 7 := by
  decide +kernel

/-- Answers to the request of Mover ring 0: a COMPLETION, and the READ_DATA of a line of module 64 that fills the cache. -/
def test_answer (typ status : Nat) (data : List Byte) : Packet :=
  { test_packet typ 0 (fabricPrefix 0x40 data.length 0 status 0 ++ data) with vc := 5, src := 64, arg := fabricArg 9 1 }
def test_lineRead (w : Waiter) (fill : Nat) : Request :=
  ⟨0, { test_copyPacket with typ := BitVec.ofNat 8 ptREAD, payload := fabricPrefix 0x40 64 0 0 0 }, w, 0,
    fabricPrefix 0x40 64 fill 0 0, none⟩
def test_reading (w : Waiter) (fill : Nat) : Dev :=
  let m := wr aFABRIC_CACHE_CTRL (fFABRIC_CACHE_CTRL_ENABLE.of 1) (wr (aFABRIC_CACHE_RANGE 0) (fFABRIC_CACHE_RANGE_VALID.of 1 |||
    fFABRIC_CACHE_RANGE_COORD.of 64) (test_wait 0))
  { m with net := { m.net with reqs := [test_lineRead w fill] } }

theorem test_witness_Responses :
    (test_asking (.copy 140) test_copyPacket).sound = true ∧
    (test_asking (.copy 140) test_copyPacket).net.reqs.find? (fun x => answers (test_answer ptCOMPLETION 0 []) x &&
      x.p.typ.toNat ≠ ptREAD) = some (test_request (.copy 140) test_copyPacket) ∧ fxStatus (test_answer ptCOMPLETION 0 []) = 0 ∧
    fxStatus (test_answer ptCOMPLETION 2 []) ≠ 0 ∧ boundOf 140 (test_asking (.copy 140) test_copyPacket) = [] ∧
    (test_asking (.copy 140) test_copyPacket).tiers.peerOut = [] ∧ (test_asking (.copy 140) test_copyPacket).tiers.peerWant = [] ∧
    (test_asking (.copy 140) test_copyPacket).gleaner.late = [] := by decide +kernel

/-- READ_DATA for a page that a peer lends, for a part of a page table, and for a ring's request. -/
theorem test_witness_ReadData :
    (∀ w ∈ [Waiter.page 0 (granaryBase + 64) 64, .table 3 0 2, .copy 140],
      (test_reading w 1).sound = true ∧ (test_reading w 1).net.later = [] ∧ (test_reading w 1).tiers.peerOut = [] ∧
      (test_reading w 1).tiers.peerWant = [] ∧ (test_reading w 1).gleaner.late = [] ∧ (test_reading w 1).tiers.evicting = [] ∧
      (test_reading w 1).net.reqs.any (fun x => answers (test_answer ptREAD_DATA 0 (List.replicate 64 3)) x && fxRow x.p) = false ∧
      (test_reading w 1).net.reqs.find? (fun x => answers (test_answer ptREAD_DATA 0 (List.replicate 64 3)) x &&
        x.p.typ.toNat = ptREAD && !fxRow x.p) = some (test_lineRead w 1) ∧
      cacheable (destCoordOf (test_lineRead w 1).p) (field (test_lineRead w 1).pre 0 8) 64 (test_reading w 1) = true ∧
      isSet aFABRIC_CACHE_CTRL fFABRIC_CACHE_CTRL_ENABLE (test_reading w 1) = true ∧ (test_reading w 1).net.noFill = [] ∧
      bitAt (field (test_lineRead w 1).pre 10 1) 0 = true ∧ bitAt (field (test_lineRead w 0).pre 10 1) 0 = false) ∧
    field (test_lineRead (.copy 140) 1).pre 0 8 % 64 = 0 ∧ fxLen (test_answer ptREAD_DATA 0 (List.replicate 64 3)) = 64 ∧
    (fxData (test_answer ptREAD_DATA 0 (List.replicate 64 3))).length = 64 ∧
    fxStatus (test_answer ptREAD_DATA 4 []) ≠ 0 := by decide +kernel

theorem test_witness_Timeouts :
    (test_asking (.copy 140) test_copyPacket).net.reqs.find? (fun x => x.die = 0 && argTag x.p.arg = 9) =
      some (test_request (.copy 140) test_copyPacket) ∧
    (test_asking (.copy 140) test_copyPacket).net.reqs.find? (fun x => x.die = 0 && argTag x.p.arg = 8) = none ∧
    (test_request (.copy 140) test_copyPacket).resends <
      rdF aFABRIC_CTRL fFABRIC_CTRL_RETRIES (test_asking (.copy 140) test_copyPacket) ∧
    rdF aFABRIC_CTRL fFABRIC_CTRL_RETRIES (wrF aFABRIC_CTRL fFABRIC_CTRL_RETRIES 0 (test_asking (.copy 140) test_copyPacket)) ≤
      (test_request (.copy 140) test_copyPacket).resends ∧
    (wrF aFABRIC_CTRL fFABRIC_CTRL_RETRIES 0 (test_asking (.copy 140) test_copyPacket)).sound = true := by decide +kernel

/-- The KIND 5 act of ring 140 on tile 143, whose RESULT names the last 8 bytes of its rows, or none; master 9 may write them. -/
def test_act (result : Nat) : Dev := test_asking (.act 140 143 result 4) test_copyPacket
def test_actWrites : Dev :=
  wr (aTILE_SEEDBED_REGION 7 17 9 0) (fTILE_SEEDBED_REGION_VALID.of 1 ||| fTILE_SEEDBED_REGION_WRITE.of 1 |||
    fTILE_SEEDBED_REGION_LIMIT.of 5119) (test_act 0x13FFFF8)

theorem test_witness_AtomicAct :
    ((test_act 0xFFFFFFFF).sound && test_actWrites.sound) = true ∧
    (test_act 0xFFFFFFFF).net.reqs = [] ++ test_request (.act 140 143 0xFFFFFFFF 4) test_copyPacket :: [] ∧
    test_actWrites.net.reqs = [] ++ test_request (.act 140 143 0x13FFFF8 4) test_copyPacket :: [] ∧
    0x13FFFF8 + 8 ≤ 0x140_0000 ∧ canWrite (.tile 143 9) (tl 143 0x13FFFF8) 8 test_actWrites = true ∧
    (test_request (.act 140 143 0x13FFFF8 4) test_copyPacket).die < 8 ∧ boundOf 140 test_actWrites = [] ∧
    (writeVia (.tile 143 9) (tl 143 0x13FFFF8) (toLe 8 7) (dropReq (test_request (.act 140 143 0x13FFFF8 4) test_copyPacket)
      test_actWrites)).st = .ok := by decide +kernel

/-! ### Drones and the host Coulter -/

/-- Group 0: this module, and module 64 beside it on the first axis. -/
def test_pair (m : Dev) : Dev :=
  let bs := test_bytes 36 [(0, 1), (1, 2), (3, 2), (4, 1), (5, 1), (33, 0x80), (34, 64), (35, 0x80)]
  { wr aDRONE_CTRL (fDRONE_CTRL_ENABLE.of 1) m with plan := { m.plan with tables := memPut [] (tableKey 6 1 0) bs } }
def test_grp : Grp := ⟨2, 0, [2, 1, 1], [0, 64]⟩

/-- A collective of Mover ring 0 of die 0 in context 31: an operation on 2 elements of FP32, or on rows of 16 bytes. -/
def test_lane (bound done : Bool) : LaneSt := ⟨127, 0, bound, 0, true, [], [], [], [], [], [], 0, [], [], done⟩
def test_coll (op : Nat) (l : LaneSt) : Coll := ⟨31, 0, 0, 9, 0, 140, ⟨op, 1, 0, 2, 16, 0, 0, 0, fieldBase, 0, false⟩, false, 5, [l]⟩
def test_bound (op : Nat) : Dev :=
  let m := test_region 127 2 (test_pair (test_wait 0))
  { m with drone := { m.drone with colls := [test_coll op (test_lane true false)] } }
def test_unbound (m : Dev) (l : LaneSt) : Dev := { m with drone := { m.drone with colls := [test_coll 1 l] } }
/-- The same, of protected bytes; the Drones held by an eviction's zeroing, and parked. -/
def test_unboundProt : Dev :=
  let m := test_pair (test_wait 0)
  { m with drone := { m.drone with colls := [{ test_coll 1 (test_lane false false) with prot := true }] } }
def test_dronesHeld (m : Dev) : Dev := { m with plan := { m.plan with frozen := true, zeroing := true } }
def test_dronesParked (m : Dev) : Dev := { m with plan := { m.plan with frozen := true, parked := [.drone] } }

theorem test_witness_Binding :
    ((test_unbound (test_pair (test_wait 0)) (test_lane false false)).sound && (test_wait 0).sound) = true ∧
    (test_wait 0).drone.colls = [] ∧
    (test_unbound (test_pair (test_wait 0)) (test_lane false false)).drone.colls.find? (fun x => x.ring = 140 &&
      ctxFree x (test_unbound (test_pair (test_wait 0)) (test_lane false false)) && x.lanes.any (fun y => y.lane = 127 && !y.bound)) = some (test_coll 1 (test_lane false false)) ∧
    isSet aDRONE_CTRL fDRONE_CTRL_ENABLE (test_wait 0) = false ∧
    isSet aDRONE_CTRL fDRONE_CTRL_ENABLE (test_pair (test_wait 0)) = true ∧
    laneOf (test_coll 1 (test_lane false false)) 127 = some (test_lane false false) ∧
    groupOf 0 (test_unbound (test_pair (test_wait 0)) (test_lane false false)) = some test_grp ∧ ctxFree (test_coll 1 (test_lane false false)) (test_unbound (test_pair (test_wait 0)) (test_lane false false)) = true ∧
    boundAt 31 (test_unbound (test_pair (test_wait 0)) (test_lane false false)) = none ∧ (test_wait 0).drone.held = [] ∧
    (test_wait 0).drone.tombs = [] ∧ isParked .drone (test_pair (test_wait 0)) = false ∧ droneHeld (test_pair (test_wait 0)) = false ∧
    droneHeld (test_dronesHeld (test_pair (test_wait 0))) = true ∧ isParked .drone (test_dronesParked (test_pair (test_wait 0))) = true ∧
    sendStop 0 false (test_pair (test_wait 0)) = none ∧ test_unboundProt.sound = true ∧
    sendStop 0 true test_unboundProt = some .plainProtected ∧ test_unboundProt.drone.colls = [{ test_coll 1 (test_lane false false) with
      prot := true }] ∧ ringHalted 140 test_unboundProt = false ∧ isBound (test_coll 1 (test_lane false false)) = false ∧
    test_grp.members ≠ 1 ∧
    (test_unbound (test_pair (test_wait 0)) (test_lane true true)).drone.colls.find? (fun x => x.ring = 140 &&
      x.lanes.all (fun y => y.bound && y.done)) = some (test_coll 1 (test_lane true true)) := by decide +kernel

/-- A packet of a type from module 64 in the collective's name, of an attempt: a prefix, then data. -/
def test_named2 (typ attempt fp elems kind : Nat) (data : List Byte) : Packet :=
  { test_packet typ 0 (collPrefix fp 0 elems kind ++ data) with
    vc := 1, src := 64, arg := collArg { test_coll 1 (test_lane true false) with attempt := attempt } 127 0 }
def test_tombs (n : Nat) : Dev :=
  let m := test_pair (test_wait 0)
  { m with drone := { m.drone with tombs := (List.range n).map (fun i => (1, i, 0)) } }
def test_signalled : Dev := test_outstanding (test_pair (test_wait 0))

theorem test_witness_Aborts :
    ((test_bound 1).sound && (test_tombs 63).sound && (test_tombs 64).sound && test_signalled.sound) = true ∧
    (test_named2 ptABORT 0 5 0 0 []).typ.toNat = ptABORT ∧
    isBehind (attemptOf 0 (test_bound 1)) (argAttempt (test_named2 ptABORT 15 5 0 0 []).arg) = true ∧
    isBehind (attemptOf 0 (test_bound 1)) (argAttempt (test_named2 ptABORT 0 5 0 0 []).arg) = false ∧
    (test_bound 1).drone.colls = [test_coll 1 (test_lane true false)] ∧ isBound (test_coll 1 (test_lane true false)) = true ∧
    ringHalted 140 (test_bound 1) = false ∧
    keyOf (test_coll 1 (test_lane true false)) = ⟨0, argGroup (test_named2 ptABORT 0 5 0 0 []).arg,
      argAttempt (test_named2 ptABORT 0 5 0 0 []).arg⟩ ∧
    (test_tombs 63).drone.colls = [] ∧ (test_tombs 63).drone.tombs.length = 63 ∧ (test_tombs 64).drone.tombs.length = 64 ∧
    boundOf 140 test_signalled = [] ∧ (test_coll 1 (test_lane true false)).ctx < 32 ∧
    (test_tombs 64).drone.colls.find? (fun y => y.ring = 140 && y.ctx = 31) = none ∧ test_signalled.drone.signals.find? (fun y => y.ring = 140) = some ⟨140, 0, 0, 0, [(0, 0)]⟩ ∧
    (test_tombs 64).drone.signals = [] := by decide +kernel

/-- The chunk of one element that the lane's phase expects of module 64. -/
def test_chunk (attempt fp : Nat) : Packet := test_named2 ptCHUNK attempt fp 1 0 (toLe 4 0x3F800000)

theorem test_witness_ChunksOfPhases :
    droneHeld (test_bound 1) = false ∧ droneHeld (test_dronesHeld (test_bound 1)) = true ∧
    sendStop 0 false (test_dronesHeld (test_bound 1)) = none ∧ (test_dronesHeld (test_bound 1)).sound = true ∧
    (test_lane true false).tile < 144 ∧ (test_lane true false).begun = true ∧
    sendStop 0 false (test_bound 1) = none ∧ isSet aDRONE_CTRL fDRONE_CTRL_ENABLE (test_bound 1) = true ∧
    isBehind (attemptOf 0 (test_bound 1)) (argAttempt (test_chunk 15 5).arg) = true ∧
    isBehind (attemptOf 0 (test_bound 1)) (argAttempt (test_chunk 1 5).arg) = false ∧
    argAttempt (test_chunk 1 5).arg ≠ attemptOf 0 (test_bound 1) ∧ argAttempt (test_chunk 0 5).arg = attemptOf 0 (test_bound 1) ∧
    boundAt 31 (test_bound 1) = some (test_coll 1 (test_lane true false)) ∧ argCtx (test_chunk 0 5).arg = 31 ∧
    hasName (test_coll 1 (test_lane true false)) (test_chunk 0 5) = true ∧ groupOf 0 (test_bound 1) = some test_grp ∧
    laneOf (test_coll 1 (test_lane true false)) (argLane (test_chunk 0 5).arg) = some (test_lane true false) ∧
    grpIndex test_grp (srcCoordOf (test_chunk 0 5)) = some 1 ∧ preFp (test_chunk 0 6) ≠ 5 ∧ preFp (test_chunk 0 5) = 5 ∧
    isPoison (test_chunk 0 5) = false ∧
    chunkAgrees (test_coll 1 (test_lane true false)) test_grp (test_lane true false) 1 (test_chunk 0 5) = true ∧
    phaseAdds 1 0 = true ∧ phaseAdds 2 0 = false ∧
    (writeVia (agentDrone 7) (tl 127 (slotAddr 31 0 1 (takePacket (test_chunk 0 5) (test_bound 1)))) (test_chunk 0 5).payload
      (takePacket (test_chunk 0 5) (test_bound 1))).st = .ok ∧
    argPhase (test_chunk 0 5).arg = (test_lane true false).step := by decide +kernel

/-- The host of rows of 16 bytes: its table names expert 0 of layer 0, and the rows go to the Field. -/
def test_host : Dev :=
  stBytes (fieldBase + 4096 + 65) [0x80#8] (wr (aCOULTER_HOST 0) (fCOULTER_HOST_ENABLE.of 1 |||
    fCOULTER_HOST_TABLE.of ((fieldBase + 4096) / 64)) (wr (aCOULTER_OVERFLOW 0) (fCOULTER_OVERFLOW_BASE.of (fieldBase / 64 + 16))
      (test_bound 6)))
def test_dpiece (n : Nat) : Packet := test_named2 ptDISPATCH 0 5 0 0 (List.replicate n 0)

theorem test_witness_Dispatch :
    test_host.sound = true ∧ droneHeld test_host = false ∧ sendStop 0 false test_host = none ∧ isSet aDRONE_CTRL fDRONE_CTRL_ENABLE test_host = true ∧
    argAttempt (test_dpiece 31).arg = attemptOf 0 test_host ∧ boundAt 31 test_host = some (test_coll 6 (test_lane true false)) ∧
    hasName (test_coll 6 (test_lane true false)) (test_dpiece 31) = true ∧ groupOf 0 test_host = some test_grp ∧
    grpIndex test_grp (srcCoordOf (test_dpiece 31)) = some 1 ∧ preFp (test_dpiece 31) = 5 ∧ isPoison (test_dpiece 31) = false ∧
    (test_dpiece 31).payload.length = 47 ∧ ((test_dpiece 31).payload.drop 16).length < 16 + 16 ∧
    16 + 16 ≤ ((test_dpiece 32).payload.drop 16).length ∧ hostDie test_host = some 0 ∧ peekN 4 (hostHalf 0 0 test_host) test_host = 0 ∧
    bitAt (hostEntry 0 0 0 0 test_host) 15 = true ∧ (rxOf (test_coll 6 (test_lane true false)) test_host).records = [] ∧
    0 < 1024 * hostWindows 0 test_host ∧
    (writeVia (agentCoulter 0) (bayRowAddr 0 0 16 test_host) (List.replicate 16 0) (takePacket (test_dpiece 32) test_host)).st = .ok ∧
    (∀ c ≤ 1, allArrived test_grp { test_lane true false with counted := c, froms := [(1, c)] } = false) ∧
    allArrived test_grp { test_lane true false with marks := [(1, 1)] } = false ∧
    preKind (test_named2 ptMARKER 0 5 0 1 []) = 1 := by decide +kernel

/-- A chunk whose credit is out; a SIGNAL that waits for one member, and for two; a SIGNAL of one byte. -/
def test_spent : Dev :=
  let m := test_pair (test_wait 0)
  { m with drone := { m.drone with spent := [⟨64, 0, (test_named2 ptMARKER 0 5 0 2 []).arg⟩] } }
def test_sacks (left : List (Nat × Nat)) : Dev :=
  let m := test_pair (test_wait 0)
  { m with drone := { m.drone with signals := [⟨140, 0, 0, fieldBase, left⟩] } }
def test_signal (dest ref : Nat) : Packet :=
  { test_packet ptSIGNAL 0 (toLe 2 ref ++ toLe 2 65535 ++ toLe 4 0 ++ [7#8]) with
    vc := 1, src := 64, arg := BitVec.ofNat 64 (dest * 2 ^ 18 + 3) }
def test_sack : Packet := { test_named2 ptMARKER 0 0 0 5 [] with arg := BitVec.ofNat 64 (fieldBase * 2 ^ 18 + 3) }

theorem test_witness_Answers :
    (test_spent.sound && (test_sacks [(64, 3)]).sound && (test_sacks [(64, 3), (0, 4)]).sound) = true ∧
    isSet aDRONE_CTRL fDRONE_CTRL_ENABLE test_spent = true ∧ boundAt 31 test_spent = none ∧
    preKind (test_named2 ptMARKER 0 5 0 2 []) = 2 ∧ preKind (test_named2 ptMARKER 0 5 0 3 []) = 3 ∧ preKind test_sack = 5 ∧
    sigMatch (srcCoordOf test_sack) (destDieOf test_sack) test_sack.arg ⟨140, 0, 0, fieldBase, [(64, 3)]⟩ = true ∧
    [(64, 3)] = [(srcCoordOf test_sack, sigTag test_sack.arg)] ∧
    sigMatch (srcCoordOf test_sack) (destDieOf test_sack) test_sack.arg ⟨140, 0, 0, fieldBase, [(64, 3), (0, 4)]⟩ = true ∧
    isPoison (test_signal fieldBase 0) = false ∧ bitAt (field (test_signal fieldBase 0).payload 0 2) 15 = false ∧
    canWrite (agentDrone (signalDie (test_signal fieldBase 0))) (sigDest (test_signal fieldBase 0).arg) 1 test_spent = true ∧
    sendStop 0 false test_spent = none ∧
    canWrite (agentDrone (signalDie (test_signal (fieldBase + 65536) 0))) (sigDest (test_signal (fieldBase + 65536) 0).arg) 1
      test_spent = false ∧ bitAt (field (test_signal fieldBase 0x8000).payload 0 2) 15 = true ∧
    isParked .drone test_spent = false ∧ droneHeld test_spent = false ∧ droneHeld (test_dronesHeld test_spent) = true ∧
    (∀ a ∈ [fieldBase, fieldBase + 65536],
      (writeVia (agentDrone (signalDie (test_signal a 0))) (sigDest (test_signal a 0).arg) ((test_signal a 0).payload.drop 8)
        (takePacket (test_signal a 0) test_spent)).st ≠ .held) ∧ nothingToSend test_spent ∧
    nothingToSend (writeVia (agentDrone (signalDie (test_signal fieldBase 0))) (sigDest (test_signal fieldBase 0).arg)
      ((test_signal fieldBase 0).payload.drop 8) (takePacket (test_signal fieldBase 0) test_spent)).m := by
  simp only [nothingToSend]
  decide +kernel

/-! ### The Gleaner -/

/-- Die 0 is home; its registry, the descriptor of table 0 with 4 rows of 256 elements in class 0, and all that it names lie in the
first bytes of the Field. The master row of row 0 is 1.0 in every element. -/
def test_desc (stage : Nat) : List Byte :=
  toLe 8 4 ++ toLe 2 256 ++ [1, 1, 0, 0, 0, 0] ++ toLe 8 (fieldBase + 0x400) ++ toLe 8 (fieldBase + 0x480) ++
    toLe 8 (fieldBase + 0x1000) ++ toLe 8 (fieldBase + 0x2000) ++ toLe 8 (fieldBase + 0x4000) ++ toLe 8 (fieldBase + 0x6000) ++
    toLe 4 4 ++ toLe 4 4 ++ toLe 4 4 ++ toLe 2 10 ++ toLe 2 5 ++ toLe 8 (fieldBase + 0x500) ++ toLe 4 0 ++ toLe 4 4 ++ toLe 4 1 ++
    toLe 4 stage ++ toLe 8 (fieldBase + 0x8000) ++ List.replicate 144 0
def test_homed (stage : Nat) (m : Dev) : Dev :=
  stBytes fieldBase (toLe 8 (fieldBase + 256)) (stBytes (fieldBase + 256) (test_desc stage)
    (wr (aGLEANER_CTRL 0) (fGLEANER_CTRL_HOME.of 1 ||| fGLEANER_CTRL_REGISTRY.of (fieldBase / 64)) m))
def test_gleaner : Dev := test_homed 4096 test_field
def test_rowPacket (typ extra : Nat) (data : List Byte) : Packet := test_fx typ (rowWord 0 1) data.length 2 extra data
/-- An add of 2 for each element of row 1, with TAG 5 and list position 3, of stamp 7; and the same record staged before. -/
def test_rowUpdate (stamp flags : Nat) : Packet :=
  { test_rowPacket ptWRITE stamp (toLe 8 stamp ++ toLe 2 5 ++ [2, 0] ++ toLe 4 3 ++ toLe 4 0x40000000 ++ List.replicate 12 0 ++
      [1, 2, 3, 4]) with flags := BitVec.ofNat 8 flags }
def test_stagedRow : Dev :=
  { test_gleaner with gleaner := { test_gleaner.gleaner with staged := [recordOf (test_rowUpdate 7 0), recordOf (test_rowUpdate 0 0)] } }

theorem test_witness_HomesServeRows :
    (test_gleaner.sound && test_home.sound) = true ∧ sendStop 0 false test_gleaner = none ∧ homeDieOf test_home = none ∧
    flowWaits (test_rowPacket ptREAD 0 []) test_gleaner = false ∧
    flowWaits (test_rowPacket ptREAD 0 []) { test_gleaner with net := { test_gleaner.net with inbox := [test_rowPacket ptREAD 2 []] } } = true ∧
    fxRow (test_rowPacket ptREAD 0 []) = true ∧ prefixBad (test_rowPacket ptREAD 0 []) = false ∧
    prefixBad (test_fx ptREAD (2 ^ 48) 0 2 0 []) = true ∧ fxRow (test_fx ptREAD (2 ^ 48) 0 2 0 []) = true ∧
    stampWaits (fxExtra (test_rowPacket ptREAD 0 [])) test_gleaner = false ∧
    stampWaits (fxExtra (test_rowPacket ptREAD 2 [])) test_gleaner = true ∧
    (serveRow true 0 0 1 (takePacket (test_rowPacket ptREAD 0 []) test_gleaner)).status = 0 ∧
    (serveRow true 0 9 1 (takePacket (test_rowPacket ptREAD 0 []) test_gleaner)).status ≠ 0 ∧
    (serveRow true 0 9 1 (takePacket (test_rowPacket ptREAD 0 []) test_gleaner)).status ≠ 99 := by decide +kernel

theorem test_witness_StageRecords :
    (test_stagedRow.sound && (test_homed 40 test_field).sound) = true ∧ flowWaits (test_rowUpdate 7 0) test_stagedRow = false ∧ fxRow (test_rowUpdate 7 0) = true ∧
    recordBad (test_rowPacket ptWRITE 0 []) = true ∧ recordBad (test_rowUpdate 7 0) = false ∧ isPoison (test_rowUpdate 7 4) = true ∧
    isPoison (test_rowUpdate 7 0) = false ∧
    (stageRecord 0 (recordOf (test_rowUpdate 7 0)) (takePacket (test_rowUpdate 7 0) test_stagedRow)).1 = 0 ∧
    (stageRecord 0 (recordOf (test_rowUpdate 7 0)) (takePacket (test_rowUpdate 7 0) (test_homed 35 test_field))).1 = 1 := by
  decide +kernel

/-- A GATHER of Mover ring 0's number on tile 0 that waits for request 0, with n requests in all; its answer is row 0 of request 0. -/
def test_gather (n : Nat) : GatherSt := ⟨4, 140, 0, test_bytes 64 [(27, 1)], 16, n, [⟨0, 0, 0x3F800000⟩], []⟩
def test_rowRequest : Request := ⟨0, { test_copyPacket with typ := BitVec.ofNat 8 ptREAD, vc := 4 }, .row 140 4 0, 0,
  fabricPrefix (rowWord 0 0) 0 2 0 0, none⟩
def test_gathering (n : Nat) : Dev :=
  let m := wr (aTILE_SEEDBED_REGION 0 0 6 0) (fTILE_SEEDBED_REGION_VALID.of 1 ||| fTILE_SEEDBED_REGION_WRITE.of 1 |||
    fTILE_SEEDBED_REGION_LIMIT.of 5119) (test_wait 0)
  { m with net := { m.net with reqs := [test_rowRequest] }, gathers := [test_gather n] }
def test_rowAnswer (status : Nat) : Packet := test_answer ptREAD_DATA status (0#8 :: List.replicate 32 0)

theorem test_witness_RowResponses :
    ((test_gathering 1).sound && (test_gathering 2).sound) = true ∧ ringNum (.fixed 0 .mover 0) = 140 ∧
    boundOf 140 (test_gathering 1) = [] ∧ (test_gathering 1).net.reqs = [] ++ test_rowRequest :: [] ∧
    answers (test_rowAnswer 0) test_rowRequest = true ∧ answers (test_rowAnswer 4) test_rowRequest = true ∧
    fxStatus (test_rowAnswer 0) = 0 ∧ fxStatus (test_rowAnswer 4) = 4 ∧ fxStatus (test_rowAnswer 2) = 2 ∧
    Sparse.get (0, []) (test_gather 1).rows 0 = (0, []) ∧
    (let rows := Sparse.upd (0, []) [] 0 (field (fxData (test_rowAnswer 0)) 0 1 + 1, (fxData (test_rowAnswer 0)).drop 1)
     let base := dropReq test_rowRequest (takePacket (test_rowAnswer 0) (test_gathering 1))
     let g := fun n => { test_gather n with rows := rows }
     gatherFull (g 2) = false ∧ gatherFull (g 1) = true ∧
      (finishGather (g 1) { base with gathers := [] }).st = .ok ∧ nothingToSend (finishGather (g 1) { base with gathers := [] }).m) ∧
    nothingToSend (test_gathering 1) := by
  simp only [nothingToSend]
  decide +kernel

def test_refresh : Dev := wrF (aGLEANER_REFRESH 0) fGLEANER_REFRESH_ENABLE 1 test_gleaner

def test_listed : Dev := { test_refresh with gleaner := { test_refresh.gleaner with moves := [(0, [⟨0, 0, 0⟩])] } }

theorem test_witness_AppliesAndSweeps :
    (test_listed.sound = true ∧ homeDieOf test_listed = some 0 ∧ movesOf 0 test_listed ≠ [] ∧
      isSet (aGLEANER_REFRESH 0) fGLEANER_REFRESH_ENABLE test_listed = true) ∧
    (test_gleaner.sound && test_refresh.sound && test_dev.sound) = true ∧ homeDieOf test_gleaner = some 0 ∧ homeDieOf test_gleaner ≠ some 7 ∧
    homeDieOf test_dev = none ∧ homeDieOf test_refresh = some 0 ∧
    isSet (aGLEANER_REFRESH 0) fGLEANER_REFRESH_ENABLE test_gleaner = false ∧
    isSet (aGLEANER_REFRESH 0) fGLEANER_REFRESH_ENABLE test_refresh = true ∧ movesOf 0 test_refresh = [] ∧
    (homeTable 0 (Run.start test_refresh)).2 = some (0, fieldBase + 256, test_desc 4096) ∧
    (homeTable 0 (Run.start test_refresh)).1.st = .ok ∧ throughputHeld test_refresh = false ∧ test_refresh.gleaner.late = [] ∧
    throughputHeld (wrF aBELLOWS_STATE fBELLOWS_STATE_D 0 test_refresh) = true ∧ homeDieOf (wrF aBELLOWS_STATE fBELLOWS_STATE_D 0
      test_refresh) = some 0 := by decide +kernel

/-! ### Pages, NVMe commands and bulk jobs -/

/-- Granary has 16 pages, its map in the Field's first bytes: page 1 is at its home. Class 0 fills its faults from pool 0, which has a
free frame, the Field's bytes from area 8 on. -/
def test_paged (cls : Word) (e : Nat) : Dev :=
  stBytes fieldBase (toLe 16 0 ++ toLe 8 e) (stBytes (test_area 4) (toLe 4 1 ++ toLe 60 0 ++ toLe 8 (2 ^ 61 + 8))
    (wr aTIER_MAP_GRANARY (fTIER_MAP_GRANARY_ENABLE.of 1 ||| fTIER_MAP_GRANARY_PAGES.of 16 |||
      fTIER_MAP_GRANARY_BASE.of (fieldBase / 65536))
      (wr (aTIER_POOL 0) (fTIER_POOL_ENABLE.of 1 ||| fTIER_POOL_SIZE.of 1 ||| fTIER_POOL_BASE.of (test_area 4 / 65536))
        (wr (aTIER_CLASS 0) cls test_field))))
def test_pages : Dev := test_paged (fTIER_CLASS_VALID.of 1 ||| fTIER_CLASS_EVICTABLE.of 1) (2 ^ 63)
def test_noPool : Dev := test_paged (fTIER_CLASS_VALID.of 1 ||| fTIER_CLASS_FAULT_POOL.of 3) (2 ^ 63)
/-- A fault being filled from pool 0's frame with its read under way; a fault that waits for a frame; a write-back of a page in the
frame of that pool. -/
def test_nvme (write flush retried : Bool) (u : NvmeUse) : NvmeCmd := ⟨7, write, flush, 1, retried, u, 7, true⟩
def test_nvmeDev (c : NvmeCmd) (m : Dev) : Dev := { m with tiers := { m.tiers with nvme := [c] } }
def test_filling (retried : Bool) : Dev :=
  test_nvmeDev (test_nvme false false retried .fill) { test_pages with tiers := { test_pages.tiers with filling := [(1, 0)] } }
def test_waitFrame : Dev := { test_pages with tiers := { test_pages.tiers with waitFrame := [(1, 7)] } }
/-- A ring waits for that page, and a migration of it waits for a frame; the pool has no free frame. -/
def test_ringWaits : Dev := { test_wait 0 with tiers := { test_pages.tiers with waitFrame := [(1, 7)], pageWaits := [(140, 1)] } }
def test_moveWaits : Dev := { test_wait 0 with tiers := { test_pages.tiers with waitMove := [⟨140, 1, 1, 0, 7⟩] } }
def test_noFrames : Dev := stBytes (test_area 4) (toLe 4 0) test_pages
/-- The write-back of page 1, dirty in the pool's frame, or its Flush; whether the home's cache is volatile. -/
def test_writingBack (flush vwc : Bool) : Dev :=
  let m := stBytes (test_area 4) (toLe 4 0 ++ toLe 60 0 ++ toLe 8 (2 ^ 61 + 8) ++ toLe 8 (2 ^ 63 + 2 ^ 62 + 1))
    (test_paged (fTIER_CLASS_VALID.of 1 ||| fTIER_CLASS_EVICTABLE.of 1) (2 ^ 63 + 2 ^ 61 + 2 ^ 60 + 2 ^ 57 + 8))
  test_nvmeDev (test_nvme true flush false .evict) { m with tiers := { m.tiers with vwc := if vwc then [(0, true)] else [] } }
/-- A migration of ring 140 that reads the home into the pool's frame, and one that has written it. -/
def test_migrating (write retried : Bool) : Dev :=
  test_nvmeDev (test_nvme write false retried (.move (.migrate 140)))
    (stBytes (fieldBase + 24) (toLe 8 (2 ^ 63 + 2 ^ 61 + 8)) test_pages)
/-- A fill into a frame that module 64 lends by pool 2; class 0 fills from that pool. -/
def test_lentFill : Dev :=
  let m := stBytes (test_area 6) (toLe 4 0 ++ toLe 60 0 ++ toLe 8 (2 ^ 61 + 2 ^ 62)) (wr (aTIER_PEER 0) (fTIER_PEER_VALID.of 1 |||
    fTIER_PEER_COORD.of 64) (wr (aTIER_POOL 2) (fTIER_POOL_ENABLE.of 1 ||| fTIER_POOL_SIZE.of 1 |||
      fTIER_POOL_BASE.of (test_area 6 / 65536)) test_pages))
  test_nvmeDev (test_nvme false false false .fill) { m with tiers := { m.tiers with filling := [(1, 2 * 2 ^ 28)] } }

theorem test_witness_PageFaults :
    (test_pages.sound && test_noPool.sound && (test_filling true).sound && test_waitFrame.sound && test_field.sound) = true ∧
    mapOn 1 test_field = false ∧ mapOn 1 test_pages = true ∧ 1 < rangePages 1 test_pages ∧ mVALID.get (mapOf 1 1 test_pages) = 1 ∧
    mWHERE.get (mapOf 1 1 test_pages) = 0 ∧ faultPool (mapOf 1 1 test_noPool) test_noPool = none ∧
    mapOn 1 test_noPool = true ∧ mVALID.get (mapOf 1 1 test_noPool) = 1 ∧ mWHERE.get (mapOf 1 1 test_noPool) = 0 ∧
    faultPool (mapOf 1 1 test_pages) test_pages = some 0 ∧ test_pages.tiers.fallowLost = false ∧
    test_pages.tiers.filling = [] ∧ test_pages.tiers.waitFrame = [] ∧ mBUSY.get (mapOf 1 1 test_pages) = 0 ∧
    mMOVING.get (mapOf 1 1 test_pages) = 0 ∧
    (popFrame 0 1 1 (beginFault 7 1 test_pages)).map (fun x => x.1) = some 0 ∧ nvmeRoom (controllerOf 1 test_pages) test_pages = true ∧
    test_noFrames.sound = true ∧ mapOn 1 test_noFrames = true ∧ mVALID.get (mapOf 1 1 test_noFrames) = 1 ∧
    mWHERE.get (mapOf 1 1 test_noFrames) = 0 ∧ faultPool (mapOf 1 1 test_noFrames) test_noFrames = some 0 ∧
    (popFrame 0 1 1 (beginFault 7 1 test_noFrames)).isNone = true ∧ (evictStart 0 (beginFault 7 1 test_noFrames)).isNone = true ∧
    (test_pages.net.later.isEmpty && test_pages.tiers.peerOut.isEmpty && test_pages.tiers.peerWant.isEmpty &&
      test_pages.gleaner.late.isEmpty && test_pages.tiers.waitMove.isEmpty && test_pages.net.inbox.isEmpty) = true ∧
    (test_filling true).tiers.filling.find? (fun x => x.1 = 1) = some (1, 0) ∧
    test_waitFrame.tiers.waitFrame.find? (fun x => x.1 = 1) = some (1, 7) ∧
    pageKey 1 1 (entryAt (mapOf 1 1 (test_filling true)) (descFrame 0 0 (test_filling true))) = some (test_area 8) ∧
    entryAddr 1 1 (test_filling true) + 8 ≤ test_area 8 ∧ waiterBusy (.fill 1) (test_filling true) = false := by decide +kernel

theorem test_witness_FramesInWant :
    (test_waitFrame.sound && test_ringWaits.sound && test_moveWaits.sound) = true ∧ test_waitFrame.net.inbox = [] ∧
    test_waitFrame.tiers.pageWaits = [] ∧ test_ringWaits.tiers.waitFrame.find? (fun x => x.1 = 1) = some (1, 7) ∧
    test_ringWaits.net.inbox = [] ∧ test_ringWaits.tiers.pageWaits = [(140, 1)] ∧ boundOf 140 test_ringWaits = [] ∧
    test_moveWaits.tiers.waitFrame = [] ∧
    test_moveWaits.tiers.waitMove.find? (fun x => x.page = 1) = some ⟨140, 1, 1, 0, 7⟩ ∧ boundOf 140 test_moveWaits = [] := by
  decide +kernel

theorem test_witness_LentFill :
    test_lentFill.sound = true ∧ test_lentFill.tiers.filling.find? (fun x => x.1 = 1) = some (1, 2 * 2 ^ 28) ∧
    waiterBusy (.fill 1) test_lentFill = false ∧
    pageKey 1 1 (entryAt (mapOf 1 1 test_lentFill) (descFrame 2 0 test_lentFill)) = none ∧
    isSet (aTIER_PEER (bitsAt (mFRAME.get (entryAt (mapOf 1 1 test_lentFill) (descFrame 2 0 test_lentFill))) 29 3)) fTIER_PEER_VALID
      test_lentFill = true ∧ test_lentFill.gleaner.late = [] := by decide +kernel

theorem test_witness_NvmeCommands :
    ((test_filling false).sound && (test_writingBack false false).sound && (test_writingBack false true).sound &&
      (test_writingBack true true).sound && (test_migrating true false).sound && (test_migrating false true).sound) = true ∧
    (test_filling false).tiers.nvme.find? (fun x => x.id = 8 && x.sent) = none ∧
    (test_filling false).tiers.nvme.find? (fun x => x.id = 7 && x.sent) = some (test_nvme false false false .fill) ∧
    (test_filling true).tiers.nvme.find? (fun x => x.id = 7 && x.sent) = some (test_nvme false false true .fill) ∧
    (test_filling false).tiers.filling.find? (fun x => x.1 = 1) = some (1, 0) ∧ (test_filling false).tiers.waitFrame = [] ∧
    (test_filling false).tiers.waitMove = [] ∧
    (test_writingBack false true).tiers.nvme.find? (fun x => x.id = 7 && x.sent) = some (test_nvme true false false .evict) ∧
    homeVwc 1 (test_writingBack false true) = true ∧ homeVwc 1 (test_writingBack false false) = false ∧
    (test_nvme true true false .evict).flush = true ∧ (test_writingBack false false).tiers.waitFrame = [] ∧
    findFrame (mapOf 1 1 (test_writingBack false false)) (test_writingBack false false) = some (0, 0) ∧
    (test_migrating false true).tiers.nvme.find? (fun x => x.id = 7 && x.sent) =
      some (test_nvme false false true (.move (.migrate 140))) ∧ homeVwc 1 (test_migrating true false) = false ∧
    boundOf 140 (test_migrating false true) = [] := by decide +kernel

/-- The migration's page is put into its frame at once. -/
theorem test_witness_NvmeMove :
    ((putFrame 7 140 (ringJob 140 (test_migrating false true)) (.migrate 140) 1 1 (stagedOf 1 1 (test_migrating false true))
      (ldBytes (homeOf 1 1) 65536 (test_migrating false true))
      (nvmeTakeOut (test_nvme false false true (.move (.migrate 140))) (test_migrating false true))).map (fun m =>
        m.net.later.isEmpty && m.tiers.peerOut.isEmpty && m.tiers.peerWant.isEmpty && m.gleaner.late.isEmpty)) = some true := by
  decide +kernel

/-- A job of two entries, then of one, whose first entry copies no page that may be read or moves nothing: an entry that is not
well formed, and one that migrates page 1 to where it is. -/
def test_jobList (n : Nat) (entry : List Byte) (m : Dev) : Dev := stBytes (test_area 12) (toLe 16 n ++ entry) m
def test_bulkJob (n : Nat) (entry : List Byte) : Dev :=
  let m := test_jobList n entry test_pages
  { m with tiers := { m.tiers with running := some ⟨5#16, test_area 12 / 64⟩ } }
def test_jobEntry (n fn flip : Nat) : List Byte := toLe 8 (granaryBase + 65536) ++ toLe 8 granaryBase ++ toLe 4 n ++ toLe 4 fn ++ toLe 8 flip
def test_stopAsked : Dev := { test_bulkJob 2 (test_jobEntry 1 4 0) with tiers := { (test_bulkJob 2 (test_jobEntry 1 4 0)).tiers with stopAsked := true } }
def test_jobs (n : Nat) : Dev :=
  { test_bulkJob 2 [] with tiers := { (test_bulkJob 2 []).tiers with jobs := List.replicate n ⟨5#16, 0⟩ } }
/-- The job's entry under way holds nothing, and waits for an answer; no power for throughput work; the Mover parked. -/
def test_bulkOn (busy : Bool) (m : Dev) : Dev :=
  { m with
    tiers := { m.tiers with bulk := some ([], []) }
    net := { m.net with reqs := if busy then [test_request .bulk test_copyPacket] else [] } }
def test_unpowered2 (m : Dev) : Dev := wrF aBELLOWS_STATE fBELLOWS_STATE_D 0 m
def test_moverParked (m : Dev) : Dev := { m with plan := { m.plan with frozen := true, parked := [.mover] } }
/-- The header and the work of the entry that a job is at, and its act once nothing is waited for. -/
def test_jobReads (m : Dev) : Option Nat × Nat × Bool :=
  let h := readVia (agentMover bulkDie) (test_area 12 / 64 * 64) 4 m
  let b := readVia (agentMover bulkDie) (test_area 12 / 64 * 64 + 16) 32 h.m
  let w := bulkWork b.data b.m
  (if h.st = .ok && b.st = .ok then some (leNat h.data) else none, w.reason,
    (bulkAct b.data { w.m with tiers := { w.m.tiers with bulk := some (w.moving, w.popped) } }).1)
def test_jobWaits (m : Dev) : Bool × Bool :=
  let h := readVia (agentMover bulkDie) (test_area 12 / 64 * 64) 4 m
  let b := readVia (agentMover bulkDie) (test_area 12 / 64 * 64 + 16) 32 h.m
  let w := bulkWork b.data b.m
  (waiterBusy .bulk w.m, w.m.net.later.isEmpty && w.m.tiers.peerOut.isEmpty && w.m.tiers.peerWant.isEmpty && w.m.tiers.peerGot.isEmpty)

theorem test_witness_BulkJobs :
    (test_pages.sound && (test_jobs 3).sound && (test_jobs 4).sound && (test_bulkJob 1 (test_jobEntry 1 4 0)).sound &&
      test_stopAsked.sound) = true ∧ (test_jobs 4).tiers.running.isSome = true ∧ (test_jobs 4).tiers.jobs.length = 4 ∧
    (test_jobs 3).tiers.jobs.length = 3 ∧ test_pages.tiers.running = none ∧ test_pages.tiers.jobs = [] ∧
    (test_bulkJob 1 []).tiers.running = some ⟨5#16, test_area 12 / 64⟩ ∧ (test_bulkJob 1 []).tiers.jobs = [] ∧
    rdF aTIER_JOB_STATUS fTIER_JOB_STATUS_ENTRY (test_bulkJob 1 []) = 0 ∧
    test_jobReads (test_bulkJob 1 (test_jobEntry 0 4 0)) = (some 1, 5, true) ∧
    test_jobReads (test_bulkJob 1 (test_jobEntry 1 4 0)) = (some 1, 0, true) ∧
    test_jobReads (test_bulkJob 2 (test_jobEntry 1 4 fieldBase)) = (some 2, 0, false) ∧
    test_jobReads (test_bulkJob 2 (test_jobEntry 1 4 (fieldBase + 16))) = (some 2, 0, true) ∧
    test_jobReads test_stopAsked = (some 2, 0, true) ∧ test_stopAsked.tiers.stopAsked = true := by decide +kernel

theorem test_witness_BulkWaits :
    (let m := test_bulkJob 2 (test_jobEntry 1 4 0)
     m.tiers.bulk = none ∧ m.tiers.bulkFailed = false ∧ throughputHeld m = false ∧ isParked .mover m = false ∧
      test_jobWaits m = (false, true) ∧ test_jobWaits { m with net := (test_bulkOn true m).net } = (true, true) ∧
      throughputHeld (test_unpowered2 m) = true ∧ isParked .mover (test_moverParked m) = true ∧
      (∀ b ∈ [true, false], (test_bulkOn b m).sound = true ∧ (test_bulkOn b m).tiers.bulk = some ([], []) ∧
        (test_bulkOn b m).tiers.bulkFailed = false ∧ waiterBusy .bulk (test_bulkOn b m) = b)) := by decide +kernel

/-! ### Accesses that have to wait -/

/-- A read of Granary page 1, at its home with a frame for it free, waits for the page. -/
def test_away : Nat := granaryBase + 65536
/-- The same module with Mover ring 0 of die 0, its entry in that page; with a load of a container there; with a Stile ring whose HEAD
word or entry lies there. -/
def test_awayRing : Dev := wr (test_fixReg 3 2) (fRING_HEAD_HEAD.of 1) (wr (test_fixReg 3 1) (fRING_CTRL_ENABLE.of 1)
  (wr (test_fixReg 3 0) (fRING_BASE_BASE.of (test_away / 64)) test_pages))

theorem test_witness_HeldAccesses :
    (test_pages.sound && test_awayRing.sound) = true ∧ sendStop 0 false test_pages = none ∧ fabricParked test_pages = false ∧
    fabricWaits (test_read test_away) test_pages = false ∧
    (readVia (.remote 0) test_away 16 test_pages).st = .held ∧ (writeVia (.remote 0) test_away [7, 8] test_pages).st = .held ∧
    canWrite (.remote 0) test_away 2 test_pages = true ∧ protectedAt test_away 16 test_pages = false ∧
    (ringCanStart 140 test_awayRing = true ∧ (fetchEntry 140 test_awayRing).st = .held) ∧
    (readVia .headland test_away 64 test_pages).st = .held ∧ (readVia (agentMover bulkDie) test_away 4 test_pages).st = .held ∧
    (writeVia (agentDrone 0) test_away [7] test_pages).st = .held := by decide +kernel

/-! ### Stile -/

/-- Ring 0 of Stile and endpoint 2 (VALID, 4,096 bytes), with their tables in the Field; the ring's entries up to a count. -/
def test_stile (head : Nat) (entry : List Byte) : Dev :=
  stBytes (test_area 4 + 128) (test_bytes 64 [(0, 1), (33, 1), (41, 16)]) (stBytes (test_area 8) entry (stBytes (test_area 12) (toLe 8 head)
    (wr aSTILE_ENDPOINT (fSTILE_ENDPOINT_ENABLE.of 1 ||| fSTILE_ENDPOINT_BASE.of (test_area 4 / 16384))
      (wr (aSTILE_RING 0) (fSTILE_RING_ENABLE.of 1 ||| fSTILE_RING_SIZE_LOG2.of 6 ||| fSTILE_RING_BASE.of (test_area 8 / 64))
        (wr (aSTILE_RING_HEAD 0) (fSTILE_RING_HEAD_HEAD_ADDR.of (test_area 12 / 8)) test_field)))))
/-- A fetch-and-add of 5 at endpoint 2's byte 16, its counter 9, its old value to the Field; with another RESULT or OP. -/
def test_fetchAdd (op result : Nat) : List Byte :=
  test_bytes 8 [(0, op), (2, 2), (4, 8)] ++ toLe 8 0 ++ toLe 8 16 ++ toLe 2 9 ++ toLe 6 0 ++ toLe 8 5 ++ toLe 8 0 ++ toLe 8 result ++ toLe 8 77
def test_atomicEntry : List Byte := test_fetchAdd 3 (test_area 12 + 64)
def test_unwritable : List Byte := test_fetchAdd 3 (fieldBase + 65536)
def test_started (entry : List Byte) : Dev :=
  { wr (aSTILE_RING_PTR 0) (fSTILE_RING_PTR_FETCH.of 1) (test_stile 1 entry) with
    stile := { test_dev.stile with started := [⟨0, 0, entry⟩] } }

/-- The HEAD word and the entry of ring 0 as Stile reads them. -/
def test_stHead (m : Dev) : ReadRes := readVia .headland (stHeadAddr 0 m) 8 m
def test_stEntry (m : Dev) : ReadRes := readVia .headland (stEntryAddr 0 (stFetch 0 m) m) 64 (test_stHead m).m
def test_stServed (m : Dev) : Bool :=
  stServes 0 m && decide ((test_stHead m).st = .ok) && decide (countGap (stRerun 0 m) (stHead 0 m) ≤ 2 ^ stSize 0 m)
def test_stFresh (m : Dev) : Bool :=
  decide (stFetch 0 m ≠ stHead 0 (test_stHead m).m) && !throughputHeld m && !stHandled 0 (stFetch 0 m) m &&
    decide (stRunning 0 m < 64) && decide ((test_stEntry m).st = .ok) && !seFence (test_stEntry m).data

theorem test_witness_StileServes :
    ((test_stile 1 test_atomicEntry).sound && (test_stile 65 []).sound && (test_stile 64 []).sound && test_stopping.sound) = true ∧
    stopNow test_stopping = true ∧ stopNow (test_stile 1 test_atomicEntry) = false ∧ stEndpoints (test_stile 1 test_atomicEntry) = [] ∧
    stServes 0 test_field = false ∧ stServes 0 (test_stile 65 []) = true ∧ (test_stHead (test_stile 65 [])).st = .ok ∧
    2 ^ stSize 0 (test_stile 65 []) < countGap (stRerun 0 (test_stile 65 [])) (stHead 0 (test_stile 65 [])) ∧
    (test_stServed (test_stile 64 []) && test_stFresh (test_stile 64 [])) = true ∧
    stRefused (test_stEntry (test_stile 64 [])).data (test_stEntry (test_stile 64 [])).m = true ∧
    (test_stServed (test_stile 1 test_atomicEntry) && test_stFresh (test_stile 1 test_atomicEntry)) = true ∧
    (let q := test_stEntry (test_stile 1 test_atomicEntry)
     stRefused q.data q.m = false ∧ seOp q.data = 3 ∧ field q.data 48 1 % 8 = 0 ∧
      canWrite .headland (seResult q.data) 8 q.m = true ∧
      (stFetch 0 (test_stile 1 test_atomicEntry) + 1) % 2 ^ 32 = stHead 0 q.m) := by decide +kernel

/-- The same, with the endpoint's VALID cleared. -/
def test_unvalid : Dev := stBytes (test_area 4 + 128) [0] (test_started test_atomicEntry)

theorem test_witness_StileCompletes :
    test_unvalid.sound = true ∧ stopNow test_unvalid = false ∧ epValid 2 test_unvalid = false ∧ seEndpoint test_atomicEntry = 2 ∧
    test_unvalid.stile.started = [⟨0, 0, test_atomicEntry⟩] ∧ epValid 2 (test_started test_atomicEntry) = true ∧
    epValid 2 (test_started test_unwritable) = true ∧ seEndpoint test_unwritable = 2 ∧
    ((test_started test_atomicEntry).sound && (test_started test_unwritable).sound) = true ∧
    stopNow (test_started test_atomicEntry) = false ∧ stopNow (test_started test_unwritable) = false ∧ stRerun 0 (test_started test_atomicEntry) = 0 ∧
    (test_started test_atomicEntry).stile.done = [] ∧
    (test_started test_atomicEntry).stile.started.find? (fun y => y.ring = 0 && y.count = 1) = none ∧
    (test_started test_atomicEntry).stile.started.find? (fun y => y.ring = 0 && y.count = 0) = some ⟨0, 0, test_atomicEntry⟩ ∧
    (test_started test_unwritable).stile.started.find? (fun y => y.ring = 0 && y.count = 0) = some ⟨0, 0, test_unwritable⟩ ∧
    (stTake test_atomicEntry (toLe 8 6) (stDrop 0 0 (test_started test_atomicEntry))).st = .ok ∧
    (stTake test_unwritable (toLe 8 6) (stDrop 0 0 (test_started test_unwritable))).st ≠ .ok := by decide +kernel

def test_stHalted : Dev := wrF (aSTILE_RING_HEAD 0) fSTILE_RING_HEAD_HALTED 1 (test_stile 3 [])

theorem test_witness_StileErrorsAndActions :
    ((test_started test_atomicEntry).sound && (test_stile 3 []).sound && test_stHalted.sound) = true ∧
    (test_stile 3 []).stile.started = [] ∧
    (test_started test_atomicEntry).stile.started.filter (fun x => seEndpoint x.entry = 2) = [⟨0, 0, test_atomicEntry⟩] ∧
    epValid 3 (test_stile 3 []) = false ∧ epValid 2 (test_stile 3 []) = true ∧
    stHalted 0 (test_stile 3 []) = false ∧ stHalted 0 test_stHalted = true := by decide +kernel

/-! ### The queue and the table's words -/

theorem test_step_takes_front : step ⟨test_dev, [.brakeAssert, .linkRetrain 0]⟩ = exec .brakeAssert ⟨test_dev, [.linkRetrain 0]⟩ := rfl

theorem test_step_idles : step ⟨test_dev, []⟩ = .next ⟨{ test_dev with time := test_dev.time + 1 }, []⟩ := rfl

theorem test_no_word (nbits w : Nat) : decodeTableWord nbits w = none ∧ (test_st test_dev).withFetchWord nbits w = test_st test_dev :=
  ⟨rfl, rfl⟩

/-! ### Ill-formed commands: each check of Instr.wf refuses one, and the bound's last value passes -/

def test_req (row : Nat) : BankReq := ⟨0, row, false, 0, 0, .clean⟩
def test_bank (b : BankRef) (row : Nat) : Bool := (Instr.seedbedAccess b [test_req 0, test_req row]).wf
def test_granule (g : Nat) : Bool := (Instr.fieldAccess ⟨0, g, false, 0, 0, .clean⟩).wf
def test_wfPass (rows cols k : Nat) : Bool := (Instr.gridPass ⟨0, 0⟩ ⟨0, false, rows, cols, k, 0, 0, 0, 0, 0, 0, 0, 0⟩).wf
def test_wfDrain (rows cols : Nat) : Bool := (Instr.accDrain ⟨0, 0⟩ ⟨0, rows, cols, 0, 0, 0, 0, 0, false, 0⟩).wf
def test_wfRegister (off size : Nat) : Bool := (Instr.registerWrite .firmware off size 0).wf

theorem test_wf_register :
    test_wfRegister 0xFFFFFF 8 = true ∧ test_wfRegister 0x1000000 8 = false ∧ test_wfRegister 0 3 = false := by decide

theorem test_wf_memory :
    test_bank (.tile ⟨0, 0⟩ 0) 5119 = true ∧ test_bank (.tile ⟨0, 0⟩ 0) 5120 = false ∧ test_bank (.shared 0 0) 6143 = true ∧
    test_bank (.shared 0 0) 6144 = false ∧ test_bank (.buffer 0) 262143 = true ∧ test_bank (.buffer 0) 262144 = false ∧
    test_granule (2 ^ 36 - 1) = true ∧ test_granule (2 ^ 36) = false ∧
    (Instr.scrubPass 0 [⟨2 ^ 36 - 1, true⟩]).wf = true ∧ (Instr.scrubPass 0 [⟨2 ^ 36, true⟩]).wf = false := by decide

theorem test_wf_grid :
    test_wfPass 256 256 256 = true ∧ test_wfPass 257 1 1 = false ∧ test_wfPass 1 257 1 = false ∧ test_wfPass 1 1 257 = false ∧
    test_wfDrain 256 256 = true ∧ test_wfDrain 257 1 = false ∧ test_wfDrain 1 257 = false := by decide

theorem test_wf_pages :
    (Instr.pageFault 0 (2 ^ 29 - 1)).wf = true ∧ (Instr.pageFault 0 (2 ^ 29)).wf = false ∧
    (Instr.pageFaultFill (2 ^ 29) true).wf = false ∧ (Instr.noFrameTimeout (2 ^ 29)).wf = false := by decide

/-- A packet of a type, with n bytes; the commands that take a packet of one type. -/
def test_sized (typ n : Nat) : Packet := test_packet typ 0 (List.replicate n 0)
def test_takesType : List ((Packet → Instr) × Nat) :=
  [(.dispatch, 0x18), (.routeEndMarker, 0x11), (.rowRequest, 2), (.rowResponse, 3), (.updateRecord, 1), (.linkResendRequest, 0x21),
    (.nack, 0x3F), (fun p => .chunk p true, 0x10), (.marker, 0x11), (.abort, 0x13), (.signalReceive, 0x12), (.read, 2), (.write, 1),
    (.atomic, 4), (.copy, 0x20), (.readData, 3), (.completion, 5)]

theorem test_wf_packet_types :
    test_takesType.all (fun x => (x.1 (test_sized x.2 0)).wf && !(x.1 (test_sized (x.2 + 1) 0)).wf) = true := by decide +kernel

theorem test_wf_packet_lengths :
    (Instr.packetRoute 0 none (test_sized 1 4096)).wf = true ∧ (Instr.packetRoute 0 none (test_sized 1 4097)).wf = false ∧
    (Instr.packetDeliver .ok (test_sized 1 4096)).wf = true ∧ (Instr.packetDeliver .ok (test_sized 1 4097)).wf = false ∧
    test_takesType.all (fun x => !(x.1 (test_sized x.2 4097)).wf) = true := by decide +kernel

/-- A flit of n bytes of data, and a boot that finds an identity record's new key of n bytes. -/
def test_wfFlit (n : Nat) : Bool := (Instr.sequencedFlit 0 .good ⟨0, 0, 0, 0, true, List.replicate n 0⟩).wf
def test_wfBoot (n : Nat) : Bool :=
  (Instr.boot ⟨true, true, true, List.replicate n 0, true, true, none, 0, 0, 0, 0, [], true, true, [], false, []⟩).wf

theorem test_wf_lengths :
    test_wfFlit 248 = true ∧ test_wfFlit 247 = false ∧ test_wfFlit 249 = false ∧ test_wfBoot 4098 = true ∧ test_wfBoot 4099 = false ∧
    (Instr.attest 0 (List.replicate 32 0)).wf = true ∧ (Instr.attest 0 (List.replicate 31 0)).wf = false ∧
    (Instr.attest 0 (List.replicate 33 0)).wf = false ∧ (Instr.cert 0 []).wf = false ∧
    (Instr.cert 0 (List.replicate 2046 0)).wf = true ∧ (Instr.cert 0 (List.replicate 2047 0)).wf = false ∧
    (Instr.imageData 0 0 (List.replicate 4080 0)).wf = true ∧ (Instr.imageData 0 0 (List.replicate 4081 0)).wf = false := by
  decide +kernel

/-! ### Clauses that the witnesses above leave -/

theorem test_witness_MeshInService :
    6 ≤ bootStageOf (wrF aHEADLAND_BOOT fHEADLAND_BOOT_STAGE 6 test_dev) ∧ ¬6 ≤ bootStageOf test_dev := by decide +kernel

theorem test_witness_PieceRead : (pieceRead (test_piece []) 0 (test_job [])).st ≠ .held := by decide +kernel

/-- The port's unit waits in a frozen change set. -/
def test_portWaits : Dev := { test_portUp with plan := { test_portUp.plan with frozen := true, waiting := [.ethPort 1] } }

theorem test_witness_PortInCommit :
    regsWf test_portWaits = true ∧ ethUp 1 test_portWaits = true ∧ test_portWaits.plan.frozen = true ∧
    (test_portWaits.plan.waiting ++ test_portWaits.plan.parked).contains (.ethPort 1) = true ∧ test_portWaits.piper.move = none ∧
    piperOn test_portWaits = false ∧ blockLost test_portUp (ethDown 1 test_portUp) = false := by decide +kernel

/-- The zeroing once an engine has taken up work again, and while none has. -/
def test_zeroingBusy : Dev :=
  { test_openGroup with plan := { test_openGroup.plan with frozen := true, zeroing := true, parked := [.engine 0] } }

theorem test_witness_ZeroingWaits :
    nothingToSend test_zeroing ∧ (withdrawUnready test_zeroing).plan.waiting = [] ∧
    (∀ o ∈ frozenRegs test_zeroing, (locate o).map (fun p => p.name) ≠ some .HARROW_CTRL) ∧
    test_zeroingBusy.sound = true ∧ test_zeroingBusy.plan.zeroing = true ∧ test_zeroingBusy.piper.move = none ∧
    nothingToSend test_zeroingBusy ∧ (withdrawUnready test_zeroingBusy).plan.waiting ≠ [] := by
  simp only [nothingToSend]
  decide +kernel

/-- A member one of whose tiles is active and takes no write of a manifest; the step program lies in a page that is away. -/
def test_memberTile : Dev := wrF (onTile aTILE_ID 0) fTILE_ID_ROLE 1 test_member
def test_memberAway : Dev := wr aPIPER_CTRL (fPIPER_CTRL_ENABLE.of 1 ||| fPIPER_CTRL_ROLE.of 2) test_pages
def test_awayManifest : List Byte := toLe 8 5 ++ toLe 8 0 ++ toLe 8 test_away ++ toLe 8 0

theorem test_witness_ManifestsStopped :
    test_memberTile.sound = true ∧ isMember test_memberTile = true ∧ (manifestWrites (toLe 8 5) test_memberTile).st ≠ .ok ∧
    (manifestWrites (toLe 8 5) test_memberTile).st ≠ .held ∧ (manifestProgram (toLe 8 5) test_memberTile).st ≠ .held ∧
    test_memberAway.sound = true ∧ isMember test_memberAway = true ∧ field test_awayManifest 0 8 ≠ test_memberAway.piper.taken ∧
    (manifestProgram test_awayManifest test_memberAway).st = .held := by decide +kernel

end Sys2Proof.Tests
end

/-! SUPPORT. Register accesses and the cause tree: refused accesses (R4, R5), leaves (R8, R480), and INT_N (R478, R479). -/
namespace Sys2Proof.Machine

/-! ### What a raised cause changes -/

/-- A raised cause sets its leaf; beside that it can only queue an event, log a record and draw free values. -/
theorem raise_cases (c : Cause) (m : Dev) :
    ∃ g n k, raise c m = { setLeaf c m with mgmt := g, nvm := n, free := k } := by
  unfold raise watchSummary
  split <;> split <;> exact ⟨_, _, _, rfl⟩

@[simp] theorem raise_shadow (c : Cause) (m : Dev) : (raise c m).shadow = m.shadow := by
  obtain ⟨g, n, k, h⟩ := raise_cases c m
  rw [h]
  rfl

@[simp] theorem raise_waitingWrite (c : Cause) (m : Dev) : (raise c m).waitingWrite = m.waitingWrite := by
  obtain ⟨g, n, k, h⟩ := raise_cases c m
  rw [h]
  rfl

@[simp] theorem raise_power (c : Cause) (m : Dev) : (raise c m).power = m.power := by
  obtain ⟨g, n, k, h⟩ := raise_cases c m
  rw [h]
  rfl

theorem memSame_of_mem {m n : Dev} (h : n.mem = m.mem) : memSame m n := fun a => ldByte_congr h a

theorem memSame_raise (c : Cause) (m : Dev) : memSame m (raise c m) := memSame_of_mem (raise_mem c m)

theorem regsSameBut_raise {m : Dev} (h : regsWf m = true) (c : Cause) : regsSameBut [c.reg] m (raise c m) :=
  fun _ ho => rd_raise_ne h c (by simpa using ho)

/-- The bits of a leaf register once a cause of it has been raised. -/
theorem getLsbD_rd_raise {m : Dev} (h : regsWf m = true) (c : Cause) {i : Nat} (hi : i < 64) :
    (rd c.reg (raise c m)).getLsbD i = (decide (c.leaf % 64 = i) || (rd c.reg m).getLsbD i) := by
  rw [rd_raise]
  unfold setLeaf
  rw [rd_wr_same h, BitVec.getLsbD_or, BitVec.getLsbD_ofNat, Nat.testBit_two_pow]
  simp [hi, Bool.or_comm]

/-- A raised cause leaves every other leaf of its register. -/
theorem leafSet_raise_other {m : Dev} (h : regsWf m = true) {c d : Cause} (hr : d.reg = c.reg) (hl : c.leaf % 64 ≠ d.leaf % 64) :
    leafSet d (raise c m) = leafSet d m := by
  unfold leafSet
  rw [hr, getLsbD_rd_raise h c (Nat.mod_lt _ (by decide))]
  simp [hl]

/-! ### Accesses that are refused (R4, R5) -/

theorem exec_registerWrite (who : Requester) (off size : Nat) (v : Word) (s : State) :
    exec (.registerWrite who off size v) s = .next { s with dev := regWrite who off size v s.dev } := rfl

section
variable {off size : Nat} (who : Requester) (v : Word) (m : Dev)

theorem regWrite_of_misaligned (h : size ≠ 8 ∨ off % 8 ≠ 0) : regWrite who off size v m = raise cHEADLAND_REGACC_ALIGN m := by
  unfold regWrite
  rw [if_pos (by simpa using h)]

theorem regRead_of_misaligned (h : size ≠ 8 ∨ off % 8 ≠ 0) :
    regRead who off size m = (raise cHEADLAND_REGACC_ALIGN m, 0xFFFFFFFFFFFFFFFF#64) := by
  unfold regRead
  rw [if_pos (by simpa using h)]

theorem regWrite_of_unmapped (ha : off % 8 = 0) (hl : locate off = none) :
    regWrite who off 8 v m = raise cHEADLAND_REGACC_UNMAPPED m := by
  simp [regWrite, ha, hl]

theorem regRead_of_unmapped (ha : off % 8 = 0) (hl : locate off = none) :
    regRead who off 8 m = (raise cHEADLAND_REGACC_UNMAPPED m, 0) := by
  simp [regRead, ha, hl]
end

/-- A write that does no more than raise a cause sets its leaf, and keeps another leaf of that register, every other register, the
shadows, the waiting writes and memory. -/
theorem registerWrite_refused {who : Requester} {off size : Nat} {v : Word} {s : State} {c d : Cause} (h : regsWf s.dev = true)
    (hw : regWrite who off size v s.dev = raise c s.dev) (hr : d.reg = c.reg) (hl : c.leaf % 64 ≠ d.leaf % 64) :
    ∃ m, exec (.registerWrite who off size v) s = .next { s with dev := m } ∧ leafSet c m = true ∧
      leafSet d m = leafSet d s.dev ∧ regsSameBut [c.reg] s.dev m ∧ m.shadow = s.dev.shadow ∧
      m.waitingWrite = s.dev.waitingWrite ∧ memSame s.dev m := by
  refine ⟨raise c s.dev, ?_, leafSet_raise h c, leafSet_raise_other h hr hl, regsSameBut_raise h c, raise_shadow c _,
    raise_waitingWrite c _, memSame_raise c _⟩
  rw [exec_registerWrite, hw]

/-- Settles O7: a narrow or unaligned access does no more than raise ALIGN, whose leaf is not that of UNMAPPED. -/
theorem narrowOrUnalignedAccessIsRefused : Obligations.NarrowOrUnalignedAccessIsRefused := by
  intro who off size v s h hs
  refine ⟨registerWrite_refused h (regWrite_of_misaligned who v s.dev hs) rfl (by decide), ?_⟩
  rw [regRead_of_misaligned who s.dev hs]
  exact ⟨rfl, leafSet_raise h _, leafSet_raise_other h rfl (by decide)⟩

/-- Settles O8: an aligned 64-bit access at an undefined offset does no more than raise UNMAPPED; all others fall under O7. -/
theorem unmappedAccessIsRefused : Obligations.UnmappedAccessIsRefused := by
  refine ⟨narrowOrUnalignedAccessIsRefused, fun who off v s h ha hl => ?_⟩
  refine ⟨registerWrite_refused h (regWrite_of_unmapped who v s.dev ha hl) rfl (by decide), ?_⟩
  rw [regRead_of_unmapped who s.dev ha hl]
  exact ⟨rfl, leafSet_raise h _⟩

/-! ### Clearing leaves (R8, R480) -/

theorem exec_leafClear (b : Fin 50) (high : Bool) (mask sets : Word) (s : State) :
    exec (.leafClear b high mask sets) s = .next { s with dev := leafClear b.val high mask sets s.dev } := rfl

theorem watchAll_regs (f : Dev → Dev) (m : Dev) : (watchAll f m).regs = (f m).regs := by
  unfold watchAll
  split <;> rfl

theorem watchAll_mem (f : Dev → Dev) (m : Dev) : (watchAll f m).mem = (f m).mem := by
  unfold watchAll
  split <;> rfl

theorem regsWf_clearLeaves {m : Dev} (h : regsWf m = true) (b j : Nat) (mask : Word) : regsWf (clearLeaves b j mask m) = true := by
  unfold regsWf clearLeaves
  rw [watchAll_regs]
  exact regsWf_wr h _ _

theorem rd_clearLeaves (b j : Nat) (mask : Word) {m : Dev} (h : regsWf m = true) :
    rd (aINT_LEAF b j) (clearLeaves b j mask m) = rd (aINT_LEAF b j) m &&& ~~~mask := by
  unfold clearLeaves
  rw [rd_congr (watchAll_regs _ m), rd_wr_same h]

theorem regsSameBut_clearLeaves {m : Dev} (h : regsWf m = true) (b j : Nat) (mask : Word) :
    regsSameBut [aINT_LEAF b j] m (clearLeaves b j mask m) := by
  intro o ho
  unfold clearLeaves
  rw [rd_congr (watchAll_regs _ m), rd_wr_ne h _ (by simpa using ho)]

theorem memSame_clearLeaves (b j : Nat) (mask : Word) (m : Dev) : memSame m (clearLeaves b j mask m) :=
  memSame_of_mem (watchAll_mem _ m)

theorem regsSameBut_trans {offs : List Nat} {l m n : Dev} (h1 : regsSameBut offs l m) (h2 : regsSameBut offs m n) :
    regsSameBut offs l n :=
  fun o ho => (h2 o ho).trans (h1 o ho)

theorem memSame_trans {l m n : Dev} (h1 : memSame l m) (h2 : memSame m n) : memSame l n := fun a => (h2 a).trans (h1 a)

/-- Raising causes of one leaf register changes no other register and no memory. -/
theorem forEach_raise_frame {o : Nat} {cs : List Cause} (hcs : ∀ c ∈ cs, c.reg = o) {m : Dev} (h : regsWf m = true) :
    regsSameBut [o] m (forEach cs raise m) ∧ memSame m (forEach cs raise m) := by
  have step : ∀ c ∈ cs, ∀ n, regsWf n = true ∧ regsSameBut [o] m n ∧ memSame m n →
      regsWf (raise c n) = true ∧ regsSameBut [o] m (raise c n) ∧ memSame m (raise c n) := by
    rintro c hc n ⟨hn, hr, hm⟩
    have hraise := regsSameBut_raise hn c
    rw [hcs c hc] at hraise
    exact ⟨regsWf_raise hn c, regsSameBut_trans hr hraise, memSame_trans hm (memSame_raise c n)⟩
  exact (forEach_keeps _ cs raise m step ⟨h, fun _ _ => rfl, fun _ => rfl⟩).2

/-- The bits of a leaf register once causes of it have been raised one after another. -/
theorem getLsbD_rd_forEach_raise {o : Nat} {cs : List Cause} (hcs : ∀ c ∈ cs, c.reg = o) {m : Dev} (h : regsWf m = true)
    {i : Nat} (hi : i < 64) :
    (rd o (forEach cs raise m)).getLsbD i = (cs.any (fun c => decide (c.leaf % 64 = i)) || (rd o m).getLsbD i) := by
  induction cs generalizing m with
  | nil => rfl
  | cons c rest ih =>
    have hc : c.reg = o := hcs c (by simp)
    have hfirst : (rd o (raise c m)).getLsbD i = (decide (c.leaf % 64 = i) || (rd o m).getLsbD i) := by
      rw [← hc]
      exact getLsbD_rd_raise h c hi
    calc (rd o (forEach rest raise (raise c m))).getLsbD i
        = (rest.any (fun c => decide (c.leaf % 64 = i)) || (rd o (raise c m)).getLsbD i) :=
          ih (fun d hd => hcs d (by simp [hd])) (regsWf_raise h c)
      _ = _ := by rw [hfirst, List.any_cons, Bool.or_left_comm, Bool.or_assoc]

theorem mem_setBits (n v i : Nat) : i ∈ setBits n v ↔ i < n ∧ v.testBit i = true := by
  simp [setBits, bitAt, Nat.testBit_eq_decide_div_mod_eq]

/-- The causes of leaf register `j` of block `b` that the bits of `sets` name and R482 defines. -/
def namedCauses (b j : Nat) (sets : Word) : List Cause :=
  ((setBits 64 sets.toNat).map (fun i => (⟨b, 64 * j + i⟩ : Cause))).filter leafDefined

theorem leafClear_eq (b : Nat) (high : Bool) (mask sets : Word) (m : Dev) :
    leafClear b high mask sets m =
      forEach (namedCauses b (if high then 1 else 0) sets) raise (clearLeaves b (if high then 1 else 0) mask m) := rfl

theorem mem_namedCauses (b j : Nat) (sets : Word) (c : Cause) :
    c ∈ namedCauses b j sets ↔ ∃ i < 64, sets.getLsbD i = true ∧ leafDefined c = true ∧ c = ⟨b, 64 * j + i⟩ := by
  simp only [namedCauses, List.mem_filter, List.mem_map, mem_setBits, BitVec.testBit_toNat]
  constructor
  · rintro ⟨⟨i, ⟨hi, hs⟩, rfl⟩, hd⟩
    exact ⟨i, hi, hs, hd, rfl⟩
  · rintro ⟨i, hi, hs, hd, rfl⟩
    exact ⟨⟨i, ⟨hi, hs⟩, rfl⟩, hd⟩

theorem reg_of_mem_namedCauses {b j : Nat} {sets : Word} {c : Cause} (h : c ∈ namedCauses b j sets) : c.reg = aINT_LEAF b j := by
  obtain ⟨i, hi, _, _, rfl⟩ := (mem_namedCauses b j sets c).1 h
  have hj : (64 * j + i) / 64 = j := by omega
  simp only [Cause.reg, hj]

/-- A bit of a leaf register is among the named causes just when it is named and defined. -/
theorem any_namedCauses (b j : Nat) (sets : Word) {i : Nat} (hi : i < 64) :
    (namedCauses b j sets).any (fun c => decide (c.leaf % 64 = i)) = (sets.getLsbD i && leafDefined ⟨b, 64 * j + i⟩) := by
  rw [Bool.eq_iff_iff]
  simp only [List.any_eq_true, mem_namedCauses, decide_eq_true_eq, Bool.and_eq_true]
  constructor
  · rintro ⟨c, ⟨k, hk, hs, hd, rfl⟩, hki⟩
    obtain rfl : k = i := by
      simp only at hki
      omega
    exact ⟨hs, hd⟩
  · rintro ⟨hs, hd⟩
    exact ⟨_, ⟨i, hi, hs, hd, rfl⟩, by simp only; omega⟩

/-- LEAF_CLEAR on its leaf register: the bits named are cleared, those that are set in the same cycle stand. -/
theorem getLsbD_rd_leafClear {b : Nat} {high : Bool} {mask sets : Word} {m : Dev} (h : regsWf m = true) {i : Nat} (hi : i < 64) :
    (rd (aINT_LEAF b (if high then 1 else 0)) (leafClear b high mask sets m)).getLsbD i =
      ((sets.getLsbD i && leafDefined ⟨b, 64 * (if high then 1 else 0) + i⟩) ||
        ((rd (aINT_LEAF b (if high then 1 else 0)) m).getLsbD i && !mask.getLsbD i)) := by
  rw [leafClear_eq, getLsbD_rd_forEach_raise (fun _ hc => reg_of_mem_namedCauses hc) (regsWf_clearLeaves h _ _ _) hi,
    any_namedCauses _ _ _ hi, rd_clearLeaves _ _ _ h, BitVec.getLsbD_and, BitVec.getLsbD_not]
  simp [hi]

theorem leafClear_frame {m : Dev} (h : regsWf m = true) (b : Nat) (high : Bool) (mask sets : Word) :
    regsSameBut [aINT_LEAF b (if high then 1 else 0)] m (leafClear b high mask sets m) ∧
      memSame m (leafClear b high mask sets m) := by
  rw [leafClear_eq]
  obtain ⟨hr, hm⟩ := forEach_raise_frame (fun _ hc => reg_of_mem_namedCauses (sets := sets) hc)
    (regsWf_clearLeaves h b (if high then 1 else 0) mask)
  exact ⟨regsSameBut_trans (regsSameBut_clearLeaves h _ _ _) hr, memSame_trans (memSame_clearLeaves _ _ _ m) hm⟩

/-! ### The levels of the cause tree (R478, R479) -/

/-- A sum of distinct powers of two is below the next power. -/
theorem sum_twoPow_lt (p : Nat → Bool) (n : Nat) :
    ((List.range n).map (fun i => if p i then 2 ^ i else 0)).sum < 2 ^ n := by
  induction n with
  | zero => simp
  | succ n ih =>
    rw [List.sum_range_succ, Nat.pow_succ]
    split <;> omega

/-- The bits of a sum of distinct powers of two. -/
theorem testBit_sum_twoPow (p : Nat → Bool) (n k : Nat) :
    (((List.range n).map (fun i => if p i then 2 ^ i else 0)).sum).testBit k = (decide (k < n) && p k) := by
  induction n with
  | zero => simp
  | succ n ih =>
    have hsum : ((List.range (n + 1)).map (fun i => if p i then 2 ^ i else 0)).sum =
        2 ^ n * (p n).toNat + ((List.range n).map (fun i => if p i then 2 ^ i else 0)).sum := by
      rw [List.sum_range_succ]
      cases p n <;> simp [Nat.add_comm]
    rw [hsum, Nat.testBit_two_pow_mul_add _ (sum_twoPow_lt p n), ih]
    rcases Nat.lt_trichotomy k n with hk | rfl | hk
    · simp [hk, Nat.lt_succ_of_lt hk]
    · cases p k <;> simp
    · have h1 : ¬ k < n := by omega
      have h2 : ¬ k < n + 1 := by omega
      have h3 : k - n ≠ 0 := by omega
      simp [h1, h2, Nat.testBit_bool_toNat, h3]

theorem getLsbD_intBlock (b : Nat) (m : Dev) {g : Nat} (hg : g < 16) : (intBlock b m).getLsbD g = groupBit b g m := by
  have h64 : g < 64 := by omega
  unfold intBlock
  rw [BitVec.getLsbD_ofNat, testBit_sum_twoPow (fun g => groupBit b g m)]
  simp [hg, h64]

theorem getLsbD_intSummary (m : Dev) {b : Nat} (hb : b < 50) : (intSummary m).getLsbD b = summaryBit b m := by
  have h64 : b < 64 := by omega
  unfold intSummary
  rw [BitVec.getLsbD_ofNat, testBit_sum_twoPow (fun b => summaryBit b m)]
  simp [hb, h64]

theorem ne_zero_of_getLsbD {w : Word} {i : Nat} (h : w.getLsbD i = true) : w ≠ 0 := by
  rintro rfl
  simp at h

/-- A group bit is 1 when a leaf of the group is set and unmasked. -/
theorem groupBit_of_leaf {b l : Nat} {m : Dev} (hl : (rd (aINT_LEAF b (l / 64)) m).getLsbD (l % 64) = true)
    (hm : (rd (aINT_LEAF_MASK b (l / 64)) m).getLsbD (l % 64) = false) : groupBit b (l / 8) m = true := by
  have hj : l / 8 / 8 = l / 64 := by omega
  have hi : 8 * (l / 8 % 8) + l % 8 = l % 64 := by omega
  have hbit : (Fld.get ⟨8 * (l / 8 % 8), 8⟩ (rd (aINT_LEAF b (l / 64)) m &&& ~~~rd (aINT_LEAF_MASK b (l / 64)) m)).testBit
      (l % 8) = true := by
    have h8 : l % 8 < 8 := Nat.mod_lt _ (by decide)
    have h64 : l % 64 < 64 := Nat.mod_lt _ (by decide)
    rw [Fld_get_testBit, hi, BitVec.getLsbD_and, BitVec.getLsbD_not, hl, hm]
    simp [h8, h64]
  unfold groupBit
  rw [hj, decide_eq_true_eq]
  intro hzero
  unfold Fld.get at hbit
  rw [hzero, Nat.zero_testBit] at hbit
  exact Bool.false_ne_true hbit

/-- A raw bit is 1 when a group of its block is 1 and unmasked. -/
theorem rawBit_of_group {b g : Nat} {m : Dev} (hg : g < 16) (h : groupBit b g m = true)
    (hm : (rd (aINT_BLOCK_MASK b) m).getLsbD g = false) : rawBit b m = true := by
  have h64 : g < 64 := by omega
  have hbit : (intBlock b m &&& ~~~rd (aINT_BLOCK_MASK b) m).getLsbD g = true := by
    rw [BitVec.getLsbD_and, BitVec.getLsbD_not, getLsbD_intBlock b m hg, h, hm]
    simp [h64]
  unfold rawBit
  rw [decide_eq_true_eq]
  exact ne_zero_of_getLsbD hbit

/-- INT_N is low when a raw bit is 1 and unmasked, unless RESET_N is asserted. -/
theorem intLow_of_raw {b : Nat} {m : Dev} (hb : b < 50) (h : rawBit b m = true) (hm : (rd aINT_SUMMARY_MASK m).getLsbD b = false)
    (hr : m.power.resetLow = false) : intLow m = true := by
  have hs : intSummary m ≠ 0 := by
    apply ne_zero_of_getLsbD (i := b)
    rw [getLsbD_intSummary m hb, summaryBit, h, hm]
    rfl
  unfold intLow
  rw [hr, decide_eq_true hs]
  rfl

/-- A set leaf that no mask covers pulls INT_N low, unless RESET_N is asserted. -/
theorem intLow_of_leafSet {c : Cause} {m : Dev} (hb : c.block < 50) (hl : c.leaf < 128) (h : leafSet c m = true)
    (hleaf : (rd (aINT_LEAF_MASK c.block (c.leaf / 64)) m).getLsbD (c.leaf % 64) = false)
    (hblock : (rd (aINT_BLOCK_MASK c.block) m).getLsbD (c.leaf / 8) = false)
    (hsummary : (rd aINT_SUMMARY_MASK m).getLsbD c.block = false) (hr : m.power.resetLow = false) : intLow m = true :=
  intLow_of_raw hb (rawBit_of_group (by omega) (groupBit_of_leaf h hleaf) hblock) hsummary hr

/-- No mask of the cause tree is a leaf register. -/
theorem mask_ne_leaf_reg (c : Cause) :
    (∀ b j, aINT_LEAF_MASK b j ≠ c.reg) ∧ (∀ b, aINT_BLOCK_MASK b ≠ c.reg) ∧ aINT_SUMMARY_MASK ≠ c.reg := by
  unfold Cause.reg aINT_LEAF aINT_LEAF_MASK aINT_BLOCK_MASK aINT_SUMMARY_MASK
  refine ⟨fun b j => ?_, fun b => ?_, ?_⟩ <;> omega

/-- Settles O9: a LEAF_CLEAR clears and then raises on one leaf register; a raise leaves the masks, so the leaf it sets passes
each level of the tree. -/
theorem leavesClearAndCausesPullIntN : Obligations.LeavesClearAndCausesPullIntN := by
  refine ⟨fun b high mask sets s h => ?_, fun c m h hb hl hr hleaf hblock hsummary => ?_⟩
  · obtain ⟨hregs, hmem⟩ := leafClear_frame h b.val high mask sets
    exact ⟨_, exec_leafClear b high mask sets s, fun i hi => getLsbD_rd_leafClear h hi, hregs, hmem⟩
  · obtain ⟨hneLeaf, hneBlock, hneSummary⟩ := mask_ne_leaf_reg c
    have hset := leafSet_raise h c
    refine ⟨hset, intLow_of_leafSet hb hl hset ?_ ?_ ?_ ?_⟩
    · rw [rd_raise_ne h c (hneLeaf _ _)]
      exact hleaf
    · rw [rd_raise_ne h c (hneBlock _)]
      exact hblock
    · rw [rd_raise_ne h c hneSummary]
      exact hsummary
    · rw [raise_power]
      exact hr

end Sys2Proof.Machine

/-! SUPPORT. An idle step, and the module at reset: every register at the value of its table (R30, R446, R447, R481). -/
namespace Sys2Proof.Machine

theorem step_idle (m : Dev) : step ⟨m, []⟩ = .next ⟨tick m, []⟩ := rfl

/-- Settles O2: a step on an empty queue is a tick, which counts unless the oscillator stands. -/
theorem idleStepCountsTime : Obligations.IdleStepCountsTime := by
  intro m
  rw [step_idle]
  refine ⟨fun h => ?_, fun h => ?_⟩
  · rw [tick, h]
    rfl
  · rw [tick, h]
    rfl

theorem rd_reset (o : Nat) : rd o Dev.reset = resetWord o := rfl

/-- The register at an offset of a tile's block. -/
theorem locate_onTile {t r : Nat} (ht : t < 144) (hr : r < 0x8000) (h8 : r % 8 = 0) :
    locate (onTile (fun d n => 0x100000 + 0x100000 * d + 0x8000 * n + r) t) = findReg t r tileMap := by
  set o := onTile (fun d n => 0x100000 + 0x100000 * d + 0x8000 * n + r) t with ho
  simp only [onTile, dieOf, numOf] at ho
  have hdie : o / 0x100000 - 1 = t / 18 := by omega
  have htile : o % 0x100000 / 0x8000 = t % 18 := by omega
  have hoff : o % 0x100000 % 0x8000 = r := by omega
  have hunit : 18 * (t / 18) + t % 18 = t := Nat.div_add_mod t 18
  have halign : o % 8 = 0 := by omega
  unfold locate
  simp [halign, hdie, htile, hoff, hunit, show ¬ o < 0x100000 by omega, show o < 0x900000 by omega,
    show o % 0x100000 < 0x90000 by omega]

theorem resetWord_tileClock {t : Nat} (ht : t < 144) :
    resetWord (onTile aBELLOWS_TILE_CLOCK t) = BitVec.ofNat 64 (RegName.BELLOWS_TILE_CLOCK).info.reset := by
  have h : locate (onTile aBELLOWS_TILE_CLOCK t) = some ⟨.BELLOWS_TILE_CLOCK, t, 0, 0⟩ :=
    (locate_onTile (r := 0x4000) ht (by decide) rfl).trans rfl
  unfold resetWord
  rw [h]
  rfl

theorem resetWord_tileCal {t : Nat} (ht : t < 144) :
    resetWord (onTile aBELLOWS_TILE_CAL t) = BitVec.ofNat 64 (RegName.BELLOWS_TILE_CAL).info.reset := by
  have h : locate (onTile aBELLOWS_TILE_CAL t) = some ⟨.BELLOWS_TILE_CAL, t, 0, 0⟩ :=
    (locate_onTile (r := 0x4008) ht (by decide) rfl).trans rfl
  unfold resetWord
  rw [h]
  rfl

/-- Every leaf and mask of the cause tree resets to 0 (R481). -/
theorem resetWord_causeTree : ∀ b < 50, ∀ j < 2, resetWord (aINT_LEAF b j) = 0 ∧ resetWord (aINT_LEAF_MASK b j) = 0 ∧
    resetWord (aINT_BLOCK_MASK b) = 0 := by decide +kernel

theorem sound_reset : Dev.reset.sound = true := rfl

/-- The fields of chapter 15's tables that O6 names. -/
theorem bellows_reset :
    rdF aBELLOWS_CAP fBELLOWS_CAP_CAP_W Dev.reset = 3400 ∧ rdF aBELLOWS_CAP fBELLOWS_CAP_BRAKE_W Dev.reset = 2400 ∧
    rdF aBELLOWS_STATE fBELLOWS_STATE_D Dev.reset = 256 ∧ rdF aBELLOWS_CLASS fBELLOWS_CLASS_INTERACTIVE Dev.reset = 3 ∧
    rdF aBELLOWS_THROUGHPUT fBELLOWS_THROUGHPUT_MHZ Dev.reset = 1750 ∧
    rdF aBELLOWS_THERM fBELLOWS_THERM_TILE_CRIT_C Dev.reset = 110 ∧
    rdF aBELLOWS_THERM fBELLOWS_THERM_OUTLET_CRIT_C Dev.reset = 70 ∧ rd aBELLOWS_STOP Dev.reset = 0 := by decide +kernel

theorem resourceSummary_reset : resourceSummary Dev.reset = 0 := by decide +kernel

/-- INT_BLOCK of a block with no leaf set. -/
theorem intBlock_of_no_leaf {b : Nat} {m : Dev} (h : ∀ j < 2, rd (aINT_LEAF b j) m = 0) : intBlock b m = 0 := by
  have hgroup : ∀ g ∈ List.range 16, (if groupBit b g m then 2 ^ g else 0) = 0 := by
    intro g hg
    have hj : g / 8 < 2 := by
      have := List.mem_range.1 hg
      omega
    simp [groupBit, h _ hj, bitsAt]
  unfold intBlock
  rw [List.sum_eq_zero (by simpa using hgroup)]
  rfl

/-- INT_N stands high while no leaf is set. -/
theorem intLow_of_no_leaf {m : Dev} (h : ∀ b < 50, ∀ j < 2, rd (aINT_LEAF b j) m = 0) : intLow m = false := by
  have hblock : ∀ b ∈ List.range 50, (if summaryBit b m then 2 ^ b else 0) = 0 := by
    intro b hb
    simp [summaryBit, rawBit, intBlock_of_no_leaf (h b (List.mem_range.1 hb))]
  have hsummary : intSummary m = 0 := by
    unfold intSummary
    rw [List.sum_eq_zero (by simpa using hblock)]
    rfl
  simp [intLow, hsummary]

/-- Settles O6: a module at reset has no register listed, so each reads as its reset value. -/
theorem resetIsSoundAndAsTheTablesSay : Obligations.ResetIsSoundAndAsTheTablesSay := by
  obtain ⟨hcap, hbrake, hd, hclass, hthroughput, htile, houtlet, hstop⟩ := bellows_reset
  refine ⟨⟨sound_reset, rfl⟩, rfl, hcap, hbrake, hd, hclass, hthroughput, htile, houtlet, hstop, resourceSummary_reset, ?_,
    resetWord_causeTree, by decide +kernel, intLow_of_no_leaf fun b hb j hj => (resetWord_causeTree b hb j hj).1⟩
  intro t ht
  constructor
  · show Fld.get _ (resetWord _) = _
    rw [resetWord_tileClock ht]
    rfl
  · show Fld.get _ (resetWord _) = _
    rw [resetWord_tileCal ht]
    rfl
end Sys2Proof.Machine

/-! SUPPORT. What each operation of the model does to local time (R27). There is one equation per function that changes the
module, in the order of the model; all but the start from power keep local time. The equations of the folds ask that the step
keep it. `simp -implicitDefEqProofs` stands where an equation that holds by `rfl` would have the kernel unfold a whole
operation. -/
namespace Sys2Proof.Machine

/-! ### Case distinctions and folds -/

@[simp] theorem ite_time (c : Prop) [Decidable c] (a b : Dev) : (if c then a else b).time = if c then a.time else b.time :=
  apply_ite Dev.time c a b

@[simp] theorem ite_fst {α β : Type} (c : Prop) [Decidable c] (a b : α × β) : (if c then a else b).1 = if c then a.1 else b.1 :=
  apply_ite Prod.fst c a b

@[simp] theorem ite_snd {α β : Type} (c : Prop) [Decidable c] (a b : α × β) : (if c then a else b).2 = if c then a.2 else b.2 :=
  apply_ite Prod.snd c a b

@[simp] theorem Run.ite_m (c : Prop) [Decidable c] (a b : Run) : (if c then a else b).m = if c then a.m else b.m :=
  apply_ite Run.m c a b

@[simp] theorem Done.ite_m (c : Prop) [Decidable c] (a b : Done) : (if c then a else b).m = if c then a.m else b.m :=
  apply_ite Done.m c a b

@[simp] theorem ReadRes.ite_m (c : Prop) [Decidable c] (a b : ReadRes) : (if c then a else b).m = if c then a.m else b.m :=
  apply_ite ReadRes.m c a b

@[simp] theorem Acts.ite_m (c : Prop) [Decidable c] (a b : Acts) : (if c then a else b).m = if c then a.m else b.m :=
  apply_ite Acts.m c a b

@[simp] theorem Mig.ite_m (c : Prop) [Decidable c] (a b : Mig) : (if c then a else b).m = if c then a.m else b.m :=
  apply_ite Mig.m c a b

@[simp] theorem Filling.ite_m (c : Prop) [Decidable c] (a b : Filling) : (if c then a else b).m = if c then a.m else b.m :=
  apply_ite Filling.m c a b

@[simp] theorem AtomicRes.ite_m (c : Prop) [Decidable c] (a b : AtomicRes) : (if c then a else b).m = if c then a.m else b.m :=
  apply_ite AtomicRes.m c a b

@[simp] theorem LaneTurn.ite_m (c : Prop) [Decidable c] (a b : LaneTurn) : (if c then a else b).m = if c then a.m else b.m :=
  apply_ite LaneTurn.m c a b

@[simp] theorem Copied.ite_m (c : Prop) [Decidable c] (a b : Copied) : (if c then a else b).m = if c then a.m else b.m :=
  apply_ite Copied.m c a b

@[simp] theorem raise_keeps_time (c : Cause) (m : Dev) : (raise c m).time = m.time := raise_time c m

@[simp] theorem forEach_time {α : Type} {xs : List α} {f : α → Dev → Dev} {m : Dev} (hf : ∀ x m, (f x m).time = m.time) :
    (forEach xs f m).time = m.time :=
  forEach_keeps (fun n => n.time = m.time) xs f m (fun x _ n hn => (hf x n).trans hn) rfl

theorem foldl_keeps {α β τ : Type} (g : β → τ) {xs : List α} {f : β → α → β} {b : β} (hf : ∀ b x, g (f b x) = g b) :
    g (xs.foldl f b) = g b := by
  induction xs generalizing b with
  | nil => rfl
  | cons x rest ih => exact ih.trans (hf b x)

@[simp] theorem foldl_time {α : Type} {xs : List α} {f : Dev → α → Dev} {m : Dev} (hf : ∀ m x, (f m x).time = m.time) :
    (xs.foldl f m).time = m.time :=
  foldl_keeps Dev.time hf

@[simp] theorem foldl_run_time {α : Type} {xs : List α} {f : Run → α → Run} {r : Run} (hf : ∀ r x, (f r x).m.time = r.m.time) :
    (xs.foldl f r).m.time = r.m.time :=
  foldl_keeps (fun r : Run => r.m.time) hf

@[simp] theorem foldl_fst_time {α β : Type} {xs : List α} {f : Run × β → α → Run × β} {r : Run × β}
    (hf : ∀ r x, (f r x).1.m.time = r.1.m.time) : (xs.foldl f r).1.m.time = r.1.m.time :=
  foldl_keeps (fun r : Run × β => r.1.m.time) hf

@[simp] theorem when_time (c : Bool) (f : Dev → Dev) (m : Dev) : (when c f m).time = if c then (f m).time else m.time := by
  simp [when]

@[simp] theorem withSome_time {α : Type} {o : Option α} {f : α → Dev → Dev} {m : Dev} (hf : ∀ x m, (f x m).time = m.time) :
    (withSome o f m).time = m.time := by
  cases o with
  | none => rfl
  | some x => exact hf x m

@[simp] theorem watchSummary_time (b : Nat) (f : Dev → Dev) (m : Dev) : (watchSummary b f m).time = (f m).time := by
  simp [watchSummary]

@[simp] theorem watchAll_time (f : Dev → Dev) (m : Dev) : (watchAll f m).time = (f m).time := by
  simp [watchAll]

@[simp] theorem judged_time (f : Bool → Dev → Dev) (m : Dev) : (judged f m).time = (f (freeBit m) (useFree 1 m)).time := rfl

@[simp] theorem Run.eff_time (f : Dev → Dev) (r : Run) : (r.eff f).m.time = (f r.m).time := rfl

@[simp] theorem summed_time (f : Dev → Dev) (m : Dev) : (summed f m).time = if 6 ≤ bootStageOf m then (f m).time else m.time := by
  simp [summed]

@[simp] theorem onBus_time (f : Dev → Dev) (m : Dev) :
    (onBus f m).time = if m.power.pwrOk && !m.power.resetLow then (f m).time else m.time := by
  simp [onBus]

/-! ### Ops -/

@[simp] theorem recordFirst_time (off : Nat) (v : Word) (m : Dev) : (recordFirst off v m).time = m.time := by
  simp [recordFirst]

@[simp] theorem logCause_time (c : Cause) (m : Dev) : (logCause c m).time = m.time := rfl

@[simp] theorem setLeaf_time (c : Cause) (m : Dev) : (setLeaf c m).time = m.time := rfl

@[simp] theorem addArrival_time (d c k : Nat) (m : Dev) : (addArrival d c k m).time = m.time := by
  simp -implicitDefEqProofs [addArrival]

@[simp] theorem addRef_time (r k : Nat) (m : Dev) : (addRef r k m).time = m.time := by simp [addRef]

/-! ### TierOps -/

@[simp] theorem slotsJudged_time (m : Dev) : (slotsJudged m).time = m.time := rfl

@[simp] theorem setMap_time (range p : Nat) (v : Word) (m : Dev) : (setMap range p v m).time = m.time := rfl

@[simp] theorem setStaged_time (range p : Nat) (v : Word) (m : Dev) : (setStaged range p v m).time = m.time := rfl

@[simp] theorem setMapF_time (range p : Nat) (f : Fld) (n : Nat) (m : Dev) : (setMapF range p f n m).time = m.time := rfl

@[simp] theorem tierFault_time (kind d range p : Nat) (m : Dev) : (tierFault kind d range p m).time = m.time := by
  simp [tierFault]

@[simp] theorem setOwner_time (k i : Nat) (v : Word) (m : Dev) : (setOwner k i v m).time = m.time := rfl

theorem popFrame_time {k range p i : Nat} {m n : Dev} (h : popFrame k range p m = some (i, n)) : n.time = m.time := by
  unfold popFrame at h
  split at h
  · cases h
  · split at h
    · cases h
    · cases h
      rw [setOwner_time, stN_time, stN_time]

@[simp] theorem pushFrame_time (k i : Nat) (m : Dev) : (pushFrame k i m).time = m.time := by simp [pushFrame]

@[simp] theorem dropGone_time (k : Nat) (m : Dev) : (dropGone k m).time = m.time := by simp [dropGone]

@[simp] theorem freeFrame_time (w : Word) (m : Dev) : (freeFrame w m).time = m.time := by simp [freeFrame]

@[simp] theorem copyRaw_time (src dst n : Nat) (m : Dev) : (copyRaw src dst n m).time = m.time := by
  simp -implicitDefEqProofs [copyRaw]

@[simp] theorem evictEnd_time (k i : Nat) (m : Dev) : (evictEnd k i m).time = m.time := by simp [evictEnd]

@[simp] theorem writeHome_time (range p : Nat) (e : Word) (m : Dev) : (writeHome range p e m).time = m.time := by
  unfold writeHome
  split <;> simp

theorem evictStart_time {k i : Nat} {d : Bool} {m n : Dev} (h : evictStart k m = some (i, d, n)) : n.time = m.time := by
  unfold evictStart at h
  split at h
  · cases h
  · cases h
    simp

@[simp] theorem flipOne_time (range p : Nat) (m : Dev) : (flipOne range p m).time = m.time := by simp [flipOne]

theorem flipRun_time {a : Nat} {m n : Dev} (h : flipRun a m = some n) : n.time = m.time := by
  unfold flipRun at h
  split at h
  · cases h
  · obtain ⟨_, h⟩ := Option.ite_none_right_eq_some.1 h
    cases h
    exact forEach_time fun _ _ => flipOne_time _ _ _

@[simp] theorem flipRefused_time (d a : Nat) (m : Dev) : (flipRefused d a m).time = m.time := by simp [flipRefused]

@[simp] theorem fillEnd_time (p k i : Nat) (ok : Bool) (m : Dev) : (fillEnd p k i ok m).time = m.time := by
  unfold fillEnd
  rw [setMap_time]
  split <;> simp

@[simp] theorem beginFault_time (die p : Nat) (m : Dev) : (beginFault die p m).time = m.time := by simp [beginFault]

/-! ### Access -/

@[simp] theorem gateFault_time (g : Gate) (kind off : Nat) (write : Bool) (m : Dev) :
    (gateFault g kind off write m).time = m.time := by
  simp only [gateFault]
  split <;> simp -implicitDefEqProofs

@[simp] theorem refuseRegion_time (g : Gate) (off : Nat) (write : Bool) (m : Dev) :
    (refuseRegion g off write m).time = m.time := by simp [refuseRegion]

@[simp] theorem refuseMap_time (ag : Agent) (m : Dev) : (refuseMap ag m).time = m.time := by simp [refuseMap]

@[simp] theorem poisonMet_time (write : Bool) (a : Nat) (g : Gate) (bad off : Nat) (m : Dev) :
    (poisonMet write a g bad off m).time = m.time := by
  unfold poisonMet
  split <;> simp

@[simp] theorem poisonSeen_time (a : Nat) (g : Gate) (bad off : Nat) (m : Dev) :
    (poisonSeen a g bad off m).time = m.time := by simp [poisonSeen]

@[simp] theorem peerAsk_time (die a n : Nat) (m : Dev) : (peerAsk die a n m).time = m.time := by simp [peerAsk]

@[simp] theorem peerRead_time (die a n : Nat) (m : Dev) : (peerRead die a n m).m.time = m.time := by simp [peerRead]

@[simp] theorem peerWrite_time (die a : Nat) (bs : List Byte) (m : Dev) : (peerWrite die a bs m).time = m.time := rfl

@[simp] theorem readServed_time (ag : Agent) (a n : Nat) (sv : Served) (m : Dev) :
    (readServed ag a n sv m).m.time = m.time := by
  unfold readServed
  split <;> simp

@[simp] theorem readPiece_time (ag : Agent) (a n : Nat) (m : Dev) : (readPiece ag a n m).m.time = m.time := by
  simp [readPiece]

@[simp] theorem readVia_time (ag : Agent) (a n : Nat) (m : Dev) : (readVia ag a n m).m.time = m.time :=
  foldl_keeps (fun r : ReadRes => r.m.time) fun r p => readPiece_time ag p.1 p.2 r.m

@[simp] theorem pageWritten_time (a : Nat) (m : Dev) : (pageWritten a m).time = m.time := by
  unfold pageWritten
  split <;> simp

@[simp] theorem writeServed_time (ag : Agent) (a : Nat) (bs : List Byte) (sv : Served) (m : Dev) :
    (writeServed ag a bs sv m).m.time = m.time := by
  simp only [writeServed]
  (repeat' split) <;> simp -implicitDefEqProofs

@[simp] theorem writePiece_time (ag : Agent) (a : Nat) (bs : List Byte) (m : Dev) :
    (writePiece ag a bs m).m.time = m.time := by simp [writePiece]

@[simp] theorem coverPages_time (a n : Nat) (m : Dev) : (coverPages a n m).time = m.time := by
  refine forEach_time fun u m => ?_
  split <;> simp

@[simp] theorem writeVia_time (ag : Agent) (a : Nat) (bs : List Byte) (m : Dev) : (writeVia ag a bs m).m.time = m.time := by
  simp only [writeVia, when_time, coverPages_time, ite_self]
  exact foldl_keeps (fun r : WriteRes => r.m.time) fun r p => writePiece_time ag p.1 _ r.m

@[simp] theorem refuseWrite_time (ag : Agent) (a n : Nat) (m : Dev) : (refuseWrite ag a n m).m.time = m.time := by
  unfold refuseWrite
  split <;> simp

@[simp] theorem Run.start_time (m : Dev) : (Run.start m).m.time = m.time := rfl

@[simp] theorem Run.read_time (ag : Agent) (a n : Nat) (r : Run) : (Run.read ag a n r).1.m.time = r.m.time := by
  simp [Run.read]

@[simp] theorem Run.write_time (ag : Agent) (a : Nat) (bs : List Byte) (r : Run) :
    (Run.write ag a bs r).m.time = r.m.time := by simp [Run.write]

@[simp] theorem Run.each_time {α : Type} {xs : List α} {f : α → Run → Run} {r : Run} (hf : ∀ x r, (f x r).m.time = r.m.time) :
    (Run.each xs f r).m.time = r.m.time :=
  foldl_run_time fun r x => hf x r

/-! ### Pages -/

@[simp] theorem nvmePut_time (x : NvmeCmd) (m : Dev) : (nvmePut x m).time = m.time := by simp [nvmePut]

@[simp] theorem nvmeSend_time (write flush : Bool) (page : Nat) (u : NvmeUse) (die : Nat) (m : Dev) :
    (nvmeSend write flush page u die m).time = m.time := by simp [nvmeSend]

@[simp] theorem nvmeTakeOut_time (x : NvmeCmd) (m : Dev) : (nvmeTakeOut x m).time = m.time := by
  simp only [nvmeTakeOut]
  split <;> simp -implicitDefEqProofs

@[simp] theorem noFrame_time (d range p : Nat) (m : Dev) : (noFrame d range p m).time = m.time := by simp [noFrame]

@[simp] theorem askPage_time (die page : Nat) (m : Dev) : (askPage die page m).time = m.time := by simp [askPage]

@[simp] theorem dropLent_time (page : Nat) (m : Dev) : (dropLent page m).time = m.time := rfl

@[simp] theorem evictWrite_time (die page : Nat) (m : Dev) : (evictWrite die page m).time = m.time := by simp [evictWrite]

@[simp] theorem evictOne_time (die k : Nat) (m : Dev) : (evictOne die k m).time = m.time := by
  unfold evictOne
  split
  · rfl
  next h => simp [evictStart_time h]

@[simp] theorem makeRoom_time (die k : Nat) (m : Dev) : (makeRoom die k m).time = m.time := by simp [makeRoom]

@[simp] theorem beginFill_time (die page k i : Nat) (m : Dev) : (beginFill die page k i m).time = m.time := by
  simp [beginFill]

@[simp] theorem seekFrame_time (die page k : Nat) (m : Dev) : (seekFrame die page k m).time = m.time := by
  simp only [seekFrame]
  split
  next h => simp [popFrame_time h]
  · split
    next h => simp [popFrame_time h]
    · simp

@[simp] theorem serveFault_time (w : Nat × Nat) (m : Dev) : (serveFault w m).time = m.time := by
  unfold serveFault
  split <;> simp

@[simp] theorem retryWaiting_time (m : Dev) : (retryWaiting m).time = m.time := by simp [retryWaiting]

@[simp] theorem pageFault_time (die page : Nat) (m : Dev) : (pageFault die page m).time = m.time := by
  simp only [pageFault]
  (repeat' split) <;> simp -implicitDefEqProofs

@[simp] theorem fillDone_time (page : Nat) (ok : Bool) (m : Dev) : (fillDone page ok m).time = m.time := by
  unfold fillDone
  split <;> simp

/-! ### Flags -/

@[simp] theorem firstCe_time (t ce : Nat) (m : Dev) : (firstCe t ce m).time = m.time := by simp [firstCe]

@[simp] theorem accOverflow_time (t ce : Nat) (m : Dev) : (accOverflow t ce m).time = m.time := by simp [accOverflow]

@[simp] theorem accNan_time (t ce : Nat) (m : Dev) : (accNan t ce m).time = m.time := by simp [accNan]

@[simp] theorem nanOperand_time (t ce : Nat) (m : Dev) : (nanOperand t ce m).time = m.time := by simp [nanOperand]

@[simp] theorem refScalar_time (t : Nat) (m : Dev) : (refScalar t m).time = m.time := by simp [refScalar]

@[simp] theorem refDivert_time (t k : Nat) (m : Dev) : (refDivert t k m).time = m.time := by simp [refDivert]

@[simp] theorem quantCauses_time (t : Nat) (bs : List QuantBlock) (m : Dev) : (quantCauses t bs m).time = m.time := by
  simp [quantCauses]

@[simp] theorem watchCheck_time (w : WatchItem) (m : Dev) : (watchCheck w m).time = m.time := by
  simp -implicitDefEqProofs [watchCheck]

/-! ### Grid -/

@[simp] theorem setAcc_time (t set i n : Nat) (a : Acc) (m : Dev) : (setAcc t set i n a m).time = m.time := rfl

@[simp] theorem accumulate_time (t ce set i n : Nat) (clear : Bool) (c : Contribution) (m : Dev) :
    (accumulate t ce set i n clear c m).time = m.time := by simp [accumulate]

@[simp] theorem referencePair_time (t ce set i n : Nat) (w : Int) (xs ys : List Num) (m : Dev) :
    (referencePair t ce set i n w xs ys m).time = m.time := by
  unfold referencePair
  split <;> simp

@[simp] theorem stretch_time (t ce set i n : Nat) (clear : Bool) (fa fw k : Nat) (w : Int) (a b : List Byte) (m : Dev) :
    (stretch t ce set i n clear fa fw k w a b m).time = m.time := by simp [stretch]

@[simp] theorem padPass_time (t rows k : Nat) (m : Dev) : (padPass t rows k m).time = m.time := by simp [padPass]

@[simp] theorem holdWeights_time (t fw k : Nat) (cols : List (List Byte)) (m : Dev) :
    (holdWeights t fw k cols m).time = m.time :=
  rfl

@[simp] theorem passCore_time (t ce set : Nat) (clear : Bool) (fa fw k : Nat) (w : Int) (as : List (Nat × List Byte))
    (ws : List (List Byte)) (m : Dev) :
    (passCore t ce set clear fa fw k w as ws m).time = m.time := by simp [passCore]

@[simp] theorem productCore_time (t ce set : Nat) (clear : Bool) (fa fw k : Nat) (w : Int) (as : List (Nat × List Byte))
    (ws : List (List Byte)) (m : Dev) :
    (productCore t ce set clear fa fw k w as ws m).time = m.time := by simp -implicitDefEqProofs [productCore]

@[simp] theorem readRows_time (ag : Agent) (bytes : Nat) (addrs : List Nat) (r : Run) :
    (readRows ag bytes addrs r).1.m.time = r.m.time := by simp [readRows]

@[simp] theorem gridPass_time (t : Nat) (p : PassSpec) (m : Dev) : (gridPass t p m).time = m.time := by simp [gridPass]

@[simp] theorem useTine_time (t : Nat) (m : Dev) : (useTine t m).time = m.time := rfl

@[simp] theorem drainEntry_time (t ce set i cols out : Nat) (reference : Bool) (w shift : Int) (ep : Nat) (r : Run) :
    (drainEntry t ce set i cols out reference w shift ep r).1.m.time = r.m.time := by simp [drainEntry]

@[simp] theorem drainCore_time (t ce : Nat) (d : DrainSpec) (r : Run) : (drainCore t ce d r).m.time = r.m.time := by
  simp [drainCore]

@[simp] theorem accDrain_time (t : Nat) (d : DrainSpec) (m : Dev) : (accDrain t d m).time = m.time := by simp [accDrain]

@[simp] theorem selfTestStart_time (t : Nat) (m : Dev) : (selfTestStart t m).time = m.time := by simp [selfTestStart]

@[simp] theorem testLeaves_time (t : Nat) (m : Dev) : (testLeaves t m).time = m.time := by
  unfold testLeaves
  rw [useTine_time, useFree_time]

@[simp] theorem selfTestDone_time (t : Nat) (failed : List (Fin 258)) (logic : Bool) (m : Dev) :
    (selfTestDone t failed logic m).time = m.time := by simp -implicitDefEqProofs [selfTestDone]

/-! ### Seedbed -/

@[simp] theorem reqRefuse_time (b : BankRef) (q : BankReq) (m : Dev) : (reqRefuse b q m).time = m.time := by
  unfold reqRefuse
  split <;> simp

@[simp] theorem setWaitingAt_time (b : Nat) (xs : List (BankReq × Nat)) (m : Dev) : (setWaitingAt b xs m).time = m.time :=
  rfl

@[simp] theorem bankWrite_time (a : Nat) (mask : BitVec 64) (data : BitVec 512) (m : Dev) :
    (bankWrite a mask data m).time = m.time := by simp [bankWrite]

@[simp] theorem setWriteBacks_time (b : Nat) (rows : List Nat) (m : Dev) : (setWriteBacks b rows m).time = m.time := rfl

@[simp] theorem dropWriteBack_time (b row : Nat) (m : Dev) : (dropWriteBack b row m).time = m.time := rfl

@[simp] theorem queueWriteBack_time (b row : Nat) (m : Dev) : (queueWriteBack b row m).time = m.time := rfl

@[simp] theorem bankEcc_time (b : BankRef) (row : Nat) (read : Bool) (e : EccEvent) (m : Dev) :
    (bankEcc b row read e m).time = m.time := by
  simp only [bankEcc]
  (repeat' split) <;> simp -implicitDefEqProofs

@[simp] theorem setPutOff_time (b : Nat) (p : PutOff) (m : Dev) : (setPutOff b p m).time = m.time := rfl

@[simp] theorem bankRead_time (b : BankRef) (q : BankReq) (m : Dev) : (bankRead b q m).time = m.time := by
  simp only [bankRead]
  (repeat' split) <;> simp -implicitDefEqProofs

@[simp] theorem bankServe_time (b : BankRef) (q : BankReq) (m : Dev) : (bankServe b q m).time = m.time := by
  simp [bankServe]

@[simp] theorem bankPorts_time (b : BankRef) (qa : BankReq) (qb : Option BankReq) (m : Dev) :
    (bankPorts b qa qb m).time = m.time := by
  unfold bankPorts
  split <;> simp

@[simp] theorem finishPutOff_time (b : BankRef) (qa : Option BankReq) (m : Dev) : (finishPutOff b qa m).time = m.time := by
  unfold finishPutOff
  split <;> simp

@[simp] theorem countStarve_time (b : BankRef) (n : Nat) (m : Dev) : (countStarve b n m).time = m.time := by
  unfold countStarve
  split <;> simp -implicitDefEqProofs

@[simp] theorem seedbedAccess_time (b : BankRef) (qs : List BankReq) (m : Dev) : (seedbedAccess b qs m).time = m.time := by
  simp only [seedbedAccess]
  (repeat' split) <;> simp -implicitDefEqProofs

@[simp] theorem eccWriteback_time (b : BankRef) (m : Dev) : (eccWriteback b m).time = m.time := rfl

@[simp] theorem harrowFault_time (s kind scrub off : Nat) (m : Dev) : (harrowFault s kind scrub off m).time = m.time := by
  simp [harrowFault]

@[simp] theorem harrowCorrected_time (s off scrub : Nat) (m : Dev) : (harrowCorrected s off scrub m).time = m.time := by
  simp [harrowCorrected]

@[simp] theorem harrowUncorrectable_time (s off scrub : Nat) (m : Dev) :
    (harrowUncorrectable s off scrub m).time = m.time := by simp -implicitDefEqProofs [harrowUncorrectable]

@[simp] theorem fieldAccess_time (q : FieldReq) (m : Dev) : (fieldAccess q m).time = m.time := by
  unfold fieldAccess
  split
  · simp -implicitDefEqProofs
  · split <;> simp -implicitDefEqProofs

@[simp] theorem scrubPass_time (s : Nat) (faults : List ScrubFault) (m : Dev) : (scrubPass s faults m).time = m.time := by
  unfold scrubPass
  split
  · rfl
  · refine forEach_time fun x m => ?_
    split <;> simp

/-! ### Packet -/

@[simp] theorem windrowFault_time (kind link coord job : Nat) (m : Dev) :
    (windrowFault kind link coord job m).time = m.time := by simp [windrowFault]

@[simp] theorem sendStopped_time (s : SendStop) (coord job : Nat) (m : Dev) :
    (sendStopped s coord job m).time = m.time := by
  unfold sendStopped
  split <;> simp

@[simp] theorem sendDraft_time (d : Draft) (m : Dev) : (sendDraft d m).time = m.time := by simp [sendDraft]

@[simp] theorem sendAgain_time (die : Nat) (p : Packet) (m : Dev) : (sendAgain die p m).time = m.time := rfl

@[simp] theorem sendNack_time (reason die : Nat) (p : Packet) (m : Dev) : (sendNack reason die p m).time = m.time := by
  simp [sendNack]

@[simp] theorem takePacket_time (p : Packet) (m : Dev) : (takePacket p m).time = m.time := rfl

/-! ### Winnow -/

@[simp] theorem winnowFault_time (d kind unit link slot source page : Nat) (m : Dev) :
    (winnowFault d kind unit link slot source page m).time = m.time := by simp [winnowFault]

@[simp] theorem tableMismatch_time (d unit link slot source page : Nat) (m : Dev) :
    (tableMismatch d unit link slot source page m).time = m.time := by simp -implicitDefEqProofs [tableMismatch]

@[simp] theorem expandCauses_time (d unit link slot source page : Nat) (e : ExpandEnd) (m : Dev) :
    (expandCauses d unit link slot source page e m).time = m.time := by
  unfold expandCauses
  split <;> simp -implicitDefEqProofs

@[simp] theorem expandBlock_time (d link source : Nat) (block : List Byte) (m : Dev) :
    (expandBlock d link source block m).m.time = m.time := by
  simp only [expandBlock]
  (repeat' split) <;> simp -implicitDefEqProofs

/-! ### Router -/

@[simp] theorem setLink_time (l : Nat) (x : LinkDyn) (m : Dev) : (setLink l x m).time = m.time := rfl

@[simp] theorem setState_time (l n : Nat) (m : Dev) : (setState l n m).time = m.time := rfl

@[simp] theorem setLanes_time (l n : Nat) (m : Dev) : (setLanes l n m).time = m.time := rfl

@[simp] theorem sendRecord_time (l ctype : Nat) (body : List Byte) (m : Dev) : (sendRecord l ctype body m).time = m.time :=
  rfl

@[simp] theorem sendCredit_time (l : Nat) (m : Dev) : (sendCredit l m).time = m.time := rfl

@[simp] theorem sendIdent_time (l verdict : Nat) (m : Dev) : (sendIdent l verdict m).time = m.time := rfl

@[simp] theorem linkFault_time (kind l : Nat) (m : Dev) : (linkFault kind l m).time = m.time := by simp [linkFault]

@[simp] theorem startPacket_time (l : Nat) (p : Packet) (m : Dev) : (startPacket l p m).time = m.time := by
  simp [startPacket]

theorem nextByWeight_time {fuel l : Nat} {q : QueuedPkt} {m n : Dev} (h : nextByWeight fuel l m = some (q, n)) :
    n.time = m.time := by
  induction fuel generalizing m with
  | zero => cases h
  | succ fuel ih =>
    simp only [nextByWeight] at h
    split at h
    · simpa using ih h
    · split at h
      · cases h
        simp
      · simpa using ih h

theorem nextPacket_time {l : Nat} {q : QueuedPkt} {m n : Dev} (h : nextPacket l m = some (q, n)) : n.time = m.time := by
  unfold nextPacket at h
  split at h
  · cases h
    rfl
  · exact nextByWeight_time (Option.ite_none_right_eq_some.1 h).2

@[simp] theorem drainSteps_time (fuel l : Nat) (m : Dev) : (drainSteps fuel l m).time = m.time := by
  induction fuel generalizing m with
  | zero => rfl
  | succ fuel ih =>
    unfold drainSteps
    split
    · rfl
    next h => simp [ih, nextPacket_time h]

@[simp] theorem drainQueue_time (l : Nat) (m : Dev) : (drainQueue l m).time = m.time := by simp [drainQueue]

@[simp] theorem offerPacket_time (l : Nat) (q : QueuedPkt) (m : Dev) : (offerPacket l q m).time = m.time := by
  simp [offerPacket]

@[simp] theorem unreachable_time (d : Nat) (p : Packet) (m : Dev) : (unreachable d p m).time = m.time := by
  simp [unreachable]

@[simp] theorem leaveBy_time (d port : Nat) (detour : Bool) (p : Packet) (m : Dev) :
    (leaveBy d port detour p m).time = m.time := by
  unfold leaveBy
  split <;> simp

@[simp] theorem leaveNetwork_time (link : Option Nat) (p : Packet) (m : Dev) : (leaveNetwork link p m).time = m.time := by
  unfold leaveNetwork
  split <;> simp

@[simp] theorem packetRoute_time (d : Nat) (link : Option Nat) (p : Packet) (m : Dev) :
    (packetRoute d link p m).time = m.time := by simp [packetRoute]

@[simp] theorem requeue_time (l : Nat) (qs : List QueuedPkt) (m : Dev) : (requeue l qs m).time = m.time := by simp [requeue]

@[simp] theorem linkFalls_time (l st : Nat) (m : Dev) : (linkFalls l st m).time = m.time := by simp [linkFalls]

@[simp] theorem downCauses_time (l : Nat) (m : Dev) : (downCauses l m).time = m.time := by simp [downCauses]

@[simp] theorem linkGoesDown_time (l : Nat) (m : Dev) : (linkGoesDown l m).time = m.time := by simp [linkGoesDown]

@[simp] theorem linkDownEvent_time (l : Nat) (why : LinkLoss) (m : Dev) : (linkDownEvent l why m).time = m.time := by
  unfold linkDownEvent
  split <;> simp

@[simp] theorem trainingStart_time (l : Nat) (m : Dev) : (trainingStart l m).time = m.time := by simp [trainingStart]

@[simp] theorem freshLink_time (l : Nat) (m : Dev) : (freshLink l m).time = m.time := rfl

@[simp] theorem trainingDone_time (l lanes : Nat) (peerFec : Bool) (m : Dev) :
    (trainingDone l lanes peerFec m).time = m.time := by simp [trainingDone]

@[simp] theorem identEnd_time (l fault : Nat) (r : IdentRecord) (m : Dev) : (identEnd l fault r m).time = m.time := by
  simp [identEnd]

@[simp] theorem identReceived_time (l : Nat) (r : IdentRecord) (m : Dev) : (identReceived l r m).time = m.time := by
  simp -implicitDefEqProofs [identReceived]

@[simp] theorem sendLane_time (l lanes step : Nat) (m : Dev) : (sendLane l lanes step m).time = m.time := rfl

@[simp] theorem dropLane_time (l lane : Nat) (m : Dev) : (dropLane l lane m).time = m.time := by simp [dropLane]

@[simp] theorem laneLoss_time (l lane : Nat) (m : Dev) : (laneLoss l lane m).time = m.time := by simp [laneLoss]

@[simp] theorem laneHandshake_time (l mask step : Nat) (m : Dev) : (laneHandshake l mask step m).time = m.time := by
  simp [laneHandshake]

@[simp] theorem laneRecalibrate_time (l lane : Nat) (m : Dev) : (laneRecalibrate l lane m).time = m.time := by
  simp [laneRecalibrate]

@[simp] theorem laneRecalEnd_time (l : Nat) (ok : Bool) (m : Dev) : (laneRecalEnd l ok m).time = m.time := by
  unfold laneRecalEnd
  split <;> simp

@[simp] theorem linkRetrain_time (l : Nat) (m : Dev) : (linkRetrain l m).time = m.time := by simp [linkRetrain]

@[simp] theorem takeOutEnd_time (l : Nat) (m : Dev) : (takeOutEnd l m).time = m.time := by simp [takeOutEnd]

@[simp] theorem linkTakeOut_time (l : Nat) (m : Dev) : (linkTakeOut l m).time = m.time := by simp [linkTakeOut]

@[simp] theorem takeAck_time (l : Nat) (ack : BitVec 12) (m : Dev) : (takeAck l ack m).time = m.time := by simp [takeAck]

@[simp] theorem retryCounted_time (l run : Nat) (m : Dev) : (retryCounted l run m).time = m.time := by simp [retryCounted]

@[simp] theorem flitDiscard_time (l : Nat) (f : Flit) (m : Dev) : (flitDiscard l f m).time = m.time := by simp [flitDiscard]

@[simp] theorem flitTake_time (l : Nat) (f : Flit) (m : Dev) : (flitTake l f m).time = m.time := by simp [flitTake]

@[simp] theorem codewordCounted_time (l : Nat) (c : FlitCheck) (m : Dev) : (codewordCounted l c m).time = m.time := by
  unfold codewordCounted
  split <;> simp

@[simp] theorem sequencedFlit_time (l : Nat) (c : FlitCheck) (f : Flit) (m : Dev) :
    (sequencedFlit l c f m).time = m.time := by simp [sequencedFlit]

@[simp] theorem retryReceived_time (l : Nat) (seq : BitVec 12) (m : Dev) : (retryReceived l seq m).time = m.time := by
  simp -implicitDefEqProofs [retryReceived]

@[simp] theorem creditReceived_time (l : Nat) (freed : List (BitVec 32)) (m : Dev) :
    (creditReceived l freed m).time = m.time := by simp [creditReceived]

/-! ### RingCore -/

@[simp] theorem ringWr_time (q k : Nat) (v : Word) (m : Dev) : (ringWr q k v m).time = m.time := by
  unfold ringWr
  split
  · exact forEach_time fun _ _ => rfl
  · rfl

@[simp] theorem setFetch_time (q n : Nat) (m : Dev) : (setFetch q n m).time = m.time := by simp [setFetch]

@[simp] theorem setRerun_time (q n : Nat) (m : Dev) : (setRerun q n m).time = m.time := by simp [setRerun]

@[simp] theorem setHead_time (q n : Nat) (m : Dev) : (setHead q n m).time = m.time := by simp [setHead]

@[simp] theorem fetchEntry_time (q : Nat) (m : Dev) : (fetchEntry q m).m.time = m.time := by
  unfold fetchEntry
  refine (foldl_keeps (fun r : ReadRes => r.m.time) fun r ag => ?_).trans (readVia_time _ _ _ _)
  split <;> simp

@[simp] theorem setDyn_time (q : Nat) (x : RingDyn) (m : Dev) : (setDyn q x m).time = m.time := rfl

@[simp] theorem setEngDyn_time (e : Nat) (x : EngineDyn) (m : Dev) : (setEngDyn e x m).time = m.time := rfl

@[simp] theorem undoPages_time (moving popped : List (Nat × Nat)) (m : Dev) :
    (undoPages moving popped m).time = m.time := by simp -implicitDefEqProofs [undoPages]

@[simp] theorem clearTileAcc_time (t : Nat) (m : Dev) : (clearTileAcc t m).time = m.time := rfl

@[simp] theorem cancelWork_time (q : Nat) (m : Dev) : (cancelWork q m).time = m.time := rfl

@[simp] theorem killRaw_time (q : Nat) (m : Dev) : (killRaw q m).time = m.time := by simp -implicitDefEqProofs [killRaw]

@[simp] theorem stopWaiting_time (q : Nat) (m : Dev) : (stopWaiting q m).time = m.time := by simp [stopWaiting]

@[simp] theorem haltMarks_time (q reason : Nat) (w : Word) (m : Dev) : (haltMarks q reason w m).time = m.time := by
  simp -implicitDefEqProofs [haltMarks]

@[simp] theorem haltRaw_time (q reason : Nat) (m : Dev) : (haltRaw q reason m).time = m.time := by simp [haltRaw]

/-! ### Drone -/

@[simp] theorem setAttempt_time (g a : Nat) (m : Dev) : (setAttempt g a m).time = m.time := rfl

@[simp] theorem putColl_time (c : Coll) (m : Dev) : (putColl c m).time = m.time := rfl

@[simp] theorem dropColl_time (c : Coll) (m : Dev) : (dropColl c m).time = m.time := rfl

@[simp] theorem droneFault_time (kind die ctx group job peer seq fpLocal fpRemote : Nat) (m : Dev) :
    (droneFault kind die ctx group job peer seq fpLocal fpRemote m).time = m.time := by
  simp -implicitDefEqProofs [droneFault]

@[simp] theorem collSend_time (c : Coll) (typ die coord lane phase : Nat) (payload : List Byte) (m : Dev) :
    (collSend c typ die coord lane phase payload m).time = m.time := by simp [collSend]

@[simp] theorem answerChunk_time (mkind : Nat) (p : Packet) (m : Dev) : (answerChunk mkind p m).time = m.time := by
  simp [answerChunk]

@[simp] theorem sendAborts_time (c : Coll) (reason : Nat) (m : Dev) : (sendAborts c reason m).time = m.time := by
  unfold sendAborts
  split <;> simp

@[simp] theorem abortOne_time (c : Coll) (m : Dev) : (abortOne c m).time = m.time := by simp [abortOne]

@[simp] theorem abortKeys_time (fuel : Nat) (ks : List AbortKey) (m : Dev) : (abortKeys fuel ks m).time = m.time := by
  induction fuel generalizing ks m with
  | zero => simp [abortKeys]
  | succ fuel ih =>
    cases ks with
    | nil => rfl
    | cons k rest =>
      simp only [abortKeys, ih]
      simp -implicitDefEqProofs

@[simp] theorem abortHere_time (k : AbortKey) (m : Dev) : (abortHere k m).time = m.time := by simp [abortHere]

@[simp] theorem abortCause_time (reason die : Nat) (c : Coll) (peer fpRemote : Nat) (m : Dev) :
    (abortCause reason die c peer fpRemote m).time = m.time := by
  unfold abortCause
  split <;> simp

@[simp] theorem abortDetected_time (reason die : Nat) (c : Coll) (peer fpRemote : Nat) (m : Dev) :
    (abortDetected reason die c peer fpRemote m).time = m.time := by simp [abortDetected]

@[simp] theorem haltRing_time (q reason : Nat) (m : Dev) : (haltRing q reason m).time = m.time := by simp [haltRing]

@[simp] theorem killRing_time (q : Nat) (m : Dev) : (killRing q m).time = m.time := by simp [killRing]

@[simp] theorem creditBack_time (coord : Nat) (arg : BitVec 64) (direct : Bool) (m : Dev) :
    (creditBack coord arg direct m).time = m.time :=
  rfl

@[simp] theorem sendOutgoing_time (c : Coll) (l : LaneSt) (g : Grp) (o : Outgoing) (m : Dev) :
    (sendOutgoing c l g o m).time = m.time := by simp -implicitDefEqProofs [sendOutgoing]

@[simp] theorem flushQueue_time (c : Coll) (l : LaneSt) (g : Grp) (os : List Outgoing) (m : Dev) :
    (flushQueue c l g os m).2.time = m.time := by
  induction os generalizing m with
  | nil => rfl
  | cons o rest ih =>
    unfold flushQueue
    split <;> simp [ih]

@[simp] theorem finishLane_time (c : Coll) (g : Grp) (l : LaneSt) (m : Dev) : (finishLane c g l m).2.1.time = m.time := by
  simp [finishLane]

@[simp] theorem laneEnd_time (c : Coll) (g : Grp) (l : LaneSt) (n : Nat) (m : Dev) :
    (laneEnd c g l n m).m.time = m.time := by simp [laneEnd]

@[simp] theorem takeEarly_time (c : Coll) (g : Grp) (l : LaneSt) (m : Dev) : (takeEarly c g l m).2.time = m.time := by
  simp [takeEarly]

@[simp] theorem laneTurn_time (c : Coll) (g : Grp) (l : LaneSt) (m : Dev) : (laneTurn c g l m).m.time = m.time := by
  simp -implicitDefEqProofs [laneTurn]

@[simp] theorem laneRun_time (fuel : Nat) (c : Coll) (g : Grp) (l : LaneSt) (m : Dev) :
    (laneRun fuel c g l m).m.time = m.time := by
  induction fuel generalizing l m with
  | zero => rfl
  | succ fuel ih => simp [laneRun, ih]

@[simp] theorem collStopped_time (s : SendStop) (c : Coll) (m : Dev) : (collStopped s c m).time = m.time := by
  simp [collStopped]

@[simp] theorem advanceLane_time (c : Coll) (k : Nat) (m : Dev) : (advanceLane c k m).time = m.time := by
  simp only [advanceLane]
  (repeat' split) <;> simp -implicitDefEqProofs

@[simp] theorem writeRunLists_time (d : Nat) (records : List (List Byte)) (r : Run) :
    (writeRunLists d records r).m.time = r.m.time := by simp [writeRunLists]

@[simp] theorem putRx_time (r : RouteRx) (m : Dev) : (putRx r m).time = m.time := rfl

@[simp] theorem hostFault_time (kind d : Nat) (c : Coll) (rr : List Byte) (source : Nat) (m : Dev) :
    (hostFault kind d c rr source m).time = m.time := by simp [hostFault]

@[simp] theorem placeRow_time (c : Coll) (l : LaneSt) (j : Nat) (chunk : List Byte) (p : Packet) (m : Dev) :
    (placeRow c l j chunk p m).time = m.time := by
  unfold placeRow
  split <;> simp -implicitDefEqProofs

@[simp] theorem hostComplete_time (c : Coll) (g : Grp) (l : LaneSt) (m : Dev) : (hostComplete c g l m).time = m.time := by
  unfold hostComplete
  split
  · simp -implicitDefEqProofs
  · split <;> simp -implicitDefEqProofs

@[simp] theorem holdPacket_time (p : Packet) (m : Dev) : (holdPacket p m).time = m.time := rfl

@[simp] theorem discardPacket_time (p : Packet) (m : Dev) : (discardPacket p m).time = m.time := by simp [discardPacket]

@[simp] theorem phaseChunk_time (c : Coll) (g : Grp) (l : LaneSt) (j : Nat) (p : Packet) (m : Dev) :
    (phaseChunk c g l j p m).time = m.time := by simp [phaseChunk]

@[simp] theorem combineChunk_time (c : Coll) (l : LaneSt) (j : Nat) (p : Packet) (m : Dev) :
    (combineChunk c l j p m).time = m.time := by simp [combineChunk]

@[simp] theorem dispatchPiece_time (c : Coll) (g : Grp) (l : LaneSt) (j : Nat) (p : Packet) (m : Dev) :
    (dispatchPiece c g l j p m).time = m.time := by
  simp only [dispatchPiece]
  (repeat' split) <;> simp -implicitDefEqProofs

@[simp] theorem endMarker_time (c : Coll) (g : Grp) (l : LaneSt) (j n : Nat) (m : Dev) :
    (endMarker c g l j n m).time = m.time := by simp [endMarker]

@[simp] theorem collPacket_time (c : Coll) (g : Grp) (l : LaneSt) (j : Nat) (residueOk : Bool) (p : Packet) (m : Dev) :
    (collPacket c g l j residueOk p m).time = m.time := by
  simp only [collPacket]
  (repeat' split) <;> simp -implicitDefEqProofs

@[simp] theorem namedPacket_time (c : Coll) (residueOk : Bool) (p : Packet) (m : Dev) :
    (namedPacket c residueOk p m).time = m.time := by
  simp only [namedPacket]
  (repeat' split) <;> simp -implicitDefEqProofs

@[simp] theorem collArrive_time (residueOk : Bool) (p : Packet) (m : Dev) : (collArrive residueOk p m).time = m.time := by
  unfold collArrive
  split <;> simp

@[simp] theorem answerArrive_time (p : Packet) (direct : Bool) (m : Dev) : (answerArrive p direct m).time = m.time := by
  simp only [answerArrive]
  split <;> simp -implicitDefEqProofs

@[simp] theorem sackArrive_time (p : Packet) (m : Dev) : (sackArrive p m).time = m.time := rfl

@[simp] theorem signalFails_time (s : SignalSt) (peer : Nat) (m : Dev) : (signalFails s peer m).time = m.time := by
  simp [signalFails]

@[simp] theorem chunkRx_time (residueOk : Bool) (p : Packet) (m : Dev) : (chunkRx residueOk p m).time = m.time := by
  simp [chunkRx]

@[simp] theorem markerRx_time (p : Packet) (m : Dev) : (markerRx p m).time = m.time := by
  simp only [markerRx]
  (repeat' split) <;> simp -implicitDefEqProofs

@[simp] theorem addTomb_time (k : AbortKey) (m : Dev) : (addTomb k m).time = m.time := by simp [addTomb]

@[simp] theorem abortRx_time (p : Packet) (m : Dev) : (abortRx p m).time = m.time := by simp [abortRx]

@[simp] theorem laneInput_time (ctx : Nat) (d : CollDesc) (g : Grp) (t : Nat) (r : Run) :
    (laneInput ctx d g t r).1.m.time = r.m.time := by simp [laneInput]

@[simp] theorem bindHeld_time (c : Coll) (p : Packet) (m : Dev) : (bindHeld c p m).time = m.time := by simp [bindHeld]

@[simp] theorem bindLane_time (c : Coll) (l : LaneSt) (m : Dev) : (bindLane c l m).time = m.time := by simp [bindLane]

@[simp] theorem collectiveBind_time (q lane : Nat) (m : Dev) : (collectiveBind q lane m).time = m.time := by
  simp only [collectiveBind]
  (repeat' split) <;> simp -implicitDefEqProofs

@[simp] theorem collectiveComplete_time (q : Nat) (m : Dev) : (collectiveComplete q m).time = m.time := by
  unfold collectiveComplete
  split <;> simp

@[simp] theorem collWatchdog_time (c : Coll) (m : Dev) : (collWatchdog c m).time = m.time := by simp [collWatchdog]

@[simp] theorem droneWatchdog_time (q : Nat) (ctx : Option Nat) (m : Dev) : (droneWatchdog q ctx m).time = m.time := by
  simp only [droneWatchdog]
  (repeat' split) <;> simp -implicitDefEqProofs

@[simp] theorem signalReceive_time (p : Packet) (m : Dev) : (signalReceive p m).time = m.time := by simp [signalReceive]

/-! ### Fabric -/

@[simp] theorem fabricFault_time (kind die coord status typ : Nat) (arg : BitVec 64) (m : Dev) :
    (fabricFault kind die coord status typ arg m).time = m.time := by simp [fabricFault]

@[simp] theorem accessFailed_time (die coord status typ : Nat) (arg : BitVec 64) (m : Dev) :
    (accessFailed die coord status typ arg m).time = m.time := by simp [accessFailed]

@[simp] theorem dropLines_time (die coord a n : Nat) (m : Dev) : (dropLines die coord a n m).time = m.time := by
  simp [dropLines]

@[simp] theorem cacheInvalidate_time (m : Dev) : (cacheInvalidate m).time = m.time := rfl

@[simp] theorem cacheRoom_time (die : Nat) (m : Dev) : (cacheRoom die m).time = m.time := by simp [cacheRoom]

@[simp] theorem cacheLine_time (die job line : Nat) (data : List Byte) (m : Dev) :
    (cacheLine die job line data m).time = m.time := by simp [cacheLine]

@[simp] theorem cacheFill_time (die job coord a : Nat) (data : List Byte) (m : Dev) :
    (cacheFill die job coord a data m).time = m.time := by simp [cacheFill]

@[simp] theorem newTag_time (m : Dev) : (newTag m).2.time = m.time := rfl

@[simp] theorem nextSeq_time (die coord : Nat) (m : Dev) : (nextSeq die coord m).2.time = m.time := rfl

@[simp] theorem linkPayload_time (d : Draft) (slot : Nat) (prot : Bool) (m : Dev) :
    (linkPayload d slot prot m).2.time = m.time := by
  simp only [linkPayload]
  (repeat' split) <;> simp -implicitDefEqProofs

@[simp] theorem issue_time (d : Draft) (w : Waiter) (pre : List Byte) (src : Option Nat) (m : Dev) :
    (issue d w pre src m).time = m.time := by simp [issue]

@[simp] theorem dropRequests_time (f : Waiter → Bool) (m : Dev) : (dropRequests f m).time = m.time := rfl

@[simp] theorem dropReq_time (r : Request) (m : Dev) : (dropReq r m).time = m.time := rfl

@[simp] theorem evictRead_time (die page status : Nat) (m : Dev) : (evictRead die page status m).time = m.time := by
  simp [evictRead]

@[simp] theorem pageAnswered_time (die a n status : Nat) (data : List Byte) (m : Dev) :
    (pageAnswered die a n status data m).time = m.time := by
  unfold pageAnswered
  split <;> simp

@[simp] theorem failWaiter_time (w : Waiter) (m : Dev) : (failWaiter w m).time = m.time := by
  unfold failWaiter
  split
  · simp -implicitDefEqProofs
  · split <;> simp -implicitDefEqProofs

@[simp] theorem requestFails_time (r : Request) (m : Dev) : (requestFails r m).time = m.time := by
  unfold requestFails
  split <;> simp

@[simp] theorem newChunk_time (m : Dev) : (newChunk m).2.time = m.time := rfl

@[simp] theorem sendAfter_time (l : Later) (m : Dev) : (sendAfter l m).time = m.time := rfl

@[simp] theorem sendPage_time (d job : Nat) (w : Waiter) (q range p frame cls : Nat) (data : List Byte) (m : Dev) :
    (sendPage d job w q range p frame cls data m).time = m.time := by simp -implicitDefEqProofs [sendPage]

@[simp] theorem sendPeers_time (w : Waiter) (q job : Nat) (m : Dev) : (sendPeers w q job m).time = m.time := by
  simp -implicitDefEqProofs [sendPeers]

@[simp] theorem laterReq_time (l : Later) (m : Dev) : (laterReq l m).2.time = m.time := by simp [laterReq]

@[simp] theorem sendLater_time (l : Later) (m : Dev) : (sendLater l m).time = m.time := by
  unfold sendLater
  split <;> simp

@[simp] theorem pump_time (fuel : Nat) (m : Dev) : (pump fuel m).time = m.time := by
  induction fuel generalizing m with
  | zero => rfl
  | succ fuel ih =>
    unfold pump
    split
    · rfl
    · simp [ih]

@[simp] theorem askRead_time (w : Waiter) (die coord a n job : Nat) (m : Dev) :
    (askRead w die coord a n job m).time = m.time := by
  unfold askRead
  split <;> simp

@[simp] theorem askPiece_time (job : Nat) (x : PeerPiece) (m : Dev) : (askPiece job x m).time = m.time := by
  simp only [askPiece]
  (repeat' split) <;> simp -implicitDefEqProofs

@[simp] theorem askPeers_time (job : Nat) (m : Dev) : (askPeers job m).time = m.time := by simp [askPeers]

@[simp] theorem pumpAll_time (m : Dev) : (pumpAll m).time = m.time := by simp [pumpAll]

@[simp] theorem sendLent_time (q : Nat) (m : Dev) : (sendLent q m).time = m.time := by simp [sendLent]

@[simp] theorem dropLentWrites_time (m : Dev) : (dropLentWrites m).time = m.time := rfl

@[simp] theorem heldBy_time (job : Nat) (new old : Dev) : (heldBy job new old).time = old.time := by
  simp -implicitDefEqProofs [heldBy]

@[simp] theorem keepTable_time (session member part : Nat) (data : List Byte) (m : Dev) :
    (keepTable session member part data m).time = m.time :=
  rfl

@[simp] theorem askTable_time (n session member coord job : Nat) (x : Nat × Nat × Nat) (m : Dev) :
    (askTable n session member coord job x m).time = m.time := by
  induction n generalizing x m with
  | zero => simp [askTable]
  | succ n ih =>
    unfold askTable
    split
    · simp
    · exact (forEach_time fun _ _ => ih _ _).trans (keepTable_time _ _ _ _ _)

@[simp] theorem tableAnswered_time (session member part coord a job : Nat) (data : List Byte) (m : Dev) :
    (tableAnswered session member part coord a job data m).time = m.time := by simp [tableAnswered]

@[simp] theorem respond_time (p : Packet) (typ status : Nat) (data : List Byte) (bad : Bool) (m : Dev) :
    (respond p typ status data bad m).time = m.time := by
  unfold respond
  split <;> simp

@[simp] theorem protectedRefusal_time (d a : Nat) (m : Dev) : (protectedRefusal d a m).time = m.time := by
  unfold protectedRefusal
  split <;> simp

@[simp] theorem serveRead_time (p : Packet) (m : Dev) : (serveRead p m).time = m.time := by
  simp only [serveRead]
  (repeat' split) <;> simp -implicitDefEqProofs

@[simp] theorem poisonAt_time (a n : Nat) (m : Dev) : (poisonAt a n m).time = m.time := by
  refine forEach_time fun x m => ?_
  split
  · split <;> simp
  · simp

@[simp] theorem remoteWrite_time (d a : Nat) (data : List Byte) (bad : Bool) (m : Dev) :
    (remoteWrite d a data bad m).2.time = m.time := by simp [remoteWrite]

@[simp] theorem serveWrite_time (p : Packet) (m : Dev) : (serveWrite p m).time = m.time := by simp [serveWrite]

@[simp] theorem replayPut_time (p : Packet) (status old : Nat) (m : Dev) : (replayPut p status old m).time = m.time := by
  simp [replayPut]

@[simp] theorem staleAnswer_time (p : Packet) (m : Dev) : (staleAnswer p m).time = m.time := by simp [staleAnswer]

@[simp] theorem atomicApply_time (ag : Agent) (target op size operand compare : Nat) (m : Dev) :
    (atomicApply ag target op size operand compare m).m.time = m.time := by
  simp only [atomicApply]
  (repeat' split) <;> simp -implicitDefEqProofs

@[simp] theorem serveAtomicNew_time (p : Packet) (m : Dev) : (serveAtomicNew p m).m.time = m.time := by
  simp [serveAtomicNew]

@[simp] theorem answerAtomic_time (p : Packet) (status old : Nat) (m : Dev) :
    (answerAtomic p status old m).time = m.time := by simp [answerAtomic]

@[simp] theorem serveAtomic_time (p : Packet) (m : Dev) : (serveAtomic p m).time = m.time := by
  simp only [serveAtomic]
  (repeat' split) <;> simp -implicitDefEqProofs

@[simp] theorem setChunk_time (p : Packet) (c : ChunkRx) (m : Dev) : (setChunk p c m).time = m.time := rfl

@[simp] theorem commitChunk_time (c : ChunkRx) (p : Packet) (m : Dev) : (commitChunk c p m).time = m.time := by
  simp [commitChunk]

@[simp] theorem copyBytes_time (p : Packet) (m : Dev) : (copyBytes p m).2.time = m.time := by simp [copyBytes]

@[simp] theorem chunkSettle_time (p : Packet) (m : Dev) : (chunkSettle p m).time = m.time := by
  simp only [chunkSettle]
  split <;> simp -implicitDefEqProofs

@[simp] theorem chunkFails_time (p : Packet) (m : Dev) : (chunkFails p m).time = m.time := by simp [chunkFails]

@[simp] theorem serveCopyNew_time (p : Packet) (m : Dev) : (serveCopyNew p m).time = m.time := by simp [serveCopyNew]

@[simp] theorem serveCopy_time (p : Packet) (m : Dev) : (serveCopy p m).time = m.time := by
  simp only [serveCopy]
  (repeat' split) <;> simp -implicitDefEqProofs

@[simp] theorem writeResult_time (tile result old : Nat) (m : Dev) : (writeResult tile result old m).time = m.time := by
  simp [writeResult]

@[simp] theorem requestRefused_time (r : Request) (status : Nat) (m : Dev) : (requestRefused r status m).time = m.time := by
  unfold requestRefused
  split <;> simp

@[simp] theorem requestDone_time (r : Request) (status old : Nat) (m : Dev) :
    (requestDone r status old m).time = m.time := by
  unfold requestDone
  split
  · simp -implicitDefEqProofs
  · split <;> simp -implicitDefEqProofs

@[simp] theorem completionRx_time (p : Packet) (m : Dev) : (completionRx p m).time = m.time := by
  unfold completionRx
  split <;> simp

@[simp] theorem atomicCompletion_time (q status old : Nat) (m : Dev) : (atomicCompletion q status old m).time = m.time := by
  unfold atomicCompletion
  split <;> simp

@[simp] theorem readDone_time (r : Request) (status : Nat) (data : List Byte) (m : Dev) :
    (readDone r status data m).time = m.time := by
  unfold readDone
  split <;> simp

@[simp] theorem readDataRx_time (p : Packet) (m : Dev) : (readDataRx p m).time = m.time := by
  unfold readDataRx
  split <;> simp

@[simp] theorem fabricTimeout_time (die tag : Nat) (m : Dev) : (fabricTimeout die tag m).time = m.time := by
  unfold fabricTimeout
  split <;> simp

@[simp] theorem unask_time (p : Packet) (m : Dev) : (unask p m).time = m.time := rfl

@[simp] theorem retryFail_time (d link : Nat) (p : Packet) (m : Dev) : (retryFail d link p m).time = m.time := by
  simp [retryFail]

@[simp] theorem askResend_time (p : Packet) (m : Dev) : (askResend p m).time = m.time := by
  simp only [askResend]
  split <;> simp -implicitDefEqProofs

@[simp] theorem handUp_time (p : Packet) (m : Dev) : (handUp p m).time = m.time := rfl

@[simp] theorem stageBad_time (p : Packet) (x : Expanded) (m : Dev) : (stageBad p x m).time = m.time := by
  simp [stageBad]

@[simp] theorem deliverGood_time (link : Nat) (p : Packet) (m : Dev) : (deliverGood link p m).time = m.time := by
  simp -implicitDefEqProofs [deliverGood]

@[simp] theorem resendLost_time (d link : Nat) (p : Packet) (m : Dev) : (resendLost d link p m).time = m.time := by
  simp [resendLost]

@[simp] theorem packetDeliver_time (check : PacketCheck) (p : Packet) (m0 : Dev) :
    (packetDeliver check p m0).time = m0.time := by simp [packetDeliver]

@[simp] theorem nackRx_time (p : Packet) (m : Dev) : (nackRx p m).time = m.time := by
  simp only [nackRx]
  (repeat' split) <;> simp -implicitDefEqProofs

@[simp] theorem resendFrom_time (r : Request) (a : Nat) (m : Dev) : (resendFrom r a m).time = m.time := by
  simp only [resendFrom]
  split <;> simp -implicitDefEqProofs

@[simp] theorem linkResend_time (p : Packet) (m : Dev) : (linkResend p m).time = m.time := by
  simp only [linkResend]
  (repeat' split) <;> simp -implicitDefEqProofs

@[simp] theorem failRequest_time (p : Packet) (m : Dev) : (failRequest p m).time = m.time := by simp [failRequest]

@[simp] theorem failHeld_time (page : Nat) (m : Dev) : (failHeld page m).time = m.time := by simp [failHeld]

@[simp] theorem serveSignal_time (p : Packet) (m : Dev) : (serveSignal p m).time = m.time := by simp [serveSignal]

/-! ### Kv -/

@[simp] theorem setKvHdr_time (n off v : Nat) (m : Dev) : (setKvHdr n off v m).time = m.time := rfl

theorem popStack_time {stack freeOff : Nat} {m : Dev} {r : Nat × Dev} (h : popStack stack freeOff m = some r) :
    r.2.time = m.time := by
  unfold popStack at h
  obtain ⟨_, h⟩ := Option.ite_none_left_eq_some.1 h
  cases h
  simp

@[simp] theorem pushStack_time (stack freeOff v : Nat) (m : Dev) : (pushStack stack freeOff v m).time = m.time := by
  simp [pushStack]

@[simp] theorem pushUnit_time (k u : Nat) (m : Dev) : (pushUnit k u m).time = m.time := by simp [pushUnit]

@[simp] theorem pushRidge_time (k r : Nat) (m : Dev) : (pushRidge k r m).time = m.time := by simp [pushRidge]

@[simp] theorem pushBlock_time (b : Nat) (m : Dev) : (pushBlock b m).time = m.time := by simp [pushBlock]

@[simp] theorem setRec_time (s n off v : Nat) (m : Dev) : (setRec s n off v m).time = m.time := rfl

@[simp] theorem setPageEntry_time (s j v : Nat) (m : Dev) : (setPageEntry s j v m).time = m.time := rfl

@[simp] theorem takeUnit_time (k P j first : Nat) (m : Dev) : (takeUnit k P j first m).2.time = m.time := by
  unfold takeUnit
  split
  · cases h : popUnit k m with
    | none => rfl
    | some r => exact popStack_time (r := r) h
  · split
    · split
      next r h => exact popStack_time (r := r) h
      · rfl
    · rfl

@[simp] theorem giveUnit_time (k P j u : Nat) (m : Dev) : (giveUnit k P j u m).time = m.time := by simp [giveUnit]

@[simp] theorem allocPage_time (s j : Nat) (m : Dev) : (allocPage s j m).time = m.time := by
  simp only [allocPage, setRec_time, setPageEntry_time, takeUnit_time]
  split
  · split
    next h => simpa using popStack_time h
    · rfl
  · rfl

@[simp] theorem allocPages_time (s n : Nat) (m : Dev) : (allocPages s n m).time = m.time := by simp [allocPages]

@[simp] theorem freePageUnit_time (s j : Nat) (m : Dev) : (freePageUnit s j m).time = m.time := by simp [freePageUnit]

@[simp] theorem releasePage_time (s j : Nat) (m : Dev) : (releasePage s j m).time = m.time := by simp [releasePage]

@[simp] theorem releaseFrom_time (s c : Nat) (m : Dev) : (releaseFrom s c m).time = m.time := by simp [releaseFrom]

@[simp] theorem setCopyUnits_time (s : Nat) (us : List Nat) (m : Dev) : (setCopyUnits s us m).time = m.time := rfl

@[simp] theorem takeUnits_time (k P n : Nat) (m : Dev) : (takeUnits k P n m).2.time = m.time :=
  foldl_keeps (fun r : List Nat × Dev => r.2.time) fun _ _ => takeUnit_time _ _ _ _ _

@[simp] theorem copyPage_time (P fromPool fromUnit toPool toUnit : Nat) (m : Dev) :
    (copyPage P fromPool fromUnit toPool toUnit m).time = m.time := by simp [copyPage]

theorem startCopy_time {s : Nat} {restore : Bool} {m n : Dev} (h : startCopy s restore m = some n) : n.time = m.time := by
  unfold startCopy at h
  obtain ⟨_, h⟩ := Option.ite_none_left_eq_some.1 h
  rw [← Option.some.inj h, setCopyUnits_time, forEach_time fun _ _ => copyPage_time .., takeUnits_time]

@[simp] theorem dropCopy_time (s k : Nat) (m : Dev) : (dropCopy s k m).time = m.time := by simp [dropCopy]

@[simp] theorem pauseMap_time (s : Nat) (m : Dev) : (pauseMap s m).time = m.time := by simp [pauseMap]

@[simp] theorem restoreMap_time (s : Nat) (m : Dev) : (restoreMap s m).time = m.time := by simp [restoreMap]

@[simp] theorem markCommitted_time (s len : Nat) (m : Dev) : (markCommitted s len m).time = m.time := by
  simp -implicitDefEqProofs [markCommitted]

@[simp] theorem reportTo_time (coord ref : Nat) (m : Dev) : (reportTo coord ref m).time = m.time := by simp [reportTo]

@[simp] theorem applyEntry_time (b : List Byte) (m : Dev) : (applyEntry b m).time = m.time := by
  unfold applyEntry
  extract_lets op s arg0 arg1 lead
  have hreport {restore : Bool} {n : Dev} (h : startCopy s restore m = some n) :
      (reportTo lead (bitsAt arg1 0 16) n).time = m.time := (reportTo_time ..).trans (startCopy_time h)
  split
  · exact raise_time ..
  · split
    · split
      · exact stBytes_time ..
      · rfl
    · split
      · rfl
      · split
        · exact (markCommitted_time ..).trans (setRec_time ..)
        · split
          · exact allocPages_time ..
          · split
            · split
              next h => exact hreport h
              · exact raise_time ..
            · split
              · exact pauseMap_time ..
              · split
                · exact dropCopy_time ..
                · split
                  · split
                    next h => exact hreport h
                    · exact raise_time ..
                  · split
                    · exact restoreMap_time ..
                    · exact (stZeros_time ..).trans ((releaseFrom_time ..).trans (dropCopy_time ..))

@[simp] theorem applyCommitRecord_time (bytes : List Byte) (m : Dev) : (applyCommitRecord bytes m).time = m.time := by
  simp [applyCommitRecord]

/-! ### Piccolo -/

@[simp] theorem baseRows_time (t ce rank set : Nat) (p : Product) (addr : Nat → Nat) (off : Nat) (rows : List Nat)
    (r : Run) :
    (baseRows t ce rank set p addr off rows r).m.time = r.m.time := by simp [baseRows]

@[simp] theorem readHeader_time (t off : Nat) (r : Run) : (readHeader t off r).1.m.time = r.m.time := by simp [readHeader]

@[simp] theorem readRuns_time (t off : Nat) (r : Run) : (readRuns t off r).1.m.time = r.m.time := by simp [readRuns]

@[simp] theorem readFactor_time (t a site : Nat) (r : Run) : (readFactor t a site r).1.m.time = r.m.time := by
  simp [readFactor]

@[simp] theorem adapterFault_time (t site : Nat) (f : Factor) (run : RunOf) (m : Dev) :
    (adapterFault t site f run m).time = m.time := by simp [adapterFault]

@[simp] theorem Run.fail_time (r : Run) : (Run.fail r).m.time = r.m.time := rfl

@[simp] theorem countPasses_time (t n : Nat) (m : Dev) : (countPasses t n m).time = m.time := by
  simp -implicitDefEqProofs [countPasses]

@[simp] theorem countAdapted_time (t n : Nat) (m : Dev) : (countAdapted t n m).time = m.time := by
  simp -implicitDefEqProofs [countAdapted]

@[simp] theorem deltasOf_time (t site : Nat) (runs : List RunOf) (r : Run) :
    (deltasOf t site runs r).1.m.time = r.m.time := by simp [deltasOf]

@[simp] theorem aPasses_time (t ce : Nat) (p : Product) (addr : Nat → Nat) (h : SlotGroup) (ds : List Delta)
    (cols : List (Nat × Factor × Nat)) (r : Run) : (aPasses t ce p addr h ds cols r).m.time = r.m.time := by
  unfold aPasses
  extract_lets other listed bytes as ws r1 r2
  have has : as.1.m.time = r.m.time := by simp [as]
  have hws : ws.1.m.time = r.m.time := by simp [ws, has]
  refine (Run.each_time fun c r => Run.each_time fun d r => Run.each_time fun row r => ?_).trans (by simp [r2, r1, hws])
  simp

@[simp] theorem bPass_time (t ce rank : Nat) (p : Product) (h : SlotGroup) (d : Delta) (r : Run) :
    (bPass t ce rank p h d r).m.time = r.m.time := by simp [bPass]

@[simp] theorem basePasses_time (t ce rank rows g : Nat) (p : Product) (h : SlotGroup) (ds : List Delta) (r : Run) :
    (basePasses t ce rank rows g p h ds r).m.time = r.m.time := by simp [basePasses]

@[simp] theorem adaptGroup_time (t ce rank rows g : Nat) (p : Product) (h : SlotGroup) (runs : List RunOf) (r : Run) :
    (adaptGroup t ce rank rows g p h runs r).1.m.time = r.m.time := by simp [adaptGroup]

@[simp] theorem runProduct_time {t ce rank rows : Nat} {p : Product} {header : Option Nat} {drain : Nat → List Nat → Run → Run}
    {r : Run} (hd : ∀ s ks r, (drain s ks r).m.time = r.m.time) :
    (runProduct t ce rank rows p header drain r).m.time = r.m.time := by
  simp only [runProduct]
  split
  · refine Run.each_time fun g r => ?_
    split <;> simp [hd]
  · split
    · simp
    · refine (Run.each_time fun g r => ?_).trans (by simp)
      split
      · rfl
      · split <;> simp [hd]

/-! ### Chanter -/

@[simp] theorem takeUp_time (q : Nat) (m : Dev) : (takeUp q m).time = m.time := rfl

@[simp] theorem runOut_time (e q : Nat) (m : Dev) : (runOut e q m).time = m.time := rfl

@[simp] theorem withdrawReady_time (q : Nat) (m : Dev) : (withdrawReady q m).time = m.time := by
  simp -implicitDefEqProofs [withdrawReady]

@[simp] theorem openGroup_time (q : Nat) (m : Dev) : (openGroup q m).time = m.time := by simp [openGroup]

@[simp] theorem Run.done_time (r : Run) : (Run.done r).m.time = r.m.time := rfl

@[simp] theorem finishWith_time (q : Nat) (e : List Byte) (z : Bool) (m : Dev) : (finishWith q e z m).time = m.time := by
  simp [finishWith]

@[simp] theorem finishCommand_time (q : Nat) (e : List Byte) (m : Dev) : (finishCommand q e m).time = m.time := by
  simp [finishCommand]

@[simp] theorem haltRefused_time (q : Nat) (m : Dev) : (haltRefused q m).time = m.time := by simp [haltRefused]

@[simp] theorem holdFor_time (q job : Nat) (new old : Dev) : (holdFor q job new old).time = old.time := by
  simp -implicitDefEqProofs [holdFor]

@[simp] theorem holdBack_time (q : Nat) (new old : Dev) : (holdBack q new old).time = old.time := by
  simp [holdBack]

@[simp] theorem runCommand_time {q op : Nat} {ok : List Byte → Dev → Bool} {body : List Byte → Dev → Done} {m : Dev}
    (hb : ∀ e m, (body e m).m.time = m.time) : (runCommand q op ok body m).time = m.time := by
  simp [runCommand, hb]

@[simp] theorem eachRank_time {q : Nat} {e : List Byte} {f : Nat → Nat → Run → Run} {m : Dev}
    (hf : ∀ k t r, (f k t r).m.time = r.m.time) : (eachRank q e f m).m.time = m.time := by
  refine foldl_run_time fun r x => ?_
  split
  · exact hf _ _ _
  · rfl

@[simp] theorem waitStart_time (q : Nat) (m : Dev) : (waitStart q m).time = m.time := by simp [waitStart]

@[simp] theorem waitComplete_time (q : Nat) (m : Dev) : (waitComplete q m).time = m.time := by
  simp only [waitComplete]
  split <;> simp -implicitDefEqProofs

@[simp] theorem waitTimeout_time (q : Nat) (m : Dev) : (waitTimeout q m).time = m.time := by simp [waitTimeout]

@[simp] theorem fenceStart_time (q : Nat) (m : Dev) : (fenceStart q m).time = m.time := by simp [fenceStart]

@[simp] theorem fenceComplete_time (q : Nat) (m : Dev) : (fenceComplete q m).time = m.time := by
  unfold fenceComplete
  split <;> simp

@[simp] theorem signalTo_time (q die : Nat) (e data : List Byte) (coord : Nat) (s : SignalSt) (m : Dev) :
    (signalTo q die e data coord s m).2.time = m.time := by simp [signalTo]

@[simp] theorem signalFrom_time (q t : Nat) (e : List Byte) (m : Dev) : (signalFrom q t e m).m.time = m.time := by
  simp only [signalFrom]
  split
  · simp
  · split
    · rfl
    · split
      · simp
      · split
        · simp
        · split
          · simp
          · rw [setDyn_time]
            exact (foldl_keeps (fun x : SignalSt × Dev => x.2.time) fun x i => signalTo_time _ _ _ _ _ _ _).trans (by simp)

@[simp] theorem signalBody_time (q : Nat) (e : List Byte) (m : Dev) : (signalBody q e m).m.time = m.time := by
  refine foldl_keeps (fun d : Done => d.m.time) fun d x => ?_
  split <;> simp

@[simp] theorem actFlip_time (q t w : Nat) (m : Dev) : (actFlip q t w m).m.time = m.time := by
  simp only [actFlip]
  split
  next h => simp [flipRun_time h]
  · simp

theorem Done.time_mk {n : Dev} {k : Nat} {t : Word} (h : n.time = t) : (Done.mk n k).m.time = t := h

@[simp] theorem actAdvance_time (t w : Nat) (m : Dev) : (actAdvance t w m).m.time = m.time := by
  rw [actAdvance]
  split
  · have hr := readVia_time (actAgent t) (tl t (8 * bitsAt w 28 22)) 8 m
    simp only
    split
    · exact Done.time_mk hr
    · split
      · exact Done.time_mk hr
      · split
        · exact Done.time_mk ((readVia_time ..).trans hr)
        · exact Done.time_mk ((writeVia_time ..).trans ((readVia_time ..).trans hr))
  · simp only
    split
    · exact Done.time_mk (readVia_time ..)
    · exact Done.time_mk ((writeVia_time ..).trans (readVia_time ..))

@[simp] theorem actCounter_time (w : Nat) (m : Dev) : (actCounter w m).m.time = m.time := by simp [actCounter]

@[simp] theorem actUpdate_time (t w : Nat) (m : Dev) : (actUpdate t w m).m.time = m.time := by
  rw [actUpdate]
  have hr := readVia_time (actAgent t) (tl t (16 * bitsAt w 0 21)) 24 m
  split
  · exact Done.time_mk hr
  · split
    · exact Done.time_mk hr
    · split
      · split
        · exact Done.time_mk ((poisonMet_time ..).trans hr)
        · exact Done.time_mk ((writeVia_time ..).trans hr)
      · exact Done.time_mk ((refuseRegion_time ..).trans hr)
      · exact Done.time_mk ((refuseMap_time ..).trans hr)
      · exact Done.time_mk hr
      · exact Done.time_mk hr

/-- The module that a result leaves stands at a given local time. -/
def Done.At (t : Word) (d : Done) : Prop := d.m.time = t

/-- The module that an atomic act leaves stands at a given local time. -/
def AtomicRes.At (t : Word) (x : AtomicRes) : Prop := x.m.time = t

theorem Done.at_mk {n : Dev} {k : Nat} {t : Word} (h : n.time = t) : Done.At t ⟨n, k⟩ := h

theorem atomicTaken_at {c : Prop} [Decidable c] (ag : Agent) (a op size x y : Nat) {n : Dev} {t : Word} (h : n.time = t) :
    AtomicRes.At t (if c then ⟨n, 1, 0⟩ else atomicApply ag a op size x y n) := by
  split
  · exact h
  · exact (atomicApply_time ..).trans h

theorem atomicAnswered_at {die coord t result : Nat} {x : AtomicRes} {w : Word} (h : AtomicRes.At w x) :
    Done.At w (if x.status = 99 then (⟨x.m, 99⟩ : Done)
      else if x.status ≠ 0 then ⟨accessFailed die coord x.status ptATOMIC 0 x.m, 5⟩
      else ⟨writeResult t result x.old x.m, 0⟩) := by
  split
  · exact h
  · split
    · exact Done.at_mk ((accessFailed_time ..).trans h)
    · exact Done.at_mk ((writeResult_time ..).trans h)

theorem actAtomic_at (q t w : Nat) (m : Dev) : Done.At m.time (actAtomic q t w m) := by
  rw [actAtomic]
  have hr := readVia_time (actAgent t) (tl t (16 * bitsAt w 0 21)) 32 m
  split
  · exact Done.at_mk hr
  · split
    · exact Done.at_mk ((refuseRegion_time ..).trans hr)
    · split
      · exact Done.at_mk ((accessFailed_time ..).trans hr)
      · exact atomicAnswered_at (atomicTaken_at _ _ _ _ _ _ hr)
      · split
        · exact Done.at_mk ((sendStopped_time ..).trans hr)
        · split
          · exact Done.at_mk rfl
          · exact Done.at_mk ((issue_time ..).trans ((newTag_time ..).trans ((nextSeq_time ..).trans hr)))

@[simp] theorem actAtomic_time (q t w : Nat) (m : Dev) : (actAtomic q t w m).m.time = m.time := actAtomic_at q t w m

@[simp] theorem commitAct_time (q t w : Nat) (m : Dev) : (commitAct q t w m).m.time = m.time := by
  unfold commitAct
  split <;> simp

@[simp] theorem advanceSeq_time (q g : Nat) (m : Dev) : (advanceSeq q g m).time = m.time := by
  simp -implicitDefEqProofs [advanceSeq]

@[simp] theorem commitDone_time (q : Nat) (m : Dev) : (commitDone q m).time = m.time := by simp [commitDone]

@[simp] theorem groupCommitAct_time (q : Nat) (m : Dev) : (groupCommitAct q m).time = m.time := by
  simp only [groupCommitAct]
  split <;> simp -implicitDefEqProofs

@[simp] theorem groupKill_time (q : Nat) (m : Dev) : (groupKill q m).time = m.time := by simp [groupKill]

@[simp] theorem expressPreempt_time (e : Nat) (m : Dev) : (expressPreempt e m).time = m.time := by
  unfold expressPreempt
  split <;> simp

@[simp] theorem preemptWaitExpiry_time (e : Nat) (m : Dev) : (preemptWaitExpiry e m).time = m.time := by
  unfold preemptWaitExpiry
  split <;> simp

@[simp] theorem quantumExpiry_time (e : Nat) (m : Dev) : (quantumExpiry e m).time = m.time := by
  unfold quantumExpiry
  split <;> simp

@[simp] theorem overlongSeen_time (q : Nat) (m : Dev) : (overlongSeen q m).time = m.time := by
  simp -implicitDefEqProofs [overlongSeen]

@[simp] theorem hardLimitExpiry_time (q : Nat) (m : Dev) : (hardLimitExpiry q m).time = m.time := by simp [hardLimitExpiry]

@[simp] theorem ringHeadWrite_time (q head : Nat) (m : Dev) : (ringHeadWrite q head m).time = m.time := by
  simp [ringHeadWrite]

@[simp] theorem clearHalt_time (q : Nat) (m : Dev) : (clearHalt q m).time = m.time := by simp [clearHalt]

@[simp] theorem dropKept_time (q : Nat) (m : Dev) : (dropKept q m).time = m.time := rfl

@[simp] theorem ringResume_time (q : Nat) (m : Dev) : (ringResume q m).time = m.time := by simp [ringResume]

@[simp] theorem ringDiscard_time (q : Nat) (m : Dev) : (ringDiscard q m).time = m.time := by simp [ringDiscard]

@[simp] theorem ringHaltAction_time (q : Nat) (m : Dev) : (ringHaltAction q m).time = m.time := by simp [ringHaltAction]

@[simp] theorem arrivalWrite_time (d c value inc : Nat) (m : Dev) : (arrivalWrite d c value inc m).time = m.time := by
  simp -implicitDefEqProofs [arrivalWrite]

/-! ### Gemm -/

@[simp] theorem auxRegion_time (t aux : Nat) (r : Run) : (auxRegion t aux r).m.time = r.m.time := by
  simp -implicitDefEqProofs [auxRegion]

@[simp] theorem gemmDrain_time (t ce : Nat) (e : List Byte) (p : Product) (set : Nat) (rows : List Nat) (r : Run) :
    (gemmDrain t ce e p set rows r).m.time = r.m.time := by simp [gemmDrain]

@[simp] theorem gemmTile_time (q : Nat) (e : List Byte) (rank t : Nat) (r : Run) :
    (gemmTile q e rank t r).m.time = r.m.time := by simp [gemmTile]

@[simp] theorem noteAdapt_time (q : Nat) (e : List Byte) (m : Dev) : (noteAdapt q e m).time = m.time := by simp [noteAdapt]

@[simp] theorem gemmBody_time (q : Nat) (e : List Byte) (m : Dev) : (gemmBody q e m).m.time = m.time := by simp [gemmBody]

@[simp] theorem gemmRun_time (q : Nat) (m : Dev) : (gemmRun q m).time = m.time := by simp [gemmRun]

@[simp] theorem fusedDrain_time (t ce : Nat) (e : List Byte) (p : Product) (set : Nat) (rows : List Nat) (r : Run) :
    (fusedDrain t ce e p set rows r).m.time = r.m.time := by simp [fusedDrain]

@[simp] theorem fusedProduct_time (q : Nat) (e : List Byte) (rank t : Nat) (r : Run) :
    (fusedProduct q e rank t r).m.time = r.m.time := by simp [fusedProduct]

@[simp] theorem combineQueue_time (q : Nat) (e : List Byte) (d : CollDesc) (g : Grp) (t : Nat) (r : Run) :
    (combineQueue q e d g t r).1.m.time = r.m.time := by simp [combineQueue]

@[simp] theorem fusedLane_time (q : Nat) (e : List Byte) (d : CollDesc) (g : Grp) (rank t : Nat) (r : Run) :
    (fusedLane q e d g rank t r).1.m.time = r.m.time := by simp [fusedLane]

@[simp] theorem startColl_time (q ctx group : Nat) (d : CollDesc) (prot : Bool) (lanes : List LaneSt) (m : Dev) :
    (startColl q ctx group d prot lanes m).time = m.time :=
  rfl

@[simp] theorem groupInvalid_time (q die ctx group : Nat) (m : Dev) : (groupInvalid q die ctx group m).time = m.time := by
  simp [groupInvalid]

@[simp] theorem fusedBody_time (q : Nat) (e : List Byte) (m : Dev) : (fusedBody q e m).m.time = m.time := by
  unfold fusedBody
  split <;> simp

@[simp] theorem fusedRun_time (q : Nat) (m : Dev) : (fusedRun q m).time = m.time := by simp [fusedRun]

@[simp] theorem normInput_time (t : Nat) (e : List Byte) (row : Nat) (r : Run) :
    (normInput t e row r).1.m.time = r.m.time := by simp [normInput]

@[simp] theorem exitRow_time (t : Nat) (e : List Byte) (row : Nat) (xs : List F32) (r : Run) :
    (exitRow t e row xs r).m.time = r.m.time := by simp [exitRow]

@[simp] theorem normRow_time (t : Nat) (e : List Byte) (gamma : List F32) (x : Run × List (Nat × List F32)) (row : Nat) :
    (normRow t e gamma x row).1.m.time = x.1.m.time := by simp [normRow]

@[simp] theorem stageWatch_time (q : Nat) (ws : List WatchItem) (m : Dev) : (stageWatch q ws m).time = m.time := rfl

@[simp] theorem normTile_time (q : Nat) (e : List Byte) (_rank t : Nat) (r : Run) :
    (normTile q e _rank t r).m.time = r.m.time := by simp [normTile]

@[simp] theorem normBody_time (q : Nat) (e : List Byte) (m : Dev) : (normBody q e m).m.time = m.time := by simp [normBody]

@[simp] theorem normRun_time (q : Nat) (m : Dev) : (normRun q m).time = m.time := by simp [normRun]

/-! ### Attend -/

@[simp] theorem viewDir_time (d : Nat) (m : Dev) : (viewDir d m).time = m.time := rfl

@[simp] theorem readSlots_time (ag : Agent) (t off n : Nat) (r : Run) : (readSlots ag t off n r).1.m.time = r.m.time := by
  simp [readSlots]

@[simp] theorem readKeys_time (t s l P len lo hi : Nat) (r : Run) : (readKeys t s l P len lo hi r).1.m.time = r.m.time := by
  unfold readKeys
  refine foldl_fst_time fun x j => ?_
  split
  · rfl
  · refine foldl_fst_time fun y tok => ?_
    exact (foldl_fst_time fun w pl => by simp).trans rfl

@[simp] theorem keyX_time (t : Nat) (e : List Byte) (h : BiasHdr) (head qp : Nat) (qe qs : List Byte) (k : KvTok)
    (r : Run) :
    (keyX t e h head qp qe qs k r).1.m.time = r.m.time := by simp [keyX]

@[simp] theorem attendPart_time (t : Nat) (e : List Byte) (h : BiasHdr) (sl : Slot) (len row head i : Nat)
    (keys : List KvTok) (r : Run) :
    (attendPart t e h sl len row head i keys r).1.m.time = r.m.time := by simp [attendPart]

@[simp] theorem attendOut_time (t : Nat) (e : List Byte) (row i : Nat) (xs : List F32) (r : Run) :
    (attendOut t e row i xs r).m.time = r.m.time := by simp [attendOut]

@[simp] theorem exitedBefore_time (ag : Agent) (t layer row : Nat) (r : Run) :
    (exitedBefore ag t layer row r).1.m.time = r.m.time := by simp [exitedBefore]

@[simp] theorem readBias_time (e : List Byte) (ts : List (Nat × Nat)) (r : Run) :
    (readBias e ts r).1.m.time = r.m.time := by simp [readBias]

@[simp] theorem attendSlot_time (e : List Byte) (hs : List BiasHdr) (ts : List (Nat × Nat)) (sl : Slot) (r : Run) :
    (attendSlot e hs ts sl r).m.time = r.m.time := by
  unfold attendSlot
  extract_lets home v live len P top n R ks
  have hks : ks.1.m.time = r.m.time := by
    simp only [ks]
    split
    · exact (foldl_fst_time fun x tk => by simp).trans rfl
    · rfl
  refine (Run.each_time fun rr r => ?_).trans hks
  simp only
  refine (Run.each_time fun i r => ?_).trans (exitedBefore_time _ _ _ _ _)
  split
  · simp
  · rw [attendOut_time]
    exact (foldl_fst_time fun x tk => by simp).trans rfl

@[simp] theorem attendBody_time (q : Nat) (e : List Byte) (m : Dev) : (attendBody q e m).m.time = m.time := by
  simp only [attendBody]
  split <;> simp -implicitDefEqProofs

@[simp] theorem attendRun_time (q : Nat) (m : Dev) : (attendRun q m).time = m.time := by simp [attendRun]

@[simp] theorem drillFault_time (d kind s pos : Nat) (m : Dev) : (drillFault d kind s pos m).time = m.time := by
  simp [drillFault]

@[simp] theorem appendRow_time (d t : Nat) (e : List Byte) (s P pos n : Nat) (r : Run) :
    (appendRow d t e s P pos n r).m.time = r.m.time := by
  unfold appendRow
  split <;> simp

@[simp] theorem appendSlot_time (d t : Nat) (e : List Byte) (n : Nat) (sl : Slot) (x : Run × Nat) :
    (appendSlot d t e n sl x).1.m.time = x.1.m.time := by
  simp only [appendSlot]
  (repeat' split) <;> simp -implicitDefEqProofs

@[simp] theorem appendBody_time (q : Nat) (e : List Byte) (m : Dev) : (appendBody q e m).m.time = m.time := by
  have hslots (d t : Nat) (ls : List Slot) (y : (Run × Nat) × Nat) :
      (ls.foldl (fun y sl => (appendSlot d t e y.2 sl y.1, y.2 + sl.rows)) y).1.1.m.time = y.1.1.m.time :=
    foldl_keeps (fun y : (Run × Nat) × Nat => y.1.1.m.time) fun y sl => appendSlot_time _ _ _ _ _ _
  simp only [appendBody]
  split
  · rfl
  · split
    · rfl
    · split
      · simp
      · split <;> simp [hslots]

@[simp] theorem appendRun_time (q : Nat) (m : Dev) : (appendRun q m).time = m.time := by simp [appendRun]

/-! ### Route -/

@[simp] theorem writeGates_time (ag : Agent) (t gates topK n : Nat) (gs : List F32) (r : Run) :
    (writeGates ag t gates topK n gs r).m.time = r.m.time := by simp [writeGates]

theorem RouteWork.time_mk {r : Run} {cs : List (Nat × List Byte)} {a : Bool} {t : Word} (h : r.m.time = t) :
    (RouteWork.mk r cs a).r.m.time = t := h

@[simp] theorem routeRow_time (d t : Nat) (e : List Byte) (h : MapHdr) (g : Grp) (slots : List Slot) (ws : List (List Byte))
    (n : Nat) (x : RouteWork) : (routeRow d t e h g slots ws n x).r.m.time = x.r.m.time := by
  rw [routeRow]
  split
  · refine (foldl_keeps (fun y : RouteWork => y.r.m.time) fun y c => ?_).trans (RouteWork.time_mk ?_)
    · simp only
      split <;> exact RouteWork.time_mk (Run.read_time ..)
    · rw [writeGates_time, Run.eff_time, when_time, raise_time, ite_self, Run.read_time, Run.read_time]
  · exact RouteWork.time_mk ((writeGates_time ..).trans (Run.read_time ..))

@[simp] theorem routeBody_time (q : Nat) (e : List Byte) (m : Dev) : (routeBody q e m).m.time = m.time := by
  have hrows (d t : Nat) (h : MapHdr) (g : Grp) (slots : List Slot) (ws : List (List Byte)) (ns : List Nat) (x : RouteWork) :
      (ns.foldl (fun y n => routeRow d t e h g slots ws n y) x).r.m.time = x.r.m.time :=
    foldl_keeps (fun y : RouteWork => y.r.m.time) fun y n => routeRow_time ..
  unfold routeBody
  split
  · rfl
  · extract_lets t d ag group hd h rows sl ws
    split
    · simp
    · split
      · simp
      · extract_lets x out prot
        have hhd : hd.1.m.time = m.time := by simp [hd]
        have hsl : sl.1.m.time = m.time := by simp [sl, hhd]
        have hws : ws.1.m.time = m.time := by simp [ws, hsl]
        have hx : x.r.m.time = m.time := (hrows ..).trans hws
        split
        · exact hws
        · split
          · exact hx
          · split
            · exact hx
            · exact (startColl_time ..).trans hx

@[simp] theorem routeRun_time (q : Nat) (m : Dev) : (routeRun q m).time = m.time := by simp [routeRun]

/-! ### Gleaner -/

@[simp] theorem gleanerFault_time (d kind table row : Nat) (m : Dev) : (gleanerFault d kind table row m).time = m.time := by
  unfold gleanerFault
  split <;> simp

@[simp] theorem registryEntry_time (hd id : Nat) (r : Run) : (registryEntry hd id r).1.m.time = r.m.time := by
  simp [registryEntry]

@[simp] theorem homeTable_time (id : Nat) (r : Run) : (homeTable id r).1.m.time = r.m.time := by
  unfold homeTable
  split <;> simp

@[simp] theorem notHome_time (die id : Nat) (m : Dev) : (notHome die id m).time = m.time := by simp [notHome]

@[simp] theorem serveRow_time (far : Bool) (die id row : Nat) (m : Dev) : (serveRow far die id row m).m.time = m.time := by
  simp only [serveRow]
  (repeat' split) <;> simp -implicitDefEqProofs

@[simp] theorem askRow_time (g : GatherSt) (k die coord id row : Nat) (m : Dev) :
    (askRow g k die coord id row m).time = m.time :=
  rfl

@[simp] theorem finishGather_time (g : GatherSt) (m : Dev) : (finishGather g m).m.time = m.time := by simp [finishGather]

@[simp] theorem requestRow_time (t : Desc) (s : GatherSt × Dev × Nat) (x : Nat × Nat) :
    (requestRow t s x).2.1.time = s.2.1.time := by
  simp only [requestRow]
  (repeat' split) <;> simp -implicitDefEqProofs

@[simp] theorem requestRows_time (g : GatherSt) (t : Desc) (asks : List Nat) (m : Dev) :
    (requestRows g t asks m).2.1.time = m.time := by
  simp only [requestRows, ite_time, pumpAll_time, ite_self]
  exact foldl_keeps (fun s : GatherSt × Dev × Nat => s.2.1.time) fun s x => requestRow_time t s x

@[simp] theorem stageRecord_time (die : Nat) (s : StagedRec) (m : Dev) : (stageRecord die s m).2.time = m.time := by
  simp only [stageRecord]
  (repeat' split) <;> simp -implicitDefEqProofs

@[simp] theorem sendStaged_time (q die : Nat) (t : Desc) (row : Nat) (s : StagedRec) (m : Dev) :
    (sendStaged q die t row s m).m.time = m.time := by
  unfold sendStaged
  split
  · simp -implicitDefEqProofs
  · split <;> simp -implicitDefEqProofs

@[simp] theorem gatherUpdate_time (q t : Nat) (e : List Byte) (desc : Desc) (rows : List Nat) (ws : List F32) (r : Run) :
    (gatherUpdate q t e desc rows ws r).m.time = r.m.time := by
  unfold gatherUpdate
  refine foldl_keeps (fun b : Done => b.m.time) fun b x => ?_
  split
  · rfl
  · simp only
    split <;> simp

@[simp] theorem gatherScan_time (q t : Nat) (e : List Byte) (desc : Desc) (ends rows : List Nat) (ws : List F32) (m : Dev) :
    (gatherScan q t e desc ends rows ws m).2.1.time = m.time := by simp -implicitDefEqProofs [gatherScan]

@[simp] theorem gatherRead_time (q t : Nat) (e : List Byte) (desc : Desc) (ends rows : List Nat) (ws : List F32) (m : Dev) :
    (gatherRead q t e desc ends rows ws m).m.time = m.time := by simp [gatherRead]

@[simp] theorem gatherBad_time (q t : Nat) (e : List Byte) (desc : Desc) (ends rows : List Nat) (ws : List F32)
    (f : Nat × Nat × Nat) (m : Dev) :
    (gatherBad q t e desc ends rows ws f m).m.time = m.time := by simp [gatherBad]

@[simp] theorem gatherBody_time (q : Nat) (e : List Byte) (m : Dev) : (gatherBody q e m).m.time = m.time := by
  unfold gatherBody
  split
  · rfl
  · extract_lets count t ag de desc il wl mode bl raw rows ws ends
    have hde : de.1.m.time = m.time := by simp [de]
    have hil : il.1.m.time = m.time := by simp [il, hde]
    have hwl : wl.1.m.time = m.time := by simp [wl, hil]
    have hbl : bl.1.m.time = m.time := by simp [bl, hwl]
    split
    · simp [hde]
    · split
      · rfl
      · split
        · simp [hbl]
        · split <;> simp [hbl]

@[simp] theorem gatherRun_time (q : Nat) (m : Dev) : (gatherRun q m).time = m.time := by simp [gatherRun]

@[simp] theorem rowRequest_time (p : Packet) (m : Dev) : (rowRequest p m).time = m.time := by simp [rowRequest]

@[simp] theorem rowIn_time (q id k : Nat) (b : List Byte) {m old : Dev} (h : old.time = m.time) :
    (rowIn q id k b m old).time = m.time := by
  simp only [rowIn]
  split
  · rfl
  · split
    · split <;> simp [h]
    · rfl

@[simp] theorem rowResponse_time (p : Packet) (m : Dev) : (rowResponse p m).time = m.time := by
  unfold rowResponse
  split
  · simp -implicitDefEqProofs
  · split <;> simp -implicitDefEqProofs

@[simp] theorem updateRecord_time (p : Packet) (m : Dev) : (updateRecord p m).time = m.time := by simp [updateRecord]

@[simp] theorem putCopy_time (hd : Nat) (t : Desc) (c slot : Nat) (master : List Byte) (r : Run) :
    (putCopy hd t c slot master r).m.time = r.m.time := by simp [putCopy]

@[simp] theorem applyRow_time (hd : Nat) (t : Desc) (row : Nat) (rs : List StagedRec) (m : Dev) :
    (applyRow hd t row rs m).m.time = m.time := by simp [applyRow]

@[simp] theorem keepStaged_time (f : StagedRec → Bool) (m : Dev) : (keepStaged f m).time = m.time := rfl

@[simp] theorem applyRecords_time (hd stamp : Nat) (t : Desc) (id row : Nat) (m : Dev) :
    (applyRecords hd stamp t id row m).time = m.time := by simp [applyRecords]

@[simp] theorem applyTable_time (hd stamp : Nat) (t : Desc) (id : Nat) (m : Dev) :
    (applyTable hd stamp t id m).time = m.time := by simp [applyTable]

@[simp] theorem setMoves_time (id : Nat) (l : List Reclass) (m : Dev) : (setMoves id l m).time = m.time := rfl

@[simp] theorem pushSlot_time (hd desc : Nat) (t : Desc) (c slot : Nat) (r : Run) :
    (pushSlot hd desc t c slot r).m.time = r.m.time := by simp [pushSlot]

@[simp] theorem popSlot_time (hd desc : Nat) (t : Desc) (c : Nat) (r : Run) :
    (popSlot hd desc t c r).1.m.time = r.m.time := by simp [popSlot]

@[simp] theorem applyMove_time (hd desc : Nat) (t : Desc) (x : Reclass) (m : Dev) :
    (applyMove hd desc t x m).time = m.time := by simp -implicitDefEqProofs [applyMove]

@[simp] theorem decayHeat_time (hd : Nat) (t : Desc) (m : Dev) : (decayHeat hd t m).time = m.time := by simp [decayHeat]

@[simp] theorem sweepRow_time (hd desc : Nat) (t : Desc) (l : Nat) (x : Run × List Reclass × Bool) :
    (sweepRow hd desc t l x).1.m.time = x.1.m.time := by
  simp only [sweepRow]
  (repeat' split) <;> simp -implicitDefEqProofs

@[simp] theorem sweepTable_time (hd id desc : Nat) (t : Desc) (r : Run) : (sweepTable hd id desc t r).time = r.m.time := by
  simp [sweepTable]

@[simp] theorem startDue_time (hd id desc : Nat) (t : Desc) (m : Dev) : (startDue hd id desc t m).time = m.time := by
  simp [startDue]

@[simp] theorem applyMoves_time (hd id desc : Nat) (t : Desc) (m : Dev) : (applyMoves hd id desc t m).time = m.time := by
  simp [applyMoves]

@[simp] theorem forTable_time {hd stamp id : Nat} {f : Nat → Nat → Desc → Dev → Dev} {m : Dev}
    (hf : ∀ i d t m, (f i d t m).time = m.time) : (forTable hd stamp f id m).time = m.time := by
  simp only [forTable, ite_time, heldBy_time]
  split
  · rfl
  · split
    · simp
    · split <;> simp [hf]

@[simp] theorem applyOne_time (hd stamp id : Nat) (m : Dev) : (applyOne hd stamp id m).time = m.time := by simp [applyOne]

@[simp] theorem noteLate_time (stamp : Nat) (m : Dev) : (noteLate stamp m).time = m.time := rfl

@[simp] theorem gleanRetry_time (m : Dev) : (gleanRetry m).time = m.time := by
  unfold gleanRetry
  split
  · rfl
  · refine forEach_time fun s m => (noteLate_time _ _).trans (forEach_time fun i m => ?_)
    exact forTable_time fun _ _ _ _ => rfl

@[simp] theorem gleanApply_time (hd stamp : Nat) (m : Dev) : (gleanApply hd stamp m).time = m.time := by
  simp -implicitDefEqProofs [gleanApply]

@[simp] theorem gleanStep_time (s : Nat) (m : Dev) : (gleanStep s m).time = m.time := by
  simp only [gleanStep]
  split <;> simp -implicitDefEqProofs

@[simp] theorem gleanerApply_time (d : Nat) (m : Dev) : (gleanerApply d m).time = m.time := by simp [gleanerApply]

@[simp] theorem sweepDue_time (id : Nat) (m : Dev) : (sweepDue id m).time = m.time := rfl

@[simp] theorem gleanerSweep_time (id : Nat) (m : Dev) : (gleanerSweep id m).time = m.time := by
  simp only [gleanerSweep]
  (repeat' split) <;> simp -implicitDefEqProofs

/-! ### Mover -/

@[simp] theorem copyPiece_time (ag : Agent) (src dst n : Nat) (r : Run) : (copyPiece ag src dst n r).m.time = r.m.time := by
  simp [copyPiece]

@[simp] theorem protectedStop_time (d dst : Nat) (m : Dev) : (protectedStop d dst m).time = m.time := by
  simp [protectedStop]

@[simp] theorem copyPages_time (ag : Agent) (src dst : Nat → Nat) (n : Nat) (m : Dev) :
    (copyPages ag src dst n m).m.time = m.time := by simp [copyPages]

@[simp] theorem movePlain_time (d t : Nat) (e : List Byte) (m : Dev) : (movePlain d t e m).m.time = m.time := by
  simp [movePlain]

@[simp] theorem countBlocks_time (d : Nat) (bs : List (List Byte × Nat)) (m : Dev) :
    (countBlocks d bs m).time = m.time := by simp -implicitDefEqProofs [countBlocks]

@[simp] theorem compressPage_time (d t : Nat) (e : List Byte) (i : Nat) (r : Run) :
    (compressPage d t e i r).m.time = r.m.time := by simp [compressPage]

@[simp] theorem moveCompress_time (d t : Nat) (e : List Byte) (m : Dev) : (moveCompress d t e m).m.time = m.time := by
  simp [moveCompress]

@[simp] theorem readStored_time (d t : Nat) (e : List Byte) (i : Nat) (r : Run) :
    (readStored d t e i r).1.m.time = r.m.time := by simp [readStored]

@[simp] theorem expandJudge_time (d dst slot : Nat) (hdr data : List Byte) (m : Dev) :
    (expandJudge d dst slot hdr data m).2.2.time = m.time := by simp -implicitDefEqProofs [expandJudge]

@[simp] theorem expandFailed_time (d dst slot : Nat) (m : Dev) : (expandFailed d dst slot m).m.time = m.time := by
  simp [expandFailed]

@[simp] theorem expandRetry_time (d t : Nat) (e : List Byte) (i slot : Nat) (m : Dev) :
    (expandRetry d t e i slot m).m.time = m.time := by
  simp only [expandRetry]
  split <;> simp -implicitDefEqProofs

@[simp] theorem expandPage_time (d t : Nat) (e : List Byte) (i : Nat) (r : Run) :
    (expandPage d t e i r).m.time = r.m.time := by
  simp only [expandPage]
  split
  · simp
  · split
    · split <;> simp only [Run.write_time, Run.eff_time, poisonAt_time, tableMismatch_time, readStored_time]
    · split
      · simp
      · simp

@[simp] theorem moveExpand_time (d t : Nat) (e : List Byte) (m : Dev) : (moveExpand d t e m).m.time = m.time := by
  simp [moveExpand]

@[simp] theorem stagePage_time (range p : Nat) (e : Word) (place frame : Nat) (pin : Bool) (m : Dev) :
    (stagePage range p e place frame pin m).time = m.time :=
  rfl

theorem takeFrame_time {d k range p i : Nat} {m n : Dev} (h : takeFrame d k range p m = some (i, n)) : n.time = m.time := by
  unfold takeFrame at h
  split at h
  next hp =>
    cases h
    exact popFrame_time hp
  · obtain ⟨_, h⟩ := Option.ite_none_right_eq_some.1 h
    exact (popFrame_time h).trans (evictOne_time d k m)

theorem putFrame_time {d q job range p : Nat} {w : Waiter} {st : Word} {data : List Byte} {m n : Dev}
    (h : putFrame d q job w range p st data m = some n) : n.time = m.time := by
  unfold putFrame at h
  split at h
  · cases h
    rw [stData_time]
  · obtain ⟨_, h⟩ := Option.ite_none_right_eq_some.1 h
    cases h
    simp

@[simp] theorem migrateHome_time (d : Nat) (w : Waiter) (range p : Nat) (data : List Byte) (m : Dev) :
    (migrateHome d w range p data m).time = m.time := by simp [migrateHome]

@[simp] theorem migrateRead_time (d range p : Nat) (m : Dev) : (migrateRead d range p m).m.time = m.time := by
  simp [migrateRead]

@[simp] theorem migratePage_time (d q job : Nat) (w : Waiter) (range : Nat) (tg : Target) (pin : Bool) (p : Nat) (g : Mig) :
    (migratePage d q job w range tg pin p g).m.time = g.m.time := by
  simp only [migratePage]
  split
  · simp
  · split
    · simp
    · split
      · simp
      · split
        · split <;> simp -implicitDefEqProofs
        next k =>
          split
          · simp -implicitDefEqProofs
          · split
            · simp -implicitDefEqProofs
            next h => 
              have hm := takeFrame_time h
              simp -implicitDefEqProofs at hm
              split
              · simp [hm]
              · split
                next hp =>  simp [putFrame_time hp, hm]
                · simp [hm]

@[simp] theorem waitFrames_time (d q range p n k : Nat) (m : Dev) : (waitFrames d q range p n k m).time = m.time := rfl

@[simp] theorem migratePages_time (d q job : Nat) (w : Waiter) (range p n : Nat) (tg : Target) (pin : Bool) (m : Dev) :
    (migratePages d q job w range p n tg pin m).m.time = m.time := by
  have hfold (g : Mig) : ((List.range n).foldl
      (fun g i => if g.reason = 0 then migratePage d q job w range tg pin (p + i) g else g) g).m.time = g.m.time := by
    refine foldl_keeps (fun g : Mig => g.m.time) fun g i => ?_
    split
    · exact migratePage_time ..
    · rfl
  simp only [migratePages]
  split
  · simp [hfold]
  · split <;> simp [hfold]

@[simp] theorem moveMigrate_time (q d t : Nat) (e : List Byte) (m : Dev) : (moveMigrate q d t e m).m.time = m.time := by
  unfold moveMigrate
  split
  · split <;> simp -implicitDefEqProofs
  · simp -implicitDefEqProofs

@[simp] theorem moveBody_time (q : Nat) (e : List Byte) (m : Dev) : (moveBody q e m).m.time = m.time := by simp [moveBody]

@[simp] theorem moveCommand_time (q : Nat) (m : Dev) : (moveCommand q m).time = m.time := by simp [moveCommand]

@[simp] theorem copyLocal_time (d : Nat) (e : List Byte) (src dst : Nat) (m : Dev) :
    (copyLocal d e src dst m).m.time = m.time := by simp [copyLocal]

@[simp] theorem copyPacket_time (q d job coord : Nat) (e : List Byte) (src dst chunk : Nat) (prot : Bool)
    (x : Nat × Nat × Bool) (r : Run) :
    (copyPacket q d job coord e src dst chunk prot x r).m.time = r.m.time := by simp [copyPacket]

@[simp] theorem copyRemote_time (q d coord : Nat) (e : List Byte) (src dst : Nat) (m : Dev) :
    (copyRemote q d coord e src dst m).m.time = m.time := by simp [copyRemote]

@[simp] theorem copyBody_time (q : Nat) (e : List Byte) (m : Dev) : (copyBody q e m).m.time = m.time := by
  simp only [copyBody]
  (repeat' split) <;> simp -implicitDefEqProofs

@[simp] theorem copyCommand_time (q : Nat) (m : Dev) : (copyCommand q m).time = m.time := by simp [copyCommand]

@[simp] theorem jobState_time (n : Nat) (m : Dev) : (jobState n m).time = m.time := rfl

@[simp] theorem jobQueued_time (m : Dev) : (jobQueued m).time = m.time := rfl

@[simp] theorem startJob_time (m : Dev) : (startJob m).time = m.time := by
  unfold startJob
  split <;> simp

@[simp] theorem submitJob_time (counter : BitVec 16) (list : Nat) (m : Dev) : (submitJob counter list m).time = m.time := by
  simp [submitJob]

@[simp] theorem stopJob_time (m : Dev) : (stopJob m).time = m.time := by simp [stopJob]

@[simp] theorem bulkMigrate_time (range p n : Nat) (tg : Target) (pin : Bool) (m : Dev) :
    (bulkMigrate range p n tg pin m).m.time = m.time := by simp [bulkMigrate]

@[simp] theorem bulkWork_time (b : List Byte) (m : Dev) : (bulkWork b m).m.time = m.time := by
  simp only [bulkWork]
  (repeat' split) <;> simp

@[simp] theorem bulkAct_time (b : List Byte) (m : Dev) : (bulkAct b m).2.time = m.time := by
  simp only [bulkAct]
  split
  · rfl
  · split
    next h => simp [flipRun_time h]
    · simp

@[simp] theorem endJob_time (st : Nat) (m : Dev) : (endJob st m).time = m.time := by simp [endJob]

@[simp] theorem bulkFails_time (moving popped : List (Nat × Nat)) (m : Dev) :
    (bulkFails moving popped m).time = m.time := by simp [bulkFails]

@[simp] theorem bulkCommit_time (j : Job) (n i : Nat) (b : List Byte) (moving popped : List (Nat × Nat)) (m : Dev) :
    (bulkCommit j n i b moving popped m).time = m.time := by simp -implicitDefEqProofs [bulkCommit]

@[simp] theorem bulkSettle_time (j : Job) (n i : Nat) (b : List Byte) (held : List (Nat × Nat) × List (Nat × Nat))
    (m : Dev) :
    (bulkSettle j n i b held m).time = m.time := by simp [bulkSettle]

@[simp] theorem bulkBegin_time (j : Job) (n i : Nat) (b : List Byte) (m : Dev) : (bulkBegin j n i b m).time = m.time := by
  simp only [bulkBegin]
  split
  · simp
  · split <;> simp

@[simp] theorem bulkEntryCommit_time (o : EntryOutcome) (m : Dev) : (bulkEntryCommit o m).time = m.time := by
  unfold bulkEntryCommit
  split <;> simp

@[simp] theorem fillRead_time (die page : Nat) (ok : Bool) (m : Dev) : (fillRead die page ok m).time = m.time := by
  simp only [fillRead]
  split
  · rfl
  · split
    · rfl
    · split
      · simp
      · split
        next h => rw [putFrame_time h]
        · simp

@[simp] theorem waitFails_time (q : Nat) (m : Dev) : (waitFails q m).time = m.time := by simp [waitFails]

@[simp] theorem noFrameTimeout_time (page : Nat) (m : Dev) : (noFrameTimeout page m).time = m.time := by
  unfold noFrameTimeout
  split <;> simp

@[simp] theorem writeBackDone_time (die page : Nat) (ok : Bool) (m : Dev) :
    (writeBackDone die page ok m).time = m.time := by
  simp only [writeBackDone]
  (repeat' split) <;> simp -implicitDefEqProofs

@[simp] theorem moveRead_time (c : NvmeCmd) (w : Waiter) (ok : Bool) (m : Dev) : (moveRead c w ok m).time = m.time := by
  unfold moveRead
  split
  · simp
  · split
    next h => exact putFrame_time h
    · simp

@[simp] theorem nvmeEnd_time (c : NvmeCmd) (ok : Bool) (m : Dev) : (nvmeEnd c ok m).time = m.time := by
  unfold nvmeEnd
  split
  · simp -implicitDefEqProofs
  · split <;> simp -implicitDefEqProofs

@[simp] theorem nvmeCompletion_time (id : Nat) (st : NvmeStatus) (m : Dev) : (nvmeCompletion id st m).time = m.time := by
  unfold nvmeCompletion
  split <;> simp

@[simp] theorem nvmeTimeout_time (id : Nat) (m : Dev) : (nvmeTimeout id m).time = m.time := by
  unfold nvmeTimeout
  split <;> simp

@[simp] theorem fallowLoss_time (m : Dev) : (fallowLoss m).time = m.time := by simp -implicitDefEqProofs [fallowLoss]

@[simp] theorem dropDevice_time (port device : Nat) (m : Dev) : (dropDevice port device m).time = m.time := by
  simp [dropDevice]

/-! ### Network -/

@[simp] theorem forType_time {t : Nat} {p : Packet} {f : Packet → Dev → Dev} {m : Dev} (hf : ∀ p m, (f p m).time = m.time) :
    (forType t p f m).time = m.time := by
  simp [forType, hf]

@[simp] theorem serveTaken_time {f : Packet → Dev → Dev} {p : Packet} {m : Dev} (hf : ∀ p m, (f p m).time = m.time) :
    (serveTaken f p m).time = m.time := by
  simp [serveTaken, hf]

@[simp] theorem readDataTaken_time (p : Packet) (m : Dev) : (readDataTaken p m).time = m.time := by simp [readDataTaken]

@[simp] theorem routeEnd_time (p : Packet) (m : Dev) : (routeEnd p m).time = m.time := by simp [routeEnd]

/-! ### FieldPlan -/

@[simp] theorem setPlanState_time (n : Nat) (m : Dev) : (setPlanState n m).time = m.time := rfl

@[simp] theorem planResult_time (n : Nat) (m : Dev) : (planResult n m).time = m.time := rfl

@[simp] theorem planCounts_time (m : Dev) : (planCounts m).time = m.time := rfl

@[simp] theorem fplanFault_time (phase cause strip group target off : Nat) (m : Dev) :
    (fplanFault phase cause strip group target off m).time = m.time := by simp [fplanFault]

@[simp] theorem planFaults_time (phase cause strip group target off : Nat) (m : Dev) :
    (planFaults phase cause strip group target off m).time = m.time := by simp [planFaults]

@[simp] theorem setShadow_time (off : Nat) (x : Word × Word) (m : Dev) : (setShadow off x m).time = m.time := rfl

@[simp] theorem countStaged_time (m : Dev) : (countStaged m).time = m.time := by simp [countStaged]

@[simp] theorem stageBits_time (off : Nat) (value mask : Word) (m : Dev) : (stageBits off value mask m).time = m.time := by
  simp [stageBits]

@[simp] theorem stageWrite_time (off : Nat) (value mask : Word) (m : Dev) :
    (stageWrite off value mask m).time = m.time := by simp [stageWrite]

@[simp] theorem loadUcode_time (t : Nat) (img : List Byte) (m : Dev) : (loadUcode t img m).time = m.time := by
  simp -implicitDefEqProofs [loadUcode]

@[simp] theorem stageStrip_time (s : List Byte) (m : Dev) : (stageStrip s m).time = m.time := by
  unfold stageStrip
  split
  · refine forEach_time fun r m => ?_
    split <;> simp
  · split
    · simp
    · split <;> simp

@[simp] theorem fplanLoad_time (m : Dev) : (fplanLoad m).time = m.time := by simp [fplanLoad]

@[simp] theorem restState_time (m : Dev) : (restState m).time = m.time := rfl

@[simp] theorem extendM_time (digest : List Byte) (m : Dev) : (extendM digest m).time = m.time := by
  simp -implicitDefEqProofs [extendM]

@[simp] theorem loadChecked_time (c : List Byte) (signatureOk : Bool) (m : Dev) :
    (loadChecked c signatureOk m).time = m.time := by
  unfold loadChecked
  split <;> simp

@[simp] theorem fplanLoadDone_time (signatureOk : Bool) (m : Dev) : (fplanLoadDone signatureOk m).time = m.time := by
  unfold fplanLoadDone
  split <;> simp

/-! ### PlanCommit -/

@[simp] theorem zeroRegion_time (t : Nat) (x : Nat × Nat) (m : Dev) : (zeroRegion t x m).time = m.time := by
  simp [zeroRegion]

@[simp] theorem zeroEvicted_time (m : Dev) : (zeroEvicted m).time = m.time := by simp [zeroEvicted]

@[simp] theorem endRegions_time (t : Nat) (m : Dev) : (endRegions t m).time = m.time := by
  simp -implicitDefEqProofs [endRegions]

@[simp] theorem dropRings_time (t : Nat) (m : Dev) : (dropRings t m).time = m.time := by
  simp -implicitDefEqProofs [dropRings]

@[simp] theorem takeRings_time (src t : Nat) (m : Dev) : (takeRings src t m).time = m.time := by
  simp -implicitDefEqProofs [takeRings]

@[simp] theorem applyShadows_time (m : Dev) : (applyShadows m).time = m.time := by simp -implicitDefEqProofs [applyShadows]

@[simp] theorem applyTables_time (m : Dev) : (applyTables m).time = m.time := rfl

@[simp] theorem reportMember_time (t : Nat) (m : Dev) : (reportMember t m).time = m.time := by
  simp -implicitDefEqProofs [reportMember]

@[simp] theorem applyMembers_time (o m : Dev) : (applyMembers o m).time = m.time := by
  unfold applyMembers
  refine (forEach_time fun _ _ => reportMember_time _ _).trans (forEach_time fun t m => ?_)
  simp only
  split
  · simp
  · split <;> simp

@[simp] theorem ringEnables_time (reg : Nat) (m : Dev) : (ringEnables reg m).time = m.time := rfl

@[simp] theorem linkEnableSet_time (l : Nat) (m : Dev) : (linkEnableSet l m).time = m.time := by simp [linkEnableSet]

@[simp] theorem epochSet_time (e : Nat) (m : Dev) : (epochSet e m).time = m.time := by simp [epochSet]

@[simp] theorem drainCheck_time (e : Nat) (m : Dev) : (drainCheck e m).time = m.time := by simp [drainCheck]

@[simp] theorem stileRingEnables_time (r : Nat) (m : Dev) : (stileRingEnables r m).time = m.time := by
  simp -implicitDefEqProofs [stileRingEnables]

@[simp] theorem regionJudged_time (o : Nat) (p : RegPlace) (old : Word) (m : Dev) :
    (regionJudged o p old m).time = m.time := by
  unfold regionJudged
  split <;> simp

@[simp] theorem programWay_time (w : Nat) (m : Dev) : (programWay w m).time = m.time := rfl

@[simp] theorem fallowDecoded_time (o m : Dev) : (fallowDecoded o m).time = m.time := by
  simp -implicitDefEqProofs [fallowDecoded]

@[simp] theorem linksJudged_time (m : Dev) : (linksJudged m).time = m.time := by simp [linksJudged]

@[simp] theorem committedReg_time (o : Nat) (p : RegPlace) (old : Word) (m : Dev) :
    (committedReg o p old m).time = m.time := by
  unfold committedReg
  split <;> simp -implicitDefEqProofs

@[simp] theorem ucodeSelected_time (o : Dev) (t : Nat) (m : Dev) : (ucodeSelected o t m).time = m.time := by
  simp -implicitDefEqProofs [ucodeSelected]

@[simp] theorem ucodeAct_time (o m : Dev) : (ucodeAct o m).time = m.time :=
  forEach_time fun _ _ => (raise_time _ _).trans (wrF_time _ _ _ _)

@[simp] theorem committedTable_time (x : Nat × List Byte) (m : Dev) : (committedTable x m).time = m.time := by
  simp -implicitDefEqProofs [committedTable]

@[simp] theorem endNamed_time (o m : Dev) : (endNamed o m).time = m.time := by
  simp [endNamed]

@[simp] theorem applyReports_time (m : Dev) : (applyReports m).time = m.time := by
  simp only [applyReports]
  split <;> simp -implicitDefEqProofs

@[simp] theorem applyPlan_time (o : Dev) : (applyPlan o).time = o.time := by
  unfold applyPlan
  extract_lets leavers fresh m1 m2 judged m3 m4
  have h1 : m1.time = o.time := by simp [m1]
  have h2 : m2.time = o.time := by
    refine (applyMembers_time _ _).trans ((forEach_time fun t m => ?_).trans h1)
    exact forEach_time fun _ _ => wr_time _ _ _
  have h3 : judged.time = o.time := by
    refine (forEach_time fun off m => ?_).trans h2
    split <;> simp
  have h4 : m4.time = o.time := by
    refine (forEach_time fun off m => ?_).trans (by simp [m3, h3])
    split <;> simp
  simp [h4]

@[simp] theorem unfreeze_time (m : Dev) : (unfreeze m).time = m.time := rfl

@[simp] theorem unitsResume_time (m : Dev) : (unitsResume m).time = m.time := by simp [unitsResume]

@[simp] theorem commitEnds_time (result cause group target off : Nat) (m : Dev) :
    (commitEnds result cause group target off m).time = m.time := by simp [commitEnds]

@[simp] theorem planApplied_time (m : Dev) : (planApplied m).time = m.time := by simp [planApplied]

@[simp] theorem allReady_time (m : Dev) : (allReady m).time = m.time := by simp [allReady]

@[simp] theorem fplanCommit_time (m : Dev) : (fplanCommit m).time = m.time := by
  simp only [fplanCommit]
  (repeat' split) <;> simp -implicitDefEqProofs

@[simp] theorem withdrawUnready_time (m : Dev) : (withdrawUnready m).time = m.time := rfl

@[simp] theorem unitReady_time (u : PlanUnit) (m : Dev) : (unitReady u m).time = m.time := by simp [unitReady]

@[simp] theorem evictionZeroed_time (m : Dev) : (evictionZeroed m).time = m.time := by simp [evictionZeroed]

@[simp] theorem fplanTimeout_time (m : Dev) : (fplanTimeout m).time = m.time := by simp [fplanTimeout]

@[simp] theorem fplanAbort_time (m : Dev) : (fplanAbort m).time = m.time := by simp [fplanAbort]

/-! ### Sessions -/

@[simp] theorem dSet_time (f : TableField) (s v : Nat) (m : Dev) : (dSet f s v m).time = m.time := rfl

@[simp] theorem setFlagByte_time (s v : Nat) (m : Dev) : (setFlagByte s v m).time = m.time := rfl

@[simp] theorem setStateOf_time (s n : Nat) (m : Dev) : (setStateOf s n m).time = m.time := rfl

@[simp] theorem setCancel_time (s : Nat) (c rollback : Bool) (m : Dev) : (setCancel s c rollback m).time = m.time := rfl

@[simp] theorem setPins_time (e n : Nat) (m : Dev) : (setPins e n m).time = m.time := rfl

@[simp] theorem pin_time (e : Nat) (m : Dev) : (pin e m).time = m.time := rfl

@[simp] theorem unpin_time (e : Nat) (m : Dev) : (unpin e m).time = m.time := by simp [unpin]

@[simp] theorem setBucketLevel_time (b : Nat) (v : Int) (m : Dev) : (setBucketLevel b v m).time = m.time := rfl

@[simp] theorem refill_time (b : Nat) (m : Dev) : (refill b m).time = m.time := rfl

@[simp] theorem charge_time (b rows : Nat) (m : Dev) : (charge b rows m).time = m.time := rfl

@[simp] theorem kSet_time (f : TableField) (c v : Nat) (m : Dev) : (kSet f c v m).time = m.time := rfl

@[simp] theorem setConn_time (c : Nat) (x : ConnSt) (m : Dev) : (setConn c x m).time = m.time := rfl

@[simp] theorem sendMsg_time (c seq : Nat) (o : OutMsg) (m : Dev) : (sendMsg c seq o m).time = m.time := by
  unfold sendMsg
  split <;> simp

@[simp] theorem pumpConn_time (fuel c : Nat) (m : Dev) : (pumpConn fuel c m).time = m.time := by
  induction fuel generalizing m with
  | zero => rfl
  | succ fuel ih =>
    unfold pumpConn
    split
    · rfl
    · simp [ih]

@[simp] theorem judgeQueue_time (c : Nat) (m : Dev) : (judgeQueue c m).time = m.time := by simp [judgeQueue]

@[simp] theorem pumpOut_time (c : Nat) (m : Dev) : (pumpOut c m).time = m.time := by simp [pumpOut]

@[simp] theorem queueMsg_time (c : Nat) (o : OutMsg) (m : Dev) : (queueMsg c o m).time = m.time := by simp [queueMsg]

@[simp] theorem sendAck_time (c : Nat) (m : Dev) : (sendAck c m).time = m.time := by simp [sendAck]

@[simp] theorem sendRefuse_time (c request reason : Nat) (m : Dev) : (sendRefuse c request reason m).time = m.time := by
  simp [sendRefuse]

@[simp] theorem sendAccept_time (s : Nat) (m : Dev) : (sendAccept s m).time = m.time := by simp [sendAccept]

@[simp] theorem sendTokens_time (s : Nat) (out : List Nat) (m : Dev) : (sendTokens s out m).time = m.time := by
  simp [sendTokens]

@[simp] theorem sendEnd_time (s : Nat) (m : Dev) : (sendEnd s m).time = m.time := by simp [sendEnd]

@[simp] theorem resendEnd_time (s : Nat) (m : Dev) : (resendEnd s m).time = m.time := by simp [resendEnd]

@[simp] theorem lSet_time (f : TableField) (s v : Nat) (m : Dev) : (lSet f s v m).time = m.time := rfl

@[simp] theorem setMirror_time (g : Nat) (pause : Bool) (P n : Nat) (m : Dev) : (setMirror g pause P n m).time = m.time :=
  rfl

@[simp] theorem takeMirror_time (s : Nat) (pause : Bool) (n : Nat) (m : Dev) : (takeMirror s pause n m).time = m.time := rfl

@[simp] theorem giveMirror_time (s : Nat) (pause : Bool) (n : Nat) (m : Dev) : (giveMirror s pause n m).time = m.time := rfl

@[simp] theorem takeCounter_time (s k : Nat) (m : Dev) : (takeCounter s k m).time = m.time := by
  simp -implicitDefEqProofs [takeCounter]

@[simp] theorem dropCounter_time (s : Nat) (m : Dev) : (dropCounter s m).time = m.time := rfl

@[simp] theorem addEntry_time (op s arg0 arg1 : Nat) (m : Dev) : (addEntry op s arg0 arg1 m).time = m.time := rfl

@[simp] theorem setSum_time (k s v : Nat) (m : Dev) : (setSum k s v m).time = m.time := rfl

@[simp] theorem foldToken_time (s tok : Nat) (m : Dev) : (foldToken s tok m).time = m.time := by simp [foldToken]

@[simp] theorem foldTurn_time (s : Nat) (m : Dev) : (foldTurn s m).time = m.time := by simp [foldTurn]

@[simp] theorem endTurn_time (s reason : Nat) (m : Dev) : (endTurn s reason m).time = m.time := by simp [endTurn]

@[simp] theorem releaseMirror_time (s : Nat) (m : Dev) : (releaseMirror s m).time = m.time := by simp [releaseMirror]

@[simp] theorem toSummary_time (s : Nat) (m : Dev) : (toSummary s m).time = m.time := by simp [toSummary]

@[simp] theorem freeSession_time (s : Nat) (m : Dev) : (freeSession s m).time = m.time := rfl

@[simp] theorem closeNow_time (s : Nat) (m : Dev) : (closeNow s m).time = m.time := by simp [closeNow]

@[simp] theorem turnOver_time {s reason : Nat} {next : Dev → Dev} {m : Dev} (hn : ∀ m, (next m).time = m.time) :
    (turnOver s reason next m).time = m.time := by
  simp [turnOver, hn]

@[simp] theorem closingFreed_time (m : Dev) : (closingFreed m).time = m.time := by simp [closingFreed]

/-! ### Admission -/

@[simp] theorem setArrived_time (s n k : Nat) (m : Dev) : (setArrived s n k m).time = m.time := rfl

@[simp] theorem storeTokens_time (s first n : Nat) (bs : List Byte) (m : Dev) :
    (storeTokens s first n bs m).time = m.time :=
  rfl

@[simp] theorem admitTurn_time (s k : Nat) (x : IntakeMsg) (m : Dev) : (admitTurn s k x m).time = m.time := by
  simp -implicitDefEqProofs [admitTurn]

@[simp] theorem openSession_time (s : Nat) (m : Dev) : (openSession s m).time = m.time := by simp [openSession]

@[simp] theorem admitNew_time (s e : Nat) (x : IntakeMsg) (m : Dev) : (admitNew s e x m).time = m.time := by
  simp -implicitDefEqProofs [admitNew]

@[simp] theorem reexpand_time (s e : Nat) (x : IntakeMsg) (m : Dev) : (reexpand s e x m).time = m.time := by simp [reexpand]

@[simp] theorem requestOnSummary_time (s : Nat) (x : IntakeMsg) (m : Dev) : (requestOnSummary s x m).time = m.time := by
  unfold requestOnSummary
  split <;> simp

@[simp] theorem takeWaiting_time (s : Nat) (m : Dev) : (takeWaiting s m).2.time = m.time := rfl

@[simp] theorem promptMore_time (x : IntakeMsg) (m : Dev) : (promptMore x m).time = m.time := by
  simp only [promptMore]
  split <;> simp -implicitDefEqProofs

@[simp] theorem handleWaiting_time (s : Nat) (m : Dev) : (handleWaiting s m).time = m.time := by simp [handleWaiting]

@[simp] theorem sumUp_time (s : Nat) (m : Dev) : (sumUp s m).time = m.time := by simp [sumUp]

@[simp] theorem makePauseRoom_time (fuel g P need : Nat) (m : Dev) : (makePauseRoom fuel g P need m).time = m.time := by
  induction fuel generalizing m with
  | zero => rfl
  | succ fuel ih =>
    unfold makePauseRoom
    split
    · rfl
    · split <;> simp [ih]

@[simp] theorem pauseStart_time (s : Nat) (m : Dev) : (pauseStart s m).time = m.time := by
  unfold pauseStart
  split <;> simp

@[simp] theorem pauseDrop_time (s : Nat) (m : Dev) : (pauseDrop s m).time = m.time := by simp [pauseDrop]

@[simp] theorem pauseToCover_time (fuel : Nat) (tried : List Nat) (g P short : Nat) (m : Dev) :
    (pauseToCover fuel tried g P short m).time = m.time := by
  induction fuel generalizing tried m with
  | zero => rfl
  | succ fuel ih =>
    simp only [pauseToCover]
    split
    · rfl
    · split <;> simp [ih]

@[simp] theorem fieldShort_time (g P need : Nat) (m : Dev) : (fieldShort g P need m).time = m.time := by simp [fieldShort]

@[simp] theorem restoreStart_time (s : Nat) (m : Dev) : (restoreStart s m).time = m.time := by
  unfold restoreStart
  split <;> simp

@[simp] theorem retryRestores_time (m : Dev) : (retryRestores m).time = m.time := by simp [retryRestores]

@[simp] theorem requestNamed_time (s : Nat) (x : IntakeMsg) (m : Dev) : (requestNamed s x m).time = m.time := by
  simp -implicitDefEqProofs [requestNamed]

@[simp] theorem request_time (x : IntakeMsg) (m : Dev) : (request x m).time = m.time := by
  simp only [request]
  (repeat' split) <;> simp -implicitDefEqProofs

/-! ### Piper -/

@[simp] theorem setStepState_time (n : Nat) (m : Dev) : (setStepState n m).time = m.time := rfl

@[simp] theorem copyRun_time (run : List Byte) (m : Dev) : (copyRun run m).m.time = m.time := by
  unfold copyRun
  split <;> simp

@[simp] theorem copyRuns_time (runs : List (List Byte)) (m : Dev) : (copyRuns runs m).time = m.time := by
  induction runs generalizing m with
  | nil => rfl
  | cons run rest ih =>
    simp only [copyRuns, ite_time, heldBy_time]
    split
    · rfl
    · split
      · exact copyRun_time _ _
      · split <;> simp [ih]

@[simp] theorem readProgram_time (addr : Nat) (m : Dev) : (readProgram addr m).m.time = m.time := by simp [readProgram]

@[simp] theorem startProgram_time (runs : List Byte) (m : Dev) : (startProgram runs m).time = m.time := by
  simp [startProgram]

@[simp] theorem writeManifest_time (bytes : List Byte) (slots : List Slot) (m : Dev) :
    (writeManifest bytes slots m).m.time = m.time :=
  Run.each_time fun t r => by simp only [Run.write_time]

@[simp] theorem killStep_time (m : Dev) : (killStep m).time = m.time := by simp [killStep]

@[simp] theorem obeyManifest_time (seq : Nat) (slots : List Slot) (m : Dev) (runs : List Byte) :
    (obeyManifest seq slots m runs).time = m.time := by simp [obeyManifest]

@[simp] theorem takeManifest_time (bytes : List Byte) (m : Dev) : (takeManifest bytes m).time = m.time := by
  simp [takeManifest]

@[simp] theorem takeRecord_time (bytes : List Byte) (m : Dev) : (takeRecord bytes m).time = m.time := by simp [takeRecord]

@[simp] theorem deliver_time (s : Nat) (out : List Nat) (m : Dev) : (deliver s out m).time = m.time := by
  simp -implicitDefEqProofs [deliver]

@[simp] theorem actCounts_time (seq s : Nat) (m : Dev) : (actCounts seq s m).time = m.time := by simp [actCounts]

@[simp] theorem cancelAct_time (s : Nat) (a : Acts) : (cancelAct s a).m.time = a.m.time := by simp [cancelAct]

@[simp] theorem commitSlot_time (seq : Nat) (sl : Slot) (r : SlotResult) (a : Acts) :
    (commitSlot seq sl r a).m.time = a.m.time := by simp -implicitDefEqProofs [commitSlot]

@[simp] theorem commitCancel_time (seq s : Nat) (a : Acts) : (commitCancel seq s a).m.time = a.m.time := by
  simp [commitCancel]

@[simp] theorem commitHandoff_time (seq : Nat) (sh : Shipment) (a : Acts) : (commitHandoff seq sh a).m.time = a.m.time := by
  unfold commitHandoff
  split <;> simp

@[simp] theorem leadRecord_time (seq : Nat) (set : List Nat) (m : Dev) : (leadRecord seq set m).time = m.time := by
  simp [leadRecord]

@[simp] theorem recordFirstOut_time (o : Dev) (seq : Nat) (set : List Nat) (m : Dev) :
    (recordFirstOut o seq set m).time = m.time := by
  simp [recordFirstOut]

@[simp] theorem formSlot_time (s rows pages : Nat) (f : Filling) : (formSlot s rows pages f).m.time = f.m.time := by
  simp [formSlot]

@[simp] theorem trySlot_time (limit total s : Nat) (f : Filling) : (trySlot limit total s f).m.time = f.m.time := by
  simp -implicitDefEqProofs [trySlot]

@[simp] theorem launch_time (st : StepSt) (m : Dev) : (launch st m).time = m.time := by simp -implicitDefEqProofs [launch]

@[simp] theorem formStep_time (m : Dev) : (formStep m).time = m.time := by
  have hslot (l k : Nat) (ss : List Nat) (f : Filling) :
      (ss.foldl (fun f s => trySlot l k s f) f).m.time = f.m.time :=
    foldl_keeps (fun f : Filling => f.m.time) fun f s => trySlot_time l k s f
  simp only [formStep]
  split
  · rw [setStepState_time, hslot]
    simp -implicitDefEqProofs
  · rw [launch_time]
    simp -implicitDefEqProofs [hslot]

@[simp] theorem formPool_time (m : Dev) : (formPool m).time = m.time := by
  unfold formPool
  split <;> simp

@[simp] theorem commitPool_time (sl : Slot) (r : SlotResult) (m : Dev) : (commitPool sl r m).time = m.time := by
  simp [commitPool]

@[simp] theorem shipTurn_time (s : Nat) (m : Dev) : (shipTurn s m).time = m.time := by
  unfold shipTurn
  split <;> simp -implicitDefEqProofs

@[simp] theorem shipTurns_time (m : Dev) : (shipTurns m).time = m.time := by simp [shipTurns]

@[simp] theorem startMove_time (up : Bool) (rung : Nat) (m : Dev) : (startMove up rung m).time = m.time := by
  simp [startMove]

@[simp] theorem ratioCheck_time (m : Dev) : (ratioCheck m).time = m.time := by simp [ratioCheck]

@[simp] theorem endMove_time (m : Dev) : (endMove m).time = m.time := rfl

@[simp] theorem abortMove_time (m : Dev) : (abortMove m).time = m.time := by simp -implicitDefEqProofs [abortMove]

@[simp] theorem ratioReact_time (cause : Nat) (m : Dev) : (ratioReact cause m).time = m.time := by
  unfold ratioReact
  split <;> simp -implicitDefEqProofs

@[simp] theorem ratioBoundary_time (m : Dev) : (ratioBoundary m).time = m.time := by
  unfold ratioBoundary
  split <;> simp

@[simp] theorem rebuild_time (m : Dev) : (rebuild m).time = m.time := by simp [rebuild]

@[simp] theorem retireEpoch_time (e : Nat) (m : Dev) : (retireEpoch e m).time = m.time := by simp [retireEpoch]

@[simp] theorem kvShortAct_time (g : Nat) (m : Dev) : (kvShortAct g m).time = m.time := by
  simp only [kvShortAct]
  split <;> simp -implicitDefEqProofs

@[simp] theorem expireAct_time (s : Nat) (m : Dev) : (expireAct s m).time = m.time := by simp [expireAct]

@[simp] theorem dueAct_time (d : Nat × Nat) (m : Dev) : (dueAct d m).time = m.time := by
  unfold dueAct
  split <;> simp

@[simp] theorem dueActs_time (m : Dev) : (dueActs m).time = m.time := by simp [dueActs]

@[simp] theorem latchLimits_time (m : Dev) : (latchLimits m).time = m.time := rfl

@[simp] theorem boundaryActs_time (seq : Nat) (a : Acts) : (boundaryActs seq a).m.time = a.m.time := by
  simp only [boundaryActs, shipTurns_time, retryRestores_time, dueActs_time]
  refine (foldl_keeps (fun b : Acts => b.m.time) fun b sh => commitHandoff_time seq sh b).trans ?_
  simp

@[simp] theorem afterRecord_time (m : Dev) : (afterRecord m).time = m.time := by simp [afterRecord]

@[simp] theorem boundary_time (m : Dev) : (boundary m).time = m.time := by simp [boundary]

@[simp] theorem stepCommit_time (rs : List SlotResult) (m : Dev) : (stepCommit rs m).time = m.time := by
  simp only [stepCommit]
  split
  · simp
  · split
    · rfl
    · split
      · rw [ite_time, setStepState_time, formPool_time, ite_self, leadRecord_time]
        refine (forEach_time fun i n => ?_).trans (by simp)
        split <;> simp
      · rw [afterRecord_time, recordFirstOut_time, boundaryActs_time]
        refine (foldl_keeps (fun a : Acts => a.m.time) fun a s => commitCancel_time _ _ _).trans ?_
        refine (foldl_keeps (fun a : Acts => a.m.time) fun a i => ?_).trans ?_
        · split <;> simp
        · simp

@[simp] theorem stepTimeout_time (m : Dev) : (stepTimeout m).time = m.time := by
  unfold stepTimeout
  split <;> simp

@[simp] theorem ringRoomFreed_time (m : Dev) : (ringRoomFreed m).time = m.time := by
  unfold ringRoomFreed
  split
  · simp -implicitDefEqProofs
  · split <;> simp -implicitDefEqProofs

/-! ### Intake -/

@[simp] theorem intakeMalformed_time (m : Dev) : (intakeMalformed m).time = m.time := by simp [intakeMalformed]

@[simp] theorem intakeTagFail_time (m : Dev) : (intakeTagFail m).time = m.time := by simp [intakeTagFail]

@[simp] theorem peerAck_time (x : IntakeMsg) (m : Dev) : (peerAck x m).time = m.time := by simp [peerAck]

@[simp] theorem receive_time {typ : Nat} {x : IntakeMsg} {act : Nat → Dev → Dev} {m : Dev}
    (hact : ∀ c m, (act c m).time = m.time) : (receive typ x act m).time = m.time := by
  simp [receive, hact]

@[simp] theorem markCancel_time (s : Nat) (rollback : Bool) (m : Dev) : (markCancel s rollback m).time = m.time := by
  simp [markCancel]

@[simp] theorem cancel_time (x : IntakeMsg) (m : Dev) : (cancel x m).time = m.time := by
  unfold cancel
  split <;> simp

@[simp] theorem close_time (x : IntakeMsg) (m : Dev) : (close x m).time = m.time := by
  unfold close
  split <;> simp

@[simp] theorem retransmit_time (c : Nat) (m : Dev) : (retransmit c m).time = m.time := by simp [retransmit]

@[simp] theorem openConn_time (c : Nat) (m : Dev) : (openConn c m).time = m.time := by simp [openConn]

@[simp] theorem closeConn_time (c : Nat) (m : Dev) : (closeConn c m).time = m.time := by simp [closeConn]

@[simp] theorem leadAct_time {f : Dev → Dev} {m : Dev} (hf : ∀ m, (f m).time = m.time) : (leadAct f m).time = m.time := by
  simp [leadAct, hf]

@[simp] theorem pauseAfter_time (s : Nat) (m : Dev) : (pauseAfter s m).time = m.time := by simp [pauseAfter]

@[simp] theorem pauseComplete_time (s : Nat) (m : Dev) : (pauseComplete s m).time = m.time := by
  unfold pauseComplete
  split
  · rw [retryRestores_time, addEntry_time, dropCounter_time, dSet_time, dSet_time, setStateOf_time, lSet_time, lSet_time,
      giveMirror_time]
  · rfl

@[simp] theorem restoreComplete_time (s : Nat) (m : Dev) : (restoreComplete s m).time = m.time := by simp [restoreComplete]

@[simp] theorem copyTimeout_time (s : Nat) (m : Dev) : (copyTimeout s m).time = m.time := by simp [copyTimeout]

@[simp] theorem putOff_time (k v : Nat) (m : Dev) : (putOff k v m).time = m.time := by simp [putOff]

@[simp] theorem pauseExpiry_time (s : Nat) (m : Dev) : (pauseExpiry s m).time = m.time := by simp [pauseExpiry]

@[simp] theorem retireDeadline_time (e : Nat) (m : Dev) : (retireDeadline e m).time = m.time := by simp [retireDeadline]

@[simp] theorem kvShort_time (g : Nat) (m : Dev) : (kvShort g m).time = m.time := by simp [kvShort]

@[simp] theorem shipLost_time (s : Nat) (m : Dev) : (shipLost s m).time = m.time := by simp [shipLost]

@[simp] theorem handoffRecord_time (s tok : Nat) (m : Dev) : (handoffRecord s tok m).time = m.time := rfl

@[simp] theorem readTables_time (h : Handoff) (m : Dev) : (readTables h m).time = m.time := by
  refine forEach_time fun k m => ?_
  split <;> simp

@[simp] theorem handoffRequest_time (h : Handoff) (m : Dev) : (handoffRequest h m).time = m.time := by simp [handoffRequest]

@[simp] theorem deviceLost_time (port device : Nat) (m : Dev) : (deviceLost port device m).time = m.time := by
  simp [deviceLost]

@[simp] theorem planRow_time {cause : Nat} {f : Dev → Dev} {m : Dev} (hf : ∀ m, (f m).time = m.time) :
    (planRow cause f m).time = m.time := by
  simp [planRow, hf]

/-! ### Links -/

@[simp] theorem linkRow_time {f : Dev → Dev} {m : Dev} (hf : ∀ m, (f m).time = m.time) : (linkRow f m).time = m.time := by
  unfold linkRow
  split
  · exact (planRow_time fun m => commitEnds_time _ _ _ _ _ m).trans (hf m)
  · exact hf m

/-! ### Stile -/

@[simp] theorem setEpError_time (n : Nat) (m : Dev) : (setEpError n m).time = m.time := by simp [setEpError]

@[simp] theorem stHalt_time (r : Nat) (m : Dev) : (stHalt r m).time = m.time := by simp [stHalt]

@[simp] theorem stRecord_time (kind r syndrome : Nat) (e : List Byte) (m : Dev) :
    (stRecord kind r syndrome e m).time = m.time := by simp [stRecord]

@[simp] theorem stFail_time (kind r syndrome : Nat) (e : List Byte) (m : Dev) :
    (stFail kind r syndrome e m).time = m.time := by simp [stFail]

@[simp] theorem stSend_time (ep op remote : Nat) (bs : List Byte) (m : Dev) : (stSend ep op remote bs m).time = m.time :=
  rfl

@[simp] theorem noteStarted_time (r c : Nat) (e : List Byte) (m : Dev) : (noteStarted r c e m).time = m.time := rfl

@[simp] theorem sendPut_time (e data : List Byte) (m : Dev) : (sendPut e data m).time = m.time := by
  simp -implicitDefEqProofs [sendPut]

@[simp] theorem startEntry_time (r c : Nat) (e : List Byte) (m : Dev) : (startEntry r c e m).time = m.time := by
  simp -implicitDefEqProofs [startEntry]

theorem stWaits_time {e : List Byte} {m n : Dev} (h : stWaits e m = some n) : n.time = m.time := by
  unfold stWaits at h
  obtain ⟨_, h⟩ := Option.ite_none_left_eq_some.1 h
  obtain ⟨_, h⟩ := Option.ite_none_right_eq_some.1 h
  cases h
  simp

@[simp] theorem setStFetch_time (r n : Nat) (m : Dev) : (setStFetch r n m).time = m.time := rfl

@[simp] theorem setStRerun_time (r n : Nat) (m : Dev) : (setStRerun r n m).time = m.time := rfl

@[simp] theorem stStart_time (fuel r : Nat) (m : Dev) : (stStart fuel r m).time = m.time := by
  induction fuel generalizing m with
  | zero => rfl
  | succ fuel ih =>
    have hread (c : Nat) := readVia_time .headland (stEntryAddr r c m) 64 m
    simp only [stStart]
    split
    · rfl
    · split
      · exact (ih _).trans (setStFetch_time ..)
      · split
        · rfl
        · split
          · exact heldBy_time ..
          · split
            · exact (stFail_time ..).trans (hread _)
            · split
              · exact hread _
              · split
                next h => exact (stWaits_time h).trans (hread _)
                · split
                  · exact (startEntry_time ..).trans (hread _)
                  · exact (ih _).trans ((setStFetch_time ..).trans ((startEntry_time ..).trans (hread _)))

@[simp] theorem stServe_time (r : Nat) (m : Dev) : (stServe r m).time = m.time := by simp [stServe]

@[simp] theorem dropEndpoint_time (n : Nat) (m : Dev) : (dropEndpoint n m).time = m.time := by simp [dropEndpoint]

@[simp] theorem stilePoll_time (m : Dev) : (stilePoll m).time = m.time := by simp [stilePoll]

@[simp] theorem stPass_time (fuel r : Nat) (m : Dev) : (stPass fuel r m).time = m.time := by
  induction fuel generalizing m with
  | zero => rfl
  | succ fuel ih => simp [stPass, ih]

@[simp] theorem stDrop_time (r c : Nat) (m : Dev) : (stDrop r c m).time = m.time := rfl

@[simp] theorem stTake_time (e data : List Byte) (m : Dev) : (stTake e data m).m.time = m.time := by
  unfold stTake
  split <;> simp

@[simp] theorem stileComplete_time (r c : Nat) (data : List Byte) (m : Dev) : (stileComplete r c data m).time = m.time := by
  unfold stileComplete
  split <;> simp

@[simp] theorem stileQpError_time (n syndrome : Nat) (m : Dev) : (stileQpError n syndrome m).time = m.time := by
  simp [stileQpError]

@[simp] theorem setRate_time (n v : Nat) (m : Dev) : (setRate n v m).time = m.time := rfl

@[simp] theorem cnp_time (n : Nat) (m : Dev) : (cnp n m).time = m.time := by simp [cnp]

@[simp] theorem rateRecovery_time (n : Nat) (m : Dev) : (rateRecovery n m).time = m.time := by
  simp -implicitDefEqProofs [rateRecovery]

@[simp] theorem stileResume_time (r : Nat) (m : Dev) : (stileResume r m).time = m.time := by simp [stileResume]

@[simp] theorem stileDiscard_time (r : Nat) (m : Dev) : (stileDiscard r m).time = m.time := by simp [stileDiscard]

/-! ### Bellows -/

@[simp] theorem linkSilent_time (l : Nat) (m : Dev) : (linkSilent l m).time = m.time := by simp [linkSilent]

@[simp] theorem sweepEnds_time (t found : Nat) (m : Dev) : (sweepEnds t found m).time = m.time := by
  simp -implicitDefEqProofs [sweepEnds]

@[simp] theorem stopWork_time (m : Dev) : (stopWork m).time = m.time := by simp -implicitDefEqProofs [stopWork]

@[simp] theorem beginStop_time (reason : Nat) (m : Dev) : (beginStop reason m).time = m.time := by simp [beginStop]

@[simp] theorem clocksStop_time (m : Dev) : (clocksStop m).time = m.time := by simp -implicitDefEqProofs [clocksStop]

@[simp] theorem stopped_time (m : Dev) : (stopped m).time = m.time := by simp -implicitDefEqProofs [stopped]

@[simp] theorem setClock_time (t : Nat) (m : Dev) : (setClock t m).time = m.time := by simp -implicitDefEqProofs [setClock]

@[simp] theorem setD_time (n : Nat) (m : Dev) : (setD n m).time = m.time := rfl

@[simp] theorem setCut_time (t c : Nat) (m : Dev) : (setCut t c m).time = m.time := rfl

@[simp] theorem cutThroughput_time (m : Dev) : (cutThroughput m).time = m.time := by
  simp -implicitDefEqProofs [cutThroughput]

@[simp] theorem lowerPower_time (m : Dev) : (lowerPower m).time = m.time := by
  simp only [lowerPower]
  (repeat' split) <;> simp -implicitDefEqProofs

@[simp] theorem raisePower_time (m : Dev) : (raisePower m).time = m.time := by
  unfold raisePower
  split <;> simp -implicitDefEqProofs

@[simp] theorem capStep_time (p : Nat) (m : Dev) : (capStep p m).time = m.time := by simp [capStep]

@[simp] theorem overcapStep_time (p : Nat) (m : Dev) : (overcapStep p m).time = m.time := by simp [overcapStep]

@[simp] theorem supplyEnter_time (i p throughput : Nat) (m : Dev) : (supplyEnter i p throughput m).time = m.time := by
  unfold supplyEnter
  split <;> simp

@[simp] theorem supplyLeave_time (i : Nat) (m : Dev) : (supplyLeave i m).time = m.time := by simp [supplyLeave]

@[simp] theorem supplyRowStep_time (v p throughput i : Nat) (m : Dev) :
    (supplyRowStep v p throughput i m).time = m.time := by simp [supplyRowStep]

@[simp] theorem supplyStep_time (cv p throughput : Nat) (m : Dev) : (supplyStep cv p throughput m).time = m.time := by
  simp [supplyStep]

@[simp] theorem setThermal_time (m : Dev) : (setThermal m).time = m.time := rfl

@[simp] theorem measured_time (x : Measure) (m : Dev) : (measured x m).time = m.time := by
  simp -implicitDefEqProofs [measured]

@[simp] theorem slopeCounts_time (x : Measure) (m : Dev) : (slopeCounts x m).time = m.time := by
  simp -implicitDefEqProofs [slopeCounts]

@[simp] theorem controlPeriod_time (x : Measure) (m : Dev) : (controlPeriod x m).time = m.time := by simp [controlPeriod]

@[simp] theorem setHeat_time (t n : Nat) (m : Dev) : (setHeat t n m).time = m.time := rfl

@[simp] theorem setCool_time (t n : Nat) (m : Dev) : (setCool t n m).time = m.time := rfl

@[simp] theorem tileHeat_time (t : Nat) (c : Int) (m : Dev) : (tileHeat t c m).time = m.time := by simp [tileHeat]

@[simp] theorem stackHeat_time (s : Nat) (c : Int) (m : Dev) : (stackHeat s c m).time = m.time := by simp [stackHeat]

@[simp] theorem showTemps_time (tileC stackC : List Int) (m : Dev) : (showTemps tileC stackC m).time = m.time := by
  simp -implicitDefEqProofs [showTemps]

@[simp] theorem thermalSample_time (tileC0 stackC0 : List Int) (m : Dev) :
    (thermalSample tileC0 stackC0 m).time = m.time := by simp -implicitDefEqProofs [thermalSample]

@[simp] theorem coolantSample_time (inlet outlet : Int) (m : Dev) : (coolantSample inlet outlet m).time = m.time := by
  simp [coolantSample]

@[simp] theorem capWrite_time (cap brake : Nat) (m : Dev) : (capWrite cap brake m).time = m.time := by
  simp -implicitDefEqProofs [capWrite]

@[simp] theorem brakeAssert_time (m : Dev) : (brakeAssert m).time = m.time := by simp [brakeAssert]

@[simp] theorem brakeRelease_time (m : Dev) : (brakeRelease m).time = m.time := rfl

@[simp] theorem inputLoss_time (m : Dev) : (inputLoss m).time = m.time := by simp [inputLoss]

@[simp] theorem sweepStart_time (t : Nat) (m : Dev) : (sweepStart t m).time = m.time := by
  simp -implicitDefEqProofs [sweepStart]

@[simp] theorem sweepDone_time (t passed : Nat) (m : Dev) : (sweepDone t passed m).time = m.time := by simp [sweepDone]

/-! ### Nvm -/

@[simp] theorem nvmPut_time (a : Nat) (bs : List Byte) (m : Dev) : (nvmPut a bs m).time = m.time := rfl

@[simp] theorem refreshGen_time (code : Nat) (m : Dev) : (refreshGen code m).time = m.time := by
  unfold refreshGen
  split <;> simp

@[simp] theorem refreshGens_time (m : Dev) : (refreshGens m).time = m.time := by simp [refreshGens]

@[simp] theorem writeCopy_time (p : NvmPart) (c gen state : Nat) (content : List Byte) (m : Dev) :
    (writeCopy p c gen state content m).time = m.time := by simp [writeCopy]

@[simp] theorem setFtState_time (c st : Nat) (m : Dev) : (setFtState c st m).time = m.time := rfl

@[simp] theorem storeKeys_time (half : List Byte) (m : Dev) : (storeKeys half m).time = m.time := by
  unfold storeKeys
  split <;> simp

@[simp] theorem showSlots_time (m : Dev) : (showSlots m).time = m.time := by simp -implicitDefEqProofs [showSlots]

@[simp] theorem storeLanes_time (xs : List (Nat × List Byte)) (m : Dev) : (storeLanes xs m).time = m.time := by
  unfold storeLanes
  split <;> simp

@[simp] theorem bootTrained_time (lanes : List Nat) (m : Dev) : (bootTrained lanes m).time = m.time := by simp [bootTrained]

@[simp] theorem linkTrained_time (l lanes : Nat) (peerFec : Bool) (m : Dev) :
    (linkTrained l lanes peerFec m).time = m.time := by simp [linkTrained]

@[simp] theorem nvmState_time (n : Nat) (m : Dev) : (nvmState n m).time = m.time := by simp [nvmState]

@[simp] theorem nvmResult_time (n : Nat) (m : Dev) : (nvmResult n m).time = m.time := rfl

@[simp] theorem nvmPages_time (n : Nat) (m : Dev) : (nvmPages n m).time = m.time := rfl

@[simp] theorem nvmSource_time (m : Dev) : (nvmSource m).m.time = m.time := by simp [nvmSource]

@[simp] theorem startStore_time (code gen : Nat) (content : List Byte) (imageOk : Bool) (m : Dev) :
    (startStore code gen content imageOk m).time = m.time := by
  unfold startStore
  split <;> simp

@[simp] theorem nvmStore_time (imageOk : Bool) (m : Dev) : (nvmStore imageOk m).time = m.time := by simp [nvmStore]

@[simp] theorem storeStops_time (j : StoreJob) (p : NvmPart) (result : Nat) (m : Dev) :
    (storeStops j p result m).time = m.time := by simp [storeStops]

@[simp] theorem storeComplete_time (writeOk : Bool) (m : Dev) : (storeComplete writeOk m).time = m.time := by
  unfold storeComplete
  split
  · simp -implicitDefEqProofs
  · split <;> simp -implicitDefEqProofs

@[simp] theorem appendLog_time (m : Dev) : (appendLog m).time = m.time := by simp [appendLog]

@[simp] theorem logPageWrite_time (m : Dev) : (logPageWrite m).time = m.time := by simp [logPageWrite]

/-! ### Scarecrow -/

@[simp] theorem keyEnds_time (slot result : Nat) (m : Dev) : (keyEnds slot result m).time = m.time := by
  simp -implicitDefEqProofs [keyEnds]

@[simp] theorem keySignatureFails_time (slot : Nat) (m : Dev) : (keySignatureFails slot m).time = m.time := by
  simp [keySignatureFails]

@[simp] theorem keyStores_time {slot : Nat} {half : List Byte} {f : Dev → Dev} {m : Dev} (hf : ∀ m, (f m).time = m.time) :
    (keyStores slot half f m).time = m.time := by
  simp [keyStores, hf]

@[simp] theorem keyInput_time (n : Nat) (m : Dev) : (keyInput n m).m.time = m.time := by simp [keyInput]

@[simp] theorem setKey_time (slot : Nat) (x : KeySlot) (m : Dev) : (setKey slot x m).time = m.time := rfl

@[simp] theorem keyInstall_time (tagOk : Bool) (key : BitVec 256) (m : Dev) : (keyInstall tagOk key m).time = m.time := by
  simp -implicitDefEqProofs [keyInstall]

@[simp] theorem keyPublic_time (signatureOk : Bool) (m : Dev) : (keyPublic signatureOk m).time = m.time := by
  unfold keyPublic
  split <;> simp

@[simp] theorem keyCommission_time (m : Dev) : (keyCommission m).time = m.time := by
  unfold keyCommission
  split
  · simp -implicitDefEqProofs
  · split <;> simp -implicitDefEqProofs

@[simp] theorem keyRelease_time (signatureOk : Bool) (m : Dev) : (keyRelease signatureOk m).time = m.time := by
  unfold keyRelease
  split
  · simp
  · split
    · simp
    · exact keyStores_time fun m => wrF_time _ _ _ _

@[simp] theorem keyClear_time (slot : Nat) (m : Dev) : (keyClear slot m).time = m.time := by simp [keyClear]

@[simp] theorem trngHealth_time (failing : Bool) (m : Dev) : (trngHealth failing m).time = m.time := by simp [trngHealth]

@[simp] theorem digestFails_time (why piece done : Nat) (m : Dev) : (digestFails why piece done m).time = m.time := by
  simp -implicitDefEqProofs [digestFails]

@[simp] theorem digestStart_time (signatureOk : Bool) (m : Dev) : (digestStart signatureOk m).time = m.time := by
  simp -implicitDefEqProofs [digestStart]

@[simp] theorem digestStop_time (m : Dev) : (digestStop m).time = m.time := by simp [digestStop]

@[simp] theorem pieceRead_time (j : DigestJob) (i : Nat) (m : Dev) : (pieceRead j i m).m.time = m.time := by
  simp [pieceRead]

@[simp] theorem digestDone_time (m : Dev) : (digestDone m).time = m.time := by
  simp only [digestDone]
  (repeat' split) <;> simp -implicitDefEqProofs

/-! ### Mesh -/

@[simp] theorem edgeDown_time (e : Nat) (m : Dev) : (edgeDown e m).time = m.time := by simp [edgeDown]

@[simp] theorem edgeLeft_time (e n : Nat) (m : Dev) : (edgeLeft e n m).time = m.time := by simp [edgeLeft]

@[simp] theorem showBridges_time (m : Dev) : (showBridges m).time = m.time := rfl

@[simp] theorem bridgeDown_time (b : Nat) (m : Dev) : (bridgeDown b m).time = m.time := by simp [bridgeDown]

@[simp] theorem refLoss_time (x : Oscillator) (m : Dev) : (refLoss x m).time = m.time := by
  unfold refLoss
  split <;> simp

@[simp] theorem stopSource_time (x : StopSource) (m : Dev) : (stopSource x m).time = m.time := by
  unfold stopSource
  split <;> simp

/-! ### Boot -/

@[simp] theorem bootSet_time (off : Nat) (v : Word) (m : Dev) : (bootSet off v m).time = m.time := by
  unfold bootSet
  split <;> simp

@[simp] theorem setBoot_time (f : Fld) (n : Nat) (m : Dev) : (setBoot f n m).time = m.time := rfl

@[simp] theorem setIdDigest_time (m : Dev) : (setIdDigest m).time = m.time := by simp -implicitDefEqProofs [setIdDigest]

@[simp] theorem clocksRun_time (m : Dev) : (clocksRun m).time = m.time := rfl

@[simp] theorem boot1_time (x : BootInputs) (m : Dev) : (boot1 x m).1.time = m.time := by simp [boot1]

@[simp] theorem makeKey_time (newKey : List Byte) (m : Dev) : (makeKey newKey m).time = m.time := by simp [makeKey]

@[simp] theorem keyIsBad_time (m : Dev) : (keyIsBad m).time = m.time := by simp [keyIsBad]

@[simp] theorem boot2_time (x : BootInputs) (m : Dev) : (boot2 x m).1.time = m.time := by simp -implicitDefEqProofs [boot2]

@[simp] theorem boot3_time (m : Dev) : (boot3 m).1.time = m.time := by simp [boot3]

@[simp] theorem fwStart_time (copy state : Nat) (img : List Byte) (m : Dev) : (fwStart copy state img m).time = m.time := by
  simp -implicitDefEqProofs [fwStart]

@[simp] theorem boot4_time (x : BootInputs) (m : Dev) : (boot4 x m).1.time = m.time := by
  simp only [boot4]
  (repeat' split) <;> simp -implicitDefEqProofs

@[simp] theorem givePlace_time (coord appliance ns : Word) (m : Dev) : (givePlace coord appliance ns m).time = m.time := rfl

@[simp] theorem boot5_time (x : BootInputs) (m : Dev) : (boot5 x m).1.time = m.time := by
  unfold boot5
  split <;> simp

@[simp] theorem loadCalibration_time (m : Dev) : (loadCalibration m).time = m.time := by
  simp -implicitDefEqProofs [loadCalibration]

@[simp] theorem bootSelfTests_time (fails : List (TileId × List Nat × Bool)) (m : Dev) :
    (bootSelfTests fails m).time = m.time := by
  refine forEach_time fun t m => ?_
  split <;> simp

@[simp] theorem showMesh_time (m : Dev) : (showMesh m).time = m.time := rfl

@[simp] theorem diesFormed_time (m : Dev) : (diesFormed m).time = m.time := rfl

@[simp] theorem boot6_time (x : BootInputs) (m : Dev) : (boot6 x m).1.time = m.time := by simp -implicitDefEqProofs [boot6]

@[simp] theorem bootCommit_time (c : List Byte) (m : Dev) : (bootCommit c m).time = m.time := by simp [bootCommit]

@[simp] theorem planned_time (m : Dev) : (planned m).1.time = m.time := by simp [planned]

@[simp] theorem boot7_time (x : BootInputs) (m : Dev) : (boot7 x m).1.time = m.time := by
  simp only [boot7]
  (repeat' split) <;> simp -implicitDefEqProofs

@[simp] theorem buildTables_time (m : Dev) : (buildTables m).time = m.time := by simp [buildTables]

@[simp] theorem boot8_time (m : Dev) : (boot8 m).1.time = m.time := by simp [boot8]

@[simp] theorem nvmeStart_time (port device : Nat) (m : Dev) : (nvmeStart port device m).time = m.time := by
  simp -implicitDefEqProofs [nvmeStart]

@[simp] theorem cxlStart_time (k : Nat) (m : Dev) : (cxlStart k m).time = m.time := by simp -implicitDefEqProofs [cxlStart]

@[simp] theorem nvmeUp_time (x : PcieDevice) (m : Dev) : (nvmeUp x m).time = m.time := by simp [nvmeUp]

@[simp] theorem deviceUp_time (x : PcieDevice) (m : Dev) : (deviceUp x m).time = m.time := by simp [deviceUp]

@[simp] theorem releasePerst_time (m : Dev) : (releasePerst m).time = m.time := rfl

@[simp] theorem boot9_time (x : BootInputs) (m : Dev) : (boot9 x m).1.time = m.time := by simp [boot9]

@[simp] theorem boot10_time (x : BootInputs) (m : Dev) : (boot10 x m).1.time = m.time := rfl

@[simp] theorem boot11_time (m : Dev) : (boot11 m).1.time = m.time := by simp [boot11]

@[simp] theorem bootStage_time (x : BootInputs) (k : Nat) (m : Dev) : (bootStage x k m).1.time = m.time := by
  unfold bootStage
  split <;> simp

@[simp] theorem bootRun_time (x : BootInputs) (fuel k : Nat) (m : Dev) : (bootRun x fuel k m).time = m.time := by
  induction fuel generalizing k m with
  | zero => rfl
  | succ fuel ih => simp [bootRun, ih]

@[simp] theorem boot_time (x : BootInputs) (m : Dev) : (boot x m).time = m.time := by simp [boot]

@[simp] theorem fwBusy_time (n : Nat) (m : Dev) : (fwBusy n m).time = m.time := by simp [fwBusy]

@[simp] theorem switchBack_time (m : Dev) : (switchBack m).time = m.time := by simp [switchBack]

@[simp] theorem fwSwitch_time (verified accepted : Bool) (m : Dev) : (fwSwitch verified accepted m).time = m.time := by
  simp -implicitDefEqProofs [fwSwitch]

@[simp] theorem fwConfirm_time (m : Dev) : (fwConfirm m).time = m.time := by simp [fwConfirm]

@[simp] theorem fwRevert_time (m : Dev) : (fwRevert m).time = m.time := by simp [fwRevert]

@[simp] theorem trialExpiry_time (m : Dev) : (trialExpiry m).time = m.time := by simp [trialExpiry]

@[simp] theorem dropStore_time (m : Dev) : (dropStore m).time = m.time := by
  unfold dropStore
  split
  · simp -implicitDefEqProofs
  · split <;> simp -implicitDefEqProofs

@[simp] theorem resetModule_time (m0 : Dev) : (resetModule m0).time = m0.time := by simp [resetModule]

@[simp] theorem unpowered_time (m : Dev) : (unpowered m).time = m.time := by simp [unpowered]

@[simp] theorem converterStop_time (m : Dev) : (converterStop m).time = m.time := by simp [converterStop]

@[simp] theorem railLeaves_time (m : Dev) : (railLeaves m).time = m.time := by simp [railLeaves]

@[simp] theorem resetAssert_time (m : Dev) : (resetAssert m).time = m.time := by simp [resetAssert]

@[simp] theorem stopFallEnd_time (m : Dev) : (stopFallEnd m).time = m.time := by simp [stopFallEnd]

/-! ### Registers -/

@[simp] theorem clearLeaves_time (b j : Nat) (mask : Word) (m : Dev) : (clearLeaves b j mask m).time = m.time := by
  simp [clearLeaves]

@[simp] theorem leafClear_time (b : Nat) (high : Bool) (mask sets : Word) (m : Dev) :
    (leafClear b high mask sets m).time = m.time := by simp [leafClear]

@[simp] theorem regRead_time (who : Requester) (off size : Nat) (m : Dev) : (regRead who off size m).1.time = m.time := by
  simp only [regRead]
  (repeat' split) <;> simp -implicitDefEqProofs

@[simp] theorem fplanAct_time (a : Nat) (m : Dev) : (fplanAct a m).time = m.time := by
  unfold fplanAct
  split <;> simp

@[simp] theorem linkAct_time (l a lane : Nat) (m : Dev) : (linkAct l a lane m).time = m.time := by
  unfold linkAct
  split <;> simp

@[simp] theorem keyAct_time (a slot : Nat) (m : Dev) : (keyAct a slot m).time = m.time := by
  unfold keyAct
  split <;> simp

@[simp] theorem fwAct_time (a : Nat) (m : Dev) : (fwAct a m).time = m.time := by
  unfold fwAct
  split <;> simp

@[simp] theorem ringAct_time (q : Nat) (v : Word) (m : Dev) : (ringAct q v m).time = m.time := by
  unfold ringAct
  split <;> simp

@[simp] theorem regAct_time (p : RegPlace) (v : Word) (m : Dev) : (regAct p v m).time = m.time := by
  simp only [regAct]
  (repeat' split) <;> simp -implicitDefEqProofs

@[simp] theorem rwWrite_time (who : Requester) (off : Nat) (p : RegPlace) (bits v : Word) (m : Dev) :
    (rwWrite who off p bits v m).time = m.time := by
  simp only [rwWrite]
  (repeat' split) <;> simp -implicitDefEqProofs

@[simp] theorem waitWrite_time (off : Nat) (bits v : Word) (m : Dev) : (waitWrite off bits v m).time = m.time := rfl

@[simp] theorem rwsWrite_time (who : Requester) (off : Nat) (bits v : Word) (m : Dev) :
    (rwsWrite who off bits v m).time = m.time := by simp [rwsWrite]

@[simp] theorem w1cWrite_time (off : Nat) (p : RegPlace) (bits v : Word) (m : Dev) :
    (w1cWrite off p bits v m).time = m.time := by
  unfold w1cWrite
  split <;> simp

@[simp] theorem wordWrite_time (who : Requester) (off : Nat) (p : RegPlace) (v : Word) (m : Dev) :
    (wordWrite who off p v m).time = m.time := by simp [wordWrite]

@[simp] theorem regWrite_time (who : Requester) (off size : Nat) (v : Word) (m : Dev) :
    (regWrite who off size v m).time = m.time := by
  unfold regWrite
  split
  · simp -implicitDefEqProofs
  · split <;> simp -implicitDefEqProofs

@[simp] theorem boundaryApply_time (t : TileId) (m : Dev) : (boundaryApply t m).time = m.time := by simp [boundaryApply]

@[simp] theorem laneRecalDone_time (l : Nat) (ok : Bool) (settings : List Byte) (m : Dev) :
    (laneRecalDone l ok settings m).time = m.time := by
  unfold laneRecalDone
  split <;> simp

/-! ### Mgmt -/

@[simp] theorem mgmtRespond_time (bs : List Byte) (m : Dev) : (mgmtRespond bs m).time = m.time := by simp [mgmtRespond]

@[simp] theorem vendor_time (cmd : Nat) (inst : BitVec 8) (status : Nat) (payload : List Byte) (m : Dev) :
    (vendor cmd inst status payload m).time = m.time := by simp [vendor]

@[simp] theorem badMessage_time (cmd : Nat) (inst : BitVec 8) (m : Dev) : (badMessage cmd inst m).time = m.time := by
  simp [badMessage]

@[simp] theorem standard_time (typ : Nat) (inst : BitVec 8) (n arg : Nat) (m : Dev) :
    (standard typ inst n arg m).time = m.time := by simp [standard]

@[simp] theorem setDynAddr_time (a : Nat) (m : Dev) : (setDynAddr a m).time = m.time := rfl

@[simp] theorem directed_time (bs : List Byte) (m : Dev) : (directed bs m).time = m.time := by simp [directed]

@[simp] theorem assign_time (a : Nat) (m : Dev) : (assign a m).time = m.time := by simp [assign]

@[simp] theorem entdaa_time (a : Nat) (m : Dev) : (entdaa a m).time = m.time := by simp [entdaa]

@[simp] theorem setIbi_time (on : Bool) (events : Nat) (m : Dev) : (setIbi on events m).time = m.time := by simp [setIbi]

@[simp] theorem rstact_time (b : Nat) (m : Dev) : (rstact b m).time = m.time := by simp [rstact]

@[simp] theorem peripheralReset_time (m : Dev) : (peripheralReset m).time = m.time := by simp [peripheralReset]

@[simp] theorem setEid_time (inst : BitVec 8) (operation eid : Nat) (m : Dev) :
    (setEid inst operation eid m).time = m.time := by simp [setEid]

@[simp] theorem vRead_time (inst : BitVec 8) (off : Nat) (m : Dev) : (vRead inst off m).time = m.time := by simp [vRead]

@[simp] theorem vWrite_time (inst : BitVec 8) (off : Nat) (v : Word) (m : Dev) : (vWrite inst off v m).time = m.time := by
  simp [vWrite]

@[simp] theorem vPlace_time (inst : BitVec 8) (coord appliance ns : Word) (m : Dev) :
    (vPlace inst coord appliance ns m).time = m.time := by simp [vPlace]

@[simp] theorem vTime_time (inst : BitVec 8) (ns : Word) (m : Dev) : (vTime inst ns m).time = m.time := by simp [vTime]

@[simp] theorem vAttest_time (inst : BitVec 8) (nonce : List Byte) (m : Dev) : (vAttest inst nonce m).time = m.time := by
  simp [vAttest]

@[simp] theorem vCert_time (inst : BitVec 8) (c : List Byte) (m : Dev) : (vCert inst c m).time = m.time := by simp [vCert]

@[simp] theorem setImage_time (x : Option Image) (m : Dev) : (setImage x m).time = m.time := rfl

@[simp] theorem vBegin_time (inst : BitVec 8) (kind n : Nat) (m : Dev) : (vBegin inst kind n m).time = m.time := by
  simp [vBegin]

@[simp] theorem vData_time (inst : BitVec 8) (off : Nat) (data : List Byte) (m : Dev) :
    (vData inst off data m).time = m.time := by
  unfold vData
  split
  · simp -implicitDefEqProofs
  · split <;> simp -implicitDefEqProofs

@[simp] theorem vEnd_time (inst : BitVec 8) (verified : Bool) (m : Dev) : (vEnd inst verified m).time = m.time := by
  unfold vEnd
  split <;> simp

@[simp] theorem effecterWrite_time (x : Effecter) (v : Nat) (m : Dev) : (effecterWrite x v m).time = m.time := by
  unfold effecterWrite
  split <;> simp

@[simp] theorem pollEvent_time (inst : BitVec 8) (m : Dev) : (pollEvent inst m).time = m.time := by
  unfold pollEvent
  split <;> simp

@[simp] theorem setUpdate_time (x : Update) (m : Dev) : (setUpdate x m).time = m.time := rfl

@[simp] theorem updState_time (n : Nat) (m : Dev) : (updState n m).time = m.time := rfl

@[simp] theorem requestUpdate_time (inst : BitVec 8) (m : Dev) : (requestUpdate inst m).time = m.time := by
  simp [requestUpdate]

@[simp] theorem passComponent_time (inst : BitVec 8) (c : Nat) (m : Dev) : (passComponent inst c m).time = m.time := by
  simp [passComponent]

@[simp] theorem askData_time (m : Dev) : (askData m).time = m.time := by simp [askData]

@[simp] theorem updateComponent_time (inst : BitVec 8) (c size gen : Nat) (m : Dev) :
    (updateComponent inst c size gen m).time = m.time := by simp [updateComponent]

@[simp] theorem transferDone_time (x : Image) (signatureOk : Bool) (m : Dev) :
    (transferDone x signatureOk m).time = m.time := by simp [transferDone]

@[simp] theorem firmwareData_time (off : Nat) (data : List Byte) (signatureOk : Bool) (m : Dev) :
    (firmwareData off data signatureOk m).time = m.time := by
  unfold firmwareData
  split <;> simp

@[simp] theorem storeEnds_time (writeOk : Bool) (m : Dev) : (storeEnds writeOk m).time = m.time := by simp [storeEnds]

@[simp] theorem activateFirmware_time (inst : BitVec 8) (verified accepted : Bool) (m : Dev) :
    (activateFirmware inst verified accepted m).time = m.time := by simp [activateFirmware]

@[simp] theorem cancelComponent_time (inst : BitVec 8) (m : Dev) : (cancelComponent inst m).time = m.time := by
  simp [cancelComponent]

@[simp] theorem cancelUpdate_time (inst : BitVec 8) (m : Dev) : (cancelUpdate inst m).time = m.time := by
  simp [cancelUpdate]

/-! ### Ports -/

@[simp] theorem jtagSelect_time (c : BitVec 8) (m : Dev) : (jtagSelect c m).time = m.time := rfl

@[simp] theorem boundaryScan_time (cells : BitVec 29) (m : Dev) : (boundaryScan cells m).time = m.time := by
  simp [boundaryScan]

@[simp] theorem extest_time (cells : BitVec 29) (m : Dev) : (extest cells m).time = m.time := by simp [extest]

@[simp] theorem bypassScan_time (tdi : Bool) (m : Dev) : (bypassScan tdi m).time = m.time := by simp [bypassScan]

@[simp] theorem holdOutputs_time (c : BitVec 8) (m : Dev) : (holdOutputs c m).time = m.time := rfl

@[simp] theorem ethEmit_time (e : Nat) (bs : List Byte) (m : Dev) : (ethEmit e bs m).time = m.time := rfl

@[simp] theorem ethDown_time (e : Nat) (m : Dev) : (ethDown e m).time = m.time := by simp [ethDown]

@[simp] theorem ethTrained_time (e : Nat) (m : Dev) : (ethTrained e m).time = m.time := by simp [ethTrained]

@[simp] theorem echoReply_time (e : Nat) (src : BitVec 128) (body : List Byte) (m : Dev) :
    (echoReply e src body m).time = m.time := by simp [echoReply]

@[simp] theorem neighbour_time (e : Nat) (kind : NdKind) (target : BitVec 128) (mac : BitVec 48) (m : Dev) :
    (neighbour e kind target mac m).time = m.time := by
  unfold neighbour
  split
  · simp -implicitDefEqProofs
  · split <;> simp -implicitDefEqProofs

@[simp] theorem pauseFrame_time (e priority quanta : Nat) (m : Dev) : (pauseFrame e priority quanta m).time = m.time := by
  simp [pauseFrame]

/-! ### Every command -/

/-- A command that answers a module whose local time stands has kept local time. -/
theorem time_of_next {m : Dev} {s s' : State}
    (h : (.next { s with dev := m } : Host.Outcome State Fault Refusal) = .next s')
    (hm : m.time = s.dev.time) : s'.dev.time = s.dev.time := by
  obtain rfl := Host.Outcome.next.inj h
  exact hm

/-- The start from power leaves a powered module alone and starts the local time of any other from 0. -/
theorem powerUp_time (m : Dev) : (powerUp m).time = if m.power.converter then m.time else 0 := by
  unfold powerUp
  split <;> rfl

/-- Settles O5: every command but power-up answers an operation that keeps local time. -/
theorem localTimeIsSetByNoCommand : Obligations.LocalTimeIsSetByNoCommand := by
  intro c s s' h
  cases c
  case powerUp =>
    obtain rfl := Host.Outcome.next.inj h
    show (powerUp s.dev).time = s.dev.time ∨ _ ∧ (powerUp s.dev).time = 0
    rw [powerUp_time]
    split
    · exact .inl rfl
    · exact .inr ⟨rfl, rfl⟩
  all_goals
    refine .inl (time_of_next h ?_)
    simp -implicitDefEqProofs
end Sys2Proof.Machine

/-! SUPPORT. A stop in order leaves BELLOWS_STOP and the supply alone until it sets STOPPING: what `stopWork` calls writes other
registers only (R442 to R444, R503). -/
namespace Sys2Proof.Machine

/-- The registers are well formed, BELLOWS_STOP reads `w`, and the supply stands at `p`. -/
structure StopAt (w : Word) (p : Power) (m : Dev) : Prop where
  wf : regsWf m = true
  stop : rd aBELLOWS_STOP m = w
  power : m.power = p

section
variable {w : Word} {p : Power} {m n : Dev}

/-! ### Register writes -/

/-- What leaves the registers and the supply alone leaves BELLOWS_STOP alone. -/
theorem StopAt.congr (h : StopAt w p m) (hr : n.regs = m.regs) (hp : n.power = m.power) : StopAt w p n where
  wf := by
    unfold regsWf
    rw [hr]
    exact h.wf
  stop := (rd_congr hr _).trans h.stop
  power := hp.trans h.power

theorem wr_stopAt {o : Nat} {v : Word} (ho : aBELLOWS_STOP ≠ o) (h : StopAt w p m) : StopAt w p (wr o v m) where
  wf := regsWf_wr h.wf o v
  stop := (rd_wr_ne h.wf v ho).trans h.stop
  power := h.power

theorem wrF_stopAt {o : Nat} {f : Fld} {k : Nat} (ho : aBELLOWS_STOP ≠ o) (h : StopAt w p m) : StopAt w p (wrF o f k m) :=
  wr_stopAt ho h

theorem countSat_stopAt {o : Nat} {f : Fld} {k : Nat} (ho : aBELLOWS_STOP ≠ o) (h : StopAt w p m) :
    StopAt w p (countSat o f k m) :=
  wrF_stopAt ho h

theorem countWrap_stopAt {o : Nat} {f : Fld} {k : Nat} (ho : aBELLOWS_STOP ≠ o) (h : StopAt w p m) :
    StopAt w p (countWrap o f k m) :=
  wrF_stopAt ho h

theorem recordFirst_stopAt {o : Nat} {v : Word} (ho : aBELLOWS_STOP ≠ o) (h : StopAt w p m) :
    StopAt w p (recordFirst o v m) := by
  unfold recordFirst
  split
  · exact h
  · exact wr_stopAt ho h

theorem raise_stopAt {c : Cause} (hc : c.leaf < 128) (h : StopAt w p m) : StopAt w p (raise c m) where
  wf := regsWf_raise h.wf c
  stop := (rd_raise_ne h.wf c (by unfold Cause.reg aINT_LEAF aBELLOWS_STOP; omega)).trans h.stop
  power := (raise_power c m).trans h.power

theorem forEach_stopAt {α : Type} {xs : List α} {f : α → Dev → Dev} (hf : ∀ x m, StopAt w p m → StopAt w p (f x m))
    (h : StopAt w p m) : StopAt w p (forEach xs f m) :=
  forEach_keeps (StopAt w p) xs f m (fun x _ => hf x) h

theorem when_stopAt {c : Bool} {f : Dev → Dev} (hf : ∀ m, StopAt w p m → StopAt w p (f m)) (h : StopAt w p m) :
    StopAt w p (when c f m) :=
  when_keeps (StopAt w p) c f m (hf m) h

/-- The registers of the dies and tiles lie above BELLOWS_STOP. -/
theorem stop_ne_of_lt {o : Nat} (h : 0x100000 ≤ o) : aBELLOWS_STOP ≠ o := by
  unfold aBELLOWS_STOP
  omega

theorem stop_ne_chanterStats (t : Nat) : aBELLOWS_STOP ≠ onTile aCHANTER_STATS t := by
  apply stop_ne_of_lt
  unfold onTile aCHANTER_STATS
  omega

theorem stop_ne_chanterFault (t : Nat) : aBELLOWS_STOP ≠ onTile aCHANTER_FAULT t := by
  apply stop_ne_of_lt
  unfold onTile aCHANTER_FAULT
  omega

theorem stop_ne_tileCal (t : Nat) : aBELLOWS_STOP ≠ onTile aBELLOWS_TILE_CAL t := by
  apply stop_ne_of_lt
  unfold onTile aBELLOWS_TILE_CAL
  omega

theorem stop_ne_tileRingReg (t r k : Nat) : aBELLOWS_STOP ≠ tileRingReg t r k := by
  apply stop_ne_of_lt
  unfold tileRingReg aRING_BASE
  omega

theorem stop_ne_fixRingReg (d i j k : Nat) : aBELLOWS_STOP ≠ aFIX_RING_BASE d i j + 8 * k := by
  apply stop_ne_of_lt
  unfold aFIX_RING_BASE
  omega

theorem stop_ne_arrival (d c : Nat) : aBELLOWS_STOP ≠ aDIE_ARRIVAL d c := by
  apply stop_ne_of_lt
  unfold aDIE_ARRIVAL
  omega

theorem stop_ne_winnowStats (d : Nat) : aBELLOWS_STOP ≠ aWINNOW_STATS d := by
  apply stop_ne_of_lt
  unfold aWINNOW_STATS
  omega

theorem stop_ne_linkStatus (l : Nat) : aBELLOWS_STOP ≠ aWINDROW_LINK_STATUS l := by
  unfold aBELLOWS_STOP aWINDROW_LINK_STATUS
  omega

theorem stop_ne_attempt (g : Nat) : aBELLOWS_STOP ≠ attemptReg g := by
  unfold aBELLOWS_STOP attemptReg aDRONE_ATTEMPT
  omega

theorem stop_ne_ethPort (e : Nat) : aBELLOWS_STOP ≠ aETH_PORT e := by
  unfold aBELLOWS_STOP aETH_PORT
  omega

theorem addRef_stopAt {r k : Nat} (h : StopAt w p m) : StopAt w p (addRef r k m) :=
  countWrap_stopAt (stop_ne_arrival _ _) h

/-! ### Pages of the tiers -/

theorem stN_stopAt {k a v : Nat} (h : StopAt w p m) : StopAt w p (stN k a v m) := h.congr rfl rfl

theorem setMapF_stopAt {range page v : Nat} {f : Fld} (h : StopAt w p m) : StopAt w p (setMapF range page f v m) :=
  h.congr rfl rfl

theorem setMap_stopAt {range page : Nat} {v : Word} (h : StopAt w p m) : StopAt w p (setMap range page v m) := h.congr rfl rfl

theorem setOwner_stopAt {k i : Nat} {v : Word} (h : StopAt w p m) : StopAt w p (setOwner k i v m) := h.congr rfl rfl

theorem popFrame_stopAt {k range page i : Nat} (e : popFrame k range page m = some (i, n)) (h : StopAt w p m) :
    StopAt w p n := by
  unfold popFrame at e
  split at e
  · cases e
  · split at e
    · cases e
    · cases e
      exact setOwner_stopAt (stN_stopAt (stN_stopAt h))

theorem pushFrame_stopAt {k i : Nat} (h : StopAt w p m) : StopAt w p (pushFrame k i m) := by
  unfold pushFrame
  split
  · exact setOwner_stopAt h
  · exact stN_stopAt (stN_stopAt (setOwner_stopAt h))

theorem copyRaw_stopAt {src dst k : Nat} (h : StopAt w p m) : StopAt w p (copyRaw src dst k m) :=
  forEach_stopAt (fun _ _ h => h.congr rfl rfl) (h.congr rfl rfl)

theorem evictEnd_stopAt {k i : Nat} (h : StopAt w p m) : StopAt w p (evictEnd k i m) :=
  countSat_stopAt (by decide) (pushFrame_stopAt (setMap_stopAt h))

theorem writeHome_stopAt {range page : Nat} {e : Word} (h : StopAt w p m) : StopAt w p (writeHome range page e m) := by
  unfold writeHome
  split
  · exact copyRaw_stopAt h
  · exact h

theorem evictStart_stopAt {k i : Nat} {dirty : Bool} (e : evictStart k m = some (i, dirty, n)) (h : StopAt w p m) :
    StopAt w p n := by
  unfold evictStart at e
  split at e
  · cases e
  · cases e
    exact setMapF_stopAt (stN_stopAt h)

theorem fillEnd_stopAt {page k i : Nat} {ok : Bool} (h : StopAt w p m) : StopAt w p (fillEnd page k i ok m) := by
  simp only [fillEnd]
  apply setMap_stopAt
  split
  · split
    · exact copyRaw_stopAt h
    · exact h
  · exact h

theorem peerAsk_stopAt {die a k : Nat} (h : StopAt w p m) : StopAt w p (peerAsk die a k m) := by
  unfold peerAsk
  split
  · exact h
  · exact h.congr rfl rfl

theorem nvmePut_stopAt {x : NvmeCmd} (h : StopAt w p m) : StopAt w p (nvmePut x m) :=
  when_stopAt (fun _ h => h.congr rfl rfl) (h.congr rfl rfl)

theorem nvmeSend_stopAt {write flush : Bool} {page die : Nat} {u : NvmeUse} (h : StopAt w p m) :
    StopAt w p (nvmeSend write flush page u die m) :=
  nvmePut_stopAt h

theorem askPage_stopAt {die page : Nat} (h : StopAt w p m) : StopAt w p (askPage die page m) := by
  refine forEach_stopAt (fun i m h => forEach_stopAt (fun c m h => ?_) h) h
  split
  · exact peerAsk_stopAt h
  · exact h

theorem evictWrite_stopAt {die page : Nat} (h : StopAt w p m) : StopAt w p (evictWrite die page m) := by
  unfold evictWrite
  split
  · exact nvmeSend_stopAt (h.congr rfl rfl)
  · exact askPage_stopAt (h.congr rfl rfl)

theorem evictOne_stopAt {die k : Nat} (h : StopAt w p m) : StopAt w p (evictOne die k m) := by
  unfold evictOne
  split
  · exact h
  next e =>
    have hn := evictStart_stopAt e h
    simp only
    split
    · exact evictEnd_stopAt hn
    · split
      · exact evictEnd_stopAt (writeHome_stopAt hn)
      · exact evictWrite_stopAt hn

theorem makeRoom_stopAt {die k : Nat} (h : StopAt w p m) : StopAt w p (makeRoom die k m) := by
  unfold makeRoom
  split
  · exact h
  · exact evictOne_stopAt h

theorem beginFill_stopAt {die page k i : Nat} (h : StopAt w p m) : StopAt w p (beginFill die page k i m) :=
  nvmeSend_stopAt (h.congr rfl rfl)

theorem seekFrame_stopAt {die page k : Nat} (h : StopAt w p m) : StopAt w p (seekFrame die page k m) := by
  unfold seekFrame
  split
  next e => exact beginFill_stopAt (popFrame_stopAt e h)
  · simp only
    split
    next e => exact beginFill_stopAt (popFrame_stopAt e (makeRoom_stopAt h))
    · exact makeRoom_stopAt h

theorem serveFault_stopAt {x : Nat × Nat} (h : StopAt w p m) : StopAt w p (serveFault x m) := by
  unfold serveFault
  split
  · exact seekFrame_stopAt h
  · exact h

theorem retryWaiting_stopAt (h : StopAt w p m) : StopAt w p (retryWaiting m) :=
  forEach_stopAt (fun _ _ => makeRoom_stopAt) (forEach_stopAt (fun _ _ => serveFault_stopAt) h)

theorem fillDone_stopAt {page : Nat} {ok : Bool} (h : StopAt w p m) : StopAt w p (fillDone page ok m) := by
  unfold fillDone
  split
  · exact h
  · exact retryWaiting_stopAt (fillEnd_stopAt (h.congr rfl rfl))

/-! ### Packets and links -/

theorem windrowFault_stopAt {kind link coord job : Nat} (h : StopAt w p m) : StopAt w p (windrowFault kind link coord job m) :=
  recordFirst_stopAt (by decide) h

theorem sendStopped_stopAt {s : SendStop} {coord job : Nat} (h : StopAt w p m) : StopAt w p (sendStopped s coord job m) := by
  cases s with
  | noKey => exact raise_stopAt (c := cWINDROW_JOB_NO_KEY) (by decide) (windrowFault_stopAt h)
  | plainProtected => exact raise_stopAt (c := cWINDROW_JOB_PLAIN_PROTECTED) (by decide) (windrowFault_stopAt h)
  | notMember => exact raise_stopAt (c := cWINDROW_JOB_NOT_MEMBER) (by decide) (windrowFault_stopAt h)

theorem sendDraft_stopAt {d : Draft} (h : StopAt w p m) : StopAt w p (sendDraft d m) := by
  simp only [sendDraft]
  split
  · exact h.congr rfl rfl
  · exact h.congr rfl rfl

theorem setLink_stopAt {l : Nat} {x : LinkDyn} (h : StopAt w p m) : StopAt w p (setLink l x m) := h.congr rfl rfl

theorem useFree_stopAt {k : Nat} (h : StopAt w p m) : StopAt w p (useFree k m) := h.congr rfl rfl

theorem emit_stopAt {o : Out} (h : StopAt w p m) : StopAt w p (emit o m) := h.congr rfl rfl

theorem startPacket_stopAt {l : Nat} {x : Packet} (h : StopAt w p m) : StopAt w p (startPacket l x m) :=
  emit_stopAt (useFree_stopAt (setLink_stopAt h))

theorem nextByWeight_stopAt {fuel l : Nat} {q : QueuedPkt} (e : nextByWeight fuel l m = some (q, n)) (h : StopAt w p m) :
    StopAt w p n := by
  induction fuel generalizing m with
  | zero => cases e
  | succ fuel ih =>
    simp only [nextByWeight] at e
    split at e
    · exact ih e (setLink_stopAt h)
    · split at e
      · cases e
        exact setLink_stopAt h
      · exact ih e (setLink_stopAt h)

theorem nextPacket_stopAt {l : Nat} {q : QueuedPkt} (e : nextPacket l m = some (q, n)) (h : StopAt w p m) : StopAt w p n := by
  unfold nextPacket at e
  split at e
  · cases e
    exact h
  · split at e
    · exact nextByWeight_stopAt e h
    · cases e

theorem drainSteps_stopAt {fuel l : Nat} (h : StopAt w p m) : StopAt w p (drainSteps fuel l m) := by
  induction fuel generalizing m with
  | zero => exact h
  | succ fuel ih =>
    unfold drainSteps
    split
    · exact h
    next e => exact ih (startPacket_stopAt (setLink_stopAt (nextPacket_stopAt e h)))

theorem drainQueue_stopAt {l : Nat} (h : StopAt w p m) : StopAt w p (drainQueue l m) := drainSteps_stopAt h

/-! ### Rings and collectives -/

theorem ringWr_stopAt {q k : Nat} {v : Word} (h : StopAt w p m) : StopAt w p (ringWr q k v m) := by
  unfold ringWr
  split
  · exact forEach_stopAt (fun t _ => wr_stopAt (stop_ne_tileRingReg _ _ _)) h
  · exact wr_stopAt (stop_ne_fixRingReg _ _ _ _) h

theorem setFetch_stopAt {q k : Nat} (h : StopAt w p m) : StopAt w p (setFetch q k m) := ringWr_stopAt h

theorem setDyn_stopAt {q : Nat} {x : RingDyn} (h : StopAt w p m) : StopAt w p (setDyn q x m) := h.congr rfl rfl

theorem cancelWork_stopAt {q : Nat} (h : StopAt w p m) : StopAt w p (cancelWork q m) := h.congr rfl rfl

theorem undoPages_stopAt {moving popped : List (Nat × Nat)} (h : StopAt w p m) : StopAt w p (undoPages moving popped m) := by
  have hpages := forEach_stopAt (xs := popped) (fun kf _ => pushFrame_stopAt (k := kf.1) (i := kf.2))
    (forEach_stopAt (xs := moving) (fun rp _ => setMapF_stopAt (range := rp.1) (page := rp.2) (f := mMOVING) (v := 0)) h)
  unfold undoPages
  split
  · exact hpages
  · exact retryWaiting_stopAt hpages

theorem killRaw_stopAt {q : Nat} (h : StopAt w p m) : StopAt w p (killRaw q m) :=
  forEach_stopAt (fun t _ => countSat_stopAt (stop_ne_chanterStats t))
    (setDyn_stopAt (setFetch_stopAt (forEach_stopAt (fun _ _ h => h.congr rfl rfl) (undoPages_stopAt (cancelWork_stopAt h)))))

theorem stopWaiting_stopAt {q : Nat} (h : StopAt w p m) : StopAt w p (stopWaiting q m) :=
  setDyn_stopAt (setFetch_stopAt (cancelWork_stopAt h))

theorem haltMarks_stopAt {q reason : Nat} {v : Word} (h : StopAt w p m) : StopAt w p (haltMarks q reason v m) :=
  forEach_stopAt (fun _ _ => raise_stopAt (show 40 < 128 by decide))
    (forEach_stopAt (fun t _ h => countSat_stopAt (stop_ne_chanterStats t) (recordFirst_stopAt (stop_ne_chanterFault t) h))
      (ringWr_stopAt h))

theorem haltRaw_stopAt {q reason : Nat} (h : StopAt w p m) : StopAt w p (haltRaw q reason m) := by
  refine haltMarks_stopAt ?_
  split
  · exact killRaw_stopAt h
  · exact stopWaiting_stopAt h

theorem setAttempt_stopAt {g a : Nat} (h : StopAt w p m) : StopAt w p (setAttempt g a m) := wrF_stopAt (stop_ne_attempt g) h

theorem answerChunk_stopAt {mkind : Nat} {x : Packet} (h : StopAt w p m) : StopAt w p (answerChunk mkind x m) := by
  unfold answerChunk
  split
  · exact h
  · exact sendDraft_stopAt h

theorem sendAborts_stopAt {c : Coll} {reason : Nat} (h : StopAt w p m) : StopAt w p (sendAborts c reason m) := by
  unfold sendAborts
  split
  · exact h
  · split
    · exact h
    · exact forEach_stopAt (fun _ _ => sendDraft_stopAt) h

theorem abortOne_stopAt {c : Coll} (h : StopAt w p m) : StopAt w p (abortOne c m) := by
  refine countSat_stopAt (by decide) (StopAt.congr (when_stopAt (fun _ => addRef_stopAt) ?_) rfl rfl)
  exact forEach_stopAt (fun _ _ => answerChunk_stopAt) (h.congr rfl rfl)

theorem abortKeys_stopAt {fuel : Nat} {ks : List AbortKey} (h : StopAt w p m) : StopAt w p (abortKeys fuel ks m) := by
  induction fuel generalizing ks m with
  | zero => exact h
  | succ fuel ih =>
    cases ks with
    | nil => exact h
    | cons k rest =>
      refine ih (forEach_stopAt (fun _ _ => sendAborts_stopAt) (forEach_stopAt (fun q m h => ?_)
        (setAttempt_stopAt (forEach_stopAt (fun _ _ => abortOne_stopAt) h))))
      split
      · exact h
      · exact haltRaw_stopAt h

theorem haltRing_stopAt {q reason : Nat} (h : StopAt w p m) : StopAt w p (haltRing q reason m) := by
  simp only [haltRing]
  split
  · exact haltRaw_stopAt h
  · exact abortKeys_stopAt (forEach_stopAt (fun _ _ => sendAborts_stopAt) (haltRaw_stopAt h))

theorem killRing_stopAt {q : Nat} (h : StopAt w p m) : StopAt w p (killRing q m) := by
  unfold killRing
  split
  · exact killRaw_stopAt h
  · exact haltRing_stopAt h

/-! ### Requests of the memory fabric -/

theorem dropLines_stopAt {die coord a k : Nat} (h : StopAt w p m) : StopAt w p (dropLines die coord a k m) := by
  unfold dropLines
  split
  · exact h
  · exact h.congr rfl rfl

theorem newTag_stopAt (h : StopAt w p m) : StopAt w p (newTag m).2 := h.congr rfl rfl

theorem nextSeq_stopAt {die coord : Nat} (h : StopAt w p m) : StopAt w p (nextSeq die coord m).2 := h.congr rfl rfl

theorem linkPayload_stopAt {d : Draft} {slot : Nat} {prot : Bool} (h : StopAt w p m) :
    StopAt w p (linkPayload d slot prot m).2 := by
  unfold linkPayload
  split
  · exact h
  · simp only
    split
    · exact h
    · split
      · exact countSat_stopAt (stop_ne_winnowStats _) h
      · split
        · exact h
        · split <;> exact countSat_stopAt (stop_ne_winnowStats _) h

theorem issue_stopAt {d : Draft} {x : Waiter} {pre : List Byte} {src : Option Nat} (h : StopAt w p m) :
    StopAt w p (issue d x pre src m) :=
  StopAt.congr (dropLines_stopAt (sendDraft_stopAt h)) rfl rfl

theorem dropRequests_stopAt {f : Waiter → Bool} (h : StopAt w p m) : StopAt w p (dropRequests f m) := h.congr rfl rfl

theorem dropLent_stopAt {page : Nat} (h : StopAt w p m) : StopAt w p (dropLent page m) := h.congr rfl rfl

theorem evictRead_stopAt {die page status : Nat} (h : StopAt w p m) : StopAt w p (evictRead die page status m) := by
  unfold evictRead
  split
  · exact h
  · split
    · split
      · exact evictWrite_stopAt h
      · exact h
    · exact dropLent_stopAt (setMapF_stopAt (h.congr rfl rfl))

theorem pageAnswered_stopAt {die a k status : Nat} {data : List Byte} (h : StopAt w p m) :
    StopAt w p (pageAnswered die a k status data m) := by
  simp only [pageAnswered]
  split
  · exact evictRead_stopAt (h.congr rfl rfl)
  · exact h.congr rfl rfl

theorem failWaiter_stopAt {x : Waiter} (h : StopAt w p m) : StopAt w p (failWaiter x m) := by
  unfold failWaiter
  split
  · exact haltRing_stopAt (dropRequests_stopAt h)
  · split
    · exact dropRequests_stopAt (h.congr rfl rfl)
    · exact fillDone_stopAt (dropRequests_stopAt h)
    · exact pageAnswered_stopAt h
    · exact h

theorem sendAfter_stopAt {l : Later} (h : StopAt w p m) : StopAt w p (sendAfter l m) := h.congr rfl rfl

theorem sendPeers_stopAt {x : Waiter} {q job : Nat} (h : StopAt w p m) : StopAt w p (sendPeers x q job m) := by
  unfold sendPeers
  split
  · exact h
  · extract_lets m1 kept
    have hsent : StopAt w p m1 := forEach_stopAt (fun _ _ => sendAfter_stopAt) h
    exact hsent.congr rfl rfl

theorem laterReq_stopAt {l : Later} (h : StopAt w p m) : StopAt w p (laterReq l m).2 := by
  simp only [laterReq]
  split
  · exact h
  · refine StopAt.congr (m := if chunkReq l m ≠ 0 then m else (nextSeq l.die (bitsAt l.dest.toNat 0 9) m).2) ?_ ?_ ?_
    · split
      · exact h
      · exact nextSeq_stopAt h
    · split <;> rfl
    · split <;> rfl

theorem sendLater_stopAt {l : Later} (h : StopAt w p m) : StopAt w p (sendLater l m) := by
  unfold sendLater
  split
  · exact failWaiter_stopAt (sendStopped_stopAt h)
  · exact issue_stopAt (linkPayload_stopAt (newTag_stopAt (laterReq_stopAt h)))

theorem pump_stopAt {fuel : Nat} (h : StopAt w p m) : StopAt w p (pump fuel m) := by
  induction fuel generalizing m with
  | zero => exact h
  | succ fuel ih =>
    unfold pump
    split
    · exact h
    · exact ih (sendLater_stopAt (h.congr rfl rfl))

theorem askRead_stopAt {x : Waiter} {die coord a k job : Nat} (h : StopAt w p m) :
    StopAt w p (askRead x die coord a k job m) := by
  unfold askRead
  split
  · exact failWaiter_stopAt (sendStopped_stopAt h)
  · exact issue_stopAt (newTag_stopAt h)

theorem askPiece_stopAt {job : Nat} {x : PeerPiece} (h : StopAt w p m) : StopAt w p (askPiece job x m) := by
  simp only [askPiece]
  split
  · exact h
  · split
    · exact pageAnswered_stopAt h
    · exact askRead_stopAt h

theorem pumpAll_stopAt (h : StopAt w p m) : StopAt w p (pumpAll m) := by
  refine pump_stopAt (forEach_stopAt (fun _ _ => askPiece_stopAt) ?_)
  split
  · exact h
  · exact sendPeers_stopAt h

/-! ### The end of a plan's commit, and the stop itself -/

theorem fplanCause_leaf_lt (c : Nat) : (fplanCause c).leaf < 128 := by
  unfold fplanCause
  split <;> decide

theorem planFaults_stopAt {phase cause strip group target off : Nat} (h : StopAt w p m) :
    StopAt w p (planFaults phase cause strip group target off m) :=
  raise_stopAt (fplanCause_leaf_lt cause) (recordFirst_stopAt (o := aFPLAN_FAULT) (by decide) h)

theorem setPlanState_stopAt {k : Nat} (h : StopAt w p m) : StopAt w p (setPlanState k m) := wrF_stopAt (by decide) h

theorem planResult_stopAt {k : Nat} (h : StopAt w p m) : StopAt w p (planResult k m) := wrF_stopAt (by decide) h

theorem planCounts_stopAt (h : StopAt w p m) : StopAt w p (planCounts m) :=
  wrF_stopAt (by decide) (wrF_stopAt (by decide) h)

theorem unfreeze_stopAt (h : StopAt w p m) : StopAt w p (unfreeze m) := planCounts_stopAt (h.congr rfl rfl)

theorem unitsResume_stopAt (h : StopAt w p m) : StopAt w p (unitsResume m) :=
  pumpAll_stopAt (forEach_stopAt (fun _ _ => drainQueue_stopAt) h)

theorem commitEnds_stopAt {result cause group target off : Nat} (h : StopAt w p m) :
    StopAt w p (commitEnds result cause group target off m) :=
  unitsResume_stopAt (planResult_stopAt (setPlanState_stopAt (planFaults_stopAt (unfreeze_stopAt h))))

theorem linkSilent_stopAt {l : Nat} (h : StopAt w p m) : StopAt w p (linkSilent l m) := by
  unfold linkSilent
  split
  · exact h
  · exact setLink_stopAt (wrF_stopAt (stop_ne_linkStatus l) (wrF_stopAt (stop_ne_linkStatus l) h))

theorem sweepEnds_stopAt {t found : Nat} (h : StopAt w p m) : StopAt w p (sweepEnds t found m) := by
  unfold sweepEnds
  extract_lets r m1
  have hdone : StopAt w p m1 := wrF_stopAt (stop_ne_tileCal t) (wrF_stopAt (stop_ne_tileCal t) h)
  exact hdone.congr rfl rfl

theorem stopWork_stopAt (h : StopAt w p m) : StopAt w p (stopWork m) := by
  refine forEach_stopAt (fun e _ => wrF_stopAt (stop_ne_ethPort e)) (forEach_stopAt (fun _ _ => linkSilent_stopAt)
    (forEach_stopAt (fun _ _ => sweepEnds_stopAt) (forEach_stopAt (fun _ _ => killRing_stopAt) ?_)))
  split
  · exact commitEnds_stopAt h
  · exact h
end

/-! ### What a reset clears -/

/-- What a canonical map reads as when only the keys that meet `q` are left in it. -/
theorem Sparse.get_filter_key {α : Type} [DecidableEq α] (d : α) (q : Nat → Bool) {m : Sparse α}
    (h : m.wfD (fun _ => d) = true) (k : Nat) :
    Sparse.get d (m.filter fun c => q c.1) k = if q k then Sparse.get d m k else d := by
  unfold Sparse.get
  induction m with
  | nil => simp [Sparse.getD]
  | cons c rest ih =>
    obtain ⟨j, v⟩ := c
    obtain ⟨_, ha, hr⟩ := (Sparse.wfD_cons _ j v rest).1 h
    have hrest := ih hr
    by_cases hq : q j = true
    · simp only [List.filter_cons, hq, if_true]
      by_cases h1 : k = j
      · simp [Sparse.getD, h1, hq]
      · by_cases h2 : k < j
        · simp [Sparse.getD, h1, h2]
        · simpa [Sparse.getD, h1, h2] using hrest
    · simp only [List.filter_cons, hq, if_false, Bool.false_eq_true, hrest]
      by_cases h1 : k = j
      · simp [h1, hq]
      · by_cases h2 : k < j
        · simp [Sparse.getD, h1, h2, Sparse.getD_above _ ha (Nat.le_of_lt h2)]
        · simp [Sparse.getD, h1, h2]

/-- What a reset clears, and what stays (R448, R496, R503). -/
def Cleared (m n : Dev) : Prop :=
  n.regs = [] ∧ n.shadow = [] ∧ n.rings = [] ∧ n.keys = [] ∧ n.links = [] ∧
    (∀ a, ldByte a n = if granaryBase ≤ a then ldByte a m else 0) ∧ n.nvm.bytes = m.nvm.bytes ∧ n.slots.perstN = 0

theorem dropStore_of_none {m : Dev} (h : m.nvm.store = none) : dropStore m = m := by
  unfold dropStore
  rw [h]

theorem ldByte_filter_persists {m n : Dev} (hm : Memory.wf m.mem = true) (h : n.mem = m.mem.filter persists) (a : Nat) :
    ldByte a n = if granaryBase ≤ a then ldByte a m else 0 := by
  unfold ldByte
  rw [h]
  exact (Sparse.get_filter_key (0 : Byte) (fun a => granaryBase ≤ a) hm a).trans (by simp)

/-- A reset while no STORE is under way, seen through the fields that it does not clear. -/
theorem resetModule_mem {m : Dev} (h : m.nvm.store = none) : (resetModule m).mem = m.mem.filter persists := by
  unfold resetModule
  rw [dropStore_of_none h]

theorem resetModule_nvm {m : Dev} (h : m.nvm.store = none) : (resetModule m).nvm = m.nvm := by
  unfold resetModule
  rw [dropStore_of_none h]

theorem resetModule_power {m : Dev} (h : m.nvm.store = none) : (resetModule m).power = m.power := by
  unfold resetModule
  rw [dropStore_of_none h]

theorem resetModule_perstN (m : Dev) : (resetModule m).slots.perstN = 0 := by
  simp [resetModule, slotsJudged]

theorem cleared_resetModule {m : Dev} (hm : Memory.wf m.mem = true) (h : m.nvm.store = none) : Cleared m (resetModule m) :=
  ⟨rfl, rfl, rfl, rfl, rfl, ldByte_filter_persists hm (resetModule_mem h), congrArg _ (resetModule_nvm h),
    resetModule_perstN m⟩

theorem unpowered_nvm_bytes {m : Dev} (h : m.nvm.store = none) : (unpowered m).nvm.bytes = m.nvm.bytes := by
  show (resetModule m).nvm.bytes = m.nvm.bytes
  rw [resetModule_nvm h]

/-- Without power the slots have no reference clock either. -/
theorem cleared_unpowered {m : Dev} (hm : Memory.wf m.mem = true) (h : m.nvm.store = none) : Cleared m (unpowered m) :=
  ⟨rfl, rfl, rfl, rfl, rfl, ldByte_filter_persists hm (resetModule_mem h), unpowered_nvm_bytes h, rfl⟩

theorem cleared_powerUp {m : Dev} (hm : Memory.wf m.mem = true) (h : m.nvm.store = none) (hc : m.power.converter = false) :
    Cleared m (powerUp m) ∧ (powerUp m).time = 0 ∧ (powerUp m).power.pwrOk = true := by
  simp only [powerUp, hc]
  exact ⟨cleared_unpowered hm h, rfl, rfl⟩

theorem cleared_converterStop {m : Dev} (hm : Memory.wf m.mem = true) (h : m.nvm.store = none)
    (hc : m.power.converter = true) :
    Cleared m (converterStop m) ∧ (converterStop m).power.pwrOk = false ∧ (converterStop m).power.converter = false := by
  simp only [converterStop, hc]
  exact ⟨cleared_unpowered hm h, rfl, rfl⟩

theorem cleared_railLeaves {m : Dev} (hm : Memory.wf m.mem = true) (h : m.nvm.store = none) (hp : m.power.pwrOk = true) :
    Cleared m (railLeaves m) ∧ (railLeaves m).power.pwrOk = false ∧ (railLeaves m).time = m.time := by
  simp only [railLeaves, hp]
  exact ⟨cleared_resetModule hm h, rfl, resetModule_time m⟩

theorem cleared_stopFallEnd {m : Dev} (hm : Memory.wf m.mem = true) (h : m.nvm.store = none)
    (hs : isSet aBELLOWS_STOP fBELLOWS_STOP_STOPPING m = true) (hd : m.power.resetDue = true) :
    Cleared m (stopFallEnd m) ∧ (stopFallEnd m).time = m.time := by
  simp only [stopFallEnd, hs, hd]
  exact ⟨cleared_resetModule hm h, resetModule_time m⟩

theorem resetAssert_of_stopped {m : Dev} (hp : m.power.pwrOk = true)
    (hs : isSet aBELLOWS_STOP fBELLOWS_STOP_STOPPED m = true) :
    resetAssert m = resetModule { m with power := { m.power with resetLow := true } } := by
  simp [resetAssert, hp, hs]

theorem cleared_resetAssert {m : Dev} (hm : Memory.wf m.mem = true) (h : m.nvm.store = none) (hp : m.power.pwrOk = true)
    (hs : isSet aBELLOWS_STOP fBELLOWS_STOP_STOPPED m = true) :
    Cleared m (resetAssert m) ∧ (resetAssert m).time = m.time ∧ (resetAssert m).power.resetLow = true := by
  rw [resetAssert_of_stopped hp hs]
  have hlow : ({ m with power := { m.power with resetLow := true } } : Dev).nvm.store = none := h
  exact ⟨cleared_resetModule hm hlow, resetModule_time _, congrArg Power.resetLow (resetModule_power hlow)⟩

/-! ### A reset of a running module -/

/-- A stop with reason 0 sets STOPPING and leaves REASON and the supply. -/
theorem beginStop_zero {m : Dev} (h : regsWf m = true) (hs : stopNow m = false) :
    isSet aBELLOWS_STOP fBELLOWS_STOP_STOPPING (beginStop 0 m) = true ∧
    rdF aBELLOWS_STOP fBELLOWS_STOP_REASON (beginStop 0 m) = rdF aBELLOWS_STOP fBELLOWS_STOP_REASON m ∧
    (beginStop 0 m).power = m.power := by
  obtain ⟨hwf, hstop, hpower⟩ := stopWork_stopAt (StopAt.mk h rfl rfl)
  have hb : beginStop 0 m = wrF aBELLOWS_STOP fBELLOWS_STOP_STOPPING 1 (stopWork m) := by
    simp [beginStop, hs]
  have hset : rdF aBELLOWS_STOP fBELLOWS_STOP_STOPPING (beginStop 0 m) = 1 := by
    rw [hb]
    exact rdF_wrF_same hwf _ _ 1 (by decide)
  refine ⟨decide_eq_true hset, ?_, ?_⟩
  · rw [hb, rdF_wrF_other hwf _ _ _ _ (by decide) (by decide)]
    exact congrArg fBELLOWS_STOP_REASON.get hstop
  · rw [hb]
    exact hpower

theorem resetAssert_of_running {m : Dev} (hp : m.power.pwrOk = true) (hs : stopNow m = false) :
    resetAssert m = beginStop 0 { m with power := { m.power with resetLow := true, resetDue := true } } := by
  have hstopped : isSet aBELLOWS_STOP fBELLOWS_STOP_STOPPED m = false := (Bool.or_eq_false_iff.1 hs).2
  simp [resetAssert, hp, hstopped]

/-- Settles O16: each way into reset ends in `resetModule`, but for RESET_N at a running module, which begins a stop. -/
theorem resetsClearWhatDoesNotPersist : Obligations.ResetsClearWhatDoesNotPersist := by
  intro s hsound hstore
  obtain ⟨hm, hregs⟩ : Memory.wf s.dev.mem = true ∧ regsWf s.dev = true := by
    simp only [Dev.sound, Bool.and_eq_true] at hsound
    tauto
  refine ⟨fun hc => ⟨_, rfl, cleared_powerUp hm hstore hc⟩, fun hc => ⟨_, rfl, cleared_converterStop hm hstore hc⟩,
    fun hp => ⟨_, rfl, cleared_railLeaves hm hstore hp⟩, fun hs hd => ⟨_, rfl, cleared_stopFallEnd hm hstore hs hd⟩,
    fun hp hs => ⟨_, rfl, cleared_resetAssert hm hstore hp hs⟩, fun hp hs => ⟨_, rfl, ?_⟩⟩
  rw [resetAssert_of_running hp hs]
  obtain ⟨hset, hreason, hpower⟩ := beginStop_zero
    (m := { s.dev with power := { s.dev.power with resetLow := true, resetDue := true } }) hregs hs
  exact ⟨congrArg Power.resetLow hpower, congrArg Power.resetDue hpower, hset, hreason⟩
end Sys2Proof.Machine

/-! SUPPORT. One cycle of an idle Seedbed bank (R87 to R95): the order of grants among requests that have just come, and what an
access that is granted or refused changes. -/
namespace Sys2Proof.Machine

/-! ### Registers that are written as they stand -/

/-- A write of the value that a key reads as leaves a canonical map as it is. -/
theorem Sparse.setD_getD {α : Type} [DecidableEq α] (d : Nat → α) {m : Sparse α} (h : m.wfD d = true) (k : Nat) :
    m.setD d k (m.getD d k) = m := by
  induction m with
  | nil => simp [Sparse.setD, Sparse.getD, Sparse.drop]
  | cons c rest ih =>
    obtain ⟨j, v⟩ := c
    obtain ⟨hv, _, hrest⟩ := (Sparse.wfD_cons d j v rest).1 h
    have hih := ih hrest
    rcases Nat.lt_trichotomy k j with hk | rfl | hk
    · simp [Sparse.setD, Sparse.getD, Sparse.drop, Nat.ne_of_lt hk, hk]
    · simp [Sparse.setD, Sparse.getD, Sparse.put, hv]
    · have hne : k ≠ j := by omega
      have hnlt : ¬ k < j := by omega
      simp only [Sparse.setD, Sparse.getD, Sparse.put, Sparse.drop, if_neg hne, if_neg hnlt] at hih ⊢
      split <;> simp_all

theorem wr_rd {m : Dev} (h : regsWf m = true) (o : Nat) : wr o (rd o m) m = m := by
  unfold wr rd
  rw [Sparse.setD_getD resetWord h o]

theorem Fld_put_get (f : Fld) (v : Word) : f.put v (f.get v) = v := by
  apply BitVec.eq_of_getLsbD_eq
  intro i hi
  rw [Fld_put_getLsbD, Fld_get_testBit]
  by_cases hf : f.lo ≤ i ∧ i - f.lo < f.w
  · simp [hi, hf, Nat.add_sub_cancel' hf.1]
  · simp [hi, hf]

/-- Counting nothing leaves the module as it is. -/
theorem countSat_zero {m : Dev} (h : regsWf m = true) (o : Nat) (f : Fld) : countSat o f 0 m = m := by
  have hlt : rdF o f m < 2 ^ f.w := Fld_get_lt f _
  have hsat : satAdd (2 ^ f.w - 1) (rdF o f m) 0 = f.get (rd o m) := by
    unfold satAdd
    exact Nat.min_eq_right (by omega)
  unfold countSat wrF
  rw [hsat, Fld_put_get, wr_rd h]

theorem countStarve_zero {m : Dev} (h : regsWf m = true) (b : BankRef) : countStarve b 0 m = m := by
  cases b with
  | tile t k => exact countSat_zero h _ _
  | shared d k => rfl
  | buffer s => rfl

/-! ### The order of grants (R88, R92) -/

/-- One request precedes another in the fixed priority. -/
def beforeIn (x y : BankReq × Nat) : Prop := x.1.master.val < y.1.master.val

/-- A bank takes up at most one request of each master, in the order of the masters. -/
theorem heads_sorted (xs : List (BankReq × Nat)) :
    ((List.range 10).filterMap fun k => firstOf k xs).Pairwise beforeIn := by
  have hmaster : ∀ {k x}, firstOf k xs = some x → x.1.master.val = k := fun h => by simpa using List.find?_some h
  rw [List.pairwise_filterMap]
  refine List.pairwise_lt_range.imp fun {j k} hjk x hx y hy => ?_
  unfold beforeIn
  rw [hmaster hx, hmaster hy]
  exact hjk

/-- Where each master has one request, a bank takes all of them up. -/
theorem mem_heads_iff {xs : List (BankReq × Nat)} (h : (xs.map fun x => x.1.master.val).Nodup) (x : BankReq × Nat) :
    x ∈ (List.range 10).filterMap (fun k => firstOf k xs) ↔ x ∈ xs := by
  rw [List.mem_filterMap]
  constructor
  · rintro ⟨k, _, hk⟩
    exact List.mem_of_find?_eq_some hk
  · intro hx
    obtain ⟨y, hy⟩ : ∃ y, firstOf x.1.master.val xs = some y :=
      Option.isSome_iff_exists.1 (List.find?_isSome.2 ⟨x, hx, by simp⟩)
    have hmaster : y.1.master.val = x.1.master.val := by simpa using List.find?_some hy
    obtain rfl : y = x := List.inj_on_of_nodup_map h (List.mem_of_find?_eq_some hy) hx hmaster
    exact ⟨_, List.mem_range.2 y.1.master.isLt, hy⟩

theorem masters_nodup {xs : List (BankReq × Nat)} (h : xs.Pairwise beforeIn) :
    (xs.map fun x => x.1.master.val).Nodup :=
  List.pairwise_map.2 (h.imp Nat.ne_of_lt)

/-- Requests of different masters that have not stalled are granted in the order of their masters, in whatever order they came. -/
theorem grantOrder_of_fresh {xs ys : List (BankReq × Nat)} (hnew : ∀ x ∈ xs, x.2 < 32) (hys : ys.Pairwise beforeIn)
    (hperm : ys.Perm xs) : grantOrder xs = ys := by
  have hmasters : (xs.map fun x => x.1.master.val).Nodup :=
    (hperm.map _).nodup_iff.1 (masters_nodup hys)
  have hheads : (List.range 10).filterMap (fun k => firstOf k xs) = ys := by
    refine List.Perm.eq_of_pairwise (fun x y _ _ hxy hyx => absurd hxy (Nat.lt_asymm hyx)) (heads_sorted xs) hys ?_
    rw [List.perm_ext_iff_of_nodup (masters_nodup (heads_sorted xs)).of_map (masters_nodup hys).of_map]
    exact fun x => (mem_heads_iff hmasters x).trans hperm.mem_iff.symm
  have hyoung : ∀ y ∈ ys, y.2 < 32 := fun y hy => hnew y (hperm.mem_iff.1 hy)
  have hstarved : ys.filter (fun y => 32 ≤ y.2) = [] :=
    List.filter_eq_nil_iff.2 fun y hy => by simpa using hyoung y hy
  have hrest : ys.filter (fun y => y.2 < 32) = ys := List.filter_eq_self.2 fun y hy => by simpa using hyoung y hy
  simp only [grantOrder, hheads, hstarved, hrest, List.nil_append]

theorem grantOrder_singleton (q : BankReq) : grantOrder [(q, 0)] = [(q, 0)] :=
  grantOrder_of_fresh (by simp) (List.pairwise_singleton _ _) (List.Perm.refl _)

/-- Three requests that come in the reverse order of their masters are granted in the order of their masters. -/
theorem grantOrder_three {x y z : BankReq} (hxy : x.master.val < y.master.val) (hyz : y.master.val < z.master.val) :
    grantOrder [(z, 0), (y, 0), (x, 0)] = [(x, 0), (y, 0), (z, 0)] := by
  have hxz : x.master.val < z.master.val := hxy.trans hyz
  refine grantOrder_of_fresh (by simp) ?_ (List.reverse_perm [(z, 0), (y, 0), (x, 0)])
  simpa [beforeIn] using ⟨⟨hxy, hxz⟩, hyz⟩

/-! ### The lists of requests and of corrections -/

@[simp] theorem setWaitingAt_mem (b : Nat) (xs : List (BankReq × Nat)) (m : Dev) : (setWaitingAt b xs m).mem = m.mem := rfl
@[simp] theorem setWaitingAt_regs (b : Nat) (xs : List (BankReq × Nat)) (m : Dev) : (setWaitingAt b xs m).regs = m.regs := rfl
@[simp] theorem setWaitingAt_out (b : Nat) (xs : List (BankReq × Nat)) (m : Dev) : (setWaitingAt b xs m).out = m.out := rfl
@[simp] theorem setWaitingAt_poisonLane (b : Nat) (xs : List (BankReq × Nat)) (m : Dev) :
    (setWaitingAt b xs m).poisonLane = m.poisonLane := rfl

@[simp] theorem dropWriteBack_mem (b row : Nat) (m : Dev) : (dropWriteBack b row m).mem = m.mem := rfl
@[simp] theorem dropWriteBack_regs (b row : Nat) (m : Dev) : (dropWriteBack b row m).regs = m.regs := rfl
@[simp] theorem dropWriteBack_out (b row : Nat) (m : Dev) : (dropWriteBack b row m).out = m.out := rfl

/-- Requests that are put to wait at a bank wait there. -/
theorem waitingAt_setWaitingAt {xs : List (BankReq × Nat)} (h : xs ≠ []) (b : Nat) (m : Dev) :
    waitingAt b (setWaitingAt b xs m) = xs := by
  unfold waitingAt setWaitingAt Sparse.get Sparse.upd Sparse.setD
  rw [if_neg h]
  exact Sparse.getD_put_same _ _ _ _

theorem regsSameBut_of_regs {m n : Dev} (h : n.regs = m.regs) : regsSameBut [] m n := fun o _ => rd_congr h o

/-! ### A cycle of a bank that is idle -/

section
variable {b : BankRef} {m : Dev} (hput : putOffOf (bankNum b) m = none)
  (hnone : waitingAt (bankNum b) m = []) (hwaits : ∀ k < 10, (bankGate b k).waits m = false)
include hput hnone

/-- A request that the region check refuses is refused at once (R95). -/
theorem seedbedAccess_refused {q : BankReq} (hq : reqAllowed b q m = false) :
    seedbedAccess b [q] m = setWaitingAt (bankNum b) [] (countStarve b 0 (reqRefuse b q m)) := by
  have horder : grantOrder [] = [] := rfl
  simp [seedbedAccess, hnone, hq, hput, horder, forEach]

include hwaits

/-- One request that the region check allows is served in its cycle (R87). -/
theorem seedbedAccess_granted (hregs : regsWf m = true) {q : BankReq} (hq : reqAllowed b q m = true) :
    seedbedAccess b [q] m = setWaitingAt (bankNum b) [] (bankServe b q m) := by
  have hgo : (bankGate b q.master.val).waits m = false := hwaits _ q.master.isLt
  simp [seedbedAccess, hnone, hq, hput, hgo, grantOrder_singleton, forEach, countStarve_zero hregs, bankPorts, dropFirst]

/-- Of three requests that are allowed the two first in priority are granted, and the third waits, stalled once (R88, R90). -/
theorem waitingAt_seedbedAccess_three {x y z : BankReq} (hx : reqAllowed b x m = true) (hy : reqAllowed b y m = true)
    (hz : reqAllowed b z m = true) (hxy : x.master.val < y.master.val) (hyz : y.master.val < z.master.val) :
    waitingAt (bankNum b) (seedbedAccess b [z, y, x] m) = [(z, 1)] := by
  have hgo : ∀ r : BankReq, (bankGate b r.master.val).waits m = false := fun r => hwaits _ r.master.isLt
  have hleft : dropFirst y.master.val (dropFirst x.master.val [(z, 0), (y, 0), (x, 0)]) = [(z, 0)] := by
    have hzx : z.master.val ≠ x.master.val := by omega
    have hyx : y.master.val ≠ x.master.val := by omega
    have hzy : z.master.val ≠ y.master.val := by omega
    simp [dropFirst, hzx, hyx, hzy]
  have hstall : stallFirst z.master.val [(z, 0)] = [(z, 1)] := by simp [stallFirst]
  simp [seedbedAccess, hnone, hput, hx, hy, hz, hgo, grantOrder_three hxy hyz, hleft, hstall, waitingAt_setWaitingAt]
end

/-! ### A granted write (R87) -/

theorem ldBytes_getD (a : Nat) (m : Dev) {n i : Nat} (hi : i < n) : (ldBytes a n m).getD i 0 = ldByte (a + i) m := by
  simp [ldBytes, hi]

theorem mergeBytes_length (old : List Byte) (mask : BitVec 64) (data : BitVec 512) : (mergeBytes old mask data).length = 64 := by
  simp [mergeBytes]

theorem mergeBytes_getD (old : List Byte) (mask : BitVec 64) (data : BitVec 512) {i : Nat} (hi : i < 64) :
    (mergeBytes old mask data).getD i 0 =
      if mask.getLsbD i then BitVec.ofNat 8 (data.toNat / 2 ^ (8 * i)) else old.getD i 0 := by
  simp [mergeBytes, hi]

@[simp] theorem bankWrite_regs (a : Nat) (mask : BitVec 64) (data : BitVec 512) (m : Dev) :
    (bankWrite a mask data m).regs = m.regs := rfl
@[simp] theorem bankWrite_out (a : Nat) (mask : BitVec 64) (data : BitVec 512) (m : Dev) :
    (bankWrite a mask data m).out = m.out := rfl

/-- A byte of the word has the data's byte where its enable is set, and keeps its value elsewhere. -/
theorem ldByte_bankWrite_in {m : Dev} (h : Memory.wf m.mem = true) (a : Nat) (mask : BitVec 64) (data : BitVec 512) {i : Nat}
    (hi : i < 64) : ldByte (a + i) (bankWrite a mask data m) =
      if mask.getLsbD i then BitVec.ofNat 8 (data.toNat / 2 ^ (8 * i)) else ldByte (a + i) m := by
  calc ldByte (a + i) (bankWrite a mask data m)
      = (mergeBytes (ldBytes a 64 m) mask data).getD i 0 :=
        ldByte_stBytes_in h a _ i (by rw [mergeBytes_length]; exact hi)
    _ = _ := by rw [mergeBytes_getD _ _ _ hi, ldBytes_getD a m hi]

theorem memSameBut_bankWrite {m : Dev} (h : Memory.wf m.mem = true) (a : Nat) (mask : BitVec 64) (data : BitVec 512) :
    memSameBut a 64 m (bankWrite a mask data m) :=
  fun x hx => ldByte_stBytes_out h a _ x (by rw [mergeBytes_length]; exact hx)

theorem bankServe_write {b : BankRef} {q : BankReq} {m : Dev} (hw : q.write = true) (he : q.ecc = .clean) :
    bankServe b q m = dropWriteBack (bankNum b) q.row (bankWrite (wordAddr b q.row) q.mask q.data m) := by
  simp [bankServe, hw, he, bankEcc]

/-! ### A granted read (R87) -/

theorem bankServe_read {b : BankRef} {q : BankReq} {m : Dev} (hw : q.write = false) (he : q.ecc = .clean)
    (hput : putOffOf (bankNum b) m = none) (hp : poisoned (wordAddr b q.row) 64 m = false) :
    bankServe b q m =
      emit (.bankWord (bankNum b) q.row (BitVec.ofNat 512 (leNat (ldBytes (wordAddr b q.row) 64 m))) false) m := by
  simp [bankServe, hw, bankRead, he, bankEcc, hput, hp]

/-! ### A refused request (R95) -/

/-- A fault record changes registers alone. -/
theorem recordFirst_cases (o : Nat) (v : Word) (m : Dev) : ∃ r, recordFirst o v m = { m with regs := r } := by
  unfold recordFirst
  split
  · exact ⟨_, rfl⟩
  · exact ⟨_, rfl⟩

theorem rd_recordFirst_ne {m : Dev} (h : regsWf m = true) {o p : Nat} (v : Word) (hp : p ≠ o) :
    rd p (recordFirst o v m) = rd p m := by
  unfold recordFirst
  split
  · rfl
  · exact rd_wr_ne h _ hp

theorem regsWf_recordFirst {m : Dev} (h : regsWf m = true) (o : Nat) (v : Word) : regsWf (recordFirst o v m) = true := by
  unfold recordFirst
  split
  · exact h
  · exact regsWf_wr h o _

theorem dieOf_tileIdx (t : TileId) : dieOf (tileIdx t) = t.die.val := by
  have := t.tile.isLt
  unfold dieOf tileIdx
  omega

/-- A refusal at a tile's gate raises REGION_FAULT and records the fault; it changes registers and what raising a cause changes,
no byte, no mark and no answer. -/
theorem refuseRegion_tile {m : Dev} (h : regsWf m = true) (t : TileId) (k off : Nat) (write : Bool) :
    let n := refuseRegion (.tile (tileIdx t) k) off write m
    regsWf n = true ∧ leafSet (cDIE_SEEDBED_REGION_FAULT t.die.val) n = true ∧ n.mem = m.mem ∧ n.out = m.out ∧
      n.poisonLane = m.poisonLane := by
  have hdie : (Gate.tile (tileIdx t) k).die = t.die.val := dieOf_tileIdx t
  simp only [refuseRegion, gateFault, hdie]
  set c := cDIE_SEEDBED_REGION_FAULT t.die.val with hc
  have hreg : c.reg ≠ onTile aTILE_SEEDBED_FAULT (tileIdx t) := by
    have := t.die.isLt
    simp only [hc, Cause.reg, cDIE_SEEDBED_REGION_FAULT, aINT_LEAF, onTile, aTILE_SEEDBED_FAULT]
    omega
  have hraised := regsWf_raise h c
  refine ⟨regsWf_recordFirst hraised _ _, ?_, ?_⟩
  · rw [leafSet_of_rd (rd_recordFirst_ne hraised _ hreg)]
    exact leafSet_raise h c
  · obtain ⟨r, hr⟩ := recordFirst_cases (onTile aTILE_SEEDBED_FAULT (tileIdx t)) _ (raise c m)
    obtain ⟨g, n, f, hraise⟩ := raise_cases c m
    rw [hr, hraise]
    exact ⟨rfl, rfl, rfl⟩

theorem regsWf_of_regs {m n : Dev} (h : regsWf m = true) (hr : n.regs = m.regs) : regsWf n = true := by
  unfold regsWf
  rw [hr]
  exact h

/-- The answer to a refused request: to a read, zeros marked as poisoned. -/
def refusedAnswer (b : BankRef) (q : BankReq) (m : Dev) : Dev := when (!q.write) (emit (.bankWord (bankNum b) q.row 0 true)) m

theorem reqRefuse_tile_eq (t : TileId) (k : Fin 64) (q : BankReq) (m : Dev) :
    reqRefuse (.tile t k) q m =
      refuseRegion (.tile (tileIdx t) q.master.val) (bankOff (.tile t k) q.row) q.write (refusedAnswer (.tile t k) q m) := rfl

theorem refusedAnswer_eq (b : BankRef) (q : BankReq) (m : Dev) : refusedAnswer b q m =
    { m with out := m.out ++ (if q.write then [] else [.bankWord (bankNum b) q.row 0 true]) } := by
  unfold refusedAnswer
  cases q.write with
  | true => simp
  | false => rfl

/-- A refused request of a tile's bank is answered and then refused at the tile's gate. -/
theorem reqRefuse_tile {m : Dev} (h : regsWf m = true) (t : TileId) (k : Fin 64) (q : BankReq) :
    let n := reqRefuse (.tile t k) q m
    regsWf n = true ∧ leafSet (cDIE_SEEDBED_REGION_FAULT t.die.val) n = true ∧ n.mem = m.mem ∧
      n.out = m.out ++ (if q.write then [] else [.bankWord (bankNum (.tile t k)) q.row 0 true]) ∧
      n.poisonLane = m.poisonLane := by
  rw [reqRefuse_tile_eq, refusedAnswer_eq]
  set out := m.out ++ (if q.write then [] else [.bankWord (bankNum (.tile t k)) q.row 0 true])
  have hwf : regsWf { m with out := out } = true := h
  exact refuseRegion_tile hwf t _ _ _

/-! ### The obligation -/

theorem exec_seedbedAccess (b : BankRef) (qs : List BankReq) (s : State) :
    exec (.seedbedAccess b qs) s = .next { s with dev := seedbedAccess b qs s.dev } := rfl

theorem exec_eccWriteback (b : BankRef) (s : State) :
    exec (.eccWriteback b) s = .next { s with dev := eccWriteback b s.dev } := rfl

/-- Settles O26: the cycle of an idle bank is the service, the refusal or the grant order of its requests, and a write-back moves
the list of corrections alone. -/
theorem seedbedBankServesOneRequest : Obligations.SeedbedBankServesOneRequest := by
  intro t k q s hsound hclean _ b a hput hnone hwaits
  obtain ⟨hmem, hregs⟩ : Memory.wf s.dev.mem = true ∧ regsWf s.dev = true := by
    simp only [Dev.sound, Bool.and_eq_true] at hsound
    tauto
  refine ⟨fun hq hw => ?write, fun hq hw hp => ?read, fun hq => ?refused, fun x y z hall hxy hyz => ?three,
    ⟨_, exec_eccWriteback b s, rfl, memSame_of_mem rfl, regsSameBut_of_regs rfl⟩⟩
  case write =>
    refine ⟨_, exec_seedbedAccess b [q] s, ?_⟩
    rw [seedbedAccess_granted hput hnone hwaits hregs hq, bankServe_write hw hclean]
    have hsame : memSame (bankWrite a q.mask q.data s.dev)
        (setWaitingAt (bankNum b) [] (dropWriteBack (bankNum b) q.row (bankWrite a q.mask q.data s.dev))) :=
      memSame_of_mem (by simp)
    exact ⟨fun i hi => (hsame _).trans (ldByte_bankWrite_in hmem a q.mask q.data hi),
      fun x hx => (hsame x).trans (memSameBut_bankWrite hmem a q.mask q.data x hx), regsSameBut_of_regs (by simp), by simp⟩
  case read =>
    refine ⟨_, exec_seedbedAccess b [q] s, ?_⟩
    rw [seedbedAccess_granted hput hnone hwaits hregs hq, bankServe_read hw hclean hput hp]
    exact ⟨rfl, memSame_of_mem (by simp), regsSameBut_of_regs (by simp)⟩
  case refused =>
    obtain ⟨hwf, hleaf, hsame, hout, hpoison⟩ := reqRefuse_tile hregs t k q
    refine ⟨_, exec_seedbedAccess b [q] s, ?_⟩
    rw [seedbedAccess_refused hput hnone hq, countStarve_zero hwf]
    refine ⟨?_, memSame_of_mem hsame, (setWaitingAt_out _ _ _).trans hout, (setWaitingAt_poisonLane _ _ _).trans hpoison⟩
    rw [leafSet_of_rd (rd_congr (setWaitingAt_regs _ _ _) _)]
    exact hleaf
  case three =>
    refine ⟨_, exec_seedbedAccess b [z, y, x] s, ?_⟩
    simp only [List.all_cons, List.all_nil, Bool.and_true, Bool.and_eq_true] at hall
    obtain ⟨⟨hx, _⟩, ⟨hy, _⟩, hz, _⟩ := hall
    exact waitingAt_seedbedAccess_three hput hnone hwaits hx hy hz hxy hyz
end Sys2Proof.Machine

/-! SUPPORT. The registers stay well formed through the reads and writes of the module's units, and through the fetch of an entry
(R91, R95, R105, R291). -/
namespace Sys2Proof.Machine

theorem regsWf_of_sound {m : Dev} (h : m.sound = true) : regsWf m = true := by
  simp only [Dev.sound, Bool.and_eq_true] at h
  obtain ⟨⟨⟨⟨⟨⟨⟨_, hregs⟩, _⟩, _⟩, _⟩, _⟩, _⟩, _⟩ := h
  exact hregs

/-- What keeps BELLOWS_STOP and the supply, whatever they are, keeps the registers well formed. -/
theorem regsWf_of_stopAt {m n : Dev} (hn : ∀ w p, StopAt w p m → StopAt w p n) (h : regsWf m = true) : regsWf n = true :=
  (hn _ _ ⟨h, rfl, rfl⟩).wf

/-! ### Updates that leave the registers alone -/

theorem forEach_regs {α : Type} {xs : List α} {f : α → Dev → Dev} {m : Dev} (hf : ∀ x m, (f x m).regs = m.regs) :
    (forEach xs f m).regs = m.regs :=
  forEach_keeps (fun n => n.regs = m.regs) xs f m (fun x _ n hn => (hf x n).trans hn) rfl

theorem when_regs {c : Bool} {f : Dev → Dev} {m : Dev} (hf : (f m).regs = m.regs) : (when c f m).regs = m.regs := by
  unfold when
  split
  · exact hf
  · rfl

theorem peerAsk_regs (die a n : Nat) (m : Dev) : (peerAsk die a n m).regs = m.regs := by
  unfold peerAsk
  split <;> rfl

theorem peerRead_regs (die a n : Nat) (m : Dev) : (peerRead die a n m).m.regs = m.regs := by
  simp only [peerRead]
  split
  · refine foldl_keeps Dev.regs fun m c => ?_
    split
    · exact peerAsk_regs die c.1 c.2 m
    · rfl
  · rfl

theorem pageWritten_regs (a : Nat) (m : Dev) : (pageWritten a m).regs = m.regs := by
  unfold pageWritten
  split
  · exact when_regs rfl
  · rfl

theorem coverPages_regs (a n : Nat) (m : Dev) : (coverPages a n m).regs = m.regs := by
  refine forEach_regs fun u m => ?_
  split <;> rfl

/-! ### Reads and writes -/

section
variable {m : Dev}

theorem regsWf_countSat {o : Nat} {f : Fld} {k : Nat} (h : regsWf m = true) : regsWf (countSat o f k m) = true :=
  regsWf_wrF h o f _

theorem regsWf_countWrap {o : Nat} {f : Fld} {k : Nat} (h : regsWf m = true) : regsWf (countWrap o f k m) = true :=
  regsWf_wrF h o f _

theorem regsWf_forEach {α : Type} {xs : List α} {f : α → Dev → Dev}
    (hf : ∀ x m, regsWf m = true → regsWf (f x m) = true) (h : regsWf m = true) : regsWf (forEach xs f m) = true :=
  forEach_keeps (fun m => regsWf m = true) xs f m (fun x _ => hf x) h

theorem regsWf_when {c : Bool} {f : Dev → Dev} (hf : regsWf m = true → regsWf (f m) = true) (h : regsWf m = true) :
    regsWf (when c f m) = true :=
  when_keeps (fun m => regsWf m = true) c f m hf h

theorem regsWf_gateFault {g : Gate} {kind off : Nat} {write : Bool} (h : regsWf m = true) :
    regsWf (gateFault g kind off write m) = true := by
  cases g with
  | tile t k => exact regsWf_recordFirst h _ _
  | shared d k tl => exact regsWf_recordFirst h _ _
  | none => exact h

theorem regsWf_refuseRegion {g : Gate} {off : Nat} {write : Bool} (h : regsWf m = true) :
    regsWf (refuseRegion g off write m) = true :=
  regsWf_gateFault (regsWf_raise h _)

theorem regsWf_refuseMap {ag : Agent} (h : regsWf m = true) : regsWf (refuseMap ag m) = true := regsWf_raise h _

theorem regsWf_poisonMet {write : Bool} {a : Nat} {g : Gate} {bad off : Nat} (h : regsWf m = true) :
    regsWf (poisonMet write a g bad off m) = true := by
  unfold poisonMet
  split
  · exact regsWf_gateFault (regsWf_raise h _)
  · exact regsWf_gateFault (regsWf_raise h _)
  · exact regsWf_recordFirst (regsWf_countSat (regsWf_raise h _)) _ _
  · exact h

theorem regsWf_beginFault {die p : Nat} (h : regsWf m = true) : regsWf (beginFault die p m) = true :=
  regsWf_countSat (m := setMapF 1 p mBUSY 1 m) h

theorem regsWf_readServed {ag : Agent} {a n : Nat} {sv : Served} (h : regsWf m = true) :
    regsWf (readServed ag a n sv m).m = true := by
  unfold readServed
  split
  · split
    · exact regsWf_poisonMet h
    · exact h
  · exact regsWf_of_regs h (peerRead_regs ..)
  · exact h
  · exact regsWf_refuseRegion h
  · exact regsWf_refuseMap h
  · exact regsWf_beginFault h
  · exact h

theorem regsWf_readVia {ag : Agent} {a n : Nat} (h : regsWf m = true) : regsWf (readVia ag a n m).m = true :=
  List.foldlRecOn (motive := fun r : ReadRes => regsWf r.m = true) _ _ h fun _ hr _ _ => regsWf_readServed hr

theorem regsWf_writeServed {ag : Agent} {a : Nat} {bs : List Byte} {sv : Served} (h : regsWf m = true) :
    regsWf (writeServed ag a bs sv m).m = true := by
  unfold writeServed
  split
  · exact regsWf_of_regs h (pageWritten_regs ..)
  · exact regsWf_of_regs h (pageWritten_regs ..)
  · split
    · split <;> exact regsWf_of_regs h (pageWritten_regs ..)
    · exact h
  · exact regsWf_refuseRegion h
  · exact regsWf_refuseMap h
  · exact regsWf_beginFault h
  · exact h

theorem regsWf_writeVia {ag : Agent} {a : Nat} {bs : List Byte} (h : regsWf m = true) :
    regsWf (writeVia ag a bs m).m = true :=
  regsWf_when (fun hw => regsWf_of_regs hw (coverPages_regs ..))
    (List.foldlRecOn (motive := fun r : WriteRes => regsWf r.m = true) _ _ h fun _ hr _ _ => regsWf_writeServed hr)

theorem regsWf_fetchEntry {q : Nat} (h : regsWf m = true) : regsWf (fetchEntry q m).m = true := by
  refine List.foldlRecOn (motive := fun r : ReadRes => regsWf r.m = true) _ _ (regsWf_readVia h) fun r hr ag _ => ?_
  split
  · exact regsWf_readVia hr
  · exact hr

end
end Sys2Proof.Machine

/-! SUPPORT. The registers of the queue rings and of their engines (R105, R107, R136): what writes other registers leaves every
ring as it is, and what a write on every rank reads as. -/
namespace Sys2Proof.Machine

/-! ### The registers that rings are read from -/

/-- The registers that tell of rings: those that make a tile a member of an engine, and those of every ring. -/
inductive RingOff : Nat → Prop
  | member {t : Nat} (ht : t < 144) : RingOff (aFPLAN_MEMBER t)
  | tile {t r k : Nat} (hr : r < 8) (hk : k < 4) : RingOff (tileRingReg t r k)
  | fixed {d i j k : Nat} (hi : i < 4) (hj : j < 4) (hk : k < 4) : RingOff (aFIX_RING_BASE d i j + 8 * k)

/-- Where those registers lie: the plan's block, and in a die's block the rings of a tile or the fixed engines' rings. -/
theorem RingOff.place {o : Nat} (h : RingOff o) : (0x31000 ≤ o ∧ o < 0x31480) ∨
    (0x100000 ≤ o ∧ (0x3100 ≤ o % 0x8000 ∧ o % 0x8000 < 0x3200 ∨ 0xF1000 ≤ o % 0x100000)) := by
  cases h with
  | member ht =>
    unfold aFPLAN_MEMBER
    omega
  | @tile t r k hr hk =>
    unfold tileRingReg aRING_BASE
    omega
  | @fixed d i j k hi hj hk =>
    unfold aFIX_RING_BASE
    omega

theorem not_ringOff_tierStats : ¬ RingOff aTIER_STATS := fun h => by
  have := h.place
  unfold aTIER_STATS at this
  omega

theorem not_ringOff_planStatus : ¬ RingOff aFPLAN_STATUS := fun h => by
  have := h.place
  unfold aFPLAN_STATUS at this
  omega

theorem not_ringOff_chanterStats (t : Nat) : ¬ RingOff (onTile aCHANTER_STATS t) := fun h => by
  have := h.place
  unfold onTile aCHANTER_STATS dieOf numOf at this
  omega

theorem not_ringOff_chanterFault (t : Nat) : ¬ RingOff (onTile aCHANTER_FAULT t) := fun h => by
  have := h.place
  unfold onTile aCHANTER_FAULT dieOf numOf at this
  omega

theorem not_ringOff_leaf {c : Cause} (hb : c.block < 50) (hl : c.leaf < 128) : ¬ RingOff c.reg := fun h => by
  have := h.place
  unfold Cause.reg aINT_LEAF at this
  omega

/-- The offset of register `k` of a ring tells `k`. -/
theorem mod_of_mem_ringRegs {q k off : Nat} {m : Dev} (h : off ∈ ringRegs q k m) : off % 32 = 8 * k % 32 := by
  unfold ringRegs at h
  split at h
  · obtain ⟨t, -, rfl⟩ := List.mem_map.1 h
    unfold tileRingReg aRING_BASE
    omega
  · obtain rfl := List.mem_singleton.1 h
    unfold aFIX_RING_BASE
    omega

theorem ringIndex_lt (q : Nat) : ringIndex q < 8 := by
  unfold ringIndex
  split <;> omega

theorem ringOff_tile {k : Nat} (hk : k < 4) (t q : Nat) : RingOff (tileRingReg t (ringIndex q) k) := .tile (ringIndex_lt q) hk

theorem ringOff_fixed {q k : Nat} (hq : ringIsCe q = false) (hk : k < 4) :
    RingOff (aFIX_RING_BASE (fixedDie q) (fixedKind q) (ringIndex q) + 8 * k) := by
  refine .fixed (Nat.mod_lt _ (by decide)) ?_ hk
  simp only [ringIsCe, decide_eq_false_iff_not] at hq
  rw [ringIndex, if_neg hq]
  omega

theorem ringOff_of_mem_ringRegs {q k off : Nat} {m : Dev} (hk : k < 4) (h : off ∈ ringRegs q k m) : RingOff off := by
  unfold ringRegs at h
  split at h
  · obtain ⟨t, -, rfl⟩ := List.mem_map.1 h
    exact ringOff_tile hk t q
  next hq =>
    obtain rfl := List.mem_singleton.1 h
    exact ringOff_fixed (by simpa using hq) hk

/-! ### Members, and the numbers of tiles and dies -/

section
variable {m n : Dev}

theorem memberAt_congr (h : ∀ t < 144, rd (aFPLAN_MEMBER t) n = rd (aFPLAN_MEMBER t) m) (e r : Nat) :
    memberAt e r n = memberAt e r m := by
  refine List.find?_congr fun t ht => ?_
  rw [h t (List.mem_range.1 ht)]

theorem memberCount_congr (h : ∀ t < 144, rd (aFPLAN_MEMBER t) n = rd (aFPLAN_MEMBER t) m) (e : Nat) :
    memberCount e n = memberCount e m := by
  refine congrArg List.length (List.filter_congr fun t ht => ?_)
  rw [h t (List.mem_range.1 ht)]

theorem ringTiles_congr (h : ∀ t < 144, rd (aFPLAN_MEMBER t) n = rd (aFPLAN_MEMBER t) m) (q : Nat) :
    ringTiles q n = ringTiles q m := by
  simp only [ringTiles, members, memberCount_congr h, memberAt_congr h]

theorem ringRegs_congr (h : ringTiles q n = ringTiles q m) (k : Nat) : ringRegs q k n = ringRegs q k m := by
  rw [ringRegs, ringRegs, h]

theorem ringDies_congr (h : ringTiles q n = ringTiles q m) : ringDies q n = ringDies q m := by
  rw [ringDies, ringDies, h]

theorem ringTiles_lt {q t : Nat} (h : t ∈ ringTiles q m) : t < 144 := by
  unfold ringTiles at h
  split at h
  · obtain ⟨r, -, hr⟩ := List.mem_filterMap.1 h
    exact List.mem_range.1 (List.mem_of_find?_eq_some hr)
  · cases h

theorem ringDies_lt {q d : Nat} (hq : q < 256) (h : d ∈ ringDies q m) : d < 8 := by
  unfold ringDies at h
  split at h
  · obtain ⟨t, ht, rfl⟩ := List.mem_map.1 (List.mem_eraseDups.1 h)
    have := ringTiles_lt ht
    unfold dieOf
    omega
  · obtain rfl := List.mem_singleton.1 h
    unfold fixedDie
    omega

theorem ringNum_lt (q : RingRef) : ringNum q < 256 := by
  cases q with
  | ce e r => simp only [ringNum]; omega
  | fixed d k r => cases k <;> simp only [ringNum, fixedNum] <;> omega

end

/-! ### What leaves the rings as they are -/

/-- The registers of `n` are well formed, and its rings and engines read as those of `m`. -/
structure RingsAs (m n : Dev) : Prop where
  wf : regsWf n = true
  same : ∀ o, RingOff o → rd o n = rd o m

section
variable {m n : Dev}

theorem RingsAs.refl (h : regsWf m = true) : RingsAs m m := ⟨h, fun _ _ => rfl⟩

theorem RingsAs.trans {l : Dev} (h : RingsAs l m) (h' : RingsAs m n) : RingsAs l n :=
  ⟨h'.wf, fun o ho => (h'.same o ho).trans (h.same o ho)⟩

theorem RingsAs.congr {n' : Dev} (h : RingsAs m n) (hr : n'.regs = n.regs) : RingsAs m n' :=
  ⟨regsWf_of_regs h.wf hr, fun o ho => (rd_congr hr o).trans (h.same o ho)⟩

theorem RingsAs.wr {o : Nat} {v : Word} (ho : ¬ RingOff o) (h : RingsAs m n) : RingsAs m (wr o v n) :=
  ⟨regsWf_wr h.wf o v, fun p hp => (rd_wr_ne h.wf v (fun e => ho (by rwa [← e]))).trans (h.same p hp)⟩

theorem RingsAs.countSat {o k : Nat} {f : Fld} (ho : ¬ RingOff o) (h : RingsAs m n) : RingsAs m (countSat o f k n) := h.wr ho

theorem RingsAs.recordFirst {o : Nat} {v : Word} (ho : ¬ RingOff o) (h : RingsAs m n) : RingsAs m (recordFirst o v n) := by
  unfold Machine.recordFirst
  split
  · exact h
  · exact h.wr ho

theorem RingsAs.raise {c : Cause} (hb : c.block < 50) (hl : c.leaf < 128) (h : RingsAs m n) : RingsAs m (raise c n) :=
  ⟨regsWf_raise h.wf c, fun o ho =>
    (rd_raise_ne h.wf c (fun e => not_ringOff_leaf hb hl (e ▸ ho))).trans (h.same o ho)⟩

theorem RingsAs.forEach {α : Type} {xs : List α} {f : α → Dev → Dev}
    (hf : ∀ x ∈ xs, ∀ n, RingsAs m n → RingsAs m (f x n)) (h : RingsAs m n) : RingsAs m (forEach xs f n) :=
  forEach_keeps (RingsAs m) xs f n hf h

theorem RingsAs.ringTiles (h : RingsAs m n) (q : Nat) : ringTiles q n = ringTiles q m :=
  ringTiles_congr (fun _ ht => h.same _ (.member ht)) q

theorem RingsAs.ringRegs (h : RingsAs m n) (q k : Nat) : ringRegs q k n = ringRegs q k m := ringRegs_congr (h.ringTiles q) k

theorem RingsAs.ringDies (h : RingsAs m n) (q : Nat) : ringDies q n = ringDies q m := ringDies_congr (h.ringTiles q)

theorem RingsAs.ringRd (h : RingsAs m n) {k : Nat} (hk : k < 4) (q : Nat) : ringRd q k n = ringRd q k m := by
  have hlead : leadOf (ringEngine q) n = leadOf (ringEngine q) m := memberAt_congr (fun _ ht => h.same _ (.member ht)) _ _
  unfold Machine.ringRd ringReg
  cases hq : ringIsCe q with
  | true =>
    rw [if_pos rfl, if_pos rfl, hlead]
    cases leadOf (ringEngine q) m with
    | none => rfl
    | some t => exact h.same _ (ringOff_tile hk t q)
  | false => exact h.same _ (ringOff_fixed hq hk)

theorem RingsAs.ringFetch (h : RingsAs m n) (q : Nat) : ringFetch q n = ringFetch q m := by
  rw [Machine.ringFetch, Machine.ringFetch, h.ringRd (by decide)]

theorem RingsAs.ringRerun (h : RingsAs m n) (q : Nat) : ringRerun q n = ringRerun q m := by
  rw [Machine.ringRerun, Machine.ringRerun, h.ringRd (by decide)]

end

/-! ### A write on every rank -/

section
variable {m n : Dev}

theorem forEach_wr {xs : List Nat} {g : Nat → Nat} {v : Word} (h : regsWf m = true) :
    regsWf (forEach xs (fun t => wr (g t) v) m) = true ∧
      ∀ o, rd o (forEach xs (fun t => wr (g t) v) m) = if o ∈ xs.map g then v else rd o m := by
  induction xs generalizing m with
  | nil => exact ⟨h, fun o => rfl⟩
  | cons x xs ih =>
    obtain ⟨hwf, hrd⟩ := ih (regsWf_wr h (g x) v)
    refine ⟨hwf, fun o => (hrd o).trans ?_⟩
    by_cases hx : o = g x
    · subst hx
      simp [rd_wr_same h]
    · simp [rd_wr_ne h v hx, hx]

theorem ringWr_spec (h : regsWf m = true) (q k : Nat) (v : Word) : regsWf (ringWr q k v m) = true ∧
    ∀ o, rd o (ringWr q k v m) = if o ∈ ringRegs q k m then v else rd o m := by
  unfold ringWr ringRegs
  split
  · exact forEach_wr h
  · refine ⟨regsWf_wr h _ v, fun o => ?_⟩
    by_cases ho : o = aFIX_RING_BASE (fixedDie q) (fixedKind q) (ringIndex q) + 8 * k
    · subst ho
      simp [rd_wr_same h]
    · simp [rd_wr_ne h v ho, ho]

theorem regsWf_ringWr {q k : Nat} {v : Word} (h : regsWf m = true) : regsWf (ringWr q k v m) = true := (ringWr_spec h q k v).1

theorem rd_ringWr_mem (h : regsWf m = true) {q k o : Nat} {v : Word} (ho : o ∈ ringRegs q k m) : rd o (ringWr q k v m) = v := by
  rw [(ringWr_spec h q k v).2, if_pos ho]

theorem rd_ringWr_not_mem (h : regsWf m = true) {q k o : Nat} {v : Word} (ho : o ∉ ringRegs q k m) :
    rd o (ringWr q k v m) = rd o m := by
  rw [(ringWr_spec h q k v).2, if_neg ho]

theorem ringWr_mem (q k : Nat) (v : Word) (m : Dev) : (ringWr q k v m).mem = m.mem := by
  unfold ringWr
  split
  · exact forEach_keeps (fun n => n.mem = m.mem) _ _ m (fun _ _ _ hn => hn) rfl
  · rfl

/-- The plan's registers lie in front of the dies', where those of the rings are. -/
theorem member_not_mem_ringRegs {t : Nat} (ht : t < 144) (q k : Nat) : aFPLAN_MEMBER t ∉ ringRegs q k m := fun h => by
  unfold ringRegs at h
  split at h
  · obtain ⟨u, -, hu⟩ := List.mem_map.1 h
    unfold tileRingReg aRING_BASE aFPLAN_MEMBER at hu
    omega
  · have hu := List.mem_singleton.1 h
    unfold aFIX_RING_BASE aFPLAN_MEMBER at hu
    omega

theorem ringTiles_ringWr (h : regsWf m = true) (p q k : Nat) (v : Word) : ringTiles p (ringWr q k v m) = ringTiles p m :=
  ringTiles_congr (fun _ ht => rd_ringWr_not_mem h (member_not_mem_ringRegs ht q k)) p

/-- The same write of a ring keeps two modules alike. -/
theorem RingsAs.ringWr (hm : regsWf m = true) (h : RingsAs m n) {q k : Nat} {v : Word} :
    RingsAs (ringWr q k v m) (ringWr q k v n) := by
  refine ⟨regsWf_ringWr h.wf, fun o ho => ?_⟩
  rw [(ringWr_spec hm q k v).2, (ringWr_spec h.wf q k v).2, h.ringRegs, h.same o ho]

theorem RingsAs.setFetch (hm : regsWf m = true) (h : RingsAs m n) {q k : Nat} : RingsAs (setFetch q k m) (setFetch q k n) := by
  unfold Machine.setFetch
  rw [h.ringRd (by decide)]
  exact h.ringWr hm

end
end Sys2Proof.Machine

/-! SUPPORT. A kill, a halt and the passing of a command, as the registers of the ring show them (R105, R128, R134). -/
namespace Sys2Proof.Machine

/-! ### Pages of a killed group (R313, R314) -/

theorem setOwner_regs (k i : Nat) (v : Word) (m : Dev) : (setOwner k i v m).regs = m.regs := rfl

theorem pushFrame_regs (k i : Nat) (m : Dev) : (pushFrame k i m).regs = m.regs := by
  unfold pushFrame
  split <;> rfl

theorem copyRaw_regs (src dst n : Nat) (m : Dev) : (copyRaw src dst n m).regs = m.regs := forEach_regs fun _ _ => rfl

theorem writeHome_regs (range p : Nat) (e : Word) (m : Dev) : (writeHome range p e m).regs = m.regs := by
  unfold writeHome
  split
  · exact copyRaw_regs ..
  · rfl

theorem nvmeSend_regs (write flush : Bool) (page : Nat) (u : NvmeUse) (die : Nat) (m : Dev) :
    (nvmeSend write flush page u die m).regs = m.regs :=
  when_regs rfl

theorem askPage_regs (die page : Nat) (m : Dev) : (askPage die page m).regs = m.regs :=
  forEach_regs fun _ _ => forEach_regs fun _ _ => by
    split
    · exact peerAsk_regs ..
    · rfl

theorem evictWrite_regs (die page : Nat) (m : Dev) : (evictWrite die page m).regs = m.regs := by
  unfold evictWrite
  split
  · exact nvmeSend_regs ..
  · exact askPage_regs ..

section
variable {m n : Dev}

theorem popFrame_regs {k range p i : Nat} (e : popFrame k range p m = some (i, n)) : n.regs = m.regs := by
  unfold popFrame at e
  split at e
  · cases e
  · split at e
    · cases e
    · cases e
      rw [setOwner_regs, stN_regs, stN_regs]

theorem evictStart_regs {k i : Nat} {dirty : Bool} (e : evictStart k m = some (i, dirty, n)) : n.regs = m.regs := by
  unfold evictStart at e
  split at e
  · cases e
  · cases e
    rfl

theorem RingsAs.evictEnd (h : RingsAs m n) {k i : Nat} : RingsAs m (evictEnd k i n) :=
  RingsAs.countSat (n := pushFrame k i (setMap _ _ _ n)) not_ringOff_tierStats (h.congr (pushFrame_regs ..))

theorem RingsAs.evictOne (h : RingsAs m n) {die k : Nat} : RingsAs m (evictOne die k n) := by
  unfold Machine.evictOne
  split
  · exact h
  next e =>
    have hn := h.congr (evictStart_regs e)
    simp only
    split
    · exact hn.evictEnd
    · split
      · exact (hn.congr (writeHome_regs ..)).evictEnd
      · exact hn.congr (evictWrite_regs ..)

theorem RingsAs.makeRoom (h : RingsAs m n) {die k : Nat} : RingsAs m (makeRoom die k n) := by
  unfold Machine.makeRoom
  split
  · exact h
  · exact h.evictOne

theorem RingsAs.seekFrame (h : RingsAs m n) {die page k : Nat} : RingsAs m (seekFrame die page k n) := by
  unfold Machine.seekFrame
  split
  next e => exact (h.congr (popFrame_regs e)).congr (nvmeSend_regs ..)
  · simp only
    split
    next e => exact (h.makeRoom.congr (popFrame_regs e)).congr (nvmeSend_regs ..)
    · exact h.makeRoom

theorem RingsAs.serveFault (h : RingsAs m n) {w : Nat × Nat} : RingsAs m (serveFault w n) := by
  unfold Machine.serveFault
  split
  · exact h.seekFrame
  · exact h

theorem RingsAs.retryWaiting (h : RingsAs m n) : RingsAs m (retryWaiting n) :=
  (h.forEach fun _ _ _ h => h.serveFault).forEach fun _ _ _ h => h.makeRoom

theorem RingsAs.undoPages (h : RingsAs m n) {moving popped : List (Nat × Nat)} : RingsAs m (undoPages moving popped n) := by
  have hpages : RingsAs m (Machine.forEach popped (fun kf => pushFrame kf.1 kf.2)
      (Machine.forEach moving (fun rp => setMapF rp.1 rp.2 mMOVING 0) n)) :=
    (h.forEach fun rp _ n h => h.congr (n' := setMapF rp.1 rp.2 mMOVING 0 n) rfl).forEach
      fun _ _ _ h => h.congr (pushFrame_regs ..)
  unfold Machine.undoPages
  split
  · exact hpages
  · exact hpages.retryWaiting

/-! ### Kills -/

/-- A ring whose group is killed, or that stops waiting, has FETCH back at RERUN; its other registers stand. -/
theorem ringsAs_killed (h : regsWf m = true) (q : Nat) :
    RingsAs (setFetch q (ringRerun q m) m) (if (dynOf q m).open_ then killRaw q m else stopWaiting q m) := by
  split
  · have hwork : RingsAs m (Machine.forEach (ringTiles q m) clearTileAcc
        (undoPages (dynOf q m).moving (dynOf q m).popped (cancelWork q m))) :=
      ((RingsAs.refl h).congr (n' := cancelWork q m) rfl).undoPages.forEach fun _ _ _ h => h.congr rfl
    have hfetch := hwork.setFetch h (q := q) (k := ringRerun q m)
    rw [← hwork.ringRerun q] at hfetch ⊢
    exact (hfetch.congr (n' := setDyn q RingDyn.idle _) rfl).forEach fun t _ _ h => h.countSat (not_ringOff_chanterStats t)
  · exact (((RingsAs.refl h).congr (n' := cancelWork q m) rfl).setFetch h).congr rfl

/-! ### Halts -/

/-- RING_HEAD of a ring that has halted. -/
def haltedHead (q reason : Nat) (m : Dev) : Word :=
  fRING_HEAD_REASON.put (fRING_HEAD_HALTED.put (ringRd q 2 m) 1) reason

theorem haltedHead_halted (q reason : Nat) (m : Dev) : fRING_HEAD_HALTED.get (haltedHead q reason m) = 1 :=
  (Fld_get_put_other _ _ _ _ (by decide) (by decide)).trans (Fld_get_put _ _ _ (by decide))

theorem haltedHead_reason {reason : Nat} (hr : reason < 16) (q : Nat) (m : Dev) :
    fRING_HEAD_REASON.get (haltedHead q reason m) = reason :=
  (Fld_get_put _ _ _ (by decide)).trans (Nat.mod_eq_of_lt hr)

theorem ringHalt_lt {d : Nat} (h : d < 8) : (cDIE_CHANTER_RING_HALT d).block < 50 := by
  show 10 + d < 50
  omega

/-- Beside RING_HEAD the marks of a halt are in no ring's registers. -/
theorem ringsAs_haltMarks (h : regsWf m = true) {q : Nat} (hq : q < 256) (reason : Nat) (w : Word) :
    RingsAs (ringWr q 2 (haltedHead q reason m) m) (haltMarks q reason w m) :=
  ((RingsAs.refl (regsWf_ringWr h)).forEach fun t _ _ h =>
      (h.recordFirst (not_ringOff_chanterFault t)).countSat (not_ringOff_chanterStats t)).forEach
    fun _ hd _ h => h.raise (ringHalt_lt (ringDies_lt hq hd)) (show 40 < 128 by decide)

/-- A leaf that is set stays set when a cause is raised. -/
theorem leafSet_raise_mono (h : regsWf m = true) {c d : Cause} (hd : leafSet d m = true) : leafSet d (raise c m) = true := by
  unfold leafSet at hd ⊢
  by_cases hr : d.reg = c.reg
  · rw [hr] at hd ⊢
    rw [getLsbD_rd_raise h c (Nat.mod_lt _ (by decide)), hd, Bool.or_true]
  · rw [rd_raise_ne h c hr, hd]

/-- The leaf of every cause that a list of dies raises is set. -/
theorem leafSet_forEach_raise {c : Nat → Cause} {ds : List Nat} (h : regsWf m = true) {d : Nat} (hd : d ∈ ds) :
    leafSet (c d) (forEach ds (fun d => raise (c d)) m) = true := by
  induction ds generalizing m with
  | nil => cases hd
  | cons x xs ih =>
    rcases List.mem_cons.1 hd with rfl | hd
    · exact (forEach_keeps (fun n => regsWf n = true ∧ leafSet (c d) n = true) xs _ _
        (fun _ _ _ hn => ⟨regsWf_raise hn.1 _, leafSet_raise_mono hn.1 hn.2⟩) ⟨regsWf_raise h _, leafSet_raise h _⟩).2
    · exact ih (regsWf_raise h _) hd

theorem leafSet_haltMarks (h : regsWf m = true) {q reason d : Nat} {w : Word} (hd : d ∈ ringDies q m) :
    leafSet (cDIE_CHANTER_RING_HALT d) (haltMarks q reason w m) = true := by
  refine leafSet_forEach_raise ?_ hd
  exact regsWf_forEach (fun t m h => regsWf_countSat (regsWf_recordFirst h _ _)) (regsWf_ringWr h)

/-- A ring without bound collectives halts as R134 says: its group is discarded and every copy of its registers tells it. -/
theorem haltedWith_haltRing (h : regsWf m = true) {q reason : Nat} (hq : q < 256) (hr : reason < 16) (hb : boundOf q m = []) :
    haltedWith q reason m (haltRing q reason m) := by
  have hkill := ringsAs_killed h q
  have htiles := (hkill.ringTiles q).trans (ringTiles_ringWr h q q 3 _)
  rw [haltRing, hb, List.isEmpty_nil, if_pos rfl, haltRaw]
  set k := if (dynOf q m).open_ then killRaw q m else stopWaiting q m
  have hmarks := ringsAs_haltMarks hkill.wf hq reason (faultWord q reason m)
  refine ⟨fun off ho => ?head, fun off ho => ?fetch, fun d hd => ?leaf⟩
  case head =>
    rw [hmarks.same off (ringOff_of_mem_ringRegs (by decide) ho), rd_ringWr_mem hkill.wf (ringRegs_congr htiles 2 ▸ ho)]
    exact ⟨haltedHead_halted .., haltedHead_reason hr ..⟩
  case fetch =>
    have hoff := ringOff_of_mem_ringRegs (by decide) ho
    have hne : off ∉ ringRegs q 2 k := fun h2 => by
      have h3 := mod_of_mem_ringRegs ho
      have h2 := mod_of_mem_ringRegs h2
      omega
    rw [hmarks.same off hoff, rd_ringWr_not_mem hkill.wf hne, hkill.same off hoff]
    have hget : fRING_PTR_FETCH.get (fRING_PTR_FETCH.put (ringRd q 3 m) (ringRerun q m)) = ringRerun q m :=
      (Fld_get_put _ _ _ (by decide)).trans (Nat.mod_eq_of_lt (Fld_get_lt fRING_PTR_RERUN _))
    rw [setFetch, rd_ringWr_mem h ho, hget]
  case leaf => exact leafSet_haltMarks hkill.wf (ringDies_congr htiles ▸ hd)

/-! ### The passing of a command (R105, R119, R121) -/

/-- What a ring's sequencer is set to hold, other than what an idle one holds, it holds. -/
theorem dynOf_setDyn {q : Nat} {x : RingDyn} (hx : x ≠ RingDyn.idle) (m : Dev) : dynOf q (setDyn q x m) = x := by
  unfold dynOf setDyn Sparse.get Sparse.upd Sparse.setD
  rw [if_neg hx]
  exact Sparse.getD_put_same _ _ _ _

theorem dynOf_finishWith (q : Nat) (e : List Byte) (z : Bool) (m : Dev) :
    dynOf q (finishWith q e z m) = { dynOf q m with
      open_ := true
      wait := none
      fence := none
      zero := (dynOf q m).zero || z
      other := (dynOf q m).other || (!z && !(cmdOpcode e = opWAIT || cmdOpcode e = opFENCE))
      overlong := false
      ended := if commitKind e = 0 then none else some (BitVec.ofNat 64 (commitWord e), actTile q e m) } :=
  dynOf_setDyn (fun h => Bool.noConfusion (congrArg RingDyn.open_ h)) _

theorem finishWith_mem (q : Nat) (e : List Byte) (z : Bool) (m : Dev) : (finishWith q e z m).mem = m.mem := ringWr_mem ..

theorem fetchPassed_finishWith (h : regsWf m = true) (q : Nat) (e : List Byte) (z : Bool) :
    fetchPassed q m (finishWith q e z m) := by
  intro off ho
  have hrd : rd off (finishWith q e z m) = fRING_PTR_FETCH.put (ringRd q 3 m) ((ringFetch q m + 1) % 2 ^ 32) :=
    rd_ringWr_mem h ho
  rw [hrd]
  exact ⟨(Fld_get_put _ _ _ (by decide)).trans (Nat.mod_mod _ _), Fld_get_put_other _ _ _ _ (by decide) (by decide)⟩

theorem regsSameBut_finishWith (h : regsWf m = true) (q : Nat) (e : List Byte) (z : Bool) :
    regsSameBut (ringRegs q 3 m) m (finishWith q e z m) := fun _ ho => rd_ringWr_not_mem h ho

/-- What passes a command of a module passes it of every module whose rings read alike. -/
theorem RingsAs.fetchPassed {l : Dev} (h : RingsAs m n) {q : Nat} (hp : fetchPassed q n l) : fetchPassed q m l := by
  unfold Machine.fetchPassed at hp ⊢
  rwa [h.ringRegs, h.ringFetch, h.ringRerun] at hp

theorem ringsAs_withdrawReady (h : regsWf m = true) (q : Nat) : RingsAs m (withdrawReady q m) := by
  simp only [withdrawReady]
  split
  · exact .refl h
  · exact .wr (n := { m with plan := _ }) not_ringOff_planStatus (.congr (.refl h) rfl)

theorem ringsAs_openGroup (h : regsWf m = true) (q : Nat) : RingsAs m (openGroup q m) := by
  have htake : RingsAs m (takeUp q m) := .congr (.refl h) rfl
  unfold openGroup
  split
  · exact .refl h
  · exact .congr (htake.trans (ringsAs_withdrawReady htake.wf q)) rfl

theorem withdrawReady_mem (q : Nat) (m : Dev) : (withdrawReady q m).mem = m.mem := by
  simp only [withdrawReady]
  split <;> rfl

theorem openGroup_mem (q : Nat) (m : Dev) : (openGroup q m).mem = m.mem := by
  unfold openGroup
  split
  · rfl
  · exact withdrawReady_mem q (takeUp q m)

end
end Sys2Proof.Machine

/-! SUPPORT. WAIT and FENCE at their ring (R109, R119, R131). -/
namespace Sys2Proof.Machine

theorem exec_wait (q : RingRef) (s : State) : exec (.wait q) s = .next { s with dev := waitStart (ringNum q) s.dev } := rfl

theorem exec_waitComplete (q : RingRef) (s : State) :
    exec (.waitComplete q) s = .next { s with dev := waitComplete (ringNum q) s.dev } := rfl

theorem exec_waitTimeout (q : RingRef) (s : State) :
    exec (.waitTimeout q) s = .next { s with dev := waitTimeout (ringNum q) s.dev } := rfl

theorem exec_fence (q : RingRef) (s : State) : exec (.fence q) s = .next { s with dev := fenceStart (ringNum q) s.dev } := rfl

theorem exec_fenceComplete (q : RingRef) (s : State) :
    exec (.fenceComplete q) s = .next { s with dev := fenceComplete (ringNum q) s.dev } := rfl

section
variable {m : Dev} {q : Nat}

/-- A command that a ring's group opens with, or goes on with, passes: FETCH is behind it and nothing of memory moves. -/
theorem finishCommand_openGroup (h : regsWf m = true) (e : List Byte) :
    fetchPassed q m (finishCommand q e (openGroup q m)) ∧ memSame m (finishCommand q e (openGroup q m)) := by
  have hopen := ringsAs_openGroup h q
  exact ⟨hopen.fetchPassed (fetchPassed_finishWith hopen.wf q e _),
    memSame_of_mem ((finishWith_mem ..).trans (openGroup_mem q m))⟩

theorem dynOf_finishCommand (e : List Byte) : (dynOf q (finishCommand q e m)).open_ = true ∧
    (dynOf q (finishCommand q e m)).wait = none ∧ (dynOf q (finishCommand q e m)).fence = none := by
  rw [finishCommand, dynOf_finishWith]
  exact ⟨rfl, rfl, rfl⟩

/-- A WAIT that starts: it completes when its counter has been reached, else its ring holds what it waits for. -/
theorem waitStart_of_starts (hcan : ringCanStart q m = true) (hst : (fetchEntry q m).st = .ok)
    (hok : (entryOk (fetchEntry q m).data && rankOk q (fetchEntry q m).data (fetchEntry q m).m) = true)
    (hop : cmdOpcode (fetchEntry q m).data = opWAIT) :
    waitStart q m =
      let r := fetchEntry q m
      if counterReached (field r.data 8 2) (field r.data 12 4) r.m then finishCommand q r.data (openGroup q r.m)
      else setDyn q { dynOf q r.m with
        wait := some (BitVec.ofNat 16 (field r.data 8 2), BitVec.ofNat 32 (field r.data 12 4),
          BitVec.ofNat 32 (field r.data 16 4)) } r.m := by
  simp [waitStart, hcan, hst, hok, hop]

/-- A FENCE that starts: it completes when nothing of its scope is outstanding, else its ring holds its scope. -/
theorem fenceStart_of_starts (hcan : ringCanStart q m = true) (hst : (fetchEntry q m).st = .ok)
    (hok : (entryOk (fetchEntry q m).data && rankOk q (fetchEntry q m).data (fetchEntry q m).m) = true)
    (hop : cmdOpcode (fetchEntry q m).data = opFENCE) :
    fenceStart q m =
      let r := fetchEntry q m
      if fenceMet q (field r.data 8 1) r.m then finishCommand q r.data (openGroup q r.m)
      else setDyn q { dynOf q (openGroup q r.m) with fence := some (field r.data 8 1) } (openGroup q r.m) := by
  simp [fenceStart, hcan, hst, hok, hop]

theorem ne_idle_of_wait {x : RingDyn} {w : BitVec 16 × BitVec 32 × BitVec 32} (h : x.wait = some w) : x ≠ RingDyn.idle := by
  rintro rfl
  cases h

theorem ne_idle_of_fence {x : RingDyn} {sc : Nat} (h : x.fence = some sc) : x ≠ RingDyn.idle := by
  rintro rfl
  cases h

/-- A WAIT whose counter has been reached completes when its group is open or its ring is the one to be served. -/
theorem waitComplete_of_met {c : BitVec 16} {v l : BitVec 32} (hw : (dynOf q m).wait = some (c, v, l))
    (hreach : counterReached c.toNat v.toNat m = true)
    (hturn : (dynOf q m).open_ = true ∨ ringCanStart q (setDyn q { dynOf q m with wait := none } m) = true) :
    waitComplete q m = finishCommand q (peekEntry q m) (openGroup q m) := by
  simp only [waitComplete, hw, hreach]
  rcases hturn with hopen | hserved
  · simp [hopen]
  · simp [hserved]

/-- A WAIT goes on while its counter has not been reached, and at a boundary while its ring is not the one to be served. -/
theorem waitComplete_of_unmet {c : BitVec 16} {v l : BitVec 32} (hw : (dynOf q m).wait = some (c, v, l))
    (hnot : counterReached c.toNat v.toNat m = false ∨
      ((dynOf q m).open_ = false ∧ ringCanStart q (setDyn q { dynOf q m with wait := none } m) = false)) :
    waitComplete q m = m := by
  simp only [waitComplete, hw]
  refine if_pos ?_
  simp only [Bool.or_eq_true, Bool.and_eq_true, Bool.not_eq_true']
  exact hnot

/-- A WAIT that runs out of time halts its ring. -/
theorem waitTimeout_of_wait {w : BitVec 16 × BitVec 32 × BitVec 32} (hw : (dynOf q m).wait = some w) :
    waitTimeout q m = haltRing q 4 m := by
  simp only [waitTimeout, hw, Option.isSome_some, if_true]

theorem fenceComplete_of_fence {sc : Nat} (hf : (dynOf q m).fence = some sc) :
    fenceComplete q m = if fenceMet q sc m then finishCommand q (peekEntry q m) m else m := by
  simp only [fenceComplete, hf]

end

/-- Settles O32: a WAIT or FENCE that is met finishes as every command does, one that is not leaves its ring holding it, and the
time-out is a halt. -/
theorem waitAndFenceHoldTheirRing : Obligations.WaitAndFenceHoldTheirRing := by
  intro q s hsound n x r starts
  have hwf := regsWf_of_sound hsound
  have hrwf : regsWf r.m = true := regsWf_fetchEntry hwf
  refine ⟨fun ⟨hcan, hst, hok⟩ hop => ⟨_, exec_wait q s, ?wait⟩,
    fun c v l hw => ⟨fun hreach hturn => ⟨_, exec_waitComplete q s, ?met⟩, fun hnot => ?unmet,
      fun hb => ⟨_, exec_waitTimeout q s, ?timeout⟩⟩,
    fun ⟨hcan, hst, hok⟩ hop => ⟨_, exec_fence q s, ?fence⟩,
    fun sc hf => ⟨fun hmet => ⟨_, exec_fenceComplete q s, ?fenceMet⟩, fun hnot => ?fenceUnmet⟩⟩
  case wait =>
    rw [waitStart_of_starts hcan hst hok hop]
    simp only
    split
    · obtain ⟨hpass, hmem⟩ := finishCommand_openGroup (q := n) hrwf r.data
      obtain ⟨hopen, hwait, -⟩ := dynOf_finishCommand (q := n) (m := openGroup n r.m) r.data
      exact ⟨hmem, hpass, hwait, hopen⟩
    · refine ⟨memSame_of_mem rfl, rfl, ?_⟩
      rw [dynOf_setDyn (ne_idle_of_wait rfl)]
  case met =>
    rw [waitComplete_of_met hw hreach hturn]
    obtain ⟨hpass, hmem⟩ := finishCommand_openGroup (q := n) hwf (peekEntry n s.dev)
    exact ⟨hpass, (dynOf_finishCommand _).2.1, hmem⟩
  case unmet => rw [exec_waitComplete, waitComplete_of_unmet hw hnot]
  case timeout =>
    rw [waitTimeout_of_wait hw]
    exact haltedWith_haltRing hwf (ringNum_lt q) (by decide) hb
  case fence =>
    rw [fenceStart_of_starts hcan hst hok hop]
    simp only
    split
    · obtain ⟨hpass, hmem⟩ := finishCommand_openGroup (q := n) hrwf r.data
      exact ⟨hmem, hpass, (dynOf_finishCommand _).2.2⟩
    · refine ⟨memSame_of_mem (openGroup_mem n r.m), ?_⟩
      rw [dynOf_setDyn (ne_idle_of_fence rfl)]
  case fenceMet =>
    rw [fenceComplete_of_fence hf, if_pos hmet]
    exact ⟨fetchPassed_finishWith hwf _ _ _, (dynOf_finishCommand _).2.2, memSame_of_mem (finishWith_mem ..)⟩
  case fenceUnmet =>
    rw [exec_fenceComplete, fenceComplete_of_fence hf, hnot]
    rfl
end Sys2Proof.Machine

/-! SUPPORT. The work of GEMM, FUSED and NORM keeps the registers well formed: flags, grid, Piccolo, and the three commands
(R44 to R85, R114 to R117, R264). -/
namespace Sys2Proof.Machine

/-! ### Runs of accesses -/

section
variable {m : Dev} {r : Run}

/-! A unit's work comes as a record or a pair. Its device is read off here, once, where the parts are variables: on a unit's
own term the same step would have Lean run the unit. -/

theorem regsWf_pair {β : Type} {b : β} (h : regsWf r.m = true) : regsWf (r, b).1.m = true := h

theorem regsWf_snd {α : Type} {a : α} (h : regsWf m = true) : regsWf (a, m).2 = true := h

theorem regsWf_run {st : AStat} (h : regsWf m = true) : regsWf (Run.mk m st).m = true := h

theorem regsWf_done {k : Nat} (h : regsWf m = true) : regsWf (Done.mk m k).m = true := h

theorem regsWf_eff {f : Dev → Dev} (h : regsWf (f r.m) = true) : regsWf (r.eff f).m = true := h

theorem regsWf_read {ag : Agent} {a n : Nat} (h : regsWf r.m = true) : regsWf (r.read ag a n).1.m = true := regsWf_readVia h

theorem regsWf_write {ag : Agent} {a : Nat} {bs : List Byte} (h : regsWf r.m = true) : regsWf (r.write ag a bs).m = true :=
  regsWf_writeVia h

theorem regsWf_each {α : Type} {xs : List α} {f : α → Run → Run}
    (hf : ∀ x r, regsWf r.m = true → regsWf (f x r).m = true) (h : regsWf r.m = true) : regsWf (Run.each xs f r).m = true :=
  List.foldlRecOn (motive := fun r : Run => regsWf r.m = true) _ _ h fun r hr x _ => hf x r hr

/-- As `regsWf_each`, for a fold that gathers something beside its accesses. -/
theorem regsWf_foldl_fst {α β : Type} {xs : List α} {f : Run × β → α → Run × β} {x : Run × β}
    (hf : ∀ x a, regsWf x.1.m = true → regsWf (f x a).1.m = true) (h : regsWf x.1.m = true) :
    regsWf (xs.foldl f x).1.m = true :=
  List.foldlRecOn (motive := fun x : Run × β => regsWf x.1.m = true) _ _ h fun x hx a _ => hf x a hx

theorem regsWf_eachRank {q : Nat} {e : List Byte} {f : Nat → Nat → Run → Run}
    (hf : ∀ k t r, regsWf r.m = true → regsWf (f k t r).m = true) (h : regsWf m = true) :
    regsWf (eachRank q e f m).m = true := by
  refine List.foldlRecOn (motive := fun r : Run => regsWf r.m = true) _ _ h fun r hr x _ => ?_
  split
  · exact hf _ _ _ hr
  · exact hr

theorem regsWf_readRows {ag : Agent} {n : Nat} {as : List Nat} (h : regsWf r.m = true) :
    regsWf (readRows ag n as r).1.m = true :=
  regsWf_foldl_fst (fun _ _ h => regsWf_read h) h

/-! ### Flags and causes (R44, R45, R64, R85) -/

theorem regsWf_firstCe {t ce : Nat} (h : regsWf m = true) : regsWf (firstCe t ce m) = true :=
  regsWf_when (fun h => regsWf_wrF h _ _ _) h

theorem regsWf_accOverflow {t ce : Nat} (h : regsWf m = true) : regsWf (accOverflow t ce m) = true :=
  regsWf_raise (regsWf_wrF (regsWf_firstCe h) _ _ _) _

theorem regsWf_accNan {t ce : Nat} (h : regsWf m = true) : regsWf (accNan t ce m) = true :=
  regsWf_wrF (regsWf_firstCe h) _ _ _

theorem regsWf_nanOperand {t ce : Nat} (h : regsWf m = true) : regsWf (nanOperand t ce m) = true :=
  regsWf_raise (regsWf_accNan h) _

theorem regsWf_quantCauses {t : Nat} {bs : List QuantBlock} (h : regsWf m = true) : regsWf (quantCauses t bs m) = true :=
  regsWf_when (fun h => regsWf_raise h _) (regsWf_when (fun h => regsWf_raise h _) h)

/-! ### The grid (R54, R74, R81) -/

theorem setAcc_regs (t set i n : Nat) (a : Acc) (m : Dev) : (setAcc t set i n a m).regs = m.regs := rfl

theorem regsWf_accumulate {t ce set i n : Nat} {clear : Bool} {c : Contribution} (h : regsWf m = true) :
    regsWf (accumulate t ce set i n clear c m) = true :=
  regsWf_when regsWf_nanOperand (regsWf_when (m := setAcc t set i n _ m) regsWf_accOverflow h)

theorem regsWf_referencePair {t ce set i n : Nat} {w : Int} {xs ys : List Num} (h : regsWf m = true) :
    regsWf (referencePair t ce set i n w xs ys m) = true := by
  have hdivert (a : Acc) : regsWf (refDivert t 1 (setAcc t set i n a m)) = true :=
    regsWf_countWrap (m := setAcc t set i n a m) h
  have hscalar (a : Acc) : regsWf (refDivert t 1 (refScalar t (setAcc t set i n a m))) = true :=
    regsWf_countWrap (regsWf_wrF (m := setAcc t set i n a m) h _ _ _)
  unfold referencePair
  extract_lets a divert p high fits sp a'
  split
  · split
    · exact regsWf_accumulate h
    · exact hdivert _
  · exact h
  · exact h
  · exact h
  · exact regsWf_when (fun h => regsWf_raise h _) (hscalar _)

theorem regsWf_stretch {t ce set i n : Nat} {clear : Bool} {fa fw k : Nat} {w : Int} {a b : List Byte} (h : regsWf m = true) :
    regsWf (stretch t ce set i n clear fa fw k w a b m) = true := by
  unfold stretch
  split
  · exact regsWf_forEach (fun _ _ => regsWf_referencePair) (regsWf_of_regs h (when_regs (setAcc_regs ..)))
  · exact regsWf_accumulate h

theorem regsWf_productCore {t ce set : Nat} {clear : Bool} {fa fw k : Nat} {w : Int}
    {as : List (Nat × List Byte)} {ws : List (List Byte)} (h : regsWf m = true) :
    regsWf (productCore t ce set clear fa fw k w as ws m) = true :=
  regsWf_forEach (fun _ m h => regsWf_countSat (regsWf_forEach (fun _ _ h => regsWf_forEach (fun _ _ => regsWf_stretch) h)
    (m := holdWeights t fw _ _ m) h)) h

theorem regsWf_drainEntry {t ce set i cols out : Nat} {reference : Bool} {w shift : Int} {ep : Nat} (h : regsWf r.m = true) :
    regsWf (drainEntry t ce set i cols out reference w shift ep r).1.m = true :=
  regsWf_when regsWf_accNan (regsWf_quantCauses h)

theorem regsWf_useTine {t : Nat} (h : regsWf m = true) : regsWf (useTine t m) = true := h

/-! ### Piccolo (R257 to R265) -/

theorem regsWf_baseRows {t ce rank set : Nat} {p : Product} {addr : Nat → Nat} {off : Nat}
    {rows : List Nat} (h : regsWf r.m = true) : regsWf (baseRows t ce rank set p addr off rows r).m = true := by
  unfold baseRows
  exact regsWf_productCore (regsWf_readRows (regsWf_readRows h))

theorem regsWf_readHeader {t off : Nat} (h : regsWf r.m = true) : regsWf (readHeader t off r).1.m = true := regsWf_read h

theorem regsWf_readRuns {t off : Nat} (h : regsWf r.m = true) : regsWf (readRuns t off r).1.m = true := by
  simp only [readRuns]
  exact regsWf_read (regsWf_read h)

theorem regsWf_readFactor {t a site : Nat} (h : regsWf r.m = true) : regsWf (readFactor t a site r).1.m = true := by
  unfold readFactor
  extract_lets tbl x rank y
  have hx : regsWf x.1.m = true := regsWf_read h
  have hy : regsWf y.1.m = true := regsWf_read hx
  split
  · exact h
  · split
    · exact hx
    · split
      · exact hx
      · split
        · exact hx
        · split <;> exact hy

theorem regsWf_deltasOf {t site : Nat} {runs : List RunOf} (h : regsWf r.m = true) :
    regsWf (deltasOf t site runs r).1.m = true := by
  refine regsWf_foldl_fst (fun x run hx => ?_) h
  simp only
  split
  · exact hx
  · split
    · exact regsWf_recordFirst (regsWf_raise (regsWf_readFactor hx) _) _ _
    · exact regsWf_readFactor hx

theorem regsWf_aPasses {t ce : Nat} {p : Product} {addr : Nat → Nat} {hd : SlotGroup} {ds : List Delta}
    {cols : List (Nat × Factor × Nat)} (h : regsWf r.m = true) : regsWf (aPasses t ce p addr hd ds cols r).m = true := by
  unfold aPasses
  exact regsWf_each (fun _ _ h => regsWf_each (fun _ _ h => regsWf_each (fun _ _ h => regsWf_write (regsWf_quantCauses h)) h) h)
    (regsWf_countSat (regsWf_productCore (regsWf_readRows (regsWf_readRows h))))

theorem regsWf_bPass {t ce rank : Nat} {p : Product} {hd : SlotGroup} {d : Delta} (h : regsWf r.m = true) :
    regsWf (bPass t ce rank p hd d r).m = true := by
  unfold bPass
  split
  · exact h
  · exact regsWf_countSat (regsWf_countSat (regsWf_productCore (regsWf_readRows (regsWf_readRows h))))

theorem regsWf_basePasses {t ce rank rows g : Nat} {p : Product} {hd : SlotGroup} {ds : List Delta} (h : regsWf r.m = true) :
    regsWf (basePasses t ce rank rows g p hd ds r).m = true := by
  unfold basePasses
  split
  · exact regsWf_baseRows h
  · exact regsWf_each (fun _ _ => regsWf_baseRows) h

theorem regsWf_adaptGroup {t ce rank rows g : Nat} {p : Product} {hd : SlotGroup} {runs : List RunOf} (h : regsWf r.m = true) :
    regsWf (adaptGroup t ce rank rows g p hd runs r).1.m = true := by
  unfold adaptGroup
  extract_lets x addr r1 r2
  have hx : regsWf x.1.m = true := regsWf_deltasOf h
  split
  · exact hx
  · exact regsWf_each (fun _ _ => regsWf_bPass) (regsWf_basePasses (regsWf_each (fun _ _ => regsWf_aPasses) hx))

theorem regsWf_runProduct {t ce rank rows : Nat} {p : Product} {header : Option Nat} {drain : Nat → List Nat → Run → Run}
    (hdrain : ∀ set rows r, regsWf r.m = true → regsWf (drain set rows r).m = true) (h : regsWf r.m = true) :
    regsWf (runProduct t ce rank rows p header drain r).m = true := by
  cases header with
  | none =>
    refine regsWf_each (fun g r h => ?_) h
    simp only
    split
    · exact hdrain _ _ _ (regsWf_baseRows h)
    · exact regsWf_baseRows h
  | some off =>
    have hruns : regsWf (readRuns t (readHeader t off r).2.runs (readHeader t off r).1).1.m = true :=
      regsWf_readRuns (regsWf_readHeader h)
    simp only [runProduct]
    split
    · exact hruns
    · refine regsWf_each (fun g r h => ?_) hruns
      split
      · exact h
      · split
        · exact hdrain _ _ _ (regsWf_adaptGroup h)
        · exact regsWf_adaptGroup h

/-! ### GEMM -/

theorem regsWf_auxRegion {t aux : Nat} (h : regsWf r.m = true) : regsWf (auxRegion t aux r).m = true := by
  simp only [auxRegion]
  exact regsWf_read (regsWf_of_regs (regsWf_write h) (useFree_regs ..))

theorem regsWf_gemmDrain {t ce : Nat} {e : List Byte} {p : Product} {set : Nat} {rows : List Nat} (h : regsWf r.m = true) :
    regsWf (gemmDrain t ce e p set rows r).m = true := by
  unfold gemmDrain
  split
  · exact h
  · exact regsWf_each (fun _ _ h => regsWf_write (regsWf_drainEntry h)) h

theorem regsWf_gemmTile {q : Nat} {e : List Byte} {rank t : Nat} (h : regsWf r.m = true) :
    regsWf (gemmTile q e rank t r).m = true := by
  refine regsWf_when regsWf_useTine (regsWf_runProduct (fun _ _ _ => regsWf_gemmDrain) ?_)
  split
  · exact regsWf_auxRegion h
  · exact h

theorem noteAdapt_regs (q : Nat) (e : List Byte) (m : Dev) : (noteAdapt q e m).regs = m.regs := by
  unfold noteAdapt
  split <;> rfl

theorem regsWf_gemmBody {q : Nat} {e : List Byte} (h : regsWf m = true) : regsWf (gemmBody q e m).m = true := by
  unfold gemmBody
  split
  · exact regsWf_of_regs h (noteAdapt_regs q e m)
  · exact regsWf_of_regs (regsWf_eachRank (fun _ _ _ => regsWf_gemmTile) h) (noteAdapt_regs ..)

/-! ### FUSED -/

theorem regsWf_fusedProduct {q : Nat} {e : List Byte} {rank t : Nat} (h : regsWf r.m = true) :
    regsWf (fusedProduct q e rank t r).m = true := by
  simp only [fusedProduct]
  split
  · exact h
  · exact regsWf_runProduct (fun _ _ _ h => regsWf_each (fun _ _ h => regsWf_write (regsWf_drainEntry h)) h) h

theorem regsWf_combineQueue {q : Nat} {e : List Byte} {d : CollDesc} {g : Grp} {t : Nat} (h : regsWf r.m = true) :
    regsWf (combineQueue q e d g t r).1.m = true := by
  unfold combineQueue
  extract_lets off hd runs rows x chunks
  have hhd : regsWf hd.1.m = true := by
    unfold hd
    split
    · exact h
    · exact regsWf_readHeader h
  have hruns : regsWf runs.1.m = true := by
    unfold runs
    split
    · exact hhd
    · exact regsWf_readRuns hhd
  exact regsWf_readRows hruns

theorem regsWf_laneInput {ctx : Nat} {d : CollDesc} {g : Grp} {t : Nat} (h : regsWf r.m = true) :
    regsWf (laneInput ctx d g t r).1.m = true := by
  unfold laneInput
  split
  · exact h
  · exact regsWf_read h

theorem regsWf_fusedLane {q : Nat} {e : List Byte} {d : CollDesc} {g : Grp} {rank t : Nat} (h : regsWf r.m = true) :
    regsWf (fusedLane q e d g rank t r).1.m = true := by
  unfold fusedLane
  split
  · exact regsWf_combineQueue (g := g) h
  · exact regsWf_laneInput h

theorem regsWf_droneFault {kind die ctx group job coord axis phase unit : Nat} (h : regsWf m = true) :
    regsWf (droneFault kind die ctx group job coord axis phase unit m) = true := by
  unfold droneFault
  split
  · exact h
  · exact regsWf_wr (regsWf_recordFirst h _ _) _ _

theorem regsWf_groupInvalid {q die ctx group : Nat} (h : regsWf m = true) : regsWf (groupInvalid q die ctx group m) = true :=
  regsWf_raise (regsWf_droneFault h) _

theorem startColl_regs (q ctx group : Nat) (d : CollDesc) (prot : Bool) (lanes : List LaneSt) (m : Dev) :
    (startColl q ctx group d prot lanes m).regs = m.regs := rfl

theorem regsWf_fusedBody {q : Nat} {e : List Byte} (h : regsWf m = true) : regsWf (fusedBody q e m).m = true := by
  unfold fusedBody
  extract_lets d ts die r
  split
  · exact regsWf_groupInvalid h
  next g =>
    split
    · exact regsWf_groupInvalid h
    · split
      · exact h
      · extract_lets x
        have hx : regsWf x.1.m = true :=
          regsWf_foldl_fst (fun _ _ h => regsWf_pair (regsWf_fusedLane h))
            (regsWf_pair (regsWf_eachRank (fun _ _ _ => regsWf_fusedProduct) h))
        split
        · exact hx
        · exact regsWf_of_regs hx (startColl_regs ..)

/-! ### NORM -/

theorem regsWf_normInput {t : Nat} {e : List Byte} {row : Nat} (h : regsWf r.m = true) :
    regsWf (normInput t e row r).1.m = true := by
  unfold normInput
  extract_lets w ag x y
  have hx : regsWf x.1.m = true := regsWf_read h
  split
  · exact regsWf_pair (regsWf_read hx)
  · exact regsWf_pair hx

theorem regsWf_exitRow {t : Nat} {e : List Byte} {row : Nat} {xs : List F32} (h : regsWf r.m = true) :
    regsWf (exitRow t e row xs r).m = true := by
  unfold exitRow
  extract_lets x
  have hx : regsWf x.1.m = true := regsWf_read h
  split
  · split
    · exact regsWf_write hx
    · exact hx
  · exact h

theorem regsWf_normRow {t : Nat} {e : List Byte} {gamma : List F32} {x : Run × List (Nat × List F32)}
    (h : regsWf x.1.m = true) {row : Nat} : regsWf (normRow t e gamma x row).1.m = true :=
  regsWf_write (regsWf_quantCauses (regsWf_exitRow (regsWf_normInput h)))

theorem stageWatch_regs (q : Nat) (ws : List WatchItem) (m : Dev) : (stageWatch q ws m).regs = m.regs := rfl

theorem regsWf_normTile {q : Nat} {e : List Byte} {rank t : Nat} (h : regsWf r.m = true) :
    regsWf (normTile q e rank t r).m = true := by
  unfold normTile
  extract_lets w g x
  have hx : regsWf x.1.m = true :=
    regsWf_foldl_fst (fun _ _ h => regsWf_normRow h) (regsWf_pair (regsWf_read h))
  exact regsWf_useTine (regsWf_of_regs hx (stageWatch_regs ..))

theorem regsWf_normBody {q : Nat} {e : List Byte} (h : regsWf m = true) : regsWf (normBody q e m).m = true := by
  unfold normBody
  split
  · exact h
  · exact regsWf_eachRank (fun _ _ _ => regsWf_normTile) h

end
end Sys2Proof.Machine

/-! SUPPORT. The work of ATTEND, APPEND and ROUTE keeps the registers well formed: Tine's reads of a session, Drill's writes,
Coulter's choice (R215 to R217, R226, R227, R240, R264 to R267). -/
namespace Sys2Proof.Machine

section
variable {m : Dev} {r : Run}

/-! ### ATTEND -/

theorem regsWf_readBias {e : List Byte} {ts : List (Nat × Nat)} (h : regsWf r.m = true) :
    regsWf (readBias e ts r).1.m = true := by
  unfold readBias
  split
  · exact regsWf_pair h
  · exact regsWf_foldl_fst (fun _ _ h => regsWf_pair (regsWf_read h)) (regsWf_pair h)

theorem regsWf_readSlots {ag : Agent} {t off n : Nat} (h : regsWf r.m = true) : regsWf (readSlots ag t off n r).1.m = true :=
  regsWf_pair (regsWf_read h)

theorem regsWf_readKeys {t s l P len lo hi : Nat} (h : regsWf r.m = true) : regsWf (readKeys t s l P len lo hi r).1.m = true := by
  refine regsWf_foldl_fst (fun x _ hx => ?_) (regsWf_pair h)
  split
  · exact hx
  · exact regsWf_foldl_fst (fun _ _ h => regsWf_pair
      (regsWf_foldl_fst (fun _ _ h => regsWf_pair (regsWf_read h)) (regsWf_pair h))) (regsWf_pair hx)

theorem regsWf_exitedBefore {ag : Agent} {t layer row : Nat} (h : regsWf r.m = true) :
    regsWf (exitedBefore ag t layer row r).1.m = true := by
  unfold exitedBefore
  split
  · exact regsWf_pair (regsWf_read h)
  · exact regsWf_pair h

theorem regsWf_attendOut {t row i : Nat} {e : List Byte} {xs : List F32} (h : regsWf r.m = true) :
    regsWf (attendOut t e row i xs r).m = true := by
  unfold attendOut
  exact regsWf_write h

theorem regsWf_keyX {t head qp : Nat} {e qe qs : List Byte} {b : BiasHdr} {k : KvTok} (h : regsWf r.m = true) :
    regsWf (keyX t e b head qp qe qs k r).1.m = true := by
  unfold keyX
  extract_lets s r0 x y
  have h0 : regsWf r0.m = true := regsWf_when regsWf_nanOperand h
  split
  · exact regsWf_pair h0
  · exact regsWf_pair (regsWf_read h0)

theorem regsWf_attendPart {t len row head i : Nat} {e : List Byte} {b : BiasHdr} {sl : Slot} {keys : List KvTok}
    (h : regsWf r.m = true) : regsWf (attendPart t e b sl len row head i keys r).1.m = true := by
  unfold attendPart
  extract_lets qp a ts xs p
  have hxs : regsWf xs.1.m = true :=
    regsWf_foldl_fst (fun _ _ h => regsWf_pair (regsWf_keyX h)) (regsWf_pair (regsWf_read h))
  exact regsWf_pair (regsWf_when regsWf_nanOperand hxs)

theorem regsWf_attendSlot {e : List Byte} {hs : List BiasHdr} {ts : List (Nat × Nat)} {sl : Slot} (h : regsWf r.m = true) :
    regsWf (attendSlot e hs ts sl r).m = true := by
  unfold attendSlot
  extract_lets home v live len P top n R ks
  have hks : regsWf ks.1.m = true := by
    unfold ks
    split
    · exact regsWf_foldl_fst (fun _ _ h => regsWf_pair (regsWf_readKeys h)) (regsWf_pair h)
    · exact regsWf_pair h
  refine regsWf_each (fun rr r h => ?_) hks
  extract_lets row ex
  refine regsWf_each (fun i r h => ?_) (regsWf_exitedBefore h)
  split
  · exact regsWf_attendOut h
  · exact regsWf_attendOut (regsWf_foldl_fst (fun _ _ h => regsWf_pair (regsWf_attendPart h)) (regsWf_pair h))

theorem regsWf_attendBody {q : Nat} {e : List Byte} (h : regsWf m = true) : regsWf (attendBody q e m).m = true := by
  unfold attendBody
  extract_lets ts b
  have hb : regsWf b.1.m = true := regsWf_readBias h
  split
  · exact h
  · split
    · exact h
    · extract_lets ag s r
      have hs : regsWf s.1.m = true := regsWf_readSlots hb
      split
      · exact hs
      · have hr : regsWf r.m = true := regsWf_each (fun _ _ => regsWf_attendSlot) hs
        exact regsWf_forEach (fun _ _ => regsWf_useTine) hr

/-! ### APPEND -/

theorem regsWf_drillFault {d kind s pos : Nat} (h : regsWf m = true) : regsWf (drillFault d kind s pos m) = true :=
  regsWf_recordFirst (regsWf_raise h _) _ _

theorem regsWf_appendRow {d t s P pos n : Nat} {e : List Byte} (h : regsWf r.m = true) :
    regsWf (appendRow d t e s P pos n r).m = true := by
  unfold appendRow
  extract_lets ag k v
  have hv : regsWf v.1.m = true := regsWf_read (regsWf_read h)
  split
  · exact hv
  · exact regsWf_each (fun _ _ => regsWf_write) hv

theorem regsWf_appendSlot {d t n : Nat} {e : List Byte} {sl : Slot} {x : Run × Nat} (h : regsWf x.1.m = true) :
    regsWf (appendSlot d t e n sl x).1.m = true := by
  unfold appendSlot
  split
  · exact h
  · split
    · exact regsWf_pair (regsWf_countSat h)
    · extract_lets v P rows
      split
      · exact regsWf_pair (regsWf_drillFault h)
      · split
        · exact regsWf_pair (regsWf_drillFault h)
        · exact regsWf_pair (regsWf_countSat (regsWf_each (fun _ _ => regsWf_appendRow) h))

theorem regsWf_appendBody {q : Nat} {e : List Byte} (h : regsWf m = true) : regsWf (appendBody q e m).m = true := by
  unfold appendBody
  split
  · exact h
  · split
    · exact h
    · extract_lets d s live x
      have hs : regsWf s.1.m = true := regsWf_readSlots h
      split
      · exact hs
      · have hx : regsWf x.1.1.m = true :=
          List.foldlRecOn (motive := fun y : (Run × Nat) × Nat => regsWf y.1.1.m = true) _ _ (regsWf_pair hs)
            fun _ hy _ _ => regsWf_appendSlot hy
        split <;> exact hx

/-! ### ROUTE -/

theorem regsWf_writeGates {ag : Agent} {t gates topK n : Nat} {gs : List F32} (h : regsWf r.m = true) :
    regsWf (writeGates ag t gates topK n gs r).m = true :=
  regsWf_write h

theorem regsWf_routeWork {cs : List (Nat × List Byte)} {astray : Bool} (h : regsWf r.m = true) :
    regsWf (RouteWork.mk r cs astray).r.m = true := h

theorem regsWf_routeRow {d t n : Nat} {e : List Byte} {b : MapHdr} {g : Grp} {slots : List Slot} {ws : List (List Byte)}
    {x : RouteWork} (h : regsWf x.r.m = true) : regsWf (routeRow d t e b g slots ws n x).r.m = true := by
  fun_cases routeRow with
  | case1 ag topK row ex exited sl _ _ a cs r1 =>
    have hr : regsWf r1.m = true :=
      regsWf_writeGates (regsWf_eff (regsWf_when (fun h => regsWf_raise h _) (regsWf_read (regsWf_read h))))
    refine List.foldlRecOn (motive := fun y : RouteWork => regsWf y.r.m = true) _ _ (regsWf_routeWork hr) fun y hy c _ => ?_
    extract_lets en
    have hen : regsWf en.1.m = true := regsWf_read hy
    split <;> exact regsWf_routeWork hen
  | case2 => exact regsWf_routeWork (regsWf_writeGates (regsWf_read h))

theorem regsWf_routeBody {q : Nat} {e : List Byte} (h : regsWf m = true) : regsWf (routeBody q e m).m = true := by
  unfold routeBody
  split
  · exact h
  · extract_lets t d ag group hd b rows sl ws
    have hhd : regsWf hd.1.m = true := regsWf_read h
    have hsl : regsWf sl.1.m = true := by
      unfold sl
      split
      · exact regsWf_pair hhd
      · exact regsWf_readSlots hhd
    have hws : regsWf ws.1.m = true := by
      unfold ws
      split
      · exact regsWf_pair hsl
      · exact regsWf_readRows hsl
    split
    · exact regsWf_groupInvalid h
    · split
      · exact regsWf_groupInvalid h
      · split
        · exact hws
        · extract_lets x
          have hx : regsWf x.r.m = true :=
            List.foldlRecOn (motive := fun y : RouteWork => regsWf y.r.m = true) _ _ (regsWf_routeWork hws)
              fun _ hy _ _ => regsWf_routeRow hy
          split
          · exact hx
          · split
            · exact hx
            · exact regsWf_of_regs hx (startColl_regs ..)

end
end Sys2Proof.Machine

/-! SUPPORT. The work of GATHER keeps the registers well formed: Gleaner's reads of rows, the requests it sends and the updates it
stages (R266 to R272, R339). -/
namespace Sys2Proof.Machine

section
variable {m : Dev} {r : Run}

/-! ### What the fabric is handed (R331, R339, R340) -/

theorem regsWf_sendStopped {s : SendStop} {coord job : Nat} (h : regsWf m = true) : regsWf (sendStopped s coord job m) = true :=
  regsWf_of_stopAt (fun _ _ => sendStopped_stopAt) h

theorem regsWf_sendDraft {d : Draft} (h : regsWf m = true) : regsWf (sendDraft d m) = true :=
  regsWf_of_stopAt (fun _ _ => sendDraft_stopAt) h

theorem regsWf_issue {d : Draft} {x : Waiter} {pre : List Byte} {src : Option Nat} (h : regsWf m = true) :
    regsWf (issue d x pre src m) = true :=
  regsWf_of_stopAt (fun _ _ => issue_stopAt) h

theorem newTag_regs (m : Dev) : (newTag m).2.regs = m.regs := rfl

theorem sendAfter_regs (l : Later) (m : Dev) : (sendAfter l m).regs = m.regs := rfl

theorem regsWf_sendAfter {l : Later} (h : regsWf m = true) : regsWf (sendAfter l m) = true := h

theorem regsWf_pumpAll (h : regsWf m = true) : regsWf (pumpAll m) = true := regsWf_of_stopAt (fun _ _ => pumpAll_stopAt) h

/-! ### Rows of a table (R266 to R270) -/

theorem regsWf_gleanerFault {d kind table row : Nat} (h : regsWf m = true) : regsWf (gleanerFault d kind table row m) = true :=
  regsWf_recordFirst (regsWf_raise h _) _ _

theorem regsWf_notHome {die id : Nat} (h : regsWf m = true) : regsWf (notHome die id m) = true := regsWf_gleanerFault h

theorem regsWf_registryEntry {hd id : Nat} (h : regsWf r.m = true) : regsWf (registryEntry hd id r).1.m = true :=
  regsWf_pair (regsWf_read h)

theorem regsWf_homeTable {id : Nat} (h : regsWf r.m = true) : regsWf (homeTable id r).1.m = true := by
  fun_cases homeTable with
  | case1 => exact regsWf_pair h
  | case2 => exact regsWf_pair (regsWf_registryEntry h)
  | case3 => exact regsWf_pair (regsWf_read (regsWf_registryEntry h))

theorem regsWf_protectedRefusal {d a : Nat} (h : regsWf m = true) : regsWf (protectedRefusal d a m) = true := by
  unfold protectedRefusal
  split
  · exact regsWf_refuseRegion h
  · exact regsWf_refuseRegion h
  · exact regsWf_raise h _

theorem regsWf_rowAnswer {status cls : Nat} {data : List Byte} (h : regsWf m = true) :
    regsWf (RowAnswer.mk m status cls data).m = true := h

theorem regsWf_serveRow {far : Bool} {die id row : Nat} (h : regsWf m = true) : regsWf (serveRow far die id row m).m = true := by
  have hx : regsWf (homeTable id (Run.start m)).1.m = true := regsWf_homeTable h
  fun_cases serveRow with
  | case1 => exact regsWf_rowAnswer hx
  | case2 => exact regsWf_rowAnswer (regsWf_notHome hx)
  | case3 => exact regsWf_rowAnswer (regsWf_protectedRefusal (regsWf_read hx))
  | case4 x _ hd _ t _ ag en c at_ _ b heat w =>
    have hb : regsWf b.1.m = true := by
      unfold b
      split
      · exact regsWf_pair (regsWf_read hx)
      · exact regsWf_read (regsWf_read hx)
    exact regsWf_rowAnswer (regsWf_write (regsWf_read hb))

/-! ### Requests (R268, R269) -/

theorem regsWf_askRow {g : GatherSt} {k die coord id row : Nat} (h : regsWf m = true) :
    regsWf (askRow g k die coord id row m) = true := h

theorem regsWf_gatherStep {α : Type} {a : α} {k : Nat} (h : regsWf m = true) : regsWf (a, m, k).2.1 = true := h

theorem regsWf_requestRow {t : Desc} {s : GatherSt × Dev × Nat} (h : regsWf s.2.1 = true) {x : Nat × Nat} :
    regsWf (requestRow t s x).2.1 = true := by
  fun_cases requestRow with
  | case1 => exact h
  | case2 => exact regsWf_gatherStep (regsWf_notHome h)
  | case3 => exact regsWf_gatherStep (regsWf_serveRow h)
  | case4 => exact regsWf_gatherStep (regsWf_serveRow h)
  | case5 => exact regsWf_gatherStep (regsWf_sendStopped h)
  | case6 => exact regsWf_gatherStep (regsWf_askRow h)

theorem regsWf_requestRows {g : GatherSt} {t : Desc} {asks : List Nat} (h : regsWf m = true) :
    regsWf (requestRows g t asks m).2.1 = true := by
  unfold requestRows
  extract_lets x
  have hx : regsWf x.2.1 = true :=
    List.foldlRecOn (motive := fun s : GatherSt × Dev × Nat => regsWf s.2.1 = true) _ _ (regsWf_gatherStep h)
      fun _ hs _ _ => regsWf_requestRow hs
  refine regsWf_gatherStep ?_
  split
  · exact regsWf_pumpAll hx
  · exact hx

theorem regsWf_gatherScan {q t : Nat} {e : List Byte} {desc : Desc} {ends rows : List Nat} {ws : List F32} (h : regsWf m = true) :
    regsWf (gatherScan q t e desc ends rows ws m).2.1 = true := by
  unfold gatherScan
  exact regsWf_requestRows (regsWf_countSat (regsWf_countSat h))

theorem regsWf_gatherBad {q t : Nat} {e : List Byte} {desc : Desc} {ends rows : List Nat} {ws : List F32} {f : Nat × Nat × Nat}
    (h : regsWf m = true) : regsWf (gatherBad q t e desc ends rows ws f m).m = true := by
  unfold gatherBad
  extract_lets x
  have hx : regsWf x.1 = true := by
    unfold x
    split
    · exact h
    · exact regsWf_gatherScan h
  split
  · exact regsWf_done hx
  · exact regsWf_done (regsWf_gleanerFault hx)

/-! ### Updates (R271, R272) -/

theorem regsWf_setGleaner {g : GleanerSt} (h : regsWf m = true) : regsWf { m with gleaner := g } = true := h

theorem regsWf_stageRecord {die : Nat} {s : StagedRec} (h : regsWf m = true) : regsWf (stageRecord die s m).2 = true := by
  have hx : regsWf (homeTable s.table (Run.start m)).1.m = true := regsWf_homeTable h
  fun_cases stageRecord with
  | case1 => exact regsWf_snd hx
  | case2 => exact regsWf_snd (regsWf_notHome hx)
  | case3 => exact regsWf_snd (regsWf_gleanerFault hx)
  | case4 => exact regsWf_snd (regsWf_write hx)
  | case5 => exact regsWf_snd (regsWf_setGleaner (regsWf_write hx))

theorem regsWf_sendStaged {q die row : Nat} {t : Desc} {s : StagedRec} (h : regsWf m = true) :
    regsWf (sendStaged q die t row s m).m = true := by
  fun_cases sendStaged with
  | case1 => exact regsWf_done (regsWf_notHome h)
  | case2 => exact regsWf_done (regsWf_stageRecord h)
  | case3 => exact regsWf_done (regsWf_sendStopped h)
  | case4 => exact regsWf_done (regsWf_issue (regsWf_of_regs h (newTag_regs m)))

theorem regsWf_gatherUpdate {q t : Nat} {e : List Byte} {desc : Desc} {rows : List Nat} {ws : List F32} (h : regsWf r.m = true) :
    regsWf (gatherUpdate q t e desc rows ws r).m = true := by
  refine List.foldlRecOn (motive := fun b : Done => regsWf b.m = true) _ _ (regsWf_done h) fun b hb x _ => ?_
  split
  · exact hb
  · extract_lets y write s
    have hy : regsWf y.1.m = true := regsWf_read hb
    split
    · exact hy
    · exact regsWf_sendStaged hy

/-! ### Reads (R268 to R270) -/

theorem regsWf_finishGather {g : GatherSt} (h : regsWf m = true) : regsWf (finishGather g m).m = true := by
  unfold finishGather
  refine regsWf_each (fun x r h => ?_) h
  extract_lets xs row r1 r2
  exact regsWf_write (regsWf_eff (regsWf_when (fun h => regsWf_raise h _) (regsWf_eff (regsWf_quantCauses h))))

theorem regsWf_gatherRead {q t : Nat} {e : List Byte} {desc : Desc} {ends rows : List Nat} {ws : List F32} (h : regsWf m = true) :
    regsWf (gatherRead q t e desc ends rows ws m).m = true := by
  have hx : regsWf (gatherScan q t e desc ends rows ws m).2.1 = true := regsWf_gatherScan h
  fun_cases gatherRead with
  | case1 => exact regsWf_done hx
  | case2 => exact regsWf_done (regsWf_finishGather hx)
  | case3 => exact regsWf_done (regsWf_of_regs hx rfl)

theorem regsWf_gatherBody {q : Nat} {e : List Byte} (h : regsWf m = true) : regsWf (gatherBody q e m).m = true := by
  unfold gatherBody
  split
  · exact h
  · extract_lets count t ag de desc il wl mode bl raw rows ws ends
    have hde : regsWf de.1.m = true := regsWf_read h
    have hwl : regsWf wl.1.m = true := by
      unfold wl
      split
      · exact regsWf_pair (regsWf_read hde)
      · exact regsWf_read (regsWf_read hde)
    have hbl : regsWf bl.1.m = true := by
      unfold bl
      split
      · exact regsWf_read hwl
      · exact regsWf_pair hwl
    split
    · exact regsWf_done hde
    · split
      · exact h
      · split
        · exact regsWf_done hbl
        · split
          · exact regsWf_gatherBad hbl
          · split
            · exact regsWf_gatherUpdate hbl
            · exact regsWf_gatherRead hbl

end
end Sys2Proof.Machine

/-! SUPPORT. The work of MOVE, COPY_ASYNC and SIGNAL keeps the registers well formed: the Mover, its migrations, the copies it
sends and Drone's signals (R292 to R297, R301, R306, R313, R392 to R394, R404). -/
namespace Sys2Proof.Machine

section
variable {m : Dev} {r : Run}

/-! ### Pages -/

theorem poisonAt_regs (a n : Nat) (m : Dev) : (poisonAt a n m).regs = m.regs := by
  refine forEach_regs fun x m => ?_
  split
  · split
    · split <;> rfl
    · rfl
  · rfl

theorem regsWf_copyPiece {ag : Agent} {src dst n : Nat} (h : regsWf r.m = true) : regsWf (copyPiece ag src dst n r).m = true := by
  have hx : regsWf (readVia ag src n r.m).m = true := regsWf_readVia h
  fun_cases copyPiece with
  | case1 x _ w bad units =>
    have hw : regsWf w.m = true := regsWf_writeVia hx
    refine regsWf_run ?_
    split
    · exact regsWf_of_regs hw (forEach_regs fun u m => poisonAt_regs ..)
    · exact hw
  | case2 => exact regsWf_run hx
  | case3 => exact regsWf_run (regsWf_writeVia hx)

/-- A copy of pages that goes on as long as nothing is refused. -/
theorem regsWf_eachOk {α : Type} {xs : List α} {f : α → Run → Run}
    (hf : ∀ x r, regsWf r.m = true → regsWf (f x r).m = true) (h : regsWf r.m = true) :
    regsWf (Run.each xs (fun x r => if r.st = .ok then f x r else r) r).m = true := by
  refine regsWf_each (fun x r h => ?_) h
  split
  · exact hf x r h
  · exact h

theorem regsWf_copyPages {ag : Agent} {src dst : Nat → Nat} {n : Nat} (h : regsWf m = true) :
    regsWf (copyPages ag src dst n m).m = true :=
  regsWf_eachOk (fun _ _ => regsWf_copyPiece) h

theorem regsWf_tierFault {kind d range p : Nat} (h : regsWf m = true) : regsWf (tierFault kind d range p m) = true :=
  regsWf_recordFirst h _ _

theorem regsWf_protectedStop {d dst : Nat} (h : regsWf m = true) : regsWf (protectedStop d dst m) = true :=
  regsWf_tierFault (regsWf_raise h _)

theorem regsWf_movePlain {d t : Nat} {e : List Byte} (h : regsWf m = true) : regsWf (movePlain d t e m).m = true := by
  fun_cases movePlain with
  | case1 => exact regsWf_done (regsWf_protectedStop h)
  | case2 => exact regsWf_done (regsWf_copyPages h)

/-! ### Winnow (R301) -/

theorem regsWf_countBlocks {d : Nat} {bs : List (List Byte × Nat)} (h : regsWf m = true) : regsWf (countBlocks d bs m) = true :=
  regsWf_countSat (regsWf_countSat h)

theorem regsWf_compressPage {d t i : Nat} {e : List Byte} (h : regsWf r.m = true) : regsWf (compressPage d t e i r).m = true := by
  fun_cases compressPage with
  | case1 => exact regsWf_read h
  | case2 => exact regsWf_write (regsWf_write (regsWf_eff (regsWf_countBlocks (regsWf_read h))))

theorem regsWf_moveCompress {d t : Nat} {e : List Byte} (h : regsWf m = true) : regsWf (moveCompress d t e m).m = true := by
  fun_cases moveCompress with
  | case1 => exact regsWf_done (regsWf_protectedStop h)
  | case2 => exact regsWf_done (regsWf_eachOk (fun _ _ => regsWf_compressPage) h)

theorem regsWf_readStored {d t i : Nat} {e : List Byte} (h : regsWf r.m = true) : regsWf (readStored d t e i r).1.m = true := by
  unfold readStored
  exact regsWf_pair (regsWf_read (regsWf_read h))

theorem regsWf_winnowFault {d kind unit link slot source page : Nat} (h : regsWf m = true) :
    regsWf (winnowFault d kind unit link slot source page m) = true :=
  regsWf_recordFirst h _ _

theorem regsWf_tableMismatch {d unit link slot source page : Nat} (h : regsWf m = true) :
    regsWf (tableMismatch d unit link slot source page m) = true :=
  regsWf_raise (regsWf_winnowFault (regsWf_countSat h)) _

theorem regsWf_expandCauses {d unit link slot source page : Nat} {e : ExpandEnd} (h : regsWf m = true) :
    regsWf (expandCauses d unit link slot source page e m) = true := by
  cases e with
  | good => exact h
  | more => exact regsWf_raise (regsWf_winnowFault (regsWf_countSat h)) _
  | less => exact regsWf_raise (regsWf_winnowFault (regsWf_countSat h)) _
  | badCode => exact regsWf_raise (regsWf_winnowFault (regsWf_countSat h)) _

theorem regsWf_judged {page : List Byte} {bad : Bool} (h : regsWf m = true) : regsWf (page, bad, m).2.2 = true := h

theorem regsWf_expandJudge {d dst slot : Nat} {hdr data : List Byte} (h : regsWf m = true) :
    regsWf (expandJudge d dst slot hdr data m).2.2 = true := by
  unfold expandJudge
  extract_lets lens bs page crcBad m1
  have h1 : regsWf m1 = true := regsWf_forEach (fun _ _ => regsWf_expandCauses) h
  exact regsWf_judged (regsWf_when (fun h => regsWf_raise (regsWf_winnowFault (regsWf_countSat h)) _) h1)

theorem regsWf_expandFailed {d dst slot : Nat} (h : regsWf m = true) : regsWf (expandFailed d dst slot m).m = true :=
  regsWf_run (regsWf_raise (regsWf_winnowFault h) _)

theorem regsWf_expandRetry {d t i slot : Nat} {e : List Byte} (h : regsWf m = true) :
    regsWf (expandRetry d t e i slot m).m = true := by
  have hs : regsWf (readStored d t e i (Run.start m)).1.m = true := regsWf_readStored h
  fun_cases expandRetry with
  | case1 => exact regsWf_expandFailed hs
  | case2 => exact regsWf_expandFailed (regsWf_expandJudge hs)
  | case3 => exact regsWf_write (regsWf_run (regsWf_countSat (regsWf_expandJudge hs)))

theorem regsWf_expandPage {d t i : Nat} {e : List Byte} (h : regsWf r.m = true) : regsWf (expandPage d t e i r).m = true := by
  have hs : regsWf (readStored d t e i r).1.m = true := regsWf_readStored h
  fun_cases expandPage with
  | case1 => exact hs
  | case2 => exact regsWf_write (regsWf_eff (regsWf_tableMismatch hs))
  | case3 => exact regsWf_run (regsWf_of_regs (regsWf_write (regsWf_eff (regsWf_tableMismatch hs))) (poisonAt_regs ..))
  | case4 => exact regsWf_write (regsWf_run (regsWf_expandJudge hs))
  | case5 => exact regsWf_expandRetry (regsWf_of_regs (regsWf_write (regsWf_run (regsWf_expandJudge hs))) (poisonAt_regs ..))

theorem regsWf_moveExpand {d t : Nat} {e : List Byte} (h : regsWf m = true) : regsWf (moveExpand d t e m).m = true := by
  fun_cases moveExpand with
  | case1 => exact regsWf_done (regsWf_protectedStop h)
  | case2 => exact regsWf_done (regsWf_eachOk (fun _ _ => regsWf_expandPage) h)

/-! ### Migrations (R306, R313) -/

theorem regsWf_setMapF {range p v : Nat} {f : Fld} (h : regsWf m = true) : regsWf (setMapF range p f v m) = true := h

theorem regsWf_setStaged {range p : Nat} {v : Word} (h : regsWf m = true) : regsWf (setStaged range p v m) = true := h

theorem regsWf_stagePage {range p place frame : Nat} {e : Word} {pin : Bool} (h : regsWf m = true) :
    regsWf (stagePage range p e place frame pin m) = true := h

theorem regsWf_waitFrames {d q range p n k : Nat} (h : regsWf m = true) : regsWf (waitFrames d q range p n k m) = true := h

theorem regsWf_nvmeSend {write flush : Bool} {page die : Nat} {u : NvmeUse} (h : regsWf m = true) :
    regsWf (nvmeSend write flush page u die m) = true :=
  regsWf_of_regs h (nvmeSend_regs ..)

theorem regsWf_migrateHome {d range p : Nat} {w : Waiter} {data : List Byte} (h : regsWf m = true) :
    regsWf (migrateHome d w range p data m) = true :=
  regsWf_when (m := stData (homeOf range p) data m) regsWf_nvmeSend h

theorem regsWf_sendPage {d job q range p frame cls : Nat} {w : Waiter} {data : List Byte} (h : regsWf m = true) :
    regsWf (sendPage d job w q range p frame cls data m) = true := by
  unfold sendPage
  exact regsWf_of_regs (m := (newChunk m).2) h (forEach_regs fun _ _ => sendAfter_regs _ _)

theorem regsWf_putFrame {d q job range p : Nat} {w : Waiter} {st : Word} {data : List Byte} {n : Dev}
    (e : putFrame d q job w range p st data m = some n) (h : regsWf m = true) : regsWf n = true := by
  unfold putFrame at e
  split at e
  · cases e
    exact h
  · split at e
    · cases e
      exact regsWf_sendPage h
    · cases e

theorem regsWf_takeFrame {d k range p i : Nat} {n : Dev} (e : takeFrame d k range p m = some (i, n)) (h : regsWf m = true) :
    regsWf n = true := by
  unfold takeFrame at e
  split at e
  next hp =>
    cases e
    exact regsWf_of_regs h (popFrame_regs hp)
  · split at e
    · exact regsWf_of_regs (regsWf_of_stopAt (fun _ _ => evictOne_stopAt) h) (popFrame_regs e)
    · cases e

theorem regsWf_readRes {st : AStat} {data : List Byte} (h : regsWf m = true) : regsWf (ReadRes.mk m st data).m = true := h

theorem regsWf_migrateRead {d range p : Nat} (h : regsWf m = true) : regsWf (migrateRead d range p m).m = true := by
  fun_cases migrateRead with
  | case1 => exact regsWf_readRes h
  | case2 => exact regsWf_readVia h

theorem regsWf_mig {k : Nat} {moving popped : List (Nat × Nat)} (h : regsWf m = true) :
    regsWf (Mig.mk m k moving popped).m = true := h

theorem regsWf_migratePage {d q job range p : Nat} {w : Waiter} {tg : Target} {pin : Bool} {g : Mig} (h : regsWf g.m = true) :
    regsWf (migratePage d q job w range tg pin p g).m = true := by
  have hread : regsWf (migrateRead d range p (setMapF range p mMOVING 1 g.m)).m = true := regsWf_migrateRead (regsWf_setMapF h)
  have hout {c : Bool} {data : List Byte} := regsWf_when (c := c) (regsWf_migrateHome (d := d) (range := range) (p := p) (w := w)
    (data := data)) hread
  fun_cases migratePage with
  | case1 => exact regsWf_mig (regsWf_refuseMap h)
  | case2 => exact regsWf_mig (regsWf_setStaged (regsWf_setMapF h))
  | case3 => exact regsWf_mig hread
  | case4 => exact regsWf_mig (regsWf_refuseMap hout)
  | case5 => exact regsWf_mig (regsWf_stagePage hout)
  | case6 => exact regsWf_mig hout
  | case7 => exact regsWf_mig hout
  | case8 => exact regsWf_mig (regsWf_nvmeSend (regsWf_stagePage (regsWf_takeFrame ‹_› hout)))
  | case9 => exact regsWf_mig (regsWf_putFrame ‹_› (regsWf_stagePage (regsWf_takeFrame ‹_› hout)))
  | case10 => exact regsWf_mig (regsWf_stagePage (regsWf_takeFrame ‹_› hout))

theorem regsWf_pagesMigrated {d q job range p : Nat} {w : Waiter} {tg : Target} {pin : Bool} {is : List Nat} {g : Mig}
    (h : regsWf g.m = true) :
    regsWf (is.foldl (fun g i => if g.reason = 0 then migratePage d q job w range tg pin (p + i) g else g) g).m = true := by
  refine List.foldlRecOn (motive := fun g : Mig => regsWf g.m = true) _ _ h fun g hg i _ => ?_
  split
  · exact regsWf_migratePage hg
  · exact hg

theorem regsWf_forgetWaits {ws : List WaitMove} (h : regsWf m = true) :
    regsWf { m with tiers := { m.tiers with waitMove := ws } } = true := h

theorem regsWf_migratePages {d q job range p n : Nat} {w : Waiter} {tg : Target} {pin : Bool} (h : regsWf m = true) :
    regsWf (migratePages d q job w range p n tg pin m).m = true := by
  fun_cases migratePages with
  | case1 => exact regsWf_mig (regsWf_waitFrames (regsWf_pagesMigrated (regsWf_mig (regsWf_forgetWaits h))))
  | case2 => exact regsWf_mig (regsWf_setStaged (regsWf_pagesMigrated (regsWf_mig (regsWf_forgetWaits h))))
  | case3 => exact regsWf_pagesMigrated (regsWf_mig (regsWf_forgetWaits h))

theorem regsWf_setDyn {q : Nat} {x : RingDyn} (h : regsWf m = true) : regsWf (setDyn q x m) = true := h

theorem regsWf_moveMigrate {q d t : Nat} {e : List Byte} (h : regsWf m = true) : regsWf (moveMigrate q d t e m).m = true := by
  fun_cases moveMigrate with
  | case1 => exact regsWf_done (regsWf_pumpAll (regsWf_setDyn (regsWf_migratePages h)))
  | case2 => exact regsWf_done h
  | case3 => exact regsWf_done h

theorem regsWf_moveBody {q : Nat} {e : List Byte} (h : regsWf m = true) : regsWf (moveBody q e m).m = true := by
  fun_cases moveBody with
  | case1 => exact regsWf_moveMigrate h
  | case2 => exact regsWf_moveCompress h
  | case3 => exact regsWf_moveExpand h
  | case4 => exact regsWf_movePlain h

/-! ### COPY_ASYNC (R404) -/

theorem regsWf_fabricFault {kind die coord status typ : Nat} {arg : BitVec 64} (h : regsWf m = true) :
    regsWf (fabricFault kind die coord status typ arg m) = true :=
  regsWf_recordFirst h _ _

theorem regsWf_accessFailed {die coord status typ : Nat} {arg : BitVec 64} (h : regsWf m = true) :
    regsWf (accessFailed die coord status typ arg m) = true :=
  regsWf_raise (regsWf_fabricFault h) _

theorem regsWf_addRef {o k : Nat} (h : regsWf m = true) : regsWf (addRef o k m) = true :=
  regsWf_of_stopAt (fun _ _ => addRef_stopAt) h

theorem regsWf_copyLocal {d src dst : Nat} {e : List Byte} (h : regsWf m = true) : regsWf (copyLocal d e src dst m).m = true := by
  unfold copyLocal
  refine regsWf_each (fun c r h => ?_) h
  split
  · exact h
  · extract_lets x
    have hx : regsWf x.m = true := by
      unfold x
      split
      · exact h
      · exact regsWf_copyPiece h
    split
    · exact regsWf_run (regsWf_addRef hx)
    · split
      · exact hx
      · exact regsWf_run (regsWf_accessFailed hx)

theorem regsWf_copyPacket {q d job coord src dst chunk : Nat} {e : List Byte} {prot : Bool} {x : Nat × Nat × Bool}
    (h : regsWf r.m = true) : regsWf (copyPacket q d job coord e src dst chunk prot x r).m = true := by
  fun_cases copyPacket with
  | case1 => exact regsWf_run (regsWf_readVia h)
  | case2 => exact regsWf_run (regsWf_sendAfter (regsWf_readVia h))

theorem regsWf_newChunk (h : regsWf m = true) : regsWf (newChunk m).2 = true := h

theorem regsWf_copyRemote {q d coord src dst : Nat} {e : List Byte} (h : regsWf m = true) :
    regsWf (copyRemote q d coord e src dst m).m = true := by
  unfold copyRemote
  exact regsWf_each (fun _ _ h => regsWf_each (fun _ _ => regsWf_copyPacket) (regsWf_run (regsWf_newChunk h))) h

theorem regsWf_copyBody {q : Nat} {e : List Byte} (h : regsWf m = true) : regsWf (copyBody q e m).m = true := by
  fun_cases copyBody with
  | case1 => exact regsWf_done (regsWf_accessFailed h)
  | case2 => exact regsWf_done (regsWf_raise (regsWf_fabricFault h) _)
  | case3 => exact regsWf_done (regsWf_accessFailed h)
  | case4 => exact regsWf_done (regsWf_protectedStop h)
  | case5 => exact regsWf_done (regsWf_copyLocal h)
  | case6 => exact regsWf_done (regsWf_protectedStop h)
  | case7 => exact regsWf_done (regsWf_sendStopped h)
  | case8 => exact regsWf_done (regsWf_pumpAll (regsWf_copyRemote h))
  | case9 => exact regsWf_done (regsWf_copyRemote h)

/-! ### SIGNAL (R392, R394) -/

theorem regsWf_signalTo {q die coord : Nat} {e data : List Byte} {s : SignalSt} (h : regsWf m = true) :
    regsWf (signalTo q die e data coord s m).2 = true := by
  unfold signalTo
  exact regsWf_sendDraft h

theorem regsWf_signalFrom {q t : Nat} {e : List Byte} (h : regsWf m = true) : regsWf (signalFrom q t e m).m = true := by
  have hr : regsWf ((Run.start m).read (agentDrone (dieOf t)) (tl t (field e 16 4)) (field e 14 2)).1.m = true := regsWf_read h
  fun_cases signalFrom with
  | case1 => exact regsWf_done (regsWf_raise (regsWf_droneFault h) _)
  | case2 => exact regsWf_done h
  | case3 => exact regsWf_done (regsWf_raise (regsWf_droneFault h) _)
  | case4 => exact regsWf_done hr
  | case5 => exact regsWf_done (regsWf_sendStopped hr)
  | case6 =>
    exact regsWf_done (regsWf_of_regs (List.foldlRecOn (motive := fun x : SignalSt × Dev => regsWf x.2 = true) _ _
      (regsWf_snd hr) fun _ hx _ _ => regsWf_signalTo hx) rfl)

theorem regsWf_signalBody {q : Nat} {e : List Byte} (h : regsWf m = true) : regsWf (signalBody q e m).m = true := by
  refine List.foldlRecOn (motive := fun b : Done => regsWf b.m = true) _ _ (regsWf_done h) fun b hb x _ => ?_
  split
  · exact regsWf_signalFrom hb
  · exact hb

/-! ### What a command wrote to lent pages (R309) -/

theorem regsWf_sendLent {q : Nat} (h : regsWf m = true) : regsWf (sendLent q m) = true := by
  unfold sendLent
  split
  · exact h
  · exact regsWf_pumpAll (regsWf_of_stopAt (fun _ _ => sendPeers_stopAt) h)

end
end Sys2Proof.Machine

/-! SUPPORT. A started command is performed and passed (R105, R118, R119, R121, R125). -/
namespace Sys2Proof.Machine

section
variable {c : Instr} {q : RingRef} {op : Nat} {ok : List Byte → Dev → Bool} {body : List Byte → Dev → Done}

/-- The instruction of a command with work runs it, unless the Mover's engine is held or the pages it moves are. -/
theorem exec_of_ringWork (hw : ringWork c = some (q, op, ok, body)) (s : State)
    (hpages : op = opMOVE → moveWaits (ringNum q) s.dev = false)
    (hmover : op = opMOVE ∨ op = opCOPY → moverHeld (ringNum q) s.dev = false) :
    exec c s = .next { s with dev := runCommand (ringNum q) op ok body s.dev } := by
  unfold ringWork at hw
  split at hw <;> cases hw
  case h_8 =>
    show Host.Outcome.next { s with dev := moveCommand (ringNum q) s.dev } = _
    rw [moveCommand, hmover (.inl rfl), hpages rfl]
    rfl
  case h_9 =>
    show Host.Outcome.next { s with dev := copyCommand (ringNum q) s.dev } = _
    rw [copyCommand, hmover (.inr rfl)]
    rfl
  all_goals rfl

theorem regsWf_ringWork (hw : ringWork c = some (q, op, ok, body)) {e : List Byte} {m : Dev} (h : regsWf m = true) :
    regsWf (body e m).m = true := by
  unfold ringWork at hw
  split at hw <;> cases hw
  · exact regsWf_gemmBody h
  · exact regsWf_fusedBody h
  · exact regsWf_attendBody h
  · exact regsWf_normBody h
  · exact regsWf_routeBody h
  · exact regsWf_appendBody h
  · exact regsWf_gatherBody h
  · exact regsWf_moveBody h
  · exact regsWf_copyBody h
  · exact regsWf_signalBody h
  · exact h

/-! ### Commands without rows (R125) -/

section
variable {e : List Byte} (hrows : cmdRows e = 0) (n : Nat) (m : Dev)
include hrows

theorem gemmBody_noRows : gemmBody n e m = ⟨noteAdapt n e m, 0⟩ := if_pos hrows

theorem normBody_noRows : normBody n e m = ⟨m, 0⟩ := if_pos hrows

theorem attendBody_noRows : attendBody n e m = ⟨m, 0⟩ := by
  unfold attendBody
  extract_lets ts
  cases ts.head? with
  | none => rfl
  | some rt => exact if_pos hrows

theorem appendBody_noRows : appendBody n e m = ⟨m, 0⟩ := by
  unfold appendBody
  cases (commandTiles n e m).head? with
  | none => rfl
  | some rt => exact if_pos hrows

end

theorem noteAdapt_mem (n : Nat) (e : List Byte) (m : Dev) : (noteAdapt n e m).mem = m.mem := by
  unfold noteAdapt
  split <;> rfl

/-- GEMM, NORM, ATTEND and APPEND without rows leave memory and the registers alone. -/
theorem ringWork_noRows (hw : ringWork c = some (q, op, ok, body)) {e : List Byte} (hrows : cmdRows e = 0)
    (hop : op = opGEMM ∨ op = opNORM ∨ op = opATTEND ∨ op = opAPPEND) (m : Dev) :
    (body e m).m.mem = m.mem ∧ (body e m).m.regs = m.regs := by
  unfold ringWork at hw
  split at hw <;> cases hw
  case h_1 =>
    rw [gemmBody_noRows hrows]
    exact ⟨noteAdapt_mem .., noteAdapt_regs ..⟩
  case h_3 =>
    rw [attendBody_noRows hrows]
    exact ⟨rfl, rfl⟩
  case h_4 =>
    rw [normBody_noRows hrows]
    exact ⟨rfl, rfl⟩
  case h_6 =>
    rw [appendBody_noRows hrows]
    exact ⟨rfl, rfl⟩
  case h_11 => exact ⟨rfl, rfl⟩
  all_goals exact absurd hop (by decide)

theorem isZeroWork_noRows {e : List Byte} (hrows : cmdRows e = 0) (hop : cmdOpcode e = op)
    (h : op = opGEMM ∨ op = opNORM ∨ op = opATTEND ∨ op = opAPPEND) : isZeroWork e = true := by
  subst hop
  have hgather : cmdOpcode e ≠ opGATHER := by rcases h with h | h | h | h <;> rw [h] <;> decide
  have hmove : cmdOpcode e ≠ opMOVE := by rcases h with h | h | h | h <;> rw [h] <;> decide
  simp only [isZeroWork, if_neg hgather, if_neg hmove, hrows]
  rcases h with h | h | h | h <;> simp [h]

/-! ### The command -/

/-- A command that may start and whose work comes to no refused access completes behind what its work did. -/
theorem runCommand_of_started {n : Nat} {m : Dev} (hstart : ringCanStart n m = true) (hst : (fetchEntry n m).st = .ok)
    (hop : cmdOpcode (fetchEntry n m).data = op)
    (hok : (entryOk (fetchEntry n m).data && rankOk n (fetchEntry n m).data (fetchEntry n m).m &&
      ok (fetchEntry n m).data (fetchEntry n m).m) = true)
    (hreason : (body (fetchEntry n m).data (openGroup n (fetchEntry n m).m)).reason = 0) :
    runCommand n op ok body m =
      let r := fetchEntry n m
      finishWith n r.data (isZeroWork r.data || windowEmpty n r.data r.m) (sendLent n (body r.data (openGroup n r.m)).m) := by
  simp [runCommand, hstart, hst, hop, hok, hreason]

end

/-- Settles O30: the command's work keeps the registers well formed, so what passes it is read back from its ring's registers. -/
theorem startedCommandIsPerformedAndPassed : Obligations.StartedCommandIsPerformedAndPassed := by
  intro c q op ok body s hw hsound n r hstart hst hop hok hpages hmover b d hreason
  have hrwf : regsWf r.m = true := regsWf_fetchEntry (regsWf_of_sound hsound)
  have hd : regsWf d = true := regsWf_sendLent (regsWf_ringWork hw (ringsAs_openGroup hrwf n).wf)
  refine ⟨_, (exec_of_ringWork hw s hpages hmover).trans
    (congrArg (fun m => Host.Outcome.next { s with dev := m }) (runCommand_of_started hstart hst hop hok hreason)),
    fetchPassed_finishWith hd _ _ _, regsSameBut_finishWith hd _ _ _, memSame_of_mem (finishWith_mem ..), ?_⟩
  rw [dynOf_finishWith]
  refine ⟨rfl, rfl, fun hrows hkind => ?_⟩
  obtain ⟨hmem, hregs⟩ := ringWork_noRows hw hrows hkind (openGroup n r.m)
  have hzero : isZeroWork r.data = true := isZeroWork_noRows hrows hop hkind
  refine ⟨memSame_of_mem hmem, hregs, ?_⟩
  show (_ || (isZeroWork r.data || _)) = true
  rw [hzero, Bool.true_or, Bool.or_true]
end Sys2Proof.Machine

/-! SUPPORT. The Field Plan's status and fault registers, and the end of a commit without an apply (R164, R167, R173 to R175). -/
namespace Sys2Proof.Machine

/-! ### Causes and records -/

@[simp] theorem raise_plan (c : Cause) (m : Dev) : (raise c m).plan = m.plan := by
  obtain ⟨g, n, k, h⟩ := raise_cases c m
  rw [h]
  rfl

@[simp] theorem raise_piper (c : Cause) (m : Dev) : (raise c m).piper = m.piper := by
  obtain ⟨g, n, k, h⟩ := raise_cases c m
  rw [h]
  rfl

@[simp] theorem raise_net (c : Cause) (m : Dev) : (raise c m).net = m.net := by
  obtain ⟨g, n, k, h⟩ := raise_cases c m
  rw [h]
  rfl

@[simp] theorem raise_tiers (c : Cause) (m : Dev) : (raise c m).tiers = m.tiers := by
  obtain ⟨g, n, k, h⟩ := raise_cases c m
  rw [h]
  rfl

/-- A raised cause clears no bit of any register. -/
theorem getLsbD_rd_raise_of_set {m : Dev} (h : regsWf m = true) (c : Cause) {o i : Nat} (hb : (rd o m).getLsbD i = true) :
    (rd o (raise c m)).getLsbD i = true := by
  by_cases ho : o = c.reg
  · subst ho
    rw [getLsbD_rd_raise h c (BitVec.lt_of_getLsbD hb), hb, Bool.or_true]
  · rwa [rd_raise_ne h c ho]

/-! ### Work on registers alone -/

/-- `n` differs from `m` in the registers at `offs`, and in nothing else that a commit works on or that is sent to other modules. -/
structure OnlyRegs (offs : List Nat) (m n : Dev) : Prop where
  wf : regsWf n = true
  regs : regsSameBut offs m n
  mem : n.mem = m.mem
  shadow : n.shadow = m.shadow
  plan : n.plan = m.plan
  piper : n.piper = m.piper
  net : n.net = m.net
  tiers : n.tiers = m.tiers

section
variable {offs : List Nat} {m n : Dev}

theorem OnlyRegs.refl (h : regsWf m = true) : OnlyRegs offs m m := ⟨h, fun _ _ => rfl, rfl, rfl, rfl, rfl, rfl, rfl⟩

theorem OnlyRegs.memSame (h : OnlyRegs offs m n) : memSame m n := memSame_of_mem h.mem

theorem OnlyRegs.wr {o : Nat} {v : Word} (ho : o ∈ offs) (h : OnlyRegs offs m n) : OnlyRegs offs m (wr o v n) :=
  { h with
    wf := regsWf_wr h.wf o v
    regs := fun p hp => (rd_wr_ne h.wf v (fun e => hp (by rwa [e]))).trans (h.regs p hp) }

theorem OnlyRegs.wrF {o k : Nat} {f : Fld} (ho : o ∈ offs) (h : OnlyRegs offs m n) : OnlyRegs offs m (wrF o f k n) := h.wr ho

theorem OnlyRegs.recordFirst {o : Nat} {v : Word} (ho : o ∈ offs) (h : OnlyRegs offs m n) :
    OnlyRegs offs m (recordFirst o v n) := by
  unfold Machine.recordFirst
  split
  · exact h
  · exact h.wr ho

theorem OnlyRegs.raise {c : Cause} (hc : c.reg ∈ offs) (h : OnlyRegs offs m n) : OnlyRegs offs m (raise c n) where
  wf := regsWf_raise h.wf c
  regs := fun p hp => (rd_raise_ne h.wf c (fun e => hp (by rwa [e]))).trans (h.regs p hp)
  mem := (raise_mem c n).trans h.mem
  shadow := (raise_shadow c n).trans h.shadow
  plan := (raise_plan c n).trans h.plan
  piper := (raise_piper c n).trans h.piper
  net := (raise_net c n).trans h.net
  tiers := (raise_tiers c n).trans h.tiers

theorem OnlyRegs.planFaults {phase cause strip group target off : Nat} (hf : aFPLAN_FAULT ∈ offs)
    (hc : (fplanCause cause).reg ∈ offs) (h : OnlyRegs offs m n) :
    OnlyRegs offs m (planFaults phase cause strip group target off n) :=
  (h.recordFirst hf).raise hc

theorem OnlyRegs.setPlanState {k : Nat} (hs : aFPLAN_STATUS ∈ offs) (h : OnlyRegs offs m n) :
    OnlyRegs offs m (setPlanState k n) := h.wr hs

theorem OnlyRegs.planResult {k : Nat} (hs : aFPLAN_STATUS ∈ offs) (h : OnlyRegs offs m n) : OnlyRegs offs m (planResult k n) :=
  h.wr hs

theorem OnlyRegs.planCounts (hs : aFPLAN_STATUS ∈ offs) (h : OnlyRegs offs m n) : OnlyRegs offs m (planCounts n) :=
  (h.wrF hs).wrF hs

theorem OnlyRegs.restState (hs : aFPLAN_STATUS ∈ offs) (h : OnlyRegs offs m n) : OnlyRegs offs m (restState n) :=
  h.setPlanState hs

end

/-! ### FPLAN_STATUS (R174) -/

section
variable {m : Dev} (h : regsWf m = true)
include h

theorem planState_setPlanState {k : Nat} (hk : k < 8) : planState (setPlanState k m) = k :=
  (rdF_wrF_same h _ _ k (by decide)).trans (Nat.mod_eq_of_lt hk)

theorem result_planResult {k : Nat} (hk : k < 16) : rdF aFPLAN_STATUS fFPLAN_STATUS_RESULT (planResult k m) = k :=
  (rdF_wrF_same h _ _ k (by decide)).trans (Nat.mod_eq_of_lt hk)

theorem planState_planResult (k : Nat) : planState (planResult k m) = planState m :=
  rdF_wrF_other h _ fFPLAN_STATUS_RESULT fFPLAN_STATUS_STATE k (by decide) (by decide)

/-- The counts lie beside STATE and RESULT. -/
theorem status_planCounts {f : Fld} (hf : f.lo + f.w ≤ 32) : rdF aFPLAN_STATUS f (planCounts m) = rdF aFPLAN_STATUS f m := by
  have hs : regsWf (wrF aFPLAN_STATUS fFPLAN_STATUS_STAGED (m.plan.staged % 2 ^ 24) m) = true := regsWf_wrF h _ _ _
  exact (rdF_wrF_other hs _ fFPLAN_STATUS_WAITING f _ (.inl (hf.trans (by decide))) (hf.trans (by decide))).trans
    (rdF_wrF_other h _ fFPLAN_STATUS_STAGED f _ (.inl hf) (hf.trans (by decide)))

theorem planState_planCounts : planState (planCounts m) = planState m := status_planCounts h (by decide)

theorem waiting_planCounts : rdF aFPLAN_STATUS fFPLAN_STATUS_WAITING (planCounts m) = min 255 m.plan.waiting.length :=
  (rdF_wrF_same (regsWf_wrF h _ _ _) _ _ _ (by decide)).trans (Nat.mod_eq_of_lt (by
    have : 2 ^ fFPLAN_STATUS_WAITING.w = 256 := rfl
    omega))

theorem planState_restState : planState (restState m) = if changeSetEmpty m then 0 else 2 :=
  planState_setPlanState h (by split <;> decide)

end

/-- A leaf stands through a write of another register. -/
theorem leafSet_wrF {c : Cause} {o k : Nat} {f : Fld} {m : Dev} (h : regsWf m = true) (hc : c.reg ≠ o) :
    leafSet c (wrF o f k m) = leafSet c m :=
  leafSet_of_rd (rd_wrF_ne h f k hc)

/-! ### The units go on (R164, R167) -/

theorem nothingToSend_congr {m n : Dev} (h : nothingToSend m) (hn : n.net = m.net) (ht : n.tiers = m.tiers) :
    nothingToSend n := by
  unfold nothingToSend
  rwa [hn, ht]

/-- With nothing to send, a pump sends nothing. -/
theorem pumpAll_of_nothingToSend {m : Dev} (h : nothingToSend m) : pumpAll m = m := by
  obtain ⟨hlater, hout, hwant⟩ := h
  simp [pumpAll, askPeers, hout, hwant, forEach, hlater, pump, nextToGo]

/-- `n` is `m` but for the links, what has been sent, and the free values drawn. -/
def SameButLinks (m n : Dev) : Prop := ∃ ls os k, n = { m with links := ls, out := os, free := k }

theorem SameButLinks.refl (m : Dev) : SameButLinks m m := ⟨_, _, _, rfl⟩

theorem SameButLinks.setLink {m n : Dev} (h : SameButLinks m n) (l : Nat) (x : LinkDyn) : SameButLinks m (setLink l x n) := by
  obtain ⟨ls, os, k, rfl⟩ := h
  exact ⟨_, _, _, rfl⟩

theorem SameButLinks.startPacket {m n : Dev} (h : SameButLinks m n) (l : Nat) (p : Packet) :
    SameButLinks m (startPacket l p n) := by
  obtain ⟨ls, os, k, rfl⟩ := h
  exact ⟨_, _, _, rfl⟩

theorem sameButLinks_nextByWeight {fuel l : Nat} {q : QueuedPkt} {m n n' : Dev} (e : nextByWeight fuel l n = some (q, n'))
    (h : SameButLinks m n) : SameButLinks m n' := by
  induction fuel generalizing n with
  | zero => cases e
  | succ fuel ih =>
    simp only [nextByWeight] at e
    split at e
    · exact ih e (h.setLink _ _)
    · split at e
      · cases e
        exact h.setLink _ _
      · exact ih e (h.setLink _ _)

theorem sameButLinks_nextPacket {l : Nat} {q : QueuedPkt} {m n n' : Dev} (e : nextPacket l n = some (q, n'))
    (h : SameButLinks m n) : SameButLinks m n' := by
  unfold nextPacket at e
  split at e
  · cases e
    exact h
  · split at e
    · exact sameButLinks_nextByWeight e h
    · cases e

theorem sameButLinks_drainSteps {fuel l : Nat} {m n : Dev} (h : SameButLinks m n) : SameButLinks m (drainSteps fuel l n) := by
  induction fuel generalizing n with
  | zero => exact h
  | succ fuel ih =>
    unfold drainSteps
    split
    · exact h
    next e => exact ih (((sameButLinks_nextPacket e h).setLink _ _).startPacket _ _)

theorem SameButLinks.drainQueue {m n : Dev} (h : SameButLinks m n) (l : Nat) : SameButLinks m (drainQueue l n) :=
  sameButLinks_drainSteps h

/-- Waiting packets start, and nothing waited to be sent to other modules. -/
theorem sameButLinks_unitsResume {m : Dev} (h : nothingToSend m) : SameButLinks m (unitsResume m) := by
  have hdrained : SameButLinks m (forEach (List.range 36) Machine.drainQueue m) :=
    forEach_keeps (SameButLinks m) _ _ m (fun l _ _ hn => hn.drainQueue l) (.refl m)
  obtain ⟨ls, os, k, e⟩ := hdrained
  have hsend : nothingToSend (forEach (List.range 36) Machine.drainQueue m) :=
    nothingToSend_congr h (by rw [e]) (by rw [e])
  exact ⟨ls, os, k, (pumpAll_of_nothingToSend hsend).trans e⟩

theorem SameButLinks.regs {m n : Dev} (h : SameButLinks m n) : n.regs = m.regs := by
  obtain ⟨ls, os, k, rfl⟩ := h
  rfl

theorem OnlyRegs.sameButLinks {offs : List Nat} {m n n' : Dev} (h : OnlyRegs offs m n) (hn : SameButLinks n n') :
    OnlyRegs offs m n' := by
  obtain ⟨ls, os, k, rfl⟩ := hn
  exact ⟨h.wf, h.regs, h.mem, h.shadow, h.plan, h.piper, h.net, h.tiers⟩

/-! ### A commit that ends without an apply (R156, R167) -/

/-- No change set is frozen, and no unit waits or is parked. -/
def thawed (m : Dev) : Dev :=
  { m with plan := { m.plan with
    frozen := false, frozenMask := [], frozenTables := [], frozenStaged := 0, waiting := [], parked := [], zeroing := false } }

theorem unfreeze_eq (m : Dev) : unfreeze m = planCounts (thawed m) := rfl

section
variable {result cause group target off : Nat} {m : Dev}

/-- The registers that the end of a commit with a fault writes. -/
def endRegs (cause : Nat) : List Nat := [aFPLAN_STATUS, aFPLAN_FAULT, (fplanCause cause).reg]

theorem status_mem_endRegs : aFPLAN_STATUS ∈ endRegs cause := List.mem_cons_self
theorem fault_mem_endRegs : aFPLAN_FAULT ∈ endRegs cause := List.mem_cons_of_mem _ List.mem_cons_self
theorem cause_mem_endRegs : (fplanCause cause).reg ∈ endRegs cause :=
  List.mem_cons_of_mem _ (List.mem_cons_of_mem _ List.mem_cons_self)

/-- The plan thaws and its fault is recorded and raised; STATUS is yet to follow. -/
theorem onlyRegs_faultThawed (h : regsWf m = true) :
    OnlyRegs (endRegs cause) (thawed m) (planFaults 2 cause 0 group target off (unfreeze m)) := by
  rw [unfreeze_eq]
  exact ((OnlyRegs.refl (m := thawed m) h).planCounts status_mem_endRegs).planFaults fault_mem_endRegs cause_mem_endRegs

/-- Before the units go on. -/
theorem onlyRegs_endedQuietly (h : regsWf m = true) :
    OnlyRegs (endRegs cause) (thawed m) (planResult result (restState (planFaults 2 cause 0 group target off (unfreeze m)))) :=
  ((onlyRegs_faultThawed h).restState status_mem_endRegs).planResult status_mem_endRegs

theorem sameButLinks_commitEnds (h : regsWf m = true) (hs : nothingToSend m) :
    SameButLinks (planResult result (restState (planFaults 2 cause 0 group target off (unfreeze m))))
      (commitEnds result cause group target off m) :=
  have hquiet := onlyRegs_endedQuietly (result := result) (cause := cause) (group := group) (target := target) (off := off) h
  sameButLinks_unitsResume (nothingToSend_congr (m := thawed m) hs hquiet.net hquiet.tiers)

theorem onlyRegs_commitEnds (h : regsWf m = true) (hs : nothingToSend m) :
    OnlyRegs (endRegs cause) (thawed m) (commitEnds result cause group target off m) :=
  (onlyRegs_endedQuietly h).sameButLinks (sameButLinks_commitEnds h hs)

theorem rd_commitEnds (h : regsWf m = true) (hs : nothingToSend m) (o : Nat) :
    rd o (commitEnds result cause group target off m) =
      rd o (planResult result (restState (planFaults 2 cause 0 group target off (unfreeze m)))) :=
  rd_congr (sameButLinks_commitEnds h hs).regs o

theorem result_commitEnds (h : regsWf m = true) (hs : nothingToSend m) (hr : result < 16) :
    rdF aFPLAN_STATUS fFPLAN_STATUS_RESULT (commitEnds result cause group target off m) = result := by
  rw [rdF, rd_commitEnds h hs]
  exact result_planResult ((onlyRegs_faultThawed h).restState status_mem_endRegs).wf hr

theorem changeSetEmpty_congr {m n : Dev} (hs : n.shadow = m.shadow) (ht : n.plan.stagedTables = m.plan.stagedTables) :
    changeSetEmpty n = changeSetEmpty m := by
  unfold changeSetEmpty
  rw [hs, ht]

theorem planState_commitEnds (h : regsWf m = true) (hs : nothingToSend m) :
    planState (commitEnds result cause group target off m) = if changeSetEmpty m then 0 else 2 := by
  have hfault := onlyRegs_faultThawed (cause := cause) (group := group) (target := target) (off := off) h
  have hempty : changeSetEmpty (planFaults 2 cause 0 group target off (unfreeze m)) = changeSetEmpty m :=
    changeSetEmpty_congr (m := thawed m) hfault.shadow (congrArg Plan.stagedTables hfault.plan)
  rw [planState, rdF, rd_commitEnds h hs, ← hempty, ← planState_restState hfault.wf]
  exact planState_planResult (hfault.restState status_mem_endRegs).wf result

theorem leafSet_commitEnds (h : regsWf m = true) (hs : nothingToSend m) (hc : (fplanCause cause).reg ≠ aFPLAN_STATUS) :
    leafSet (fplanCause cause) (commitEnds result cause group target off m) = true := by
  have hcounts := (OnlyRegs.refl (offs := endRegs cause) (m := thawed m) h).planCounts status_mem_endRegs
  have hfault := onlyRegs_faultThawed (cause := cause) (group := group) (target := target) (off := off) h
  calc leafSet (fplanCause cause) (commitEnds result cause group target off m)
      = leafSet (fplanCause cause) (restState (planFaults 2 cause 0 group target off (unfreeze m))) :=
        (leafSet_of_rd (rd_commitEnds h hs _)).trans (leafSet_wrF (hfault.restState status_mem_endRegs).wf hc)
    _ = leafSet (fplanCause cause) (planFaults 2 cause 0 group target off (unfreeze m)) := leafSet_wrF hfault.wf hc
    _ = true := leafSet_raise (hcounts.recordFirst fault_mem_endRegs).wf _

end

/-! ### The commands of chapter 5 -/

/-- Piper makes no move, so nothing follows the Field Plan's result but the boundary. -/
theorem planRow_of_no_move {cause : Nat} {f : Dev → Dev} {m : Dev} (h : (f m).piper.move = none) :
    planRow cause f m = boundary (f m) := by
  unfold planRow ratioReact
  rw [h]

end Sys2Proof.Machine

/-! SUPPORT. Loads of the Field Plan (R162, R164). -/
namespace Sys2Proof.Machine

/-! ### A read leaves the plan alone (R94, R291, R311) -/

/-- The shadows, the plan and Piper. -/
def planPart (m : Dev) : Sparse (Word × Word) × Plan × PiperSt := (m.shadow, m.plan, m.piper)

theorem raise_planPart (c : Cause) (m : Dev) : planPart (raise c m) = planPart m := by
  unfold planPart
  rw [raise_shadow, raise_plan, raise_piper]

theorem recordFirst_planPart (o : Nat) (v : Word) (m : Dev) : planPart (recordFirst o v m) = planPart m := by
  obtain ⟨r, h⟩ := recordFirst_cases o v m
  rw [h]
  rfl

theorem gateFault_planPart (g : Gate) (kind off : Nat) (write : Bool) (m : Dev) :
    planPart (gateFault g kind off write m) = planPart m := by
  cases g with
  | tile t k => exact recordFirst_planPart _ _ _
  | shared d k tl => exact recordFirst_planPart _ _ _
  | none => rfl

theorem poisonMet_planPart (write : Bool) (a : Nat) (g : Gate) (bad off : Nat) (m : Dev) :
    planPart (poisonMet write a g bad off m) = planPart m := by
  unfold poisonMet
  split
  · exact (gateFault_planPart ..).trans (raise_planPart _ _)
  · exact (gateFault_planPart ..).trans (raise_planPart _ _)
  · exact (recordFirst_planPart _ _ _).trans (raise_planPart _ _)
  · rfl

theorem peerAsk_planPart (die a n : Nat) (m : Dev) : planPart (peerAsk die a n m) = planPart m := by
  unfold peerAsk
  split <;> rfl

theorem peerRead_planPart (die a n : Nat) (m : Dev) : planPart (peerRead die a n m).m = planPart m := by
  simp only [peerRead]
  split
  · refine foldl_keeps planPart fun m c => ?_
    split
    · exact peerAsk_planPart ..
    · rfl
  · rfl

theorem readServed_planPart (ag : Agent) (a n : Nat) (sv : Served) (m : Dev) :
    planPart (readServed ag a n sv m).m = planPart m := by
  unfold readServed
  split
  · split
    · exact poisonMet_planPart ..
    · rfl
  · exact peerRead_planPart ..
  · rfl
  · exact (gateFault_planPart ..).trans (raise_planPart _ _)
  · exact raise_planPart _ _
  · rfl
  · rfl

theorem readVia_planPart (ag : Agent) (a n : Nat) (m : Dev) : planPart (readVia ag a n m).m = planPart m :=
  foldl_keeps (fun r : ReadRes => planPart r.m) fun r p => readServed_planPart ag p.1 p.2 _ r.m

/-! ### Staging -/

/-- `n` has come from `m` by staging: the registers are well formed, and memory, the load under way and Piper stand. -/
structure Staging (m n : Dev) : Prop where
  wf : regsWf n = true
  mem : n.mem = m.mem
  loading : n.plan.loading = m.plan.loading
  piper : n.piper = m.piper

section
variable {m n : Dev}

theorem Staging.wr {o : Nat} {v : Word} (h : Staging m n) : Staging m (wr o v n) := { h with wf := regsWf_wr h.wf o v }

theorem Staging.wrF {o k : Nat} {f : Fld} (h : Staging m n) : Staging m (wrF o f k n) := h.wr

theorem Staging.raise {c : Cause} (h : Staging m n) : Staging m (raise c n) where
  wf := regsWf_raise h.wf c
  mem := (raise_mem c n).trans h.mem
  loading := (congrArg Plan.loading (raise_plan c n)).trans h.loading
  piper := (raise_piper c n).trans h.piper

theorem Staging.forEach {α : Type} {xs : List α} {f : α → Dev → Dev} (hf : ∀ x n, Staging m n → Staging m (f x n))
    (h : Staging m n) : Staging m (forEach xs f n) :=
  forEach_keeps (Staging m) xs f n (fun x _ => hf x) h

theorem Staging.planFaults {phase cause strip group target off : Nat} (h : Staging m n) :
    Staging m (planFaults phase cause strip group target off n) := by
  refine Staging.raise ?_
  unfold fplanFault Machine.recordFirst
  split
  · exact h
  · exact h.wr

theorem Staging.countStaged (h : Staging m n) : Staging m (countStaged n) := by
  have hcounts : Staging m (planCounts { n with plan := { n.plan with staged := n.plan.staged + 1 } }) :=
    Staging.wrF (Staging.wrF ⟨h.wf, h.mem, h.loading, h.piper⟩)
  unfold Machine.countStaged
  extract_lets m1
  split
  · exact hcounts.wrF
  · exact hcounts

theorem Staging.stageBits {off : Nat} {value mask : Word} (h : Staging m n) : Staging m (stageBits off value mask n) := by
  unfold Machine.stageBits
  extract_lets busy free s t m1
  have hbusy : Staging m m1 := when_keeps (Staging m) _ _ n Staging.planFaults h
  split
  · exact hbusy
  · exact Staging.countStaged ⟨hbusy.wf, hbusy.mem, hbusy.loading, hbusy.piper⟩

theorem Staging.stageWrite {off : Nat} {value mask : Word} (h : Staging m n) : Staging m (stageWrite off value mask n) := by
  unfold Machine.stageWrite
  split
  · exact h.raise
  · split
    · exact h
    · exact h.stageBits

theorem Staging.loadUcode {t : Nat} {img : List Byte} (h : Staging m n) : Staging m (loadUcode t img n) := by
  have hbank (p : Plan) (hp : p.loading = n.plan.loading) : Staging m (useFree 1 { n with plan := p }) :=
    ⟨h.wf, h.mem, hp.trans h.loading, h.piper⟩
  simp only [Machine.loadUcode]
  split
  · exact Staging.wrF (Staging.wrF (hbank _ (by rfl)))
  · exact Staging.wrF (Staging.wrF (hbank _ (by rfl)))

theorem Staging.stageStrip {s : List Byte} (h : Staging m n) : Staging m (stageStrip s n) := by
  unfold Machine.stageStrip
  split
  · refine Staging.forEach (fun r n h => ?_) h
    split
    · exact h.stageWrite
    · exact h
  · split
    · exact Staging.countStaged ⟨h.wf, h.mem, h.loading, h.piper⟩
    · split
      · exact h.loadUcode
      · exact h

theorem Staging.extendM {digest : List Byte} (h : Staging m n) : Staging m (extendM digest n) :=
  Staging.forEach (fun _ _ h => h.wr) h

end

/-! ### The end of a load (R162) -/

/-- The registers that a refused container writes. -/
def refusalRegs (e : LoadErr) : List Nat :=
  [aFPLAN_STATUS, aFPLAN_FAULT, (fplanCause e.cause).reg, cSCARECROW_VERIFY_FAIL.reg]

/-- The module with the refusal of a container recorded and raised. -/
def loadRefused (e : LoadErr) (m : Dev) : Dev :=
  planFaults 1 e.cause e.strip e.group e.target e.off (when (decide (e.cause = 1)) (raise cSCARECROW_VERIFY_FAIL) m)

section
variable {c : List Byte} {ok : Bool} {e : LoadErr} {m : Dev}

theorem loadChecked_of_refused (hc : checkContainer c ok m = .inl e) :
    loadChecked c ok m = planResult 2 (restState (loadRefused e m)) := by
  unfold loadChecked
  rw [hc]
  rfl

theorem onlyRegs_verifyFailed (h : regsWf m = true) :
    OnlyRegs (refusalRegs e) m (when (decide (e.cause = 1)) (raise cSCARECROW_VERIFY_FAIL) m) :=
  when_keeps (OnlyRegs (refusalRegs e) m) _ _ m (fun h => h.raise (by simp [refusalRegs])) (.refl h)

theorem onlyRegs_loadRefused (h : regsWf m = true) : OnlyRegs (refusalRegs e) m (loadRefused e m) :=
  (onlyRegs_verifyFailed h).planFaults (by simp [refusalRegs]) (by simp [refusalRegs])

theorem fplanCause_block (n : Nat) : (fplanCause n).block = 3 := by
  unfold fplanCause
  split <;> rfl

/-- No leaf register is FPLAN_STATUS. -/
theorem reg_ne_status {d : Cause} (hb : d.block < 50) (hl : d.leaf < 128) : d.reg ≠ aFPLAN_STATUS := by
  unfold Cause.reg aINT_LEAF aFPLAN_STATUS
  omega

theorem fplanCause_reg_ne_status (n : Nat) : (fplanCause n).reg ≠ aFPLAN_STATUS :=
  reg_ne_status (by rw [fplanCause_block]; decide) (fplanCause_leaf_lt n)

/-- A leaf of the refusal stands at the end of the load. -/
theorem leafSet_loadChecked {d : Cause} (h : regsWf m = true) (hc : checkContainer c ok m = .inl e)
    (hd : d.reg ≠ aFPLAN_STATUS) : leafSet d (loadChecked c ok m) = leafSet d (loadRefused e m) := by
  have hrefused := onlyRegs_loadRefused (e := e) h
  rw [loadChecked_of_refused hc]
  exact (leafSet_wrF (hrefused.restState (by simp [refusalRegs])).wf hd).trans (leafSet_wrF hrefused.wf hd)

theorem leafSet_loadRefused (h : regsWf m = true) : leafSet (fplanCause e.cause) (loadRefused e m) = true :=
  leafSet_raise ((onlyRegs_verifyFailed h).recordFirst (by simp [refusalRegs])).wf _

/-- A container that fails its signature is reported by Scarecrow too. -/
theorem verifyFail_loadRefused (h : regsWf m = true) (he : e.cause = 1) :
    leafSet cSCARECROW_VERIFY_FAIL (loadRefused e m) = true := by
  have hraised : leafSet cSCARECROW_VERIFY_FAIL (when (decide (e.cause = 1)) (raise cSCARECROW_VERIFY_FAIL) m) = true := by
    rw [decide_eq_true he]
    exact leafSet_raise h _
  have hfault : (cSCARECROW_VERIFY_FAIL).reg ≠ aFPLAN_FAULT := by decide
  refine leafSet_raise_mono ((onlyRegs_verifyFailed h).recordFirst (by simp [refusalRegs])).wf ?_
  exact (leafSet_of_rd (rd_recordFirst_ne (onlyRegs_verifyFailed h).wf _ hfault)).trans hraised

theorem onlyRegs_loadChecked (h : regsWf m = true) (hc : checkContainer c ok m = .inl e) :
    OnlyRegs (refusalRegs e) m (loadChecked c ok m) := by
  rw [loadChecked_of_refused hc]
  exact ((onlyRegs_loadRefused h).restState (by simp [refusalRegs])).planResult (by simp [refusalRegs])

theorem result_loadChecked_of_refused (h : regsWf m = true) (hc : checkContainer c ok m = .inl e) :
    rdF aFPLAN_STATUS fFPLAN_STATUS_RESULT (loadChecked c ok m) = 2 := by
  rw [loadChecked_of_refused hc]
  exact result_planResult ((onlyRegs_loadRefused h).restState (by simp [refusalRegs])).wf (by decide)

/-- The strips of a container that passes are staged; one that joins no change set is not noted in the plan (R174). -/
def containerStaged (c : List Byte) (ss : List (List Byte)) (m : Dev) : Dev :=
  forEach ss stageStrip { m with plan := { m.plan with
    container := if ss.any (fun s => sKind s ≠ 2) then
        some (BitVec.ofNat 64 (field c 8 8), BitVec.ofNat 32 (field c 24 4), decide (field c 7 1 = 1))
      else m.plan.container } }

theorem staging_containerStaged {ss : List (List Byte)} (h : regsWf m = true) : Staging m (containerStaged c ss m) :=
  Staging.forEach (fun _ _ h => h.stageStrip) ⟨h, rfl, rfl, rfl⟩

theorem loadChecked_of_passed {ss : List (List Byte)} (hc : checkContainer c ok m = .inr ss) :
    loadChecked c ok m = planResult 1 (restState (extendM (slice c (field c 40 4 + 8) 64) (containerStaged c ss m))) := by
  unfold loadChecked
  rw [hc]
  rfl

theorem staging_loadChecked {ss : List (List Byte)} (h : regsWf m = true) (hc : checkContainer c ok m = .inr ss) :
    Staging m (loadChecked c ok m) := by
  rw [loadChecked_of_passed hc]
  exact (staging_containerStaged h).extendM.wrF.wrF

theorem result_loadChecked_of_passed {ss : List (List Byte)} (h : regsWf m = true) (hc : checkContainer c ok m = .inr ss) :
    rdF aFPLAN_STATUS fFPLAN_STATUS_RESULT (loadChecked c ok m) = 1 := by
  have hrest : Staging m (restState (extendM (slice c (field c 40 4 + 8) 64) (containerStaged c ss m))) :=
    (staging_containerStaged h).extendM.wrF
  rw [loadChecked_of_passed hc]
  exact result_planResult hrest.wf (by decide)

/-- Step 1 of R162: without a valid signature nothing else is checked. -/
theorem checkContainer_of_unsigned (c : List Byte) (m : Dev) : checkContainer c false m = .inl ⟨1, 0, 0, 0, 0⟩ := by
  simp [checkContainer, planSigned]

end

/-! ### The rows LOAD and LOAD_DONE -/

theorem fplanLoad_busy {m : Dev} (hst : planState m = 1 ∨ planState m = 3) :
    fplanLoad m = planResult 2 (planFaults 1 9 0 0 0 0 m) := by
  unfold fplanLoad
  rw [if_pos (by simpa using hst)]

/-- The module with the container that FPLAN_SOURCE names taken up. -/
def loadTakenUp (m : Dev) : Dev :=
  { m with plan := { m.plan with
    loading := some (rdF aFPLAN_SOURCE fFPLAN_SOURCE_ADDR m * 64, rdF aFPLAN_SOURCE fFPLAN_SOURCE_LENGTH m * 8) } }

theorem fplanLoad_free {m : Dev} (h1 : planState m ≠ 1) (h3 : planState m ≠ 3) :
    fplanLoad m = setPlanState 1 (loadTakenUp m) := by
  unfold fplanLoad
  rw [if_neg (by simp [h1, h3])]
  rfl

/-- The read of the container under way, whose load ends. -/
def containerRead (a n : Nat) (m : Dev) : ReadRes :=
  readVia .headland a n { m with plan := { m.plan with loading := none } }

section
variable {a n : Nat} {m : Dev}

theorem fplanLoadDone_of_read {ok : Bool} (hl : m.plan.loading = some (a, n)) (hr : (containerRead a n m).st ≠ .held) :
    fplanLoadDone ok m =
      loadChecked (if (containerRead a n m).st = .ok then (containerRead a n m).data else []) ok (containerRead a n m).m := by
  unfold fplanLoadDone
  rw [hl]
  exact if_neg hr

theorem containerRead_frame (a n : Nat) (m : Dev) : (containerRead a n m).m.shadow = m.shadow ∧
    (containerRead a n m).m.plan.loading = none ∧ (containerRead a n m).m.plan.stagedTables = m.plan.stagedTables ∧
    (containerRead a n m).m.piper = m.piper := by
  have h := readVia_planPart .headland a n { m with plan := { m.plan with loading := none } }
  obtain ⟨hshadow, h⟩ := Prod.mk.inj h
  obtain ⟨hplan, hpiper⟩ := Prod.mk.inj h
  exact ⟨hshadow, (congrArg Plan.loading hplan :), (congrArg Plan.stagedTables hplan :), hpiper⟩

end

theorem exec_fplanLoad (s : State) : exec .fplanLoad s = .next { s with dev := fplanLoad s.dev } := rfl

theorem exec_fplanLoadDone {ok : Bool} {s : State} (h : (fplanLoadDone ok s.dev).piper.move = none) :
    exec (.fplanLoadDone ok) s = .next { s with dev := boundary (fplanLoadDone ok s.dev) } := by
  rw [← planRow_of_no_move (cause := loadCause ok s.dev) h]
  rfl

/-- A load that is refused because another is under way. -/
theorem fplanLoad_refuses {s : State} (h : regsWf s.dev = true) (hst : planState s.dev = 1 ∨ planState s.dev = 3) :
    ∃ m, exec .fplanLoad s = .next { s with dev := m } ∧ leafSet cFPLAN_COMMIT_BUSY m = true ∧
      m.shadow = s.dev.shadow ∧ m.plan = s.dev.plan ∧ memSame s.dev m := by
  have hrecorded : OnlyRegs (endRegs 9) s.dev (fplanFault 1 9 0 0 0 0 s.dev) :=
    (OnlyRegs.refl h).recordFirst fault_mem_endRegs
  have hfaults : OnlyRegs (endRegs 9) s.dev (planFaults 1 9 0 0 0 0 s.dev) := hrecorded.raise cause_mem_endRegs
  have hend : OnlyRegs (endRegs 9) s.dev (fplanLoad s.dev) := by
    rw [fplanLoad_busy hst]
    exact hfaults.planResult status_mem_endRegs
  refine ⟨_, exec_fplanLoad s, ?_, hend.shadow, hend.plan, hend.memSame⟩
  rw [fplanLoad_busy hst]
  exact (leafSet_wrF hfaults.wf (by decide)).trans (leafSet_raise hrecorded.wf cFPLAN_COMMIT_BUSY)

/-- A load that is taken up. -/
theorem fplanLoad_takesUp {s : State} (h : regsWf s.dev = true) (h1 : planState s.dev ≠ 1) (h3 : planState s.dev ≠ 3) :
    ∃ m, exec .fplanLoad s = .next { s with dev := m } ∧ planState m = 1 ∧ m.shadow = s.dev.shadow ∧
      m.plan.loading = some (rdF aFPLAN_SOURCE fFPLAN_SOURCE_ADDR s.dev * 64, rdF aFPLAN_SOURCE fFPLAN_SOURCE_LENGTH s.dev * 8) ∧
      regsSameBut [aFPLAN_STATUS] s.dev m := by
  have htaken : regsWf (loadTakenUp s.dev) = true := h
  have hregs := ((OnlyRegs.refl (offs := [aFPLAN_STATUS]) htaken).setPlanState (k := 1) List.mem_cons_self).regs
  refine ⟨_, (exec_fplanLoad s).trans (by rw [fplanLoad_free h1 h3]), planState_setPlanState htaken (by decide), rfl, rfl, hregs⟩

/-- Settles O35: a refused container's checks end in registers alone, and one that passes is staged beside the load under way. -/
theorem loadIsCheckedBeforeItsShadows : Obligations.LoadIsCheckedBeforeItsShadows := by
  intro ok s hsound hmove st
  have hwf := regsWf_of_sound hsound
  refine ⟨fplanLoad_refuses hwf, fplanLoad_takesUp hwf, fun a n hl => ?_⟩
  intro r hr
  have hrwf : regsWf (containerRead a n s.dev).m = true := regsWf_readVia (m := { s.dev with plan := _ }) hwf
  obtain ⟨hshadow, hloading, hstaged, hpiper⟩ := containerRead_frame a n s.dev
  have hdone := fun ok => fplanLoadDone_of_read (ok := ok) hl hr
  have hexec : ∀ {ok'}, (fplanLoadDone ok' s.dev).piper = (containerRead a n s.dev).m.piper →
      exec (.fplanLoadDone ok') s = .next { s with dev := boundary (fplanLoadDone ok' s.dev) } := fun hp =>
    exec_fplanLoadDone (by rw [hp, hpiper, hmove])
  refine ⟨?_, fun e he => ?_, fun ss hss => ?_⟩
  · have he := checkContainer_of_unsigned (if r.st = .ok then r.data else []) r.m
    have hend := onlyRegs_loadChecked hrwf he
    refine ⟨_, hexec ?_, ?_, ?_, ?_, ?_, ?_, ?_⟩ <;> rw [hdone]
    · exact hend.piper
    · exact hend.shadow.trans hshadow
    · exact (congrArg Plan.loading hend.plan).trans hloading
    · exact (leafSet_loadChecked hrwf he (by decide)).trans (leafSet_loadRefused hrwf)
    · exact (leafSet_loadChecked hrwf he (by decide)).trans (verifyFail_loadRefused hrwf rfl)
    · exact result_loadChecked_of_refused hrwf he
    · exact hend.memSame
  · have hend := onlyRegs_loadChecked hrwf he
    refine ⟨_, hexec ?_, ?_, ?_, ?_, ?_⟩ <;> rw [hdone]
    · exact hend.piper
    · exact hend.shadow.trans hshadow
    · exact (congrArg Plan.stagedTables hend.plan).trans hstaged
    · exact (leafSet_loadChecked hrwf he (fplanCause_reg_ne_status _)).trans (leafSet_loadRefused hrwf)
    · exact result_loadChecked_of_refused hrwf he
  · have hend := staging_loadChecked hrwf hss
    refine ⟨_, hexec ?_, ?_, ?_, ?_⟩ <;> rw [hdone]
    · exact hend.piper
    · exact hend.loading.trans hloading
    · exact memSame_of_mem hend.mem
    · exact result_loadChecked_of_passed hrwf hss

end Sys2Proof.Machine

/-! SUPPORT. Commits that end or wait before their apply, units that park, time-outs and aborts (R156, R164, R166, R167, R169). -/
namespace Sys2Proof.Machine

/-! ### The steps of a commit up to its apply (R164, steps 1 to 4) -/

section
variable {m : Dev}

theorem fplanCommit_busy (hst : planState m = 1 ∨ planState m = 3) :
    fplanCommit m = planResult 4 (planFaults 2 9 0 0 0 0 m) := by
  unfold fplanCommit
  rw [if_pos (by simpa using hst)]

theorem fplanCommit_empty (h1 : planState m ≠ 1) (h3 : planState m ≠ 3) (he : changeSetEmpty m = true) :
    fplanCommit m = planResult 3 m := by
  unfold fplanCommit
  rw [if_neg (by simp [h1, h3]), if_pos he]

/-- The frozen plan with the units that it waits for. -/
def planWaiting (m : Dev) : Dev :=
  { frozenPlan m with plan := { (frozenPlan m).plan with waiting := unitsToPark (frozenPlan m) } }

/-- Steps 2 to 4 judge the frozen change set: its groups, its offline units, the units that must park. -/
theorem fplanCommit_frozen (h1 : planState m ≠ 1) (h3 : planState m ≠ 3) (he : changeSetEmpty m = false) :
    fplanCommit m =
      match failingGroup (frozenPlan m) with
      | some (i, c) => commitEnds 4 (if c = .incomplete then 10 else 11) (0xFF00 + i) 0 0 (frozenPlan m)
      | none =>
        match notOffline (frozenPlan m) with
        | some o => commitEnds 4 12 0 (targetOfReg o).1 (targetOfReg o).2 (frozenPlan m)
        | none =>
          if (unitsToPark (frozenPlan m)).isEmpty then allReady (planCounts (planWaiting m))
          else planCounts (planWaiting m) := by
  have hnot : ¬ (planState m = 1 || planState m = 3) = true := by simp [h1, h3]
  unfold fplanCommit
  rw [if_neg hnot, if_neg (by simp [he])]
  rfl

theorem regsWf_frozenPlan (h : regsWf m = true) : regsWf (frozenPlan m) = true := regsWf_wrF (m := { m with plan := _ }) h _ _ _

theorem rd_frozenPlan_ne (h : regsWf m = true) {o : Nat} (ho : o ≠ aFPLAN_STATUS) : rd o (frozenPlan m) = rd o m :=
  rd_wrF_ne (m := { m with plan := _ }) h _ _ ho

theorem planState_frozenPlan (h : regsWf m = true) : planState (frozenPlan m) = 3 :=
  planState_setPlanState (m := { m with plan := _ }) h (by decide)

theorem nothingToSend_frozenPlan (h : nothingToSend m) : nothingToSend (frozenPlan m) := h

/-- What a commit refused under R156 or R167 leaves: the fault reported and raised, and the change set staged still. -/
theorem commitRefused {cause group target off : Nat} (h : regsWf m = true) (hs : nothingToSend m)
    (he : changeSetEmpty m = false) :
    let n := commitEnds 4 cause group target off (frozenPlan m)
    n.piper = m.piper ∧ rdF aFPLAN_STATUS fFPLAN_STATUS_RESULT n = 4 ∧ planState n = 2 ∧
      leafSet (fplanCause cause) n = true ∧ n.shadow = m.shadow ∧ n.plan.stagedTables = m.plan.stagedTables ∧
      regsSameBut (endRegs cause) m n := by
  intro n
  have hf := regsWf_frozenPlan h
  have hend : OnlyRegs (endRegs cause) (thawed (frozenPlan m)) n := onlyRegs_commitEnds hf (nothingToSend_frozenPlan hs)
  refine ⟨hend.piper, result_commitEnds hf hs (by decide), ?_, leafSet_commitEnds hf hs (fplanCause_reg_ne_status _),
    hend.shadow, (congrArg Plan.stagedTables hend.plan :), fun o ho => ?_⟩
  · have hempty : changeSetEmpty (frozenPlan m) = false := (changeSetEmpty_congr rfl rfl).trans he
    rw [planState_commitEnds hf hs, hempty]
    rfl
  · exact (hend.regs o ho).trans (rd_frozenPlan_ne h (fun e => ho (e ▸ status_mem_endRegs)))

end

/-! ### The rows -/

theorem exec_fplanCommit {s : State} (h : (fplanCommit s.dev).piper.move = none) :
    exec .fplanCommit s = .next { s with dev := boundary (fplanCommit s.dev) } := by
  rw [← planRow_of_no_move (cause := 0) h]
  rfl

theorem exec_unitReady {u : PlanUnit} {s : State} (h : (unitReady u s.dev).piper.move = none) :
    exec (.unitReady u) s = .next { s with dev := boundary (unitReady u s.dev) } := by
  rw [← planRow_of_no_move (cause := 0) h]
  rfl

theorem exec_evictionZeroingDone {s : State} (h : (evictionZeroed s.dev).piper.move = none) :
    exec .evictionZeroingDone s = .next { s with dev := boundary (evictionZeroed s.dev) } := by
  rw [← planRow_of_no_move (cause := 0) h]
  rfl

theorem exec_fplanCommitTimeout {s : State} (h : (fplanTimeout s.dev).piper.move = none) :
    exec .fplanCommitTimeout s = .next { s with dev := boundary (fplanTimeout s.dev) } := by
  rw [← planRow_of_no_move (cause := 0) h]
  rfl

theorem exec_fplanAbort {s : State} (h : (fplanAbort s.dev).piper.move = none) :
    exec .fplanAbort s = .next { s with dev := boundary (fplanAbort s.dev) } := by
  rw [← planRow_of_no_move (cause := 0) h]
  rfl

section
variable {s : State} (h : regsWf s.dev = true) (hmove : s.dev.piper.move = none)
include h hmove

/-! ### COMMIT -/

theorem commit_busy (hst : planState s.dev = 1 ∨ planState s.dev = 3) :
    ∃ m, exec .fplanCommit s = .next { s with dev := boundary m } ∧ leafSet cFPLAN_COMMIT_BUSY m = true ∧
      m.shadow = s.dev.shadow ∧ m.plan = s.dev.plan := by
  have hrecorded : OnlyRegs (endRegs 9) s.dev (fplanFault 2 9 0 0 0 0 s.dev) :=
    (OnlyRegs.refl h).recordFirst fault_mem_endRegs
  have hfaults : OnlyRegs (endRegs 9) s.dev (planFaults 2 9 0 0 0 0 s.dev) := hrecorded.raise cause_mem_endRegs
  have hend : OnlyRegs (endRegs 9) s.dev (fplanCommit s.dev) := by
    rw [fplanCommit_busy hst]
    exact hfaults.planResult status_mem_endRegs
  refine ⟨_, exec_fplanCommit (by rw [hend.piper, hmove]), ?_, hend.shadow, hend.plan⟩
  rw [fplanCommit_busy hst]
  exact (leafSet_wrF hfaults.wf (by decide)).trans (leafSet_raise hrecorded.wf cFPLAN_COMMIT_BUSY)

variable (h1 : planState s.dev ≠ 1) (h3 : planState s.dev ≠ 3)
include h1 h3

theorem commit_empty (he : changeSetEmpty s.dev = true) :
    ∃ m, exec .fplanCommit s = .next { s with dev := boundary m } ∧ rdF aFPLAN_STATUS fFPLAN_STATUS_RESULT m = 3 ∧
      regsSameBut [aFPLAN_STATUS] s.dev m ∧ m.shadow = s.dev.shadow ∧ memSame s.dev m := by
  have heq := fplanCommit_empty h1 h3 he
  have hend : OnlyRegs [aFPLAN_STATUS] s.dev (fplanCommit s.dev) := by
    rw [heq]
    exact (OnlyRegs.refl h).planResult List.mem_cons_self
  refine ⟨_, exec_fplanCommit (by rw [hend.piper, hmove]), ?_, hend.regs, hend.shadow, hend.memSame⟩
  rw [heq]
  exact result_planResult h (by decide)

variable (he : changeSetEmpty s.dev = false)
include he

omit h1 h3 in
/-- A commit that ends refused, with the cause of its fault. -/
theorem commit_refused {cause group target off : Nat} (hs : nothingToSend s.dev)
    (heq : fplanCommit s.dev = commitEnds 4 cause group target off (frozenPlan s.dev)) :
    ∃ m, exec .fplanCommit s = .next { s with dev := boundary m } ∧ rdF aFPLAN_STATUS fFPLAN_STATUS_RESULT m = 4 ∧
      planState m = 2 ∧ leafSet (fplanCause cause) m = true ∧ m.shadow = s.dev.shadow ∧
      m.plan.stagedTables = s.dev.plan.stagedTables ∧ regsSameBut (endRegs cause) s.dev m := by
  obtain ⟨hpiper, hend⟩ := commitRefused (cause := cause) (group := group) (target := target) (off := off) h hs he
  rw [← heq] at hpiper hend
  exact ⟨_, exec_fplanCommit (by rw [hpiper, hmove]), hend⟩

theorem commit_waits (hg : failingGroup (frozenPlan s.dev) = none) (ho : notOffline (frozenPlan s.dev) = none)
    (hu : unitsToPark (frozenPlan s.dev) ≠ []) :
    ∃ m, exec .fplanCommit s = .next { s with dev := boundary m } ∧ planState m = 3 ∧
      m.plan.waiting = unitsToPark (frozenPlan s.dev) ∧
      rdF aFPLAN_STATUS fFPLAN_STATUS_WAITING m = min 255 (unitsToPark (frozenPlan s.dev)).length ∧
      m.shadow = s.dev.shadow ∧ regsSameBut [aFPLAN_STATUS] s.dev m := by
  have heq : fplanCommit s.dev = planCounts (planWaiting s.dev) := by
    rw [fplanCommit_frozen h1 h3 he, hg, ho]
    exact if_neg (by simpa using hu)
  have hwf : regsWf (planWaiting s.dev) = true := regsWf_frozenPlan h
  have hend : OnlyRegs [aFPLAN_STATUS] (planWaiting s.dev) (fplanCommit s.dev) := by
    rw [heq]
    exact (OnlyRegs.refl hwf).planCounts List.mem_cons_self
  have hmove' : (fplanCommit s.dev).piper.move = none := (congrArg PiperSt.move hend.piper).trans hmove
  refine ⟨_, exec_fplanCommit hmove', ?_, (congrArg Plan.waiting hend.plan :), ?_, hend.shadow, fun o ho => ?_⟩
  · rw [heq]
    exact (planState_planCounts hwf).trans (planState_frozenPlan h)
  · rw [heq]
    exact waiting_planCounts hwf
  · exact (hend.regs o ho).trans (rd_frozenPlan_ne h (by simpa using ho))

end

/-! ### UNIT_READY (R164, R166) -/

/-- A unit has parked. -/
def unitParked (u : PlanUnit) (m : Dev) : Dev :=
  { m with plan := { m.plan with waiting := m.plan.waiting.erase u, parked := m.plan.parked ++ [u] } }

theorem unitReady_parks {u : PlanUnit} {m : Dev} (hf : m.plan.frozen = true) (hw : m.plan.waiting.contains u = true)
    (hc : unitAtCondition u m = true) (hne : m.plan.waiting.erase u ≠ []) : unitReady u m = planCounts (unitParked u m) := by
  have hguard : ¬ (!m.plan.frozen || !m.plan.waiting.contains u || !unitAtCondition u m) = true := by rw [hf, hw, hc]; decide
  have hwaiting : ¬ (unitParked u m).plan.waiting.isEmpty = true := fun he => hne (List.isEmpty_iff.1 he)
  have hcounts : ¬ ((planCounts (unitParked u m)).plan.waiting.isEmpty && !(planCounts (unitParked u m)).plan.zeroing) = true :=
    fun he => hwaiting (Bool.and_eq_true_iff.1 he).1
  have heq : unitReady u m =
      let m1 := planCounts (if (unitParked u m).plan.waiting.isEmpty then withdrawUnready (unitParked u m) else unitParked u m)
      if m1.plan.waiting.isEmpty && !m1.plan.zeroing then allReady m1 else m1 := if_neg hguard
  rw [heq, if_neg hwaiting]
  exact if_neg hcounts

theorem unitReady_not_ready {u : PlanUnit} {m : Dev} (hc : unitAtCondition u m = false) : unitReady u m = m := by
  unfold unitReady
  rw [if_pos (by simp [hc])]

section
variable {u : PlanUnit} {s : State} (h : regsWf s.dev = true) (hmove : s.dev.piper.move = none)
include h hmove

theorem unitReady_oneOfSeveral (hf : s.dev.plan.frozen = true) (hw : s.dev.plan.waiting.contains u = true)
    (hc : unitAtCondition u s.dev = true) (hne : s.dev.plan.waiting.erase u ≠ []) :
    ∃ m, exec (.unitReady u) s = .next { s with dev := boundary m } ∧ m.plan.waiting = s.dev.plan.waiting.erase u ∧
      m.plan.parked = s.dev.plan.parked ++ [u] ∧ m.plan.frozen = true ∧ m.shadow = s.dev.shadow ∧
      regsSameBut [aFPLAN_STATUS] s.dev m ∧ memSame s.dev m := by
  have hend : OnlyRegs [aFPLAN_STATUS] (unitParked u s.dev) (unitReady u s.dev) := by
    rw [unitReady_parks hf hw hc hne]
    exact (OnlyRegs.refl (m := unitParked u s.dev) h).planCounts List.mem_cons_self
  have hmove' : (unitReady u s.dev).piper.move = none := (congrArg PiperSt.move hend.piper).trans hmove
  exact ⟨_, exec_unitReady hmove', (congrArg Plan.waiting hend.plan :), (congrArg Plan.parked hend.plan :),
    (congrArg Plan.frozen hend.plan).trans hf, hend.shadow, hend.regs, hend.memSame⟩

theorem evictionZeroed_waits (hz : s.dev.plan.zeroing = true) (hw : (withdrawUnready s.dev).plan.waiting ≠ []) :
    ∃ m, exec .evictionZeroingDone s = .next { s with dev := boundary m } ∧ m.plan.frozen = s.dev.plan.frozen ∧
      m.plan.waiting = (withdrawUnready s.dev).plan.waiting ∧ m.shadow = s.dev.shadow ∧
      regsSameBut [aFPLAN_STATUS] s.dev m ∧ memSame s.dev m := by
  have heq : evictionZeroed s.dev = planCounts (withdrawUnready s.dev) := by
    unfold evictionZeroed
    rw [if_neg (by simp [hz])]
    exact if_neg (fun he => hw (List.isEmpty_iff.1 he))
  have hend : OnlyRegs [aFPLAN_STATUS] (withdrawUnready s.dev) (evictionZeroed s.dev) := by
    rw [heq]
    exact (OnlyRegs.refl (m := withdrawUnready s.dev) h).planCounts List.mem_cons_self
  have hmove' : (evictionZeroed s.dev).piper.move = none := (congrArg PiperSt.move hend.piper).trans hmove
  exact ⟨_, exec_evictionZeroingDone hmove', (congrArg Plan.frozen hend.plan :), congrArg Plan.waiting hend.plan, hend.shadow,
    hend.regs, hend.memSame⟩

/-! ### Time-outs and aborts (R167, R169) -/

theorem commitTimeout_ends (hs : nothingToSend s.dev) (hf : s.dev.plan.frozen = true) :
    ∃ m, exec .fplanCommitTimeout s = .next { s with dev := boundary m } ∧ m.plan.frozen = false ∧ m.plan.parked = [] ∧
      m.shadow = s.dev.shadow ∧ m.plan.stagedTables = s.dev.plan.stagedTables ∧
      rdF aFPLAN_STATUS fFPLAN_STATUS_RESULT m = 5 ∧ leafSet cFPLAN_COMMIT_TIMEOUT m = true ∧
      regsSameBut [aFPLAN_STATUS, aFPLAN_FAULT, cFPLAN_COMMIT_TIMEOUT.reg] s.dev m ∧ memSame s.dev m := by
  have heq : fplanTimeout s.dev = commitEnds 5 13 0 0 0 s.dev := if_pos hf
  have hend : OnlyRegs (endRegs 13) (thawed s.dev) (fplanTimeout s.dev) := by
    rw [heq]
    exact onlyRegs_commitEnds h hs
  have hmove' : (fplanTimeout s.dev).piper.move = none := (congrArg PiperSt.move hend.piper).trans hmove
  refine ⟨_, exec_fplanCommitTimeout hmove', (congrArg Plan.frozen hend.plan :), (congrArg Plan.parked hend.plan :), hend.shadow,
    (congrArg Plan.stagedTables hend.plan :), ?_, ?_, hend.regs, hend.memSame⟩ <;> rw [heq]
  · exact result_commitEnds h hs (by decide)
  · exact leafSet_commitEnds (cause := 13) h hs (by decide)

omit h in
theorem commitTimeout_idle (hf : s.dev.plan.frozen = false) :
    exec .fplanCommitTimeout s = .next { s with dev := boundary s.dev } := by
  have heq : fplanTimeout s.dev = s.dev := if_neg (by simp [hf])
  rw [exec_fplanCommitTimeout (by rw [heq, hmove]), heq]

end

/-- The units go on from an abort. -/
def abortResumed (m : Dev) : Dev := unitsResume (unfreeze m)

/-- The module whose shadows have taken their active values (R169). -/
def abandoned (m : Dev) : Dev :=
  { m with shadow := [], plan := { m.plan with stagedTables := [], container := none, staged := 0 } }

theorem planState_abandoned (m : Dev) : planState (abandoned m) = planState m :=
  congrArg fFPLAN_STATUS_STATE.get (rd_congr (n := m) rfl aFPLAN_STATUS)

/-- What FPLAN_STATUS says of an abort; a load under way goes on. -/
def abortReports (m : Dev) : Dev := planCounts (planResult 6 (if planState m = 1 then m else setPlanState 0 m))

theorem fplanAbort_eq (m : Dev) : fplanAbort m = abortReports (abandoned (abortResumed m)) := by
  unfold fplanAbort abortReports abandoned abortResumed
  rfl

theorem abortReports_spec {m : Dev} (h : regsWf m = true) : OnlyRegs [aFPLAN_STATUS] m (abortReports m) ∧
    rdF aFPLAN_STATUS fFPLAN_STATUS_RESULT (abortReports m) = 6 ∧
    planState (abortReports m) = if planState m = 1 then 1 else 0 := by
  unfold abortReports
  set n := if planState m = 1 then m else setPlanState 0 m with hn
  have hrest : OnlyRegs [aFPLAN_STATUS] m n ∧ planState n = if planState m = 1 then 1 else 0 := by
    rw [hn]
    split
    next e => exact ⟨.refl h, e⟩
    · exact ⟨(OnlyRegs.refl h).setPlanState List.mem_cons_self, planState_setPlanState h (by decide)⟩
  have hresult : OnlyRegs [aFPLAN_STATUS] m (planResult 6 n) := hrest.1.planResult List.mem_cons_self
  refine ⟨hresult.planCounts List.mem_cons_self, ?_, ?_⟩
  · exact (status_planCounts hresult.wf (by decide)).trans (result_planResult hrest.1.wf (by decide))
  · exact (planState_planCounts hresult.wf).trans ((planState_planResult hrest.1.wf 6).trans hrest.2)

theorem onlyRegs_abortResumed {m : Dev} (h : regsWf m = true) (hs : nothingToSend m) :
    OnlyRegs [aFPLAN_STATUS] (thawed m) (abortResumed m) ∧ planState (abortResumed m) = planState m := by
  have hcounts : OnlyRegs [aFPLAN_STATUS] (thawed m) (unfreeze m) :=
    (OnlyRegs.refl (m := thawed m) h).planCounts List.mem_cons_self
  have hlinks : SameButLinks (unfreeze m) (abortResumed m) :=
    sameButLinks_unitsResume (nothingToSend_congr (m := thawed m) hs hcounts.net hcounts.tiers)
  refine ⟨hcounts.sameButLinks hlinks, ?_⟩
  calc planState (abortResumed m) = planState (unfreeze m) :=
        congrArg fFPLAN_STATUS_STATE.get (rd_congr hlinks.regs aFPLAN_STATUS)
    _ = planState m := planState_planCounts (m := thawed m) h

theorem abort_empties {s : State} (h : regsWf s.dev = true) (hmove : s.dev.piper.move = none) (hs : nothingToSend s.dev) :
    ∃ m, exec .fplanAbort s = .next { s with dev := boundary m } ∧ m.shadow = [] ∧ m.plan.stagedTables = [] ∧
      m.plan.frozen = false ∧ rdF aFPLAN_STATUS fFPLAN_STATUS_RESULT m = 6 ∧
      planState m = (if planState s.dev = 1 then 1 else 0) ∧ regsSameBut [aFPLAN_STATUS] s.dev m ∧ memSame s.dev m := by
  have heq := fplanAbort_eq s.dev
  obtain ⟨hresumed, hstate⟩ := onlyRegs_abortResumed h hs
  generalize abortResumed s.dev = r at heq hresumed hstate
  obtain ⟨hend, hresult, hendState⟩ := abortReports_spec (m := abandoned r) hresumed.wf
  rw [← heq] at hend hresult hendState
  have hmove' : (fplanAbort s.dev).piper.move = none :=
    (congrArg PiperSt.move (hend.piper.trans hresumed.piper)).trans hmove
  refine ⟨_, exec_fplanAbort hmove', hend.shadow, (congrArg Plan.stagedTables hend.plan :), ?_, hresult, ?_, ?_, ?_⟩
  · exact (congrArg Plan.frozen hend.plan).trans (congrArg Plan.frozen hresumed.plan)
  · rw [hendState, planState_abandoned, hstate]
  · exact fun o ho => (hend.regs o ho).trans (hresumed.regs o ho)
  · exact memSame_of_mem (hend.mem.trans hresumed.mem)

end Sys2Proof.Machine

/-! SUPPORT. What the apply of a change set keeps (R164, step 6): whatever is committed, memory, Piper and what waits to be sent
stand, and no raised cause falls. -/
namespace Sys2Proof.Machine

/-! ### Two modules before and after work of the apply -/

/-- The registers of `n` are well formed, and memory, Piper, the tiers and the packets that wait are as in `m`. -/
structure Quiet (m n : Dev) : Prop where
  wf : regsWf n = true
  mem : n.mem = m.mem
  piper : n.piper = m.piper
  tiers : n.tiers = m.tiers
  later : n.net.later = m.net.later

/-- Beside that, the registers at `fixed` and the shadows and images that wait are as in `m`, and in the Headland block, where the
causes have their leaves, bits have only been set. -/
structure Kept (fixed : List Nat) (m n : Dev) : Prop extends Quiet m n where
  same : ∀ o ∈ fixed, rd o n = rd o m
  leaves : ∀ o < 0x10000, ∀ i, (rd o m).getLsbD i = true → (rd o n).getLsbD i = true
  shadow : n.shadow = m.shadow
  staged : n.plan.stagedTables = m.plan.stagedTables

/-- All that `Quiet` and `Kept` look at. -/
def quietPart (m : Dev) := (m.regs, m.mem, m.piper, m.tiers, m.net.later)
def keptPart (m : Dev) := (quietPart m, m.shadow, m.plan.stagedTables)

section
variable {fixed : List Nat} {l m n n' : Dev}

theorem Quiet.refl (h : regsWf m = true) : Quiet m m := ⟨h, rfl, rfl, rfl, rfl⟩

theorem Quiet.trans (h : Quiet l m) (h' : Quiet m n) : Quiet l n :=
  ⟨h'.wf, h'.mem.trans h.mem, h'.piper.trans h.piper, h'.tiers.trans h.tiers, h'.later.trans h.later⟩

theorem Quiet.congr (h : Quiet m n) (e : quietPart n' = quietPart n) : Quiet m n' := by
  simp only [quietPart, Prod.mk.injEq] at e
  obtain ⟨hregs, hmem, hpiper, htiers, hlater⟩ := e
  exact ⟨regsWf_of_regs h.wf hregs, hmem.trans h.mem, hpiper.trans h.piper, htiers.trans h.tiers, hlater.trans h.later⟩

theorem Quiet.wr {o : Nat} {v : Word} (h : Quiet m n) : Quiet m (wr o v n) := { h with wf := regsWf_wr h.wf o v }

theorem Quiet.wrF {o k : Nat} {f : Fld} (h : Quiet m n) : Quiet m (wrF o f k n) := h.wr

theorem Quiet.forEach {α : Type} {xs : List α} {f : α → Dev → Dev} (hf : ∀ x ∈ xs, ∀ n, Quiet m n → Quiet m (f x n))
    (h : Quiet m n) : Quiet m (forEach xs f n) :=
  forEach_keeps (Quiet m) xs f n hf h

theorem Quiet.sendsNothing (h : Quiet m n) (hs : nothingToSend m) : nothingToSend n :=
  hs.imp h.later.trans (And.imp (congrArg Tiers.peerOut h.tiers).trans (congrArg Tiers.peerWant h.tiers).trans)

theorem Kept.refl (h : regsWf m = true) : Kept fixed m m := ⟨.refl h, fun _ _ => rfl, fun _ _ _ => id, rfl, rfl⟩

theorem Kept.congr (h : Kept fixed m n) (e : keptPart n' = keptPart n) : Kept fixed m n' := by
  simp only [keptPart, Prod.mk.injEq] at e
  obtain ⟨hquiet, hshadow, hstaged⟩ := e
  have hregs : n'.regs = n.regs := congrArg Prod.fst hquiet
  exact
    { h.toQuiet.congr hquiet with
      same := fun o ho => (rd_congr hregs o).trans (h.same o ho)
      leaves := fun o ho i hi => by
        rw [rd_congr hregs]
        exact h.leaves o ho i hi
      shadow := hshadow.trans h.shadow
      staged := hstaged.trans h.staged }

theorem Kept.leafSet (h : Kept fixed m n) {c : Cause} (hb : c.block < 50) (hl : c.leaf < 128) (hc : leafSet c m = true) :
    leafSet c n = true :=
  h.leaves _ (by unfold Cause.reg aINT_LEAF; omega) _ hc

theorem Kept.wr {o : Nat} {v : Word} (hlow : 0x10000 ≤ o) (ho : o ∉ fixed) (h : Kept fixed m n) : Kept fixed m (wr o v n) :=
  { h.toQuiet.wr with
    same := fun p hp => (rd_wr_ne h.wf v (fun e => ho (by rwa [← e]))).trans (h.same p hp)
    leaves := fun p hp i hi => by
      rw [rd_wr_ne h.wf v (by omega)]
      exact h.leaves p hp i hi
    shadow := h.shadow
    staged := h.staged }

theorem Kept.wrF {o k : Nat} {f : Fld} (hlow : 0x10000 ≤ o) (ho : o ∉ fixed) (h : Kept fixed m n) :
    Kept fixed m (wrF o f k n) :=
  h.wr hlow ho

theorem Kept.recordFirst {o : Nat} {v : Word} (hlow : 0x10000 ≤ o) (ho : o ∉ fixed) (h : Kept fixed m n) :
    Kept fixed m (recordFirst o v n) := by
  unfold Machine.recordFirst
  split
  · exact h
  · exact h.wr hlow ho

theorem Kept.raise {c : Cause} (hc : c.reg ∉ fixed) (h : Kept fixed m n) : Kept fixed m (raise c n) where
  wf := regsWf_raise h.wf c
  mem := (raise_mem c n).trans h.mem
  piper := (raise_piper c n).trans h.piper
  tiers := (raise_tiers c n).trans h.tiers
  later := (congrArg Net.later (raise_net c n)).trans h.later
  same := fun p hp => (rd_raise_ne h.wf c (fun e => hc (by rwa [← e]))).trans (h.same p hp)
  leaves := fun p hp i hi => getLsbD_rd_raise_of_set h.wf c (h.leaves p hp i hi)
  shadow := (raise_shadow c n).trans h.shadow
  staged := (congrArg Plan.stagedTables (raise_plan c n)).trans h.staged

theorem Kept.forEach {α : Type} {xs : List α} {f : α → Dev → Dev}
    (hf : ∀ x ∈ xs, ∀ n, Kept fixed m n → Kept fixed m (f x n)) (h : Kept fixed m n) : Kept fixed m (forEach xs f n) :=
  forEach_keeps (Kept fixed m) xs f n hf h

theorem Kept.when {c : Bool} {f : Dev → Dev} (hf : Kept fixed m n → Kept fixed m (f n)) (h : Kept fixed m n) :
    Kept fixed m (when c f n) :=
  when_keeps (Kept fixed m) c f n hf h

theorem Kept.sameButLinks (h : Kept fixed m n) (hn : SameButLinks n n') : Kept fixed m n' := by
  obtain ⟨ls, os, k, rfl⟩ := hn
  exact h.congr rfl

end

/-! ### The registers that every apply may write -/

/-- The registers at `fixed` are none of those that an apply writes whatever is committed: leaves, the links' states, the reports of
membership, the regions that end. -/
structure Spared (fixed : List Nat) : Prop where
  leaf : ∀ c : Cause, c.block < 50 → c.leaf < 128 → c.reg ∉ fixed
  linkStatus : ∀ l < 36, aWINDROW_LINK_STATUS l ∉ fixed
  linkFault : aWINDROW_FAULT ∉ fixed
  tileId : ∀ t < 144, onTile aTILE_ID t ∉ fixed
  engine : ∀ t < 144, onTile aCHANTER_ENGINE t ∉ fixed
  region : ∀ d < 8, ∀ k < 8, ∀ r < 8, aDIE_SHARED_REGION d k r ∉ fixed

theorem spared_nil : Spared [] :=
  ⟨fun _ _ _ => List.not_mem_nil, fun _ _ => List.not_mem_nil, List.not_mem_nil, fun _ _ => List.not_mem_nil,
    fun _ _ => List.not_mem_nil, fun _ _ _ _ _ _ => List.not_mem_nil⟩

theorem low_le_linkStatus (l : Nat) : 0x10000 ≤ aWINDROW_LINK_STATUS l := by
  unfold aWINDROW_LINK_STATUS
  omega

theorem low_le_tileId (t : Nat) : 0x10000 ≤ onTile aTILE_ID t := by
  unfold onTile aTILE_ID
  omega

theorem low_le_chanterEngine (t : Nat) : 0x10000 ≤ onTile aCHANTER_ENGINE t := by
  unfold onTile aCHANTER_ENGINE
  omega

theorem low_le_chanterUcode (t : Nat) : 0x10000 ≤ onTile aCHANTER_UCODE t := by
  unfold onTile aCHANTER_UCODE
  omega

theorem low_le_tileRingReg (t r k : Nat) : 0x10000 ≤ tileRingReg t r k := by
  unfold tileRingReg aRING_BASE
  omega

theorem low_le_sharedRegion (d k r : Nat) : 0x10000 ≤ aDIE_SHARED_REGION d k r := by
  unfold aDIE_SHARED_REGION
  omega

section
variable {fixed : List Nat} (hF : Spared fixed) {m n : Dev}
include hF

/-! ### Links that may no longer train (R352, R355) -/

theorem Spared.windrowFault {kind link coord job : Nat} (h : Kept fixed m n) :
    Kept fixed m (windrowFault kind link coord job n) :=
  h.recordFirst (by decide) hF.linkFault

omit hF in
theorem Kept.sendDraft {d : Draft} (h : Kept fixed m n) : Kept fixed m (sendDraft d n) := by
  simp only [Machine.sendDraft]
  split <;> exact h.congr rfl

theorem Spared.sendNack {reason die : Nat} {p : Packet} (h : Kept fixed m n) : Kept fixed m (sendNack reason die p n) := by
  unfold Machine.sendNack
  split
  · exact hF.windrowFault h
  · exact h.sendDraft

theorem Spared.unreachable {d : Nat} {p : Packet} (h : Kept fixed m n) : Kept fixed m (unreachable d p n) := by
  refine Kept.raise (hF.leaf _ (by decide) (by decide)) ?_
  split
  · exact hF.windrowFault h
  · exact hF.sendNack (hF.windrowFault h)

omit hF in
theorem Kept.offerPacket {l : Nat} {q : QueuedPkt} (h : Kept fixed m n) : Kept fixed m (offerPacket l q n) :=
  h.sameButLinks (((SameButLinks.refl n).setLink _ _).drainQueue l)

theorem Spared.leaveBy {d port : Nat} {detour : Bool} {p : Packet} (h : Kept fixed m n) :
    Kept fixed m (leaveBy d port detour p n) := by
  unfold Machine.leaveBy
  split
  · exact h.offerPacket
  · exact hF.unreachable h

omit hF in
theorem Kept.leaveNetwork {link : Option Nat} {p : Packet} (h : Kept fixed m n) : Kept fixed m (leaveNetwork link p n) := by
  cases link <;> exact h.congr rfl

theorem Spared.packetRoute {d : Nat} {link : Option Nat} {p : Packet} (h : Kept fixed m n) :
    Kept fixed m (packetRoute d link p n) := by
  fun_cases Machine.packetRoute
  · exact (hF.windrowFault h).raise (hF.leaf _ (by decide) (by decide))
  · exact h.leaveNetwork
  · exact hF.unreachable h
  · exact hF.leaveBy h
  · exact hF.unreachable h
  · exact hF.leaveBy h

theorem Spared.linkFalls {l st : Nat} (hl : l < 36) (h : Kept fixed m n) : Kept fixed m (linkFalls l st n) := by
  have hstatus : Kept fixed m (setLanes l 0 (setState l st n)) :=
    (h.wrF (low_le_linkStatus l) (hF.linkStatus l hl)).wrF (low_le_linkStatus l) (hF.linkStatus l hl)
  exact Kept.forEach (fun _ _ _ => hF.packetRoute) (hstatus.sameButLinks ((SameButLinks.refl _).setLink l LinkDyn.idle))

theorem Spared.linkGoesDown {l : Nat} (hl : l < 36) (h : Kept fixed m n) : Kept fixed m (linkGoesDown l n) := by
  unfold Machine.linkGoesDown
  split
  · exact Kept.when (Kept.raise (hF.leaf _ (by decide) (by decide)))
      ((hF.linkFalls hl h).raise (hF.leaf _ (by decide) (by decide)))
  · exact h

theorem Spared.linksJudged (h : Kept fixed m n) : Kept fixed m (linksJudged n) := by
  refine Kept.forEach (fun l hl n h => ?_) h
  have hl := List.mem_range.1 hl
  split
  · exact hF.linkGoesDown hl h
  · split
    · exact hF.linkFalls hl h
    · exact h

/-! ### Membership and regions (R98, R137, R176, R295) -/

theorem Spared.reportMember {t : Nat} (ht : t < 144) (h : Kept fixed m n) : Kept fixed m (reportMember t n) := by
  have hreports (w : Word) (role : Nat) :
      Kept fixed m (wr (onTile aCHANTER_ENGINE t) w (wrF (onTile aTILE_ID t) fTILE_ID_ROLE role n)) :=
    (h.wrF (low_le_tileId t) (hF.tileId t ht)).wr (low_le_chanterEngine t) (hF.engine t ht)
  generalize hr : Machine.reportMember t n = r
  simp only [Machine.reportMember] at hr
  generalize (if gridFailed t n then 0 else fFPLAN_MEMBER_ROLE.get (rd (aFPLAN_MEMBER t) n)) = role at hr
  rw [← hr, apply_ite (Kept fixed m)]
  split
  · exact Kept.congr (hreports _ _) rfl
  · exact hreports _ _

omit hF in
theorem regionsNaming_lt {t : Nat} {x : Nat × Nat} (hx : x ∈ regionsNaming t n) : x.1 < 8 ∧ x.2 < 8 := by
  simp only [regionsNaming, List.mem_filter, List.mem_flatMap, List.mem_map, List.mem_range] at hx
  obtain ⟨⟨k, hk, r, hr, rfl⟩, -⟩ := hx
  exact ⟨hk, hr⟩

theorem Spared.endRegions {t : Nat} (ht : t < 144) (h : Kept fixed m n) : Kept fixed m (endRegions t n) := by
  refine Kept.forEach (fun x hx n h => h.wrF (low_le_sharedRegion _ _ _) ?_) h
  obtain ⟨hk, hr⟩ := regionsNaming_lt hx
  exact hF.region _ (by unfold dieOf; omega) _ hk _ hr

omit hF in
theorem mem_dies_lt {ts : List Nat} (hts : ∀ t ∈ ts, t < 144) {d : Nat} (hd : d ∈ (ts.map dieOf).eraseDups) : d < 8 := by
  obtain ⟨t, ht, rfl⟩ := List.mem_map.1 (List.mem_eraseDups.1 hd)
  have := hts t ht
  unfold dieOf
  omega

end
end Sys2Proof.Machine

/-! SUPPORT. The acts of a commit (R164, step 6) that follow the taking of its values: what each keeps, whatever is committed. -/
namespace Sys2Proof.Machine

/-! ### The apply in its parts -/

/-- The values taken: shadows, staged images, membership and the rings of tiles that change engine. -/
def planTaken (o : Dev) : Dev :=
  applyMembers o (forEach ((List.range 144).filter (fun t => newEngine t o ≠ oldEngine t o)) (fun t m =>
      forEach (List.range 256) (fun g => wr (aCHANTER_COLL_SEQ (dieOf t) (numOf t) g) 0) m)
    (applyTables (applyShadows
      (forEach ((List.range 144).filter (fun t => (oldEngine t o).isSome && newEngine t o ≠ oldEngine t o)) dropRings o))))

/-- The committed regions judged, beside their values before. -/
def planJudged (o m : Dev) : Dev :=
  forEach (frozenRegs o) (fun off m => match locate off with
    | some p => regionJudged off p (rd off o) m
    | none => m) m

/-- What the committed registers and images do, and the links that may no longer train. -/
def planActed (o m : Dev) : Dev :=
  linksJudged (fallowDecoded o (forEach o.plan.frozenTables committedTable
    (forEach (frozenRegs o) (fun off m => match locate off with
      | some p => committedReg off p (rd off o) m
      | none => m) (ucodeAct o m))))

theorem planApplied_eq (o : Dev) :
    planApplied o = unitsResume (applyReports (planActed o (endNamed o (planJudged o (planTaken o))))) := rfl

/-- The active tiles that leave service while regions name them. -/
def endedTiles (o m : Dev) : List Nat :=
  (List.range 144).filter (fun t => roleOf t o = 2 && (newRole t o = 0 || newRole t o = 1) && (regionsNaming t m).length ≠ 0)

theorem endNamed_eq (o m : Dev) : endNamed o m =
    forEach (((endedTiles o m).map dieOf).eraseDups) (fun d => raise (cDIE_SEEDBED_REGION_INVALID d))
      (forEach (((evictedTiles o).map dieOf).eraseDups) (fun d => raise (cDIE_SEEDBED_EVICTED d))
        (forEach (evictedTiles o ++ endedTiles o m) endRegions m)) := rfl

theorem lt_of_mem_evictedTiles {o : Dev} {t : Nat} (h : t ∈ evictedTiles o) : t < 144 :=
  List.mem_range.1 (List.mem_filter.1 h).1

theorem lt_of_mem_endedTiles {o m : Dev} {t : Nat} (h : t ∈ endedTiles o m) : t < 144 :=
  List.mem_range.1 (List.mem_filter.1 h).1

section
variable {fixed : List Nat} {m n o : Dev}

/-! ### Regions that end, links and decoders -/

/-- Where the committed registers and images do what is kept, so do all the acts. -/
theorem Spared.planActed (hF : Spared fixed) (hucode : ∀ n, Kept fixed m n → Kept fixed m (ucodeAct o n))
    (hreg : ∀ off ∈ frozenRegs o, ∀ p, locate off = some p →
      ∀ n, Kept fixed m n → Kept fixed m (committedReg off p (rd off o) n))
    (htable : ∀ x ∈ o.plan.frozenTables, ∀ n, Kept fixed m n → Kept fixed m (committedTable x n)) (h : Kept fixed m n) :
    Kept fixed m (planActed o n) := by
  refine hF.linksJudged (Kept.when (Kept.forEach fun _ _ _ h => h.congr rfl) (Kept.forEach htable
    (Kept.forEach (fun off hoff n h => ?_) (hucode n h))))
  split
  next p hp => exact hreg off hoff p hp n h
  next => exact h

theorem Spared.endNamed (hF : Spared fixed) (h : Kept fixed m n) : Kept fixed m (endNamed o n) := by
  rw [endNamed_eq]
  refine Kept.forEach (fun d hd _ h => h.raise (hF.leaf _ ?_ (show 34 < 128 by decide))) (Kept.forEach
    (fun d hd _ h => h.raise (hF.leaf _ ?_ (show 35 < 128 by decide))) (Kept.forEach (fun t ht n h => hF.endRegions ?_ h) h))
  · have := mem_dies_lt (fun t => lt_of_mem_endedTiles) hd
    show 10 + d < 50
    omega
  · have := mem_dies_lt (fun t => lt_of_mem_evictedTiles) hd
    show 10 + d < 50
    omega
  · exact (List.mem_append.1 ht).elim lt_of_mem_evictedTiles lt_of_mem_endedTiles

/-- R164, R295: the apply raises EVICTED on the dies of the evicted tiles. -/
theorem leafSet_endNamed (h : regsWf n = true) {t : Nat} (ht : t ∈ evictedTiles o) :
    leafSet (cDIE_SEEDBED_EVICTED (dieOf t)) (endNamed o n) = true := by
  rw [endNamed_eq]
  have hregions : Kept [] n (forEach (evictedTiles o ++ endedTiles o n) endRegions n) :=
    Kept.forEach (fun t ht _ h => spared_nil.endRegions
      ((List.mem_append.1 ht).elim lt_of_mem_evictedTiles lt_of_mem_endedTiles) h) (.refl h)
  have hraised := leafSet_forEach_raise (c := cDIE_SEEDBED_EVICTED) hregions.wf
    (List.mem_eraseDups.2 (List.mem_map_of_mem (f := dieOf) ht))
  exact (forEach_keeps (fun n => regsWf n = true ∧ leafSet (cDIE_SEEDBED_EVICTED (dieOf t)) n = true) _ _ _
    (fun _ _ _ hn => ⟨regsWf_raise hn.1 _, leafSet_raise_mono hn.1 hn.2⟩)
    ⟨regsWf_forEach (fun _ _ h => regsWf_raise h _) hregions.wf, hraised⟩).2

/-! ### Where committed registers lie -/

theorem findReg_name_mem {unit off : Nat} {rows : List (RegName × Nat × Nat × Nat × Nat × Nat)} {p : RegPlace}
    (h : findReg unit off rows = some p) : p.name ∈ rows.map Prod.fst := by
  induction rows with
  | nil => cases h
  | cons row rows ih =>
    unfold findReg at h
    split at h
    · cases h
      exact List.mem_cons_self
    · exact List.mem_cons_of_mem _ (ih h)

/-- A register that the Headland block does not name lies beyond it. -/
theorem low_le_of_locate {off : Nat} {p : RegPlace} (h : locate off = some p) (hp : p.name ∉ headlandMap.map Prod.fst) :
    0x10000 ≤ off := by
  by_contra hlt
  have hblock : off / 0x10000 = 0 := by omega
  unfold locate at h
  split at h
  · cases h
  · rw [if_pos (by omega), hblock] at h
    exact hp (findReg_name_mem h)

/-! ### What the committed values do, with no register fixed -/

theorem Kept.regionJudged {off : Nat} {p : RegPlace} {old : Word} (h : Kept [] m n) : Kept [] m (regionJudged off p old n) := by
  unfold Machine.regionJudged
  split
  · exact Kept.when (Kept.raise List.not_mem_nil) h
  · exact Kept.when (Kept.raise List.not_mem_nil) h
  · exact h

theorem Kept.planJudged (h : Kept [] m n) : Kept [] m (planJudged o n) := by
  refine Kept.forEach (fun off _ n h => ?_) h
  split
  · exact h.regionJudged
  · exact h

theorem Kept.ucodeAct (h : Kept [] m n) : Kept [] m (ucodeAct o n) :=
  Kept.forEach (fun t _ _ h => (h.wrF (low_le_chanterUcode t) List.not_mem_nil).raise List.not_mem_nil) h

theorem Kept.committedTable {x : Nat × List Byte} (h : Kept [] m n) : Kept [] m (committedTable x n) := by
  unfold Machine.committedTable
  simp only
  split
  · exact Kept.when (Kept.raise List.not_mem_nil) h
  · split
    · refine (h.wr ?_ List.not_mem_nil).wr ?_ List.not_mem_nil
      · unfold slotReg0 aWINNOW_SLOT0
        omega
      · unfold slotReg1 aWINNOW_SLOT1
        omega
    · exact h

theorem Kept.setState {l st : Nat} (h : Kept [] m n) : Kept [] m (setState l st n) :=
  h.wrF (low_le_linkStatus l) List.not_mem_nil

theorem Kept.linkEnableSet {l : Nat} (h : Kept [] m n) : Kept [] m (linkEnableSet l n) := by
  unfold Machine.linkEnableSet
  split
  · split
    · exact h.setState
    · exact h
  · exact h.setState

theorem Kept.ringEnables {off : Nat} (hlow : 0x10000 ≤ off) (h : Kept [] m n) : Kept [] m (ringEnables off n) :=
  h.wr (by omega) List.not_mem_nil

theorem Kept.epochSet {e : Nat} (h : Kept [] m n) : Kept [] m (epochSet e n) := by
  have hr : 0x10000 ≤ aPIPER_EPOCH0 e := by
    unfold aPIPER_EPOCH0
    omega
  have hsc : 0x10000 ≤ aSCARE_EPOCH e := by
    unfold aSCARE_EPOCH
    omega
  unfold Machine.epochSet
  simp only
  split
  · split
    · exact h
    · exact (h.wrF hr List.not_mem_nil).raise List.not_mem_nil
  · exact h.wrF hsc List.not_mem_nil

theorem Kept.drainCheck {e : Nat} (h : Kept [] m n) : Kept [] m (drainCheck e n) := by
  have hr : 0x10000 ≤ aPIPER_EPOCH0 e := by
    unfold aPIPER_EPOCH0
    omega
  unfold Machine.drainCheck
  simp only
  split
  · exact (h.wrF hr List.not_mem_nil).raise List.not_mem_nil
  · exact h

theorem Kept.stileRingEnables {r : Nat} (h : Kept [] m n) : Kept [] m (stileRingEnables r n) := by
  refine h.wr ?_ List.not_mem_nil
  unfold aSTILE_RING_PTR
  omega

/-- What a committed register does, other than a stack's IN_SERVICE, which writes the frame pools in memory. -/
theorem Kept.committedReg {off : Nat} {p : RegPlace} {old : Word} (hp : locate off = some p) (hname : p.name ≠ .HARROW_CTRL)
    (h : Kept [] m n) : Kept [] m (committedReg off p old n) := by
  have hlow (hn : p.name ∉ headlandMap.map Prod.fst) : 0x10000 ≤ off := low_le_of_locate hp hn
  unfold Machine.committedReg
  split
  · exact Kept.when (Kept.raise List.not_mem_nil) h
  · exact h.congr rfl
  · exact Kept.forEach (fun t _ n h => h.wr (low_le_tileRingReg ..) List.not_mem_nil) h
  · exact Kept.forEach (fun t _ n h => Kept.when (Kept.ringEnables (low_le_tileRingReg ..))
      (h.wr (low_le_tileRingReg ..) List.not_mem_nil)) h
  next e => exact Kept.when (Kept.ringEnables (hlow (by rw [e]; decide))) h
  · exact Kept.when (Kept.raise List.not_mem_nil) h
  · exact Kept.when Kept.linkEnableSet (h.wrF (low_le_linkStatus _) List.not_mem_nil)
  · exact Kept.when (fun h => h.congr rfl) h
  next e => exact absurd e hname
  · exact Kept.when (Kept.raise List.not_mem_nil) (h.wrF (low_le_tileId _) List.not_mem_nil)
  · exact Kept.when (Kept.raise List.not_mem_nil) h
  · have hstep := h.wrF (o := aPIPER_STEP) (f := fPIPER_STEP_STATE) (k := rdF off fPIPER_CTRL_ENABLE n) (by decide) List.not_mem_nil
    simp only
    split
    · exact hstep.congr rfl
    · exact hstep
  next e =>
    simp only
    split
    · exact h.epochSet.drainCheck
    · exact h.epochSet.wrF (hlow (by rw [e]; decide)) List.not_mem_nil
  · exact Kept.when Kept.stileRingEnables h
  next e => exact Kept.when (fun h => h.wrF (hlow (by rw [e]; decide)) List.not_mem_nil) h
  · split
    · exact h.congr rfl
    · exact h
  · exact h

end
end Sys2Proof.Machine

/-! SUPPORT. The reports that end an apply (R164, step 7; R174), and the apply as a whole. -/
namespace Sys2Proof.Machine

/-! ### The reports -/

/-- The plan in force: its count and, where a container was loaded, its identity. -/
def planInForce (m : Dev) : Dev :=
  let m1 := countWrap aFPLAN_ACTIVE fFPLAN_ACTIVE_COMMITS 1 m
  match m1.plan.container with
  | some (id, gen, direct) => wr aFPLAN_ACTIVE_ID id (wrF aFPLAN_ACTIVE fFPLAN_ACTIVE_DIRECT_ALLOWED (if direct then 1 else 0)
      (wrF aFPLAN_ACTIVE fFPLAN_ACTIVE_PLAN_GENERATION gen.toNat m1))
  | none => m1

/-- No commit is under way any more. -/
def planFinished (m : Dev) : Dev :=
  { m with plan := { m.plan with
    container := none, frozen := false, frozenMask := [], frozenTables := [], frozenStaged := 0, waiting := [], parked := [],
    zeroing := false, staged := m.plan.staged - m.plan.frozenStaged } }

theorem applyReports_eq (m : Dev) : applyReports m = planCounts (planResult 3 (restState (planFinished (planInForce m)))) := rfl

/-- The registers that the reports write. -/
def reportRegs : List Nat := [aFPLAN_STATUS, aFPLAN_ACTIVE, aFPLAN_ACTIVE_ID]

section
variable {m n : Dev}

theorem OnlyRegs.planFinished (h : OnlyRegs reportRegs m n) : OnlyRegs reportRegs (planFinished m) (planFinished n) where
  wf := h.wf
  regs := h.regs
  mem := h.mem
  shadow := h.shadow
  plan := by
    unfold Machine.planFinished
    rw [h.plan]
  piper := h.piper
  net := h.net
  tiers := h.tiers

theorem onlyRegs_planInForce (h : regsWf m = true) : OnlyRegs reportRegs m (planInForce m) := by
  have hcount : OnlyRegs reportRegs m (countWrap aFPLAN_ACTIVE fFPLAN_ACTIVE_COMMITS 1 m) := (OnlyRegs.refl h).wrF (by decide)
  unfold planInForce
  simp only
  split
  · exact ((hcount.wrF (by decide)).wrF (by decide)).wr (by decide)
  · exact hcount

theorem commits_planInForce (h : regsWf m = true) :
    rdF aFPLAN_ACTIVE fFPLAN_ACTIVE_COMMITS (planInForce m) =
      (rdF aFPLAN_ACTIVE fFPLAN_ACTIVE_COMMITS m + 1) % 2 ^ fFPLAN_ACTIVE_COMMITS.w := by
  have hcount : regsWf (countWrap aFPLAN_ACTIVE fFPLAN_ACTIVE_COMMITS 1 m) = true := regsWf_wrF h _ _ _
  have hcommits := rdF_wrF_same h aFPLAN_ACTIVE fFPLAN_ACTIVE_COMMITS (rdF aFPLAN_ACTIVE fFPLAN_ACTIVE_COMMITS m + 1) (by decide)
  unfold planInForce
  simp only
  split
  · rw [rdF, rd_wr_ne (regsWf_wrF (regsWf_wrF hcount _ _ _) _ _ _) _ (by decide), ← rdF,
      rdF_wrF_other (regsWf_wrF hcount _ _ _) _ _ _ _ (by decide) (by decide),
      rdF_wrF_other hcount _ _ _ _ (by decide) (by decide)]
    exact hcommits
  · exact hcommits

/-- Before the units go on. -/
theorem onlyRegs_applyReports (h : regsWf m = true) : OnlyRegs reportRegs (planFinished m) (applyReports m) := by
  rw [applyReports_eq]
  exact (((onlyRegs_planInForce h).planFinished.restState (by decide)).planResult (by decide)).planCounts (by decide)

theorem changeSetEmpty_planFinished (hm : OnlyRegs reportRegs m n) : changeSetEmpty (planFinished n) = changeSetEmpty m :=
  changeSetEmpty_congr hm.shadow (congrArg Plan.stagedTables hm.plan :)

theorem applyReports_status (h : regsWf m = true) :
    rdF aFPLAN_STATUS fFPLAN_STATUS_RESULT (applyReports m) = 3 ∧
      planState (applyReports m) = (if changeSetEmpty m then 0 else 2) := by
  have hforce := onlyRegs_planInForce h
  have hrest : OnlyRegs reportRegs (planFinished m) (restState (planFinished (planInForce m))) :=
    hforce.planFinished.restState (by decide)
  have hresult := hrest.planResult (k := 3) (by decide)
  refine ⟨(status_planCounts hresult.wf (by decide)).trans (result_planResult hrest.wf (by decide)), ?_⟩
  calc planState (applyReports m) = planState (planResult 3 (restState (planFinished (planInForce m)))) :=
        planState_planCounts hresult.wf
    _ = planState (restState (planFinished (planInForce m))) := planState_planResult hrest.wf 3
    _ = if changeSetEmpty (planFinished (planInForce m)) then 0 else 2 := planState_restState hforce.planFinished.wf
    _ = if changeSetEmpty m then 0 else 2 := by rw [changeSetEmpty_planFinished hforce]

theorem commits_applyReports (h : regsWf m = true) :
    rdF aFPLAN_ACTIVE fFPLAN_ACTIVE_COMMITS (applyReports m) =
      (rdF aFPLAN_ACTIVE fFPLAN_ACTIVE_COMMITS m + 1) % 2 ^ fFPLAN_ACTIVE_COMMITS.w := by
  have hstatus : OnlyRegs [aFPLAN_STATUS] (planFinished (planInForce m)) (applyReports m) :=
    (((OnlyRegs.refl (m := planFinished (planInForce m)) (onlyRegs_planInForce h).wf).restState List.mem_cons_self).planResult
      List.mem_cons_self).planCounts List.mem_cons_self
  exact (congrArg fFPLAN_ACTIVE_COMMITS.get (hstatus.regs aFPLAN_ACTIVE (by decide))).trans (commits_planInForce h)

/-! ### The apply with its reports, the units going on -/

/-- What the end of an apply leaves, the acts of the commit having left `m`. -/
structure Reported (m n : Dev) : Prop where
  only : OnlyRegs reportRegs (planFinished m) n
  result : rdF aFPLAN_STATUS fFPLAN_STATUS_RESULT n = 3
  state : planState n = if changeSetEmpty m then 0 else 2
  commits : rdF aFPLAN_ACTIVE fFPLAN_ACTIVE_COMMITS n =
    (rdF aFPLAN_ACTIVE fFPLAN_ACTIVE_COMMITS m + 1) % 2 ^ fFPLAN_ACTIVE_COMMITS.w

theorem reported_unitsResume (h : regsWf m = true) (hs : nothingToSend m) : Reported m (unitsResume (applyReports m)) := by
  have honly := onlyRegs_applyReports h
  have hlinks : SameButLinks (applyReports m) (unitsResume (applyReports m)) :=
    sameButLinks_unitsResume (nothingToSend_congr (m := planFinished m) hs honly.net honly.tiers)
  obtain ⟨hresult, hstate⟩ := applyReports_status h
  exact
    { only := honly.sameButLinks hlinks
      result := (congrArg fFPLAN_STATUS_RESULT.get (rd_congr hlinks.regs _)).trans hresult
      state := (congrArg fFPLAN_STATUS_STATE.get (rd_congr hlinks.regs _)).trans hstate
      commits := (congrArg fFPLAN_ACTIVE_COMMITS.get (rd_congr hlinks.regs _)).trans (commits_applyReports h) }

theorem Reported.leafSet (h : Reported m n) {c : Cause} (hb : c.block < 50) (hl : c.leaf < 128) (hc : leafSet c m = true) :
    leafSet c n = true := by
  have hlow : c.reg < 0x10000 := by
    unfold Cause.reg aINT_LEAF
    omega
  have hne : c.reg ∉ reportRegs := by
    simp only [reportRegs, aFPLAN_STATUS, aFPLAN_ACTIVE, aFPLAN_ACTIVE_ID, List.mem_cons, List.not_mem_nil, or_false]
    omega
  exact (leafSet_of_rd (h.only.regs _ hne)).trans hc

/-! ### The values taken keep memory, Piper and what waits to be sent -/

theorem Quiet.dropRings {t : Nat} (h : Quiet m n) : Quiet m (dropRings t n) := Quiet.forEach (fun _ _ _ h => h.wr) h

theorem Quiet.takeRings {src t : Nat} (h : Quiet m n) : Quiet m (takeRings src t n) :=
  Quiet.forEach (fun _ _ _ h => h.wr) (Quiet.forEach (fun _ _ _ h => h.wr) h)

theorem Quiet.applyShadows (h : Quiet m n) : Quiet m (applyShadows n) :=
  (Quiet.forEach (fun _ _ _ h => h.wr) h).congr rfl

theorem Quiet.applyTables (h : Quiet m n) : Quiet m (applyTables n) := h.congr rfl

theorem Quiet.applyMembers {o : Dev} (h : Quiet m n) : Quiet m (applyMembers o n) := by
  have hreport (t) (ht : t ∈ List.range 144) (n) (h : Quiet m n) : Quiet m (reportMember t n) :=
    h.trans (spared_nil.reportMember (List.mem_range.1 ht) (.refl h.wf)).toQuiet
  refine Quiet.forEach hreport (Quiet.forEach (fun t _ n h => ?_) h)
  simp only
  split
  · exact h.takeRings
  · split
    · split
      · exact h
      · exact h.takeRings
    · exact h

theorem Quiet.planTaken {o : Dev} (h : regsWf o = true) : Quiet o (planTaken o) :=
  Quiet.applyMembers (Quiet.forEach (fun _ _ _ => Quiet.forEach (fun _ _ _ h => h.wr))
    (Quiet.applyTables (Quiet.applyShadows (Quiet.forEach (fun _ _ _ h => h.dropRings) (.refl h)))))

end
end Sys2Proof.Machine

/-! SUPPORT. The apply that follows an eviction (R21, R164, R295): the rows of the evicted regions read 0. -/
namespace Sys2Proof.Machine

/-! ### What the evictions depend on -/

/-- `n` holds the frozen change set of `m`, on the same registers but FPLAN_STATUS. -/
structure SamePlan (m n : Dev) : Prop where
  regs : regsSameBut [aFPLAN_STATUS] m n
  mask : n.plan.frozenMask = m.plan.frozenMask
  shadow : n.shadow = m.shadow

section
variable {m n : Dev} (h : SamePlan m n)
include h

theorem SamePlan.rd {o : Nat} (ho : o ≠ aFPLAN_STATUS) : rd o n = rd o m := h.regs o (by simpa using ho)

theorem SamePlan.frozenValue {o : Nat} (ho : o ≠ aFPLAN_STATUS) : frozenValue o n = frozenValue o m := by
  unfold Machine.frozenValue frozenMask shadowOf
  rw [h.rd ho, h.mask, h.shadow]

theorem SamePlan.newRole {t : Nat} : newRole t n = newRole t m :=
  congrArg fFPLAN_MEMBER_ROLE.get (h.frozenValue (by unfold aFPLAN_MEMBER aFPLAN_STATUS; omega))

theorem SamePlan.newEngine {t : Nat} : newEngine t n = newEngine t m := by
  unfold Machine.newEngine nextF
  rw [h.frozenValue (by unfold aFPLAN_MEMBER aFPLAN_STATUS; omega)]

theorem SamePlan.roleOf {t : Nat} : roleOf t n = roleOf t m :=
  congrArg fTILE_ID_ROLE.get (h.rd (by unfold onTile aTILE_ID aFPLAN_STATUS; omega))

theorem SamePlan.sharedRegion {d k r : Nat} : Machine.rd (aDIE_SHARED_REGION d k r) n = Machine.rd (aDIE_SHARED_REGION d k r) m :=
  h.rd (by unfold aDIE_SHARED_REGION aFPLAN_STATUS; omega)

theorem SamePlan.regionsNaming {t : Nat} : regionsNaming t n = regionsNaming t m := by
  simp only [Machine.regionsNaming, h.sharedRegion]

theorem SamePlan.evictedTiles : evictedTiles n = evictedTiles m := by
  simp only [Machine.evictedTiles, h.newRole, h.roleOf, h.regionsNaming]

end

theorem SamePlan.congr {m n n' : Dev} (h : SamePlan m n) (hr : n'.regs = n.regs) (hp : n'.plan = n.plan) (hs : n'.shadow = n.shadow) :
    SamePlan m n' :=
  ⟨fun o ho => (rd_congr hr o).trans (h.regs o ho), (congrArg Plan.frozenMask hp).trans h.mask, hs.trans h.shadow⟩

/-! ### The zeroing -/

/-- What the step of `x` reaches and every step keeps holds after the run. -/
theorem forEach_reaches {α : Type} {P Q : Dev → Prop} {f : α → Dev → Dev} {x : α} {xs : List α} {m : Dev} (hx : x ∈ xs)
    (hP : ∀ y ∈ xs, ∀ n, P n → P (f y n)) (hat : ∀ n, P n → Q (f x n))
    (hkeep : ∀ y ∈ xs, ∀ n, P n → Q n → Q (f y n)) (h : P m) : Q (forEach xs f m) := by
  induction xs generalizing m with
  | nil => cases hx
  | cons y ys ih =>
    have hy : P (f y m) := hP y List.mem_cons_self m h
    rcases List.mem_cons.1 hx with rfl | hx
    · exact (forEach_keeps (fun n => P n ∧ Q n) ys f _ (fun y hys n hn =>
        ⟨hP y (List.mem_cons_of_mem _ hys) n hn.1, hkeep y (List.mem_cons_of_mem _ hys) n hn.1 hn.2⟩) ⟨hy, hat m h⟩).2
    · exact ih hx (fun z hz => hP z (List.mem_cons_of_mem _ hz)) (fun z hz => hkeep z (List.mem_cons_of_mem _ hz)) hy

/-- A byte of a run of zeros written. -/
theorem ldByte_zeros_in {m : Dev} (h : Memory.wf m.mem = true) {a k x : Nat} (ha : a ≤ x) (hx : x < a + k) :
    ldByte x (stData a (List.replicate k 0) m) = 0 := by
  have hin := ldByte_stBytes_in h a (List.replicate k 0) (x - a) (by rw [List.length_replicate]; omega)
  rw [Nat.add_sub_cancel' ha] at hin
  refine hin.trans ?_
  rw [List.getD_eq_getElem?_getD, List.getElem?_replicate_of_lt (by omega)]
  rfl

/-- Zeros written leave a byte that is 0. -/
theorem ldByte_zeros {m : Dev} (h : Memory.wf m.mem = true) {a k x : Nat} (h0 : ldByte x m = 0) :
    ldByte x (stData a (List.replicate k 0) m) = 0 := by
  by_cases hx : a ≤ x ∧ x < a + k
  · exact ldByte_zeros_in h hx.1 hx.2
  · exact (ldByte_stBytes_out h a (List.replicate k 0) x (by rw [List.length_replicate]; omega)).trans h0

/-- The module that is being zeroed: `m` but for memory and its poison marks. -/
structure Zeroing (m n : Dev) : Prop where
  memWf : Memory.wf n.mem = true
  regs : n.regs = m.regs
  plan : n.plan = m.plan
  shadow : n.shadow = m.shadow
  piper : n.piper = m.piper
  net : n.net = m.net
  tiers : n.tiers = m.tiers

theorem Zeroing.refl {m : Dev} (h : Memory.wf m.mem = true) : Zeroing m m := ⟨h, rfl, rfl, rfl, rfl, rfl, rfl⟩

section
variable {m n : Dev}

theorem Zeroing.region {t : Nat} {x : Nat × Nat} (h : Zeroing m n) : Zeroing m (zeroRegion t x n) := by
  unfold zeroRegion
  simp only
  split
  · exact h
  · exact ⟨stData_wf _ _ h.memWf, h.regs, h.plan, h.shadow, h.piper, h.net, h.tiers⟩

theorem Zeroing.evicted (h : Zeroing m n) : Zeroing m (zeroEvicted n) :=
  forEach_keeps (Zeroing m) _ _ n (fun _ _ n h => forEach_keeps (Zeroing m) _ _ n (fun _ _ _ h => h.region) h) h

theorem ldByte_zeroRegion {t b : Nat} {x : Nat × Nat} (h : Memory.wf n.mem = true) (h0 : ldByte b n = 0) :
    ldByte b (zeroRegion t x n) = 0 := by
  unfold zeroRegion
  simp only
  split
  · exact h0
  · exact ldByte_zeros h h0

/-- The rows of a region that is zeroed read 0. -/
theorem ldByte_zeroRegion_in {t a : Nat} {x : Nat × Nat} (h : Memory.wf n.mem = true)
    (hlo : 4096 * rdF (aDIE_SHARED_REGION (dieOf t) x.1 x.2) fDIE_SHARED_REGION_BASE n ≤ a)
    (hhi : a < 4096 * (min 5119 (rdF (aDIE_SHARED_REGION (dieOf t) x.1 x.2) fDIE_SHARED_REGION_LIMIT n) + 1)) :
    ldByte (tileAddr t a) (zeroRegion t x n) = 0 := by
  unfold rdF at hlo hhi
  unfold zeroRegion
  simp only
  split
  · omega
  · apply ldByte_zeros_in h <;> unfold tileAddr <;> omega

/-- R295: every row of every region that names an evicted tile reads 0. -/
theorem ldByte_zeroEvicted {t a : Nat} {x : Nat × Nat} (h : Memory.wf m.mem = true) (ht : t ∈ evictedTiles m)
    (hx : x ∈ regionsNaming t m)
    (hlo : 4096 * rdF (aDIE_SHARED_REGION (dieOf t) x.1 x.2) fDIE_SHARED_REGION_BASE m ≤ a)
    (hhi : a < 4096 * (min 5119 (rdF (aDIE_SHARED_REGION (dieOf t) x.1 x.2) fDIE_SHARED_REGION_LIMIT m) + 1)) :
    ldByte (tileAddr t a) (zeroEvicted m) = 0 := by
  have hregion (y : Nat × Nat) (u : Nat) (n : Dev) (hn : Zeroing m n) (h0 : ldByte (tileAddr t a) n = 0) :
      ldByte (tileAddr t a) (zeroRegion u y n) = 0 := ldByte_zeroRegion hn.memWf h0
  refine forEach_reaches (P := Zeroing m) (Q := fun k => ldByte (tileAddr t a) k = 0)
    (f := fun t m => forEach (regionsNaming t m) (zeroRegion t) m) ht
    (fun u _ n hn => ?_) (fun n hn => ?_) (fun u _ n hn h0 => ?_) (.refl h)
  · exact forEach_keeps (Zeroing m) _ _ n (fun _ _ _ h => h.region) hn
  · have hsame : SamePlan m n := SamePlan.congr ⟨fun _ _ => rfl, rfl, rfl⟩ hn.regs hn.plan hn.shadow
    refine forEach_reaches (P := Zeroing m) (Q := fun k => ldByte (tileAddr t a) k = 0) (hsame.regionsNaming ▸ hx)
      (fun _ _ _ h => h.region) (fun k hk => ?_)
      (fun y _ k hk h0 => hregion y t k hk h0) hn
    have hk' : SamePlan m k := SamePlan.congr ⟨fun _ _ => rfl, rfl, rfl⟩ hk.regs hk.plan hk.shadow
    refine ldByte_zeroRegion_in hk.memWf ?_ ?_ <;> rwa [rdF, hk'.sharedRegion]
  · exact (forEach_keeps (fun k => Zeroing m k ∧ ldByte (tileAddr t a) k = 0) _ _ n
      (fun y _ k hk => ⟨hk.1.region, hregion y u k hk.1 hk.2⟩) ⟨hn, h0⟩).2

end

end Sys2Proof.Machine

/-! SUPPORT. The apply of a commit that had waited for its units, and obligation O37. -/
namespace Sys2Proof.Machine

theorem memWf_of_sound {m : Dev} (h : m.sound = true) : Memory.wf m.mem = true := by
  simp only [Dev.sound, Bool.and_eq_true] at h
  obtain ⟨⟨⟨⟨⟨⟨⟨hmem, _⟩, _⟩, _⟩, _⟩, _⟩, _⟩, _⟩ := h
  exact hmem

/-- No committed register is a stack's IN_SERVICE, whose commit takes frames out of the pools in memory (R321, step 4). -/
def keepsPools (m : Dev) : Prop := ∀ o ∈ frozenRegs m, (locate o).map (fun p => p.name) ≠ some .HARROW_CTRL

section
variable {m : Dev} (h : regsWf m = true) (hpools : keepsPools m)
include hpools

theorem kept_planActed {k n : Dev} (hn : Kept [] k n) : Kept [] k (planActed m n) :=
  spared_nil.planActed (fun _ hn => hn.ucodeAct)
    (fun o ho p hp _ hn => hn.committedReg hp (fun e => hpools o ho (by rw [hp, ← e]; rfl)))
    (fun _ _ _ hn => hn.committedTable) hn

include h

/-- Whatever is committed, the apply keeps memory, Piper and what waits to be sent, and raises EVICTED for the evicted tiles. -/
theorem planApplied_of_keepsPools (hs : nothingToSend m) : ∃ n, Quiet m n ∧ Reported n (planApplied m) ∧
    ∀ t ∈ evictedTiles m, leafSet (cDIE_SEEDBED_EVICTED (dieOf t)) n = true := by
  have htaken := Quiet.planTaken h
  have hjudged : Kept [] (planTaken m) (planJudged m (planTaken m)) := (Kept.refl htaken.wf).planJudged
  have hended : Kept [] (planTaken m) (endNamed m (planJudged m (planTaken m))) := spared_nil.endNamed hjudged
  have hacts := kept_planActed hpools (Kept.refl hended.wf)
  have hquiet := htaken.trans (hended.toQuiet.trans hacts.toQuiet)
  rw [planApplied_eq]
  refine ⟨_, hquiet, reported_unitsResume hquiet.wf (hquiet.sendsNothing hs), fun t ht => ?_⟩
  have := lt_of_mem_evictedTiles ht
  exact hacts.leafSet (show 10 + dieOf t < 50 by unfold dieOf; omega) (show 35 < 128 by decide)
    (leafSet_endNamed hjudged.wf ht)

end

section
variable {s : State} (h : s.dev.sound = true) (hmove : s.dev.piper.move = none) (hs : nothingToSend s.dev)
include h hmove hs

/-- The units ready, the evicted regions are zeroed and the change set applies. -/
theorem evictionZeroed_applies (hz : s.dev.plan.zeroing = true) (hw : (withdrawUnready s.dev).plan.waiting = [])
    (hpools : keepsPools s.dev) :
    ∃ m, exec .evictionZeroingDone s = .next { s with dev := boundary m } ∧ m.plan.frozen = false ∧ m.plan.zeroing = false ∧
      m.plan.waiting = [] ∧ m.plan.parked = [] ∧ rdF aFPLAN_STATUS fFPLAN_STATUS_RESULT m = 3 ∧
      ∀ t ∈ evictedTiles s.dev, leafSet (cDIE_SEEDBED_EVICTED (dieOf t)) m = true ∧
        ∀ x ∈ regionsNaming t s.dev, ∀ a,
          4096 * rdF (aDIE_SHARED_REGION (dieOf t) x.1 x.2) fDIE_SHARED_REGION_BASE s.dev ≤ a →
          a < 4096 * (min 5119 (rdF (aDIE_SHARED_REGION (dieOf t) x.1 x.2) fDIE_SHARED_REGION_LIMIT s.dev) + 1) →
          ldByte (tileAddr t a) m = 0 := by
  obtain ⟨c, hc⟩ : ∃ c, c = planCounts (withdrawUnready s.dev) := ⟨_, rfl⟩
  have heq : evictionZeroed s.dev = planApplied (zeroEvicted c) := by
    unfold evictionZeroed
    rw [if_neg (by simp [hz]), hc]
    exact if_pos (List.isEmpty_iff.2 hw)
  have hcounts : OnlyRegs [aFPLAN_STATUS] (withdrawUnready s.dev) c := by
    rw [hc]
    exact (OnlyRegs.refl (m := withdrawUnready s.dev) (regsWf_of_sound h)).planCounts List.mem_cons_self
  have hmem : Memory.wf c.mem = true := by
    rw [hcounts.mem]
    exact memWf_of_sound h
  have hmask : c.plan.frozenMask = s.dev.plan.frozenMask := (congrArg Plan.frozenMask hcounts.plan :)
  have hsame : SamePlan s.dev c := ⟨hcounts.regs, hmask, hcounts.shadow⟩
  have hzero : Zeroing c (zeroEvicted c) := (Zeroing.refl hmem).evicted
  have hsame' : SamePlan s.dev (zeroEvicted c) := hsame.congr hzero.regs hzero.plan hzero.shadow
  have hpools' : keepsPools (zeroEvicted c) := fun o ho => hpools o (by rwa [frozenRegs, hsame'.mask] at ho)
  have hsend : nothingToSend (zeroEvicted c) :=
    nothingToSend_congr (m := withdrawUnready s.dev) hs (hzero.net.trans hcounts.net) (hzero.tiers.trans hcounts.tiers)
  obtain ⟨n, hquiet, hreport, hleaf⟩ := planApplied_of_keepsPools (regsWf_of_regs hcounts.wf hzero.regs) hpools' hsend
  rw [← heq] at hreport
  have hpiper := hreport.only.piper.trans (hquiet.piper.trans (hzero.piper.trans hcounts.piper))
  have hmove' : (evictionZeroed s.dev).piper.move = none := (congrArg PiperSt.move hpiper).trans hmove
  have hplan := hreport.only.plan
  refine ⟨_, exec_evictionZeroingDone hmove', (congrArg Plan.frozen hplan :), (congrArg Plan.zeroing hplan :),
    (congrArg Plan.waiting hplan :), (congrArg Plan.parked hplan :), hreport.result, fun t ht => ⟨?evicted, ?zeros⟩⟩
  case evicted =>
    have hlt := lt_of_mem_evictedTiles ht
    exact hreport.leafSet (show 10 + dieOf t < 50 by unfold dieOf; omega) (show 35 < 128 by decide)
      (hleaf t (hsame'.evictedTiles ▸ ht))
  case zeros =>
    intro x hx a hlo hhi
    have hread : ldByte (tileAddr t a) (evictionZeroed s.dev) = ldByte (tileAddr t a) (zeroEvicted c) := by
      rw [ldByte, hreport.only.mem]
      exact congrArg (Sparse.get 0 · _) hquiet.mem
    rw [hread]
    refine ldByte_zeroEvicted hmem (hsame.evictedTiles ▸ ht) (hsame.regionsNaming ▸ hx) ?_ ?_ <;>
      rwa [rdF, hsame.sharedRegion]

end

/-- Settles O37: each row's work on the module, clause by clause; the apply after a zeroing keeps every leaf and every byte. -/
theorem parkedUnitsWaitForOneAnother : Obligations.ParkedUnitsWaitForOneAnother := by
  intro u s h hmove hs
  have hwf := regsWf_of_sound h
  refine ⟨fun hf hw hc hne => unitReady_oneOfSeveral hwf hmove hf hw hc hne, fun hc => ?_,
    fun hz hw hp => evictionZeroed_applies h hmove hs hz hw hp, fun hz hw => evictionZeroed_waits hwf hmove hz hw,
    fun hf => commitTimeout_ends hwf hmove hs hf, fun hf => commitTimeout_idle hmove hf, abort_empties hwf hmove hs⟩
  have heq : unitReady u s.dev = s.dev := unitReady_not_ready hc
  rw [exec_unitReady (by rw [heq, hmove]), heq]

end Sys2Proof.Machine

/-! SUPPORT. The apply of a change set of one plain register (R164, step 6), and obligation O36. -/
namespace Sys2Proof.Machine

/-! ### Where the plain registers do not lie -/

/-- Does the register at an offset commit plainly? -/
def plainAt (o : Nat) : Bool := ((locate o).map (fun p => commitsPlainly p.name)).getD false

theorem plainAt_of_locate {o : Nat} {p : RegPlace} (h : locate o = some p) : plainAt o = commitsPlainly p.name := by
  rw [plainAt, h]
  rfl

theorem headland_not_plain : ∀ n ∈ headlandMap.map Prod.fst, commitsPlainly n = false := by decide +kernel

theorem plainAt_low {o : Nat} (ho : o < 0x10000) : plainAt o = false := by
  cases h : locate o with
  | none => rw [plainAt, h]; rfl
  | some p =>
    rw [plainAt_of_locate h]
    refine headland_not_plain _ (Classical.byContradiction fun hp => ?_)
    have := low_le_of_locate h hp
    omega

theorem plainAt_linkStatus : ∀ l < 36, plainAt (aWINDROW_LINK_STATUS l) = false := by decide +kernel

theorem plainAt_member : ∀ t < 144, plainAt (aFPLAN_MEMBER t) = false := by decide +kernel

theorem plainAt_sharedRegion : ∀ d < 8, ∀ k < 8, ∀ r < 8, plainAt (aDIE_SHARED_REGION d k r) = false := by decide +kernel

theorem plainAt_tileId {t : Nat} (ht : t < 144) : plainAt (onTile aTILE_ID t) = false :=
  plainAt_of_locate (p := ⟨.TILE_ID, t, 0, 0⟩) ((locate_onTile (r := 0) ht (by decide) rfl).trans rfl)

theorem plainAt_chanterEngine {t : Nat} (ht : t < 144) : plainAt (onTile aCHANTER_ENGINE t) = false :=
  plainAt_of_locate (p := ⟨.CHANTER_ENGINE, t, 0, 0⟩) ((locate_onTile (r := 0x3000) ht (by decide) rfl).trans rfl)

theorem plainAt_reports : ∀ o ∈ aWINDROW_FAULT :: reportRegs, plainAt o = false := by decide +kernel

section
variable {o : Nat} (hplain : plainAt o = true)
include hplain

theorem ne_of_not_plain {a : Nat} (ha : plainAt a = false) : a ≠ o := by
  rintro rfl
  rw [ha] at hplain
  cases hplain

/-- The acts of a commit write neither a plain register nor the count of commits. -/
theorem spared_plain : Spared [o, aFPLAN_ACTIVE] := by
  have hfixed {a : Nat} (ha : plainAt a = false) (hne : a ≠ aFPLAN_ACTIVE) : a ∉ [o, aFPLAN_ACTIVE] := by
    simp [ne_of_not_plain hplain ha, hne]
  refine ⟨fun c hb hl => ?_, fun l hl => hfixed (plainAt_linkStatus l hl) ?_,
    hfixed (plainAt_reports _ List.mem_cons_self) (by decide),
    fun t ht => hfixed (plainAt_tileId ht) ?_, fun t ht => hfixed (plainAt_chanterEngine ht) ?_,
    fun d hd k hk r hr => hfixed (plainAt_sharedRegion d hd k hk r hr) ?_⟩
  · have hlow : c.reg < 0x10000 := by
      unfold Cause.reg aINT_LEAF
      omega
    exact hfixed (plainAt_low hlow) (by unfold aFPLAN_ACTIVE; omega)
  · unfold aWINDROW_LINK_STATUS aFPLAN_ACTIVE
    omega
  · unfold onTile aTILE_ID aFPLAN_ACTIVE
    omega
  · unfold onTile aCHANTER_ENGINE aFPLAN_ACTIVE
    omega
  · unfold aDIE_SHARED_REGION aFPLAN_ACTIVE
    omega

end

/-! ### A frozen change set of one shadow -/

theorem applyTables_of_none {m : Dev} (h : m.plan.frozenTables = []) : applyTables m = m := by
  have htables : m.plan.frozenTables.foldl (fun tb x => putTable x tb) m.plan.tables = m.plan.tables := by
    rw [h]
    rfl
  have hstaged : m.plan.stagedTables.drop m.plan.frozenTables.length = m.plan.stagedTables := by
    rw [h]
    rfl
  unfold applyTables
  rw [htables, hstaged]

/-- `w` is `m` with its one shadow frozen: the bits `mk` of the register `o`, taking the value `v`. -/
structure OneFrozen (o : Nat) (v mk : Word) (m w : Dev) : Prop where
  wf : regsWf w = true
  regs : regsSameBut [aFPLAN_STATUS] m w
  mem : w.mem = m.mem
  piper : w.piper = m.piper
  net : w.net = m.net
  tiers : w.tiers = m.tiers
  shadow : w.shadow = [(o, (v, mk))]
  mask : w.plan.frozenMask = [(o, mk)]
  staged : w.plan.stagedTables = []
  tables : w.plan.frozenTables = []

/-- A register has taken its frozen value, and no shadow is left. -/
def shadowTaken (o : Nat) (w : Dev) : Dev := { wr o (frozenValue o w) w with shadow := [] }

theorem quiet_shadowTaken {w : Dev} (h : regsWf w = true) (o : Nat) : Quiet w (shadowTaken o w) := (Quiet.refl h).wr.congr rfl

theorem rd_shadowTaken (o a : Nat) (w : Dev) : rd a (shadowTaken o w) = rd a (wr o (frozenValue o w) w) := rfl

section
variable {o : Nat} {v mk : Word} {m w : Dev} (h : OneFrozen o v mk m w)
include h

theorem OneFrozen.frozenRegs : frozenRegs w = [o] := by
  rw [Machine.frozenRegs, h.mask]
  rfl

theorem OneFrozen.frozenValue_same : frozenValue o w = (rd o w &&& ~~~ mk) ||| (v &&& mk) := by
  rw [frozenValue, frozenMask, shadowOf, h.mask, h.shadow]
  simp [Sparse.get, Sparse.getD]

theorem OneFrozen.frozenValue_ne {a : Nat} (ha : a ≠ o) : frozenValue a w = rd a w := by
  rw [frozenValue, frozenMask, shadowOf, h.mask, h.shadow]
  simp only [Sparse.get, Sparse.getD, if_neg ha, ite_self]
  exact (congrArg (· ||| 0 &&& 0) (BitVec.and_allOnes (x := rd a w))).trans (by simp)

/-- A plain register is no tile's membership. -/
theorem OneFrozen.newEngine_eq (hplain : plainAt o = true) {t : Nat} (ht : t < 144) : newEngine t w = oldEngine t w := by
  have hne : aFPLAN_MEMBER t ≠ o := ne_of_not_plain hplain (plainAt_member t ht)
  unfold newEngine oldEngine nextF
  rw [h.frozenValue_ne hne]
  exact if_congr decide_eq_true_iff.symm rfl rfl

theorem OneFrozen.applyShadows : applyShadows w = shadowTaken o w := by
  have hkeys : Sparse.keys [(o, mk)] = [o] := rfl
  have hempty : Sparse.upd ((0, 0) : Word × Word) [(o, (v, mk))] o (0, 0) = [] := by simp [Sparse.upd, Sparse.setD, Sparse.drop]
  simp only [Machine.applyShadows, h.mask, hkeys, forEach, List.foldl_cons, List.foldl_nil, wr_shadow, h.shadow, Sparse.get,
    Sparse.getD, if_true, BitVec.and_not_self]
  rw [hempty]
  rfl

/-- The shadow taken, membership reported: nothing else is written before the acts. -/
theorem OneFrozen.planTaken_eq (hplain : plainAt o = true) :
    planTaken w = forEach (List.range 144) reportMember (shadowTaken o w) := by
  have hnone (q : Nat → Bool) (hq : ∀ t < 144, q t = false) : (List.range 144).filter q = [] :=
    List.filter_eq_nil_iff.2 (fun t ht => by simp [hq t (List.mem_range.1 ht)])
  have htables : applyTables (shadowTaken o w) = shadowTaken o w := applyTables_of_none h.tables
  have hengine (t) (ht : t < 144) := h.newEngine_eq hplain ht
  rw [planTaken, hnone _ (fun t ht => by simp [hengine t ht]), hnone _ (fun t ht => by simp [hengine t ht])]
  simp only [forEach, List.foldl_nil, h.applyShadows, htables, applyMembers]
  rw [hnone _ (fun t ht => by simp [hengine t ht])]
  rfl

theorem OneFrozen.kept_planTaken (hplain : plainAt o = true) :
    Kept [o, aFPLAN_ACTIVE] (shadowTaken o w) (planTaken w) := by
  rw [h.planTaken_eq hplain]
  exact Kept.forEach (fun t ht _ h => (spared_plain hplain).reportMember (List.mem_range.1 ht) h) (.refl (regsWf_wr h.wf o _))

variable {p : RegPlace} (hp : locate o = some p) (hname : commitsPlainly p.name = true)
include hp hname

omit h hp in
theorem ne_of_commitsPlainly {n : RegName} (hn : commitsPlainly n = false) : p.name ≠ n := by
  intro e
  rw [e, hn] at hname
  cases hname

theorem OneFrozen.planJudged_eq (n : Dev) : planJudged w n = n := by
  have hjudged : regionJudged o p (rd o w) n = n := by
    unfold regionJudged
    simp only
    split
    next e => exact absurd e (ne_of_commitsPlainly hname rfl)
    next e => exact absurd e (ne_of_commitsPlainly hname rfl)
    · rfl
  simp only [planJudged, h.frozenRegs, forEach, List.foldl_cons, List.foldl_nil, hp, hjudged]

theorem OneFrozen.ucodeAct_eq (n : Dev) : ucodeAct w n = n := by
  simp [ucodeAct, h.frozenRegs, hp, ne_of_commitsPlainly hname (n := .CHANTER_UCODE) rfl, forEach]

omit h hp in
/-- Of the plain registers, only a port's and the Drones' do anything beside taking their value, to no register. -/
theorem Kept.committedReg_of_plain {fixed : List Nat} {k n : Dev} {old : Word} (hn : Kept fixed k n) :
    Kept fixed k (Machine.committedReg o p old n) := by
  unfold Machine.committedReg
  split
  case h_2 => exact hn.congr rfl -- PCIE_PORT
  case h_16 => -- DRONE_CTRL
    split
    · exact hn.congr rfl
    · exact hn
  case h_17 => exact hn
  all_goals exact (ne_of_commitsPlainly hname rfl ‹_›).elim

theorem OneFrozen.acts : Kept [o, aFPLAN_ACTIVE] (shadowTaken o w)
    (planActed w (endNamed w (planJudged w (planTaken w)))) := by
  have hplain : plainAt o = true := (plainAt_of_locate hp).trans hname
  have hspared := spared_plain hplain
  rw [h.planJudged_eq hp hname]
  refine hspared.planActed (fun n hn => ?_) (fun off hoff q hq n hn => ?_) (fun x hx => ?_)
    (hspared.endNamed (h.kept_planTaken hplain))
  · rwa [h.ucodeAct_eq hp hname]
  · rw [h.frozenRegs, List.mem_singleton] at hoff
    subst hoff
    obtain rfl : p = q := Option.some.inj (hp.symm.trans hq)
    exact Kept.committedReg_of_plain hname hn
  · rw [h.tables] at hx
    cases hx

end

end Sys2Proof.Machine

/-! SUPPORT. The ways that a COMMIT goes once its change set is frozen (R156, R164, R167), and obligation O36. -/
namespace Sys2Proof.Machine

section
variable {s : State} (h : regsWf s.dev = true) (hmove : s.dev.piper.move = none) (hs : nothingToSend s.dev)
  (h1 : planState s.dev ≠ 1) (h3 : planState s.dev ≠ 3) (hg : failingGroup (frozenPlan s.dev) = none)
include h hmove hs h1 h3

/-- A failing agreement group refuses the commit (R156). -/
theorem commit_refused_by_group {i : Nat} {c : GroupCheck} (he : changeSetEmpty s.dev = false)
    (hg : failingGroup (frozenPlan s.dev) = some (i, c)) :
    let cause := if c = .incomplete then cFPLAN_COMMIT_GROUP_INCOMPLETE else cFPLAN_COMMIT_GROUP_INCONSISTENT
    ∃ m, exec .fplanCommit s = .next { s with dev := boundary m } ∧ rdF aFPLAN_STATUS fFPLAN_STATUS_RESULT m = 4 ∧
      planState m = 2 ∧ leafSet cause m = true ∧ m.shadow = s.dev.shadow ∧ m.plan.stagedTables = s.dev.plan.stagedTables ∧
      regsSameBut [aFPLAN_STATUS, aFPLAN_FAULT, cause.reg] s.dev m := by
  intro cause
  have hcause : fplanCause (if c = .incomplete then 10 else 11) = cause := by
    by_cases hc : c = .incomplete <;> simp only [cause, hc, if_true, if_false] <;> rfl
  have hend := commit_refused (cause := if c = .incomplete then 10 else 11) (group := 0xFF00 + i) (target := 0) (off := 0) h hmove
    he hs (by rw [fplanCommit_frozen h1 h3 he, hg])
  rwa [endRegs, hcause] at hend

include hg

/-- An offline unit in service refuses the commit (R167). -/
theorem commit_refused_by_unit (he : changeSetEmpty s.dev = false) (ho : (notOffline (frozenPlan s.dev)).isSome = true) :
    ∃ m, exec .fplanCommit s = .next { s with dev := boundary m } ∧ rdF aFPLAN_STATUS fFPLAN_STATUS_RESULT m = 4 ∧
      planState m = 2 ∧ leafSet cFPLAN_COMMIT_NOT_OFFLINE m = true ∧ m.shadow = s.dev.shadow ∧
      regsSameBut [aFPLAN_STATUS, aFPLAN_FAULT, cFPLAN_COMMIT_NOT_OFFLINE.reg] s.dev m := by
  obtain ⟨o, ho⟩ := Option.isSome_iff_exists.1 ho
  obtain ⟨m, hexec, hresult, hstate, hleaf, hshadow, -, hregs⟩ := commit_refused (cause := 12) (group := 0)
    (target := (targetOfReg o).1) (off := (targetOfReg o).2) h hmove he hs (by rw [fplanCommit_frozen h1 h3 he, hg, ho])
  exact ⟨m, hexec, hresult, hstate, hleaf, hshadow, hregs⟩

/-- A change set of one plain register, for which no unit parks, applies at once (R164, step 6). -/
theorem commit_applies {o : Nat} {p : RegPlace} {v mk : Word} (hshadow : s.dev.shadow = [(o, (v, mk))])
    (hstaged : s.dev.plan.stagedTables = []) (hp : locate o = some p) (hname : commitsPlainly p.name = true)
    (ho : notOffline (frozenPlan s.dev) = none) (hu : unitsToPark (frozenPlan s.dev) = [])
    (hev : evictedTiles (frozenPlan s.dev) = []) :
    ∃ m, exec .fplanCommit s = .next { s with dev := boundary m } ∧ rd o m = (rd o s.dev &&& ~~~ mk) ||| (v &&& mk) ∧
      m.shadow = [] ∧ m.plan.frozen = false ∧ planState m = 0 ∧ rdF aFPLAN_STATUS fFPLAN_STATUS_RESULT m = 3 ∧
      rdF aFPLAN_ACTIVE fFPLAN_ACTIVE_COMMITS m =
        (rdF aFPLAN_ACTIVE fFPLAN_ACTIVE_COMMITS s.dev + 1) % 2 ^ fFPLAN_ACTIVE_COMMITS.w ∧ memSame s.dev m := by
  have he : changeSetEmpty s.dev = false := by
    unfold changeSetEmpty
    rw [hshadow]
    rfl
  have hcounts : OnlyRegs [aFPLAN_STATUS] (planWaiting s.dev) (planCounts (planWaiting s.dev)) :=
    (OnlyRegs.refl (m := planWaiting s.dev) (regsWf_frozenPlan h)).planCounts List.mem_cons_self
  have heq : fplanCommit s.dev = allReady (planCounts (planWaiting s.dev)) := by
    simp only [fplanCommit_frozen h1 h3 he, hg, ho, hu, List.isEmpty_nil, if_true]
  have hmask : (planWaiting s.dev).plan.frozenMask = [(o, mk)] :=
    congrArg (List.map (fun x : Nat × Word × Word => (x.1, x.2.2))) hshadow
  generalize planCounts (planWaiting s.dev) = w at heq hcounts
  have hsame : SamePlan (frozenPlan s.dev) w :=
    ⟨hcounts.regs, (congrArg Plan.frozenMask hcounts.plan :), hcounts.shadow⟩
  have happly : fplanCommit s.dev = planApplied w := by
    rw [heq, allReady, hsame.evictedTiles, hev, List.isEmpty_nil, if_pos rfl]
  have hw : OneFrozen o v mk s.dev w :=
    { wf := hcounts.wf
      regs := fun a ha => (hcounts.regs a ha).trans (rd_frozenPlan_ne h (by simpa using ha))
      mem := hcounts.mem
      piper := hcounts.piper
      net := hcounts.net
      tiers := hcounts.tiers
      shadow := hcounts.shadow.trans hshadow
      mask := (congrArg Plan.frozenMask hcounts.plan).trans hmask
      staged := (congrArg Plan.stagedTables hcounts.plan).trans hstaged
      tables := (congrArg Plan.frozenTables hcounts.plan).trans hstaged }
  have hacts := hw.acts hp hname
  have hquiet := (quiet_shadowTaken hw.wf o).trans hacts.toQuiet
  have hreport := reported_unitsResume hacts.wf (hquiet.sendsNothing (nothingToSend_congr hs hw.net hw.tiers))
  have hplain : plainAt o = true := (plainAt_of_locate hp).trans hname
  have hne {a : Nat} (ha : a ∈ reportRegs) : o ≠ a :=
    (ne_of_not_plain hplain (plainAt_reports a (List.mem_cons_of_mem _ ha))).symm
  rw [← planApplied_eq, ← happly] at hreport
  generalize planActed w (endNamed w (planJudged w (planTaken w))) = n at hreport hacts hquiet
  have hmove' : (fplanCommit s.dev).piper.move = none :=
    (congrArg PiperSt.move (hreport.only.piper.trans (hquiet.piper.trans hw.piper))).trans hmove
  have hempty : changeSetEmpty n = true := by
    unfold changeSetEmpty
    rw [hacts.shadow, hacts.staged]
    exact congrArg List.isEmpty hw.staged
  refine ⟨_, exec_fplanCommit hmove', ?value, hreport.only.shadow.trans hacts.shadow, (congrArg Plan.frozen hreport.only.plan :),
    ?state, hreport.result, ?commits, memSame_of_mem (hreport.only.mem.trans (hquiet.mem.trans hw.mem))⟩
  case value =>
    calc rd o (fplanCommit s.dev) = rd o n := hreport.only.regs o (fun ho => hne ho rfl)
      _ = rd o (wr o (frozenValue o w) w) := (hacts.same o List.mem_cons_self).trans (rd_shadowTaken ..)
      _ = (rd o w &&& ~~~ mk) ||| (v &&& mk) := (rd_wr_same hw.wf _ _).trans hw.frozenValue_same
      _ = (rd o s.dev &&& ~~~ mk) ||| (v &&& mk) := by rw [hw.regs o (by simpa using hne (a := aFPLAN_STATUS) (by decide))]
  case state => rw [hreport.state, hempty, if_pos rfl]
  case commits =>
    have hactive : rd aFPLAN_ACTIVE n = rd aFPLAN_ACTIVE s.dev :=
      calc rd aFPLAN_ACTIVE n = rd aFPLAN_ACTIVE (wr o (frozenValue o w) w) := (hacts.same _ (by simp)).trans (rd_shadowTaken ..)
        _ = rd aFPLAN_ACTIVE w := rd_wr_ne hw.wf _ (hne (by decide)).symm
        _ = rd aFPLAN_ACTIVE s.dev := hw.regs _ (by decide)
    have hcommits : rdF aFPLAN_ACTIVE fFPLAN_ACTIVE_COMMITS n = rdF aFPLAN_ACTIVE fFPLAN_ACTIVE_COMMITS s.dev :=
      congrArg fFPLAN_ACTIVE_COMMITS.get hactive
    rw [hreport.commits, hcommits]

end

/-- Settles O36: each way that a commit goes, up to the apply of one plain register, which no act of the commit writes again. -/
theorem commitChecksThenParksThenApplies : Obligations.CommitChecksThenParksThenApplies := by
  intro s hsound hmove hs st f
  have h := regsWf_of_sound hsound
  exact ⟨fun hst => commit_busy h hmove hst, fun h1 h3 he => commit_empty h hmove h1 h3 he,
    fun i c h1 h3 he hg => commit_refused_by_group h hmove hs h1 h3 he hg,
    fun h1 h3 he hg ho => commit_refused_by_unit h hmove hs h1 h3 hg he ho,
    fun h1 h3 he hg ho hu => commit_waits h hmove h1 h3 he hg ho hu,
    fun o p v mk h1 h3 hshadow hstaged hp hname hg ho hu hev =>
      commit_applies h hmove hs h1 h3 hg hshadow hstaged hp hname ho hu hev⟩

end Sys2Proof.Machine

/-! SUPPORT. What the reads and writes of a member leave of its step: PIPER_STEP and all that Piper holds (R93, R180, R181,
R291). -/
namespace Sys2Proof.Machine

/-- The registers of `n` are well formed, and its PIPER_STEP and its Piper are those of `m`. -/
structure StepStands (m n : Dev) : Prop where
  wf : regsWf n = true
  step : rd aPIPER_STEP n = rd aPIPER_STEP m
  piper : n.piper = m.piper

section
variable {m n n' : Dev}

theorem StepStands.refl (h : regsWf m = true) : StepStands m m := ⟨h, rfl, rfl⟩

theorem StepStands.congr (h : StepStands m n) (hr : n'.regs = n.regs) (hp : n'.piper = n.piper) : StepStands m n' :=
  ⟨regsWf_of_regs h.wf hr, (rd_congr hr _).trans h.step, hp.trans h.piper⟩

/-! ### Registers -/

/-- The leaf registers lie at offsets of 16, PIPER_STEP beside one. -/
theorem step_ne_leaf (c : Cause) : aPIPER_STEP ≠ c.reg := by
  unfold aPIPER_STEP Cause.reg aINT_LEAF
  omega

/-- The registers of the dies, tiles and stacks lie above PIPER_STEP. -/
theorem step_ne_of_le {o : Nat} (h : 0x100000 ≤ o) : aPIPER_STEP ≠ o := by
  unfold aPIPER_STEP
  omega

theorem StepStands.wr {o : Nat} {v : Word} (ho : aPIPER_STEP ≠ o) (h : StepStands m n) : StepStands m (wr o v n) :=
  ⟨regsWf_wr h.wf o v, (rd_wr_ne h.wf v ho).trans h.step, h.piper⟩

theorem StepStands.countSat {o k : Nat} {f : Fld} (ho : aPIPER_STEP ≠ o) (h : StepStands m n) :
    StepStands m (countSat o f k n) :=
  h.wr ho

theorem StepStands.recordFirst {o : Nat} {v : Word} (ho : aPIPER_STEP ≠ o) (h : StepStands m n) :
    StepStands m (recordFirst o v n) := by
  unfold Machine.recordFirst
  split
  · exact h
  · exact h.wr ho

theorem StepStands.raise {c : Cause} (h : StepStands m n) : StepStands m (raise c n) :=
  ⟨regsWf_raise h.wf c, (rd_raise_ne h.wf c (step_ne_leaf c)).trans h.step, (raise_piper c n).trans h.piper⟩

/-! ### Accesses -/

theorem StepStands.gateFault {g : Gate} {kind off : Nat} {write : Bool} (h : StepStands m n) :
    StepStands m (gateFault g kind off write n) := by
  cases g with
  | tile t k => exact h.recordFirst (step_ne_of_le (by unfold onTile aTILE_SEEDBED_FAULT; omega))
  | shared d k tl => exact h.recordFirst (step_ne_of_le (by unfold aDIE_SHARED_FAULT; omega))
  | none => exact h

theorem StepStands.refuseRegion {g : Gate} {off : Nat} {write : Bool} (h : StepStands m n) :
    StepStands m (refuseRegion g off write n) :=
  h.raise.gateFault

theorem StepStands.refuseMap {ag : Agent} (h : StepStands m n) : StepStands m (refuseMap ag n) := h.raise

theorem StepStands.poisonMet {write : Bool} {a : Nat} {g : Gate} {bad off : Nat} (h : StepStands m n) :
    StepStands m (poisonMet write a g bad off n) := by
  unfold Machine.poisonMet
  split
  · exact h.raise.gateFault
  · exact h.raise.gateFault
  · exact (h.raise.countSat (step_ne_of_le (by unfold aHARROW_ECC_STATS; omega))).recordFirst
      (step_ne_of_le (by unfold aHARROW_FAULT; omega))
  · exact h

theorem StepStands.beginFault {die p : Nat} (h : StepStands m n) : StepStands m (beginFault die p n) :=
  StepStands.congr (n := Machine.countSat aTIER_STATS fTIER_STATS_FAULTS 1 (setMapF 1 p mBUSY 1 n))
    ((h.congr (n' := setMapF 1 p mBUSY 1 n) rfl rfl).countSat (by decide)) rfl rfl

theorem peerRead_piper (die a n : Nat) (m : Dev) : (peerRead die a n m).m.piper = m.piper :=
  congrArg (fun p => p.2.2) (peerRead_planPart die a n m)

theorem pageWritten_piper (a : Nat) (m : Dev) : (pageWritten a m).piper = m.piper := by
  unfold pageWritten
  split
  · exact when_keeps (fun n => n.piper = m.piper) _ _ m (fun _ => rfl) rfl
  · rfl

theorem coverPages_piper (a n : Nat) (m : Dev) : (coverPages a n m).piper = m.piper := by
  refine forEach_keeps (fun n => n.piper = m.piper) _ _ m (fun u _ n hn => ?_) rfl
  split <;> exact hn

theorem StepStands.readServed {ag : Agent} {a k : Nat} {sv : Served} (h : StepStands m n) :
    StepStands m (readServed ag a k sv n).m := by
  unfold Machine.readServed
  split
  · split
    · exact h.poisonMet
    · exact h
  · exact h.congr (peerRead_regs ..) (peerRead_piper ..)
  · exact h
  · exact h.refuseRegion
  · exact h.refuseMap
  · exact h.beginFault
  · exact h

theorem StepStands.readVia {ag : Agent} {a k : Nat} (h : StepStands m n) : StepStands m (readVia ag a k n).m :=
  List.foldlRecOn (motive := fun r : ReadRes => StepStands m r.m) _ _ h fun _ hr _ _ => hr.readServed

theorem StepStands.pageWritten {a : Nat} (h : StepStands m n) : StepStands m (pageWritten a n) :=
  h.congr (pageWritten_regs ..) (pageWritten_piper ..)

theorem StepStands.stData {a : Nat} {bs : List Byte} (h : StepStands m n) : StepStands m (stData a bs n) := h.congr rfl rfl

theorem StepStands.peerWrite {die a : Nat} {bs : List Byte} (h : StepStands m n) : StepStands m (peerWrite die a bs n) :=
  h.congr rfl rfl

theorem StepStands.writeServed {ag : Agent} {a : Nat} {bs : List Byte} {sv : Served} (h : StepStands m n) :
    StepStands m (writeServed ag a bs sv n).m := by
  unfold Machine.writeServed
  split
  · exact h.stData.pageWritten
  · exact h.peerWrite.pageWritten
  · split
    · split
      · exact h.stData.pageWritten
      · exact h.peerWrite.pageWritten
    · exact h
  · exact h.refuseRegion
  · exact h.refuseMap
  · exact h.beginFault
  · exact h

theorem StepStands.writeVia {ag : Agent} {a : Nat} {bs : List Byte} (h : StepStands m n) :
    StepStands m (writeVia ag a bs n).m :=
  when_keeps (StepStands m) _ _ _ (fun hw => hw.congr (coverPages_regs ..) (coverPages_piper ..))
    (List.foldlRecOn (motive := fun r : WriteRes => StepStands m r.m) _ _ h fun _ hr _ _ => hr.writeServed)

theorem StepStands.write {ag : Agent} {a : Nat} {bs : List Byte} {r : Run} (h : StepStands m r.m) :
    StepStands m (r.write ag a bs).m :=
  h.writeVia

theorem StepStands.each {α : Type} {xs : List α} {f : α → Run → Run} {r : Run}
    (hf : ∀ x r, StepStands m r.m → StepStands m (f x r).m) (h : StepStands m r.m) : StepStands m (Run.each xs f r).m :=
  List.foldlRecOn (motive := fun r : Run => StepStands m r.m) _ _ h fun r hr x _ => hf x r hr

/-! ### The manifest and the step program (R180, R181) -/

theorem StepStands.writeManifest {bytes : List Byte} {slots : List Slot} (h : StepStands m n) :
    StepStands m (writeManifest bytes slots n).m :=
  StepStands.each (r := Run.start n) (fun _ _ h => h.write.write.write) h

theorem StepStands.readProgram {addr : Nat} (h : StepStands m n) : StepStands m (readProgram addr n).m := by
  simp only [Machine.readProgram]
  split
  · exact h
  · split
    · exact h.readVia
    · exact h.readVia.readVia

theorem stepStands_manifestWrites {bytes : List Byte} (h : regsWf m = true) : StepStands m (manifestWrites bytes m).m :=
  StepStands.writeManifest (when_keeps (StepStands m) _ _ m (fun h => h.congr rfl rfl) (.refl h))

theorem stepStands_manifestProgram {bytes : List Byte} (h : regsWf m = true) : StepStands m (manifestProgram bytes m).m :=
  (stepStands_manifestWrites h).readProgram

end
end Sys2Proof.Machine

/-! SUPPORT. A kill of the step's rings leaves Piper as it is (R128, R129, R188): the pages, collectives and requests that it
ends are others' work. -/
namespace Sys2Proof.Machine

variable (m : Dev)

@[simp] theorem ite_piper (c : Prop) [Decidable c] (a b : Dev) : (if c then a else b).piper = if c then a.piper else b.piper :=
  apply_ite Dev.piper c a b

@[simp] theorem when_piper (c : Bool) (f : Dev → Dev) : (when c f m).piper = if c then (f m).piper else m.piper := by
  simp [when]

variable {m} in
@[simp] theorem forEach_piper {α : Type} {xs : List α} {f : α → Dev → Dev} (hf : ∀ x m, (f x m).piper = m.piper) :
    (forEach xs f m).piper = m.piper :=
  forEach_keeps (fun n => n.piper = m.piper) xs f m (fun x _ n hn => (hf x n).trans hn) rfl

@[simp] theorem recordFirst_piper (o : Nat) (v : Word) : (recordFirst o v m).piper = m.piper := by simp [recordFirst]

/-! ### Pages of a killed group (R313, R314) -/

@[simp] theorem setMap_piper (range p : Nat) (v : Word) : (setMap range p v m).piper = m.piper := rfl

@[simp] theorem setMapF_piper (range p : Nat) (f : Fld) (n : Nat) : (setMapF range p f n m).piper = m.piper := rfl

@[simp] theorem setOwner_piper (k i : Nat) (v : Word) : (setOwner k i v m).piper = m.piper := rfl

theorem popFrame_piper {k range p i : Nat} {m n : Dev} (h : popFrame k range p m = some (i, n)) : n.piper = m.piper := by
  unfold popFrame at h
  split at h
  · cases h
  · split at h
    · cases h
    · cases h
      rw [setOwner_piper, stN_piper, stN_piper]

@[simp] theorem pushFrame_piper (k i : Nat) : (pushFrame k i m).piper = m.piper := by simp [pushFrame]

@[simp] theorem copyRaw_piper (src dst n : Nat) : (copyRaw src dst n m).piper = m.piper := by
  simp -implicitDefEqProofs [copyRaw]

@[simp] theorem evictEnd_piper (k i : Nat) : (evictEnd k i m).piper = m.piper := by simp [evictEnd]

@[simp] theorem writeHome_piper (range p : Nat) (e : Word) : (writeHome range p e m).piper = m.piper := by
  unfold writeHome
  split <;> simp

theorem evictStart_piper {k i : Nat} {d : Bool} {m n : Dev} (h : evictStart k m = some (i, d, n)) : n.piper = m.piper := by
  unfold evictStart at h
  split at h
  · cases h
  · cases h
    simp

@[simp] theorem peerAsk_piper (die a n : Nat) : (peerAsk die a n m).piper = m.piper := by simp [peerAsk]

@[simp] theorem nvmePut_piper (x : NvmeCmd) : (nvmePut x m).piper = m.piper := by simp [nvmePut]

@[simp] theorem nvmeSend_piper (write flush : Bool) (page : Nat) (u : NvmeUse) (die : Nat) :
    (nvmeSend write flush page u die m).piper = m.piper := by simp [nvmeSend]

@[simp] theorem askPage_piper (die page : Nat) : (askPage die page m).piper = m.piper := by simp [askPage]

@[simp] theorem evictWrite_piper (die page : Nat) : (evictWrite die page m).piper = m.piper := by simp [evictWrite]

@[simp] theorem evictOne_piper (die k : Nat) : (evictOne die k m).piper = m.piper := by
  unfold evictOne
  split
  · rfl
  next h => simp [evictStart_piper h]

@[simp] theorem makeRoom_piper (die k : Nat) : (makeRoom die k m).piper = m.piper := by simp [makeRoom]

@[simp] theorem beginFill_piper (die page k i : Nat) : (beginFill die page k i m).piper = m.piper := by simp [beginFill]

@[simp] theorem seekFrame_piper (die page k : Nat) : (seekFrame die page k m).piper = m.piper := by
  simp only [seekFrame]
  split
  next h => simp [popFrame_piper h]
  · split
    next h => simp [popFrame_piper h]
    · simp

@[simp] theorem serveFault_piper (w : Nat × Nat) : (serveFault w m).piper = m.piper := by
  unfold serveFault
  split <;> simp

@[simp] theorem retryWaiting_piper : (retryWaiting m).piper = m.piper := by simp [retryWaiting]

@[simp] theorem undoPages_piper (moving popped : List (Nat × Nat)) : (undoPages moving popped m).piper = m.piper := by
  simp -implicitDefEqProofs [undoPages]

/-! ### Rings (R128, R134, R137) -/

@[simp] theorem ringWr_piper (q k : Nat) (v : Word) : (ringWr q k v m).piper = m.piper := by
  unfold ringWr
  split
  · exact forEach_piper fun _ _ => rfl
  · rfl

@[simp] theorem setFetch_piper (q n : Nat) : (setFetch q n m).piper = m.piper := ringWr_piper ..

@[simp] theorem setHead_piper (q n : Nat) : (setHead q n m).piper = m.piper := ringWr_piper ..

@[simp] theorem clearHalt_piper (q : Nat) : (clearHalt q m).piper = m.piper := ringWr_piper ..

@[simp] theorem setDyn_piper (q : Nat) (x : RingDyn) : (setDyn q x m).piper = m.piper := rfl

@[simp] theorem cancelWork_piper (q : Nat) : (cancelWork q m).piper = m.piper := rfl

@[simp] theorem clearTileAcc_piper (t : Nat) : (clearTileAcc t m).piper = m.piper := rfl

@[simp] theorem killRaw_piper (q : Nat) : (killRaw q m).piper = m.piper := by simp -implicitDefEqProofs [killRaw]

@[simp] theorem stopWaiting_piper (q : Nat) : (stopWaiting q m).piper = m.piper := by simp [stopWaiting]

@[simp] theorem haltMarks_piper (q reason : Nat) (w : Word) : (haltMarks q reason w m).piper = m.piper := by
  simp -implicitDefEqProofs [haltMarks]

@[simp] theorem haltRaw_piper (q reason : Nat) : (haltRaw q reason m).piper = m.piper := by simp [haltRaw]

/-! ### Collectives that a kill ends (R129, R391, R392) -/

@[simp] theorem sendDraft_piper (d : Draft) : (sendDraft d m).piper = m.piper := by
  simp only [sendDraft]
  split <;> rfl

@[simp] theorem sendAgain_piper (die : Nat) (p : Packet) : (sendAgain die p m).piper = m.piper := rfl

@[simp] theorem answerChunk_piper (mkind : Nat) (p : Packet) : (answerChunk mkind p m).piper = m.piper := by
  simp [answerChunk]

@[simp] theorem sendAborts_piper (c : Coll) (reason : Nat) : (sendAborts c reason m).piper = m.piper := by
  unfold sendAborts
  split <;> simp

@[simp] theorem setAttempt_piper (g a : Nat) : (setAttempt g a m).piper = m.piper := rfl

@[simp] theorem dropColl_piper (c : Coll) : (dropColl c m).piper = m.piper := rfl

@[simp] theorem addRef_piper (r k : Nat) : (addRef r k m).piper = m.piper := rfl

@[simp] theorem abortOne_piper (c : Coll) : (abortOne c m).piper = m.piper := by simp [abortOne]

@[simp] theorem abortKeys_piper (fuel : Nat) (ks : List AbortKey) : (abortKeys fuel ks m).piper = m.piper := by
  induction fuel generalizing ks m with
  | zero => simp [abortKeys]
  | succ fuel ih =>
    cases ks with
    | nil => rfl
    | cons k rest =>
      simp only [abortKeys, ih]
      simp -implicitDefEqProofs

@[simp] theorem haltRing_piper (q reason : Nat) : (haltRing q reason m).piper = m.piper := by simp [haltRing]

@[simp] theorem killRing_piper (q : Nat) : (killRing q m).piper = m.piper := by simp [killRing]

@[simp] theorem dropKept_piper (q : Nat) : (dropKept q m).piper = m.piper := rfl

@[simp] theorem ringResume_piper (q : Nat) : (ringResume q m).piper = m.piper := by
  simp -implicitDefEqProofs [ringResume]

/-- The rings of a step are killed; the step itself stands (R188). -/
theorem killStep_piper : (killStep m).piper = m.piper := by
  simp -implicitDefEqProofs [killStep]

end Sys2Proof.Machine

/-! SUPPORT. The key-value pages of a member (R215 to R225): what works on them leaves the registers and the manifest taken
alone. -/
namespace Sys2Proof.Machine

/-- The registers, and the manifest that the module has taken. -/
def takenPart (m : Dev) : Sparse Word × Nat := (m.regs, m.piper.taken)

variable (m : Dev)

@[simp] theorem ite_takenPart (c : Prop) [Decidable c] (a b : Dev) :
    takenPart (if c then a else b) = if c then takenPart a else takenPart b :=
  apply_ite takenPart c a b

variable {m} in
@[simp] theorem forEach_takenPart {α : Type} {xs : List α} {f : α → Dev → Dev}
    (hf : ∀ x m, takenPart (f x m) = takenPart m) : takenPart (forEach xs f m) = takenPart m :=
  forEach_keeps (fun n => takenPart n = takenPart m) xs f m (fun x _ n hn => (hf x n).trans hn) rfl

/-! ### Stacks and pages (R215, R220) -/

@[simp] theorem stN_takenPart (n a v : Nat) : takenPart (stN n a v m) = takenPart m := rfl

@[simp] theorem stZeros_takenPart (a n : Nat) : takenPart (stZeros a n m) = takenPart m := rfl

@[simp] theorem setKvHdr_takenPart (n off v : Nat) : takenPart (setKvHdr n off v m) = takenPart m := rfl

@[simp] theorem setRec_takenPart (s n off v : Nat) : takenPart (setRec s n off v m) = takenPart m := rfl

@[simp] theorem setPageEntry_takenPart (s j v : Nat) : takenPart (setPageEntry s j v m) = takenPart m := rfl

@[simp] theorem setCopyUnits_takenPart (s : Nat) (us : List Nat) : takenPart (setCopyUnits s us m) = takenPart m := rfl

theorem popStack_takenPart {stack freeOff : Nat} {r : Nat × Dev} (h : popStack stack freeOff m = some r) :
    takenPart r.2 = takenPart m := by
  unfold popStack at h
  obtain ⟨_, h⟩ := Option.ite_none_left_eq_some.1 h
  cases h
  rfl

@[simp] theorem takeUnit_takenPart (k P j first : Nat) : takenPart (takeUnit k P j first m).2 = takenPart m := by
  unfold takeUnit
  split
  · cases h : popUnit k m with
    | none => rfl
    | some r => exact popStack_takenPart m (r := r) h
  · split
    · split
      next r h => exact popStack_takenPart m (r := r) h
      · rfl
    · rfl

@[simp] theorem giveUnit_takenPart (k P j u : Nat) : takenPart (giveUnit k P j u m) = takenPart m := by
  simp [giveUnit, pushUnit, pushRidge, pushStack]

@[simp] theorem allocPage_takenPart (s j : Nat) : takenPart (allocPage s j m) = takenPart m := by
  simp only [allocPage, setRec_takenPart, setPageEntry_takenPart, takeUnit_takenPart]
  split
  · split
    next h => exact (setRec_takenPart ..).trans (popStack_takenPart m h)
    · rfl
  · rfl

@[simp] theorem freePageUnit_takenPart (s j : Nat) : takenPart (freePageUnit s j m) = takenPart m := by
  simp [freePageUnit]

@[simp] theorem releasePage_takenPart (s j : Nat) : takenPart (releasePage s j m) = takenPart m := by
  simp [releasePage, pushBlock, pushStack]

@[simp] theorem releaseFrom_takenPart (s c : Nat) : takenPart (releaseFrom s c m) = takenPart m := by
  simp [releaseFrom]

/-! ### Copies and marks (R224, R233, R234) -/

@[simp] theorem takeUnits_takenPart (k P n : Nat) : takenPart (takeUnits k P n m).2 = takenPart m :=
  foldl_keeps (fun r : List Nat × Dev => takenPart r.2) fun _ _ => takeUnit_takenPart ..

@[simp] theorem copyRaw_takenPart (src dst n : Nat) : takenPart (copyRaw src dst n m) = takenPart m :=
  forEach_keeps (fun n => takenPart n = takenPart m) _ _ _ (fun _ _ _ hn => hn) rfl

@[simp] theorem copyPage_takenPart (P fromPool fromUnit toPool toUnit : Nat) :
    takenPart (copyPage P fromPool fromUnit toPool toUnit m) = takenPart m := by simp [copyPage]

theorem startCopy_takenPart {s : Nat} {restore : Bool} {n : Dev} (h : startCopy s restore m = some n) :
    takenPart n = takenPart m := by
  unfold startCopy at h
  obtain ⟨_, h⟩ := Option.ite_none_left_eq_some.1 h
  rw [← Option.some.inj h, setCopyUnits_takenPart, forEach_takenPart fun _ _ => copyPage_takenPart .., takeUnits_takenPart]

@[simp] theorem dropCopy_takenPart (s k : Nat) : takenPart (dropCopy s k m) = takenPart m := by simp [dropCopy]

@[simp] theorem pauseMap_takenPart (s : Nat) : takenPart (pauseMap s m) = takenPart m := by simp [pauseMap]

@[simp] theorem restoreMap_takenPart (s : Nat) : takenPart (restoreMap s m) = takenPart m := by simp [restoreMap]

@[simp] theorem markCommitted_takenPart (s len : Nat) : takenPart (markCommitted s len m) = takenPart m := by
  simp -implicitDefEqProofs [markCommitted]

/-! ### The registers of a member that works on its pages -/

variable {m} {n : Dev}

theorem regsWf_of_takenPart (h : regsWf m = true) (e : takenPart n = takenPart m) : regsWf n = true :=
  regsWf_of_regs h (congrArg Prod.fst e)

theorem regsWf_allocPages {s k : Nat} (h : regsWf m = true) : regsWf (allocPages s k m) = true := by
  simp only [allocPages]
  split
  · exact h
  · split
    · exact regsWf_of_takenPart h (forEach_takenPart fun _ _ => allocPage_takenPart ..)
    · exact regsWf_raise h _

theorem allocPages_taken (s k : Nat) (m : Dev) : (allocPages s k m).piper.taken = m.piper.taken := by
  simp only [allocPages]
  split
  · rfl
  · split
    · exact congrArg Prod.snd (forEach_takenPart (m := m) fun _ _ => allocPage_takenPart ..)
    · rw [raise_piper]

theorem regsWf_reportTo {coord ref : Nat} (h : regsWf m = true) : regsWf (reportTo coord ref m) = true := by
  unfold reportTo
  split
  · exact regsWf_addRef h
  · exact regsWf_issue h

theorem regsWf_startCopy {s coord ref : Nat} {restore : Bool} (hc : startCopy s restore m = some n) (h : regsWf m = true) :
    regsWf (reportTo coord ref n) = true :=
  regsWf_reportTo (regsWf_of_takenPart h (startCopy_takenPart m hc))

/-- An entry of a commit record, whatever it orders (R224). -/
theorem regsWf_applyEntry {b : List Byte} (h : regsWf m = true) : regsWf (applyEntry b m) = true := by
  fun_cases applyEntry with
  | case1 => exact regsWf_raise h _
  | case2 => exact regsWf_of_regs h (stBytes_regs ..)
  | case3 => exact h
  | case4 => exact h
  | case5 => exact regsWf_of_takenPart h (markCommitted_takenPart ..)
  | case6 => exact regsWf_allocPages h
  | case7 _ _ _ _ _ _ _ _ _ _ _ hc => exact regsWf_startCopy hc h
  | case8 => exact regsWf_raise h _
  | case9 => exact regsWf_of_takenPart h (pauseMap_takenPart ..)
  | case10 => exact regsWf_of_takenPart h (dropCopy_takenPart ..)
  | case11 _ _ _ _ _ _ _ _ _ _ _ _ _ _ hc => exact regsWf_startCopy hc h
  | case12 => exact regsWf_raise h _
  | case13 => exact regsWf_of_takenPart h (restoreMap_takenPart ..)
  | case14 => exact regsWf_of_takenPart h (by simp)

theorem regsWf_applyCommitRecord {bytes : List Byte} (h : regsWf m = true) : regsWf (applyCommitRecord bytes m) = true :=
  regsWf_forEach (fun _ _ => regsWf_applyEntry) h

end Sys2Proof.Machine

/-! SUPPORT. The Gleaner's apply of a step keeps the registers well formed (R281 to R286), and so does an access that is held
(R309, R311). -/
namespace Sys2Proof.Machine

section
variable {m n : Dev} {r : Run}

/-! ### What a held access leaves behind -/

theorem regsWf_pageFault {die page : Nat} (h : regsWf m = true) : regsWf (pageFault die page m) = true := by
  fun_cases pageFault with
  | case1 => exact h
  | case2 => exact regsWf_refuseMap h
  | case3 => exact regsWf_refuseMap h
  | case4 => exact h
  | case5 => exact regsWf_of_stopAt (fun _ _ => seekFrame_stopAt) h
  | case6 => exact h
  | case7 => exact regsWf_of_stopAt (fun _ _ => seekFrame_stopAt) (regsWf_beginFault h)

theorem regsWf_askPeers {job : Nat} (h : regsWf m = true) : regsWf (askPeers job m) = true :=
  regsWf_of_stopAt (fun _ _ => forEach_stopAt fun _ _ => askPiece_stopAt) h

theorem regsWf_heldBy {job : Nat} (h : regsWf m = true) : regsWf (heldBy job n m) = true := by
  have hfaults : regsWf (forEach (n.tiers.waitFrame.filter (fun w => !m.tiers.waitFrame.contains w))
      (fun w => pageFault w.2 w.1) m) = true := regsWf_forEach (fun _ _ => regsWf_pageFault) h
  exact regsWf_askPeers hfaults

/-! ### What the Gleaner holds beside the registers -/

theorem regsWf_keepStaged {f : StagedRec → Bool} (h : regsWf m = true) : regsWf (keepStaged f m) = true := h

theorem regsWf_setMoves {id : Nat} {l : List Reclass} (h : regsWf m = true) : regsWf (setMoves id l m) = true := h

theorem regsWf_noteLate {stamp : Nat} (h : regsWf m = true) : regsWf (noteLate stamp m) = true := h

theorem regsWf_applied {s : Nat} (h : regsWf m = true) :
    regsWf { m with gleaner := { m.gleaner with applied := s } } = true := h

/-! ### Rows (R281, R284) -/

theorem regsWf_putCopy {hd c slot : Nat} {t : Desc} {master : List Byte} (h : regsWf r.m = true) :
    regsWf (putCopy hd t c slot master r).m = true := by
  have hcauses : regsWf (quantCauses (18 * hd) (roundClass c master r.m).2 (useFree (17 * (dWidth t / 16)) r.m)) = true :=
    regsWf_quantCauses (m := useFree _ _) h
  simp only [putCopy]
  split
  · exact hcauses
  · exact regsWf_write hcauses

theorem regsWf_applyRow {hd row : Nat} {t : Desc} {rs : List StagedRec} (h : regsWf m = true) :
    regsWf (applyRow hd t row rs m).m = true := by
  have hstart : regsWf (Run.start m).m = true := h
  fun_cases applyRow with
  | case1 => exact regsWf_read hstart
  | case2 => exact regsWf_eff (regsWf_gleanerFault (regsWf_read hstart))
  | case3 => exact regsWf_read (regsWf_read hstart)
  | case4 => exact regsWf_putCopy (regsWf_write (regsWf_read (regsWf_read hstart)))

theorem regsWf_applyRecords {hd stamp id row : Nat} {t : Desc} (h : regsWf m = true) :
    regsWf (applyRecords hd stamp t id row m) = true := by
  simp only [applyRecords]
  split
  · exact regsWf_heldBy h
  · exact regsWf_keepStaged (regsWf_applyRow h)

theorem regsWf_applyTable {hd stamp id : Nat} {t : Desc} (h : regsWf m = true) :
    regsWf (applyTable hd stamp t id m) = true :=
  regsWf_forEach (fun _ _ => regsWf_applyRecords) h

/-! ### Reclassification and sweeps (R285, R286) -/

theorem regsWf_pushSlot {hd desc c slot : Nat} {t : Desc} (h : regsWf r.m = true) :
    regsWf (pushSlot hd desc t c slot r).m = true :=
  regsWf_write (regsWf_write (regsWf_read h))

theorem regsWf_popSlot {hd desc c : Nat} {t : Desc} {x : Run × Option Nat} (hx : popSlot hd desc t c r = x)
    (h : regsWf r.m = true) : regsWf x.1.m = true := by
  subst hx
  simp only [popSlot]
  split
  · exact regsWf_read h
  · exact regsWf_write (regsWf_read (regsWf_read h))

theorem regsWf_applyMove {hd desc : Nat} {t : Desc} {x : Reclass} (h : regsWf m = true) :
    regsWf (applyMove hd desc t x m) = true := by
  have hstart : regsWf (Run.start m).m = true := h
  fun_cases applyMove with
  | case1 => exact regsWf_setMoves (regsWf_heldBy h)
  | case2 => exact regsWf_countSat (regsWf_pushSlot (regsWf_write (regsWf_putCopy (regsWf_read (regsWf_read hstart)))))

theorem regsWf_decayHeat {hd : Nat} {t : Desc} (h : regsWf m = true) : regsWf (decayHeat hd t m) = true :=
  regsWf_forEach (fun _ _ h => regsWf_writeVia (regsWf_readVia h)) h

theorem regsWf_sweepRow {hd desc l : Nat} {t : Desc} {x : Run × List Reclass × Bool} (h : regsWf x.1.m = true) :
    regsWf (sweepRow hd desc t l x).1.m = true := by
  have hstart : regsWf (Run.start x.1.m).m = true := h
  fun_cases sweepRow with
  | case1 => exact regsWf_pair (regsWf_read (regsWf_read hstart))
  | case2 _ _ _ _ _ _ slot =>
    have hslot : regsWf slot.1.m = true := regsWf_popSlot rfl (regsWf_read (regsWf_read hstart))
    exact regsWf_pair (regsWf_eff (regsWf_countSat hslot))
  | case3 _ _ _ _ _ _ slot =>
    have hslot : regsWf slot.1.m = true := regsWf_popSlot rfl (regsWf_read (regsWf_read hstart))
    exact regsWf_pair (regsWf_putCopy (regsWf_read hslot))

theorem regsWf_sweepTable {hd id desc : Nat} {t : Desc} (h : regsWf r.m = true) :
    regsWf (sweepTable hd id desc t r) = true := by
  have hrows : regsWf ((List.range (localRows t (selfCoord r.m))).foldl (fun y l => sweepRow hd desc t l y)
      (r, [], false)).1.m = true := regsWf_foldl_fst (fun _ _ => regsWf_sweepRow) h
  have hshort {b : Bool} {l : List Reclass} {m : Dev} (hm : regsWf m = true) :
      regsWf (when b (raise (cDIE_GLEANER_SLOTS_SHORT hd)) (setMoves id l m)) = true :=
    regsWf_when (fun h => regsWf_raise h _) (regsWf_setMoves hm)
  simp only [sweepTable]
  split
  · exact regsWf_decayHeat (hshort hrows)
  · exact hshort hrows

theorem regsWf_startDue {hd id desc : Nat} {t : Desc} (h : regsWf m = true) : regsWf (startDue hd id desc t m) = true := by
  unfold startDue
  split
  · exact regsWf_sweepTable (r := Run.start _) h
  · exact h

theorem regsWf_applyMoves {hd id desc : Nat} {t : Desc} (h : regsWf m = true) : regsWf (applyMoves hd id desc t m) = true := by
  have hmoves {xs rest : List Reclass} : regsWf (forEach xs (applyMove hd desc t) (setMoves id rest m)) = true :=
    regsWf_forEach (fun _ _ => regsWf_applyMove) (regsWf_setMoves h)
  simp only [applyMoves]
  split
  · exact h
  · split
    · exact regsWf_decayHeat hmoves
    · exact hmoves

/-! ### The apply of a step (R283) -/

theorem regsWf_forTable {hd stamp id : Nat} {f : Nat → Nat → Desc → Dev → Dev}
    (hf : ∀ i d t m, regsWf m = true → regsWf (f i d t m) = true) (h : regsWf m = true) :
    regsWf (forTable hd stamp f id m) = true := by
  have hx : regsWf (homeTable id (Run.start m)).1.m = true := regsWf_homeTable h
  fun_cases forTable with
  | case1 => exact regsWf_heldBy h
  | case2 => exact regsWf_keepStaged hx
  | case3 => exact regsWf_keepStaged hx
  | case4 => exact hf _ _ _ _ (regsWf_applyTable hx)

theorem regsWf_gleanRetry (h : regsWf m = true) : regsWf (gleanRetry m) = true := by
  unfold gleanRetry
  split
  · exact h
  · exact regsWf_forEach (fun _ _ h => regsWf_noteLate (regsWf_forEach (fun _ _ => regsWf_forTable fun _ _ _ _ h => h) h)) h

theorem regsWf_gleanApply {hd stamp : Nat} (h : regsWf m = true) : regsWf (gleanApply hd stamp m) = true :=
  regsWf_noteLate (regsWf_keepStaged (regsWf_forEach
    (fun _ _ => regsWf_forTable fun _ _ _ _ h => regsWf_startDue (regsWf_applyMoves h)) (regsWf_gleanRetry h)))

theorem regsWf_gleanStep {seq : Nat} (h : regsWf m = true) : regsWf (gleanStep seq m) = true := by
  unfold gleanStep
  split
  · exact regsWf_applied (regsWf_gleanApply h)
  · exact regsWf_applied h

end
end Sys2Proof.Machine

/-! SUPPORT. A member's copying of its step program into the rings (R108, R181, R225). -/
namespace Sys2Proof.Machine

section
variable {m : Dev} {run : List Byte} {q : Nat}

/-! ### One run -/

/-- The entries of a run that its ring has room for, read and written. -/
def entriesCopied (q : Nat) (run : List Byte) (m : Dev) : Run :=
  let k := min (field run 4 4) (ringRoom q m)
  let r := readVia .headland (loc (field run 8 8)) (64 * k) m
  Run.each (List.range k) (fun i r' => r'.write .headland (loc (entryAt64 q (ringHead q m + i) m))
    ((r.data.drop (64 * i)).take 64)) ⟨r.m, r.st⟩

/-- The step runs on a ring. -/
def ringNoted (q : Nat) (m : Dev) : Dev :=
  { m with piper := { m.piper with rings := if m.piper.rings.contains q then m.piper.rings else m.piper.rings ++ [q] } }

/-- What lacks room of a run. -/
def runLeft (q : Nat) (run : List Byte) (m : Dev) : Option (List Byte) :=
  let k := min (field run 4 4) (ringRoom q m)
  if k < field run 4 4 then some (run.take 4 ++ toLe 4 (field run 4 4 - k) ++ toLe 8 (field run 8 8 + 64 * k)) else none

/-- HEAD moves by what is copied. -/
def headMoved (q : Nat) (run : List Byte) (m n : Dev) : Dev :=
  ringNoted q (setHead q ((ringHead q m + min (field run 4 4) (ringRoom q m)) % 2 ^ 32) n)

theorem copyRun_of_ring (hq : runRing run m = some q) : copyRun run m =
    if (entriesCopied q run m).st ≠ .ok then ⟨(entriesCopied q run m).m, none, (entriesCopied q run m).st⟩
    else ⟨headMoved q run m (entriesCopied q run m).m, runLeft q run m, .ok⟩ := by
  simp only [copyRun, hq]
  rfl

theorem copyRun_of_ok (hq : runRing run m = some q) (hok : (copyRun run m).st = .ok) :
    (copyRun run m).m = headMoved q run m (entriesCopied q run m).m := by
  rw [copyRun_of_ring hq] at hok ⊢
  split at hok
  next hw => exact absurd hok hw
  next hw => rw [if_neg hw]

theorem stepStands_entriesCopied (h : regsWf m = true) : StepStands m (entriesCopied q run m).m :=
  StepStands.each (fun _ _ h => h.write) (StepStands.refl h).readVia

theorem mem_rings_ringNoted (q : Nat) (m : Dev) : q ∈ (ringNoted q m).piper.rings := by
  unfold ringNoted
  split
  next hq => simpa using hq
  · simp

/-- Every copy of HEAD takes the count (R107). -/
theorem head_setHead {n : Nat} (h : regsWf m = true) :
    ∀ off ∈ ringRegs q 2 (setHead q n m), fRING_HEAD_HEAD.get (rd off (setHead q n m)) = n % 2 ^ 32 := by
  intro off hoff
  rw [setHead, ringRegs_congr (ringTiles_ringWr h ..)] at hoff
  rw [setHead, rd_ringWr_mem h hoff]
  exact Fld_get_put _ _ _ (by decide)

/-! ### The runs of a program -/

/-- The registers of `n` are well formed, and it has taken the manifest that `m` has. -/
structure SameStep (m n : Dev) : Prop where
  wf : regsWf n = true
  taken : n.piper.taken = m.piper.taken

theorem StepStands.sameStep {n : Dev} (h : StepStands m n) : SameStep m n := ⟨h.wf, congrArg PiperSt.taken h.piper⟩

theorem SameStep.trans {l n : Dev} (h : SameStep l m) (h' : SameStep m n) : SameStep l n := ⟨h'.wf, h'.taken.trans h.taken⟩

theorem sameStep_headMoved {n : Dev} (h : SameStep m n) : SameStep m (headMoved q run m n) where
  wf := regsWf_ringWr h.wf
  taken := (congrArg PiperSt.taken (setHead_piper ..)).trans h.taken

theorem sameStep_copyRun (h : regsWf m = true) : SameStep m (copyRun run m).m := by
  cases hq : runRing run m with
  | none =>
    have hpassed : copyRun run m = ⟨m, none, .ok⟩ := by simp only [copyRun, hq]
    rw [hpassed]
    exact ⟨h, rfl⟩
  | some q =>
    have hw := (stepStands_entriesCopied (q := q) (run := run) h).sameStep
    rw [copyRun_of_ring hq]
    split
    · exact hw
    · exact sameStep_headMoved hw

theorem sameStep_copyRuns {runs : List (List Byte)} (h : regsWf m = true) : SameStep m (copyRuns runs m) := by
  induction runs generalizing m with
  | nil => exact ⟨h, rfl⟩
  | cons run rest ih =>
    have hx : SameStep m (copyRun run m).m := sameStep_copyRun h
    simp only [copyRuns]
    split
    · exact ⟨regsWf_heldBy h, rfl⟩
    · split
      · exact ⟨hx.wf, hx.taken⟩
      · split
        · exact hx.trans (ih hx.wf)
        · exact ⟨regsWf_countSat (m := { (copyRun run m).m with piper := _ }) hx.wf, hx.taken⟩

theorem sameStep_allocPages {s k : Nat} (h : regsWf m = true) : SameStep m (allocPages s k m) :=
  ⟨regsWf_allocPages h, allocPages_taken s k m⟩

theorem SameStep.forEach {α : Type} {n : Dev} {xs : List α} {f : α → Dev → Dev}
    (hf : ∀ x n, SameStep m n → SameStep m (f x n)) (h : SameStep m n) : SameStep m (forEach xs f n) :=
  forEach_keeps (SameStep m) xs f n (fun x _ => hf x) h

/-! ### A manifest in force (R180, R181, R220) -/

/-- The step of the manifest begins: no ring runs it yet. -/
def stepBegun (seq : Nat) (m : Dev) : Dev := { m with piper := { m.piper with taken := seq, rings := [], runs := [] } }

/-- Pages for the slots of the manifest. -/
def slotsSupplied (slots : List Slot) (m : Dev) : Dev :=
  Machine.forEach (slots.filter (fun s => s.kind ≠ 0 && recInUse s.session m)) (fun s m =>
    allocPages s.session (pagesFor (s.position + s.rows) (recLog2 s.session m)) m) m

theorem obeyManifest_eq (seq : Nat) (slots : List Slot) (m : Dev) (runs : List Byte) :
    obeyManifest seq slots m runs = setStepState 2 (startProgram runs (slotsSupplied slots (stepBegun seq m))) := rfl

theorem sameStep_slotsSupplied {slots : List Slot} (h : regsWf m = true) : SameStep m (slotsSupplied slots m) :=
  SameStep.forEach (fun _ _ hn => hn.trans (sameStep_allocPages hn.wf)) ⟨h, rfl⟩

theorem sameStep_startProgram {runs : List Byte} (h : regsWf m = true) : SameStep m (startProgram runs m) :=
  have hruns := sameStep_copyRuns (runs := (List.range (runs.length / 16)).map (fun i => (runs.drop (16 * i)).take 16)) h
  ⟨hruns.wf, hruns.taken⟩

theorem obeyManifest_spec {seq : Nat} {slots : List Slot} {runs : List Byte} (h : regsWf m = true) :
    (obeyManifest seq slots m runs).piper.taken = seq ∧
      rdF aPIPER_STEP fPIPER_STEP_STATE (obeyManifest seq slots m runs) = 2 := by
  have hslots : SameStep (stepBegun seq m) (slotsSupplied slots (stepBegun seq m)) := sameStep_slotsSupplied h
  have hrun := hslots.trans (sameStep_startProgram (runs := runs) hslots.wf)
  rw [obeyManifest_eq]
  exact ⟨hrun.taken, rdF_wrF_same hrun.wf _ _ 2 (by decide)⟩

/-! ### The ways of a manifest at a member (R93, R178 step 6, R188) -/

section
variable {bytes : List Byte}

theorem takeManifest_again (htaken : field bytes 0 8 = m.piper.taken) (h0 : field bytes 0 8 ≠ 0) :
    takeManifest bytes m = killStep m := by
  simp only [takeManifest]
  rw [if_pos (by simp [htaken.symm, h0])]

variable (hnew : field bytes 0 8 ≠ m.piper.taken)
include hnew

theorem takeManifest_new : takeManifest bytes m =
    if (manifestWrites bytes m).st = .held ∨ (manifestProgram bytes m).st = .held then heldBy 0 (manifestProgram bytes m).m m
    else if (manifestWrites bytes m).st ≠ .ok then (manifestWrites bytes m).m
    else obeyManifest (field bytes 0 8) (slotsFrom (shapeSlots m) ((slice bytes 0 (64 + 32 * shapeSlots m)).drop 64))
      (manifestProgram bytes m).m (if (manifestProgram bytes m).st = .ok then (manifestProgram bytes m).data else []) := by
  simp only [takeManifest]
  rw [if_neg (by simp [hnew])]
  simp only [Bool.or_eq_true, decide_eq_true_eq]
  rfl

theorem takeManifest_held (hheld : (manifestWrites bytes m).st = .held ∨ (manifestProgram bytes m).st = .held) :
    takeManifest bytes m = heldBy 0 (manifestProgram bytes m).m m := by
  rw [takeManifest_new hnew, if_pos hheld]

theorem takeManifest_refused (hw : (manifestWrites bytes m).st ≠ .held) (hok : (manifestWrites bytes m).st ≠ .ok)
    (hp : (manifestProgram bytes m).st ≠ .held) : takeManifest bytes m = (manifestWrites bytes m).m := by
  rw [takeManifest_new hnew, if_neg (by simp [hw, hp]), if_pos hok]

theorem takeManifest_obeyed (h : regsWf m = true) (hok : (manifestWrites bytes m).st = .ok)
    (hp : (manifestProgram bytes m).st ≠ .held) :
    (takeManifest bytes m).piper.taken = field bytes 0 8 ∧
      rdF aPIPER_STEP fPIPER_STEP_STATE (takeManifest bytes m) = 2 := by
  rw [takeManifest_new hnew, if_neg (by simp [hok, hp]), if_neg (by simp [hok])]
  exact obeyManifest_spec (stepStands_manifestProgram h).wf

end

/-! ### A commit record at a member (R225, R283) -/

theorem takeRecord_spec {bytes : List Byte} (h : regsWf m = true) :
    (setStepState 1 (takeRecord bytes m)).gleaner.applied = field bytes 0 8 ∧
      rdF aPIPER_STEP fPIPER_STEP_STATE (setStepState 1 (takeRecord bytes m)) = 1 ∧
      rdF aPIPER_STEP fPIPER_STEP_STEP_SEQ (setStepState 1 (takeRecord bytes m)) =
        field bytes 0 8 % 2 ^ fPIPER_STEP_STEP_SEQ.w := by
  have hrecord := regsWf_applyCommitRecord (bytes := bytes) h
  have happlied : ∃ n, regsWf n = true ∧ n.gleaner.applied = field bytes 0 8 ∧
      takeRecord bytes m = wrF aPIPER_STEP fPIPER_STEP_STEP_SEQ (field bytes 0 8) n := by
    simp only [takeRecord]
    split
    next heq => exact ⟨_, hrecord, heq.symm, rfl⟩
    · exact ⟨_, regsWf_gleanStep hrecord, rfl, rfl⟩
  obtain ⟨n, hn, happlied, heq⟩ := happlied
  rw [heq]
  have hseq := regsWf_wrF hn aPIPER_STEP fPIPER_STEP_STEP_SEQ (field bytes 0 8)
  refine ⟨happlied, rdF_wrF_same hseq _ _ 1 (by decide), ?_⟩
  exact (rdF_wrF_other hseq _ _ _ _ (by decide) (by decide)).trans (rdF_wrF_same hn _ _ _ (by decide))

/-! ### RING_ROOM_FREED (R181) -/

theorem ringRoomFreed_idle (hruns : m.piper.runs = []) : ringRoomFreed m = m := by
  simp only [ringRoomFreed, hruns]

theorem ringRoomFreed_full {rest : List (List Byte)} (hruns : m.piper.runs = run :: rest) (hq : runRing run m = some q)
    (hroom : ringRoom q m = 0) : ringRoomFreed m = m := by
  simp only [ringRoomFreed, hruns, hq, if_pos hroom]

/-- No run lacks room any more. -/
def runsDone (m : Dev) : Dev := { m with piper := { m.piper with runs := [] } }

/-- The last run that lacked room is copied whole. -/
theorem ringRoomFreed_last (hruns : m.piper.runs = [run]) (hq : runRing run m = some q) (hroom : ringRoom q m ≠ 0)
    (hleft : (copyRun run m).left = none) (hok : (copyRun run m).st = .ok) :
    ringRoomFreed m = runsDone (copyRun run m).m := by
  simp [ringRoomFreed, hruns, hq, hroom, copyRuns, hleft, hok, runsDone]

theorem head_copyRun (h : regsWf m = true) (hq : runRing run m = some q) (hok : (copyRun run m).st = .ok) :
    ∀ off ∈ ringRegs q 2 (copyRun run m).m, fRING_HEAD_HEAD.get (rd off (copyRun run m).m) =
      (ringHead q m + min (field run 4 4) (ringRoom q m)) % 2 ^ 32 := by
  rw [copyRun_of_ok hq hok]
  intro off hoff
  exact (head_setHead (stepStands_entriesCopied h).wf off hoff).trans (Nat.mod_mod _ _)

end

/-! ### The obligation -/

theorem exec_manifest_member {bytes : List Byte} {s : State} (hmember : isMember s.dev = true) :
    exec (.manifest bytes) s = .next { s with dev := takeManifest bytes s.dev } := by
  show execManifest bytes s = _
  rw [execManifest, hmember, when_true]

theorem exec_commitRecord_member {bytes : List Byte} {s : State} (hmember : isMember s.dev = true) :
    exec (.commitRecord bytes) s = .next { s with dev := setStepState 1 (takeRecord bytes s.dev) } := by
  show execCommitRecord bytes s = _
  rw [execCommitRecord, hmember, when_true]

theorem exec_ringRoomFreed (s : State) : exec .ringRoomFreed s = .next { s with dev := ringRoomFreed s.dev } := rfl

/-- Settles O39: each way of a manifest, of a commit record and of a run that lacked room, read off what the member's work
leaves of its step. -/
theorem membersTakeManifestsAndRecords : Obligations.MembersTakeManifestsAndRecords := by
  intro bytes s hsound
  have h := regsWf_of_sound hsound
  refine ⟨fun hmember => ?other, fun hmember hnew hw hp => ?obeyed,
    fun hmember hnew => ⟨fun hheld => ?held, fun hw hok hp => ?refused⟩, fun hmember htaken h0 => ?again, fun hmember => ?record, fun hruns => ?idle, fun run rest q hruns hq hroom => ?full,
    fun run q hruns hq hroom => ?room⟩
  case other =>
    constructor
    · show execManifest bytes s = _
      rw [execManifest, hmember, when_false]
    · show execCommitRecord bytes s = _
      rw [execCommitRecord, hmember, when_false]
  case obeyed => exact ⟨_, exec_manifest_member hmember, takeManifest_obeyed hnew h hw hp⟩
  case held => rw [exec_manifest_member hmember, takeManifest_held hnew hheld]
  case refused =>
    have hstands := stepStands_manifestWrites (bytes := bytes) h
    exact ⟨_, by rw [exec_manifest_member hmember, takeManifest_refused hnew hw hok hp], hstands.piper, hstands.step⟩
  case again =>
    have hpiper := killStep_piper s.dev
    exact ⟨_, by rw [exec_manifest_member hmember, takeManifest_again htaken h0], congrArg PiperSt.taken hpiper,
      congrArg PiperSt.rings hpiper⟩
  case record => exact ⟨_, exec_commitRecord_member hmember, takeRecord_spec h⟩
  case idle => rw [exec_ringRoomFreed, ringRoomFreed_idle hruns]
  case full => rw [exec_ringRoomFreed, ringRoomFreed_full hruns hq hroom]
  case room =>
    intro x hleft hok
    refine ⟨runsDone x.m, by rw [exec_ringRoomFreed, ringRoomFreed_last hruns hq hroom hleft hok], rfl, ?_,
      head_copyRun h hq hok⟩
    show q ∈ (copyRun run s.dev).m.piper.rings
    rw [copyRun_of_ok hq hok]
    exact mem_rings_ringNoted q _

end Sys2Proof.Machine

/-! SUPPORT. A REQUEST that reaches a PAUSING session, where the drop of its pause writes over the session's descriptor (R213,
R218, R233). The statement has no hypothesis that keeps the tables of the slice lead apart, so the mirror that takes the pages
back may lie where the descriptor does. -/
namespace Sys2Proof.Machine

/-- A REQUEST that names a PAUSING session drops the pause, and is refused with reason 6 if the session then reads as in a
turn. -/
theorem request_of_turn_after_drop {x : IntakeMsg} {m : Dev} {s : Nat} (h0 : rqHandle x.payload ≠ 0)
    (hs : handleSession (rqHandle x.payload) m = some s) (hidle : stateOf s m = sIDLE) (hpausing : isPausing s m = true)
    (hturn : inTurn s (pauseDrop s m) = true) :
    request x m = sendRefuse x.conn.toNat x.requestId.toNat 6 (pauseDrop s m) := by
  have hnamed : request x m = requestNamed s x m := by simp only [request, if_neg h0, hs]
  rw [hnamed]
  simp only [requestNamed, hidle, hpausing, hturn, decide_true, Bool.and_self, if_true, Bool.true_or]

/-- What lies in memory: connection 0 is open, and what it sends has to wait for credit; session 2 is IDLE with pages of 4,096
tokens, 12 of them, of group 7, and PAUSING. The bytes of its state are those of the group's mirror of pause ridges. -/
def overlaidMem : List Host.Cell :=
  [(0, 1), (32, 1), (256, 5), (257, 0xC0), (264, 2), (289, 0xC0), (0x810040, 7), (0x810041, 1), (0x810044, 12)]

/-- A module whose session table, connection table and directory have their bases as reset leaves them, all at address 0. -/
def overlaid : Dev := { Dev.reset with mem := overlaidMem }

/-- A REQUEST on session 2 for customer 1, whom connection 0 may not name. -/
def strangersRequest : IntakeMsg where
  srcAddr := 0
  srcPort := 0
  version := 1
  length := 64
  conn := 0
  seq := 0
  ack := 0
  credit := 0
  reserved := 0
  requestId := 0
  payload := toLe 8 2 ++ toLe 4 0 ++ toLe 2 1 ++ List.replicate 50 0
  tagOk := true

/-- It meets what the statement asks of a REQUEST that drops a pause and is refused with reason 2. -/
theorem overlaid_meets : overlaid.sound = true ∧ field strangersRequest.payload 0 8 ≠ 0 ∧
    handleSession (field strangersRequest.payload 0 8) overlaid = some 2 ∧ stateOf 2 overlaid = sIDLE ∧
    isPausing 2 overlaid = true ∧ overlaid.piper.waiting = [] ∧
    customerRefused strangersRequest.conn.toNat strangersRequest.payload overlaid = true := by decide +kernel

/-- The pages that go back to the mirror turn IDLE into QUEUED. -/
theorem overlaid_turn : inTurn 2 (pauseDrop 2 overlaid) = true := by decide +kernel

/-- The two refusals differ: each waits in the queue of connection 0 with its reason. -/
theorem overlaid_refusals_differ : (connOf 0 (sendRefuse 0 0 6 (pauseDrop 2 overlaid))).queue ≠
    (connOf 0 (sendRefuse 0 0 2 (pauseDrop 2 overlaid))).queue := by
  decide +kernel

/-- Refutes O40: in `overlaid` the drop of the pause makes session 2 read as in a turn, so the REQUEST is refused with
reason 6, where the statement has reason 2. -/
theorem not_intakeActsOnItsMessages : ¬ Obligations.IntakeActsOnItsMessages := by
  rintro ⟨-, hacts⟩
  obtain ⟨hsound, h0, hs, hidle, hpausing, hwaiting, hcustomer⟩ := overlaid_meets
  obtain ⟨-, -, -, hdropped, -⟩ := hacts strangersRequest overlaid hsound
  have hreason2 := hdropped 2 h0 hs hidle hpausing hwaiting hcustomer
  have hreason6 := request_of_turn_after_drop h0 hs hidle hpausing overlaid_turn
  exact overlaid_refusals_differ (congrArg (fun m => (connOf 0 m).queue) (hreason6.symm.trans hreason2))

end Sys2Proof.Machine

/-! SUPPORT. The rows of a dispatch at their host: how a packet reaches its bound lane, what a whole row leaves of the module, and
the end marker of a source (R248, R251 to R253, R382, R384). -/
namespace Sys2Proof.Machine

section
variable {p : Packet} {c : Coll} {g : Grp} {l : LaneSt} {j d : Nat} {m n : Dev}

/-! ### The packet reaches its lane (R384, R385) -/

theorem exec_dispatch (p : Packet) (s : State) :
    exec (.dispatch p) s = .next { s with dev := forType ptDISPATCH p (chunkRx true) s.dev } := rfl

theorem exec_routeEndMarker (p : Packet) (s : State) :
    exec (.routeEndMarker p) s = .next { s with dev := forType ptMARKER p routeEnd s.dev } := rfl

theorem isBehind_self (a : Nat) : isBehind a a = false := by
  simp [isBehind]

/-- A clean packet of a bound ROUTE meets the lane that it names, from member `j`, while the Drones are on and nothing holds
them. -/
structure MeetsRoute (p : Packet) (c : Coll) (g : Grp) (l : LaneSt) (j : Nat) (m : Dev) : Prop where
  free : droneHeld m = false
  on : isSet aDRONE_CTRL fDRONE_CTRL_ENABLE m = true
  attempt : argAttempt p.arg = attemptOf (argGroup p.arg) m
  bound : boundAt (argCtx p.arg) m = some c
  named : hasName c p = true
  group : groupOf c.group m = some g
  lane : laneOf c (argLane p.arg) = some l
  laneBound : l.bound = true
  route : c.desc.op = 6
  source : grpIndex g (srcCoordOf p) = some j
  fingerprint : preFp p = c.fp
  clean : isPoison p = false

theorem MeetsRoute.collArrive (h : MeetsRoute p c g l j m) (ok : Bool) :
    collArrive ok p (takePacket p m) = advanceLane c l.lane (collPacket c g l j ok p (takePacket p m)) := by
  have hattempt : attemptOf (argGroup p.arg) (takePacket p m) = argAttempt p.arg := h.attempt.symm
  have hbound : boundAt (argCtx p.arg) (takePacket p m) = some c := h.bound
  have hgroup : groupOf c.group (takePacket p m) = some g := h.group
  simp [Machine.collArrive, namedPacket, hattempt, isBehind_self, hbound, hgroup, h.named, h.lane, h.laneBound, h.source]

/-- A piece of a dispatch chunk is joined to its source's pieces, and the lane goes on. -/
theorem MeetsRoute.dispatch (h : MeetsRoute p c g l j m) (ht : p.typ.toNat = ptDISPATCH) :
    forType ptDISPATCH p (chunkRx true) m = advanceLane c l.lane (dispatchPiece c g l j p (takePacket p m)) := by
  have hpiece : collPacket c g l j true p (takePacket p m) = dispatchPiece c g l j p (takePacket p m) := by
    simp [collPacket, h.fingerprint, h.clean, ht, h.route]
  simp [forType, ht, chunkRx, h.free, h.on, h.collArrive, hpiece]

/-- An end marker announces its source's chunks, and the lane goes on. -/
theorem MeetsRoute.routeEnd (h : MeetsRoute p c g l j m) (ht : p.typ.toNat = ptMARKER) (hk : preKind p = 1) :
    forType ptMARKER p routeEnd m = advanceLane c l.lane (endMarker c g l j (preElems p) (takePacket p m)) := by
  have hend : collPacket c g l j true p (takePacket p m) = endMarker c g l j (preElems p) (takePacket p m) := by
    simp [collPacket, h.fingerprint, h.clean, ht, hk, h.route, byMarkers, ptMARKER, ptDISPATCH, ptCHUNK]
  simp [forType, ht, Machine.routeEnd, markerRx, hk, h.free, h.on, h.collArrive, hend]

theorem dispatch_idle (h : p.typ.toNat ≠ ptDISPATCH ∨ droneHeld m = true) : forType ptDISPATCH p (chunkRx true) m = m := by
  unfold forType
  split
  case isTrue ht => simp [chunkRx, h.resolve_left (not_not_intro ht)]
  case isFalse => rfl

theorem routeEnd_idle (h : p.typ.toNat ≠ ptMARKER ∨ preKind p ≠ 1 ∨ droneHeld m = true) :
    forType ptMARKER p routeEnd m = m := by
  unfold forType routeEnd
  split
  case isTrue ht =>
    split
    case isTrue hk => simp [markerRx, (h.resolve_left (not_not_intro ht)).resolve_left (not_not_intro hk)]
    case isFalse => rfl
  case isFalse => rfl

/-! ### The reception of a ROUTE -/

theorem rxOf_named (c : Coll) (m : Dev) : (rxOf c m).job = c.job ∧ (rxOf c m).group = c.group ∧ (rxOf c m).seq = c.seq := by
  unfold rxOf
  cases hrx : m.coulter.rx.find? (fun r => r.job = c.job && r.group = c.group && r.seq = c.seq) with
  | none => exact ⟨rfl, rfl, rfl⟩
  | some r => simpa [and_assoc] using List.find?_some hrx

/-- What was put under a ROUTE's name is its reception. -/
theorem rxOf_putRx {r : RouteRx} (h : r.job = c.job ∧ r.group = c.group ∧ r.seq = c.seq) (m : Dev) :
    rxOf c (putRx r m) = r := by
  obtain ⟨hjob, hgroup, hseq⟩ := h
  have hothers : (m.coulter.rx.filter (fun x => !(x.job = r.job && x.group = r.group && x.seq = r.seq))).find?
      (fun x => x.job = c.job && x.group = c.group && x.seq = c.seq) = none := by
    simp only [List.find?_eq_none, List.mem_filter, hjob, hgroup, hseq]
    rintro x ⟨-, hx⟩ hname
    simp [hname] at hx
  unfold rxOf putRx
  rw [List.find?_append, hothers]
  simp [hjob, hgroup, hseq]

theorem rxOf_congr (h : n.coulter = m.coulter) (c : Coll) : rxOf c n = rxOf c m := by
  simp only [rxOf, h]

theorem Sparse.get_upd_nonempty {xs : Sparse (List Byte)} {k : Nat} {bs : List Byte} (h : bs ≠ []) :
    Sparse.get [] (Sparse.upd [] xs k bs) k = bs := by
  simp [Sparse.get, Sparse.upd, Sparse.setD, h, Sparse.getD_put_same]

/-! ### The collective and its lane -/

theorem mem_colls_of_boundAt {ctx : Nat} (h : boundAt ctx m = some c) : c ∈ m.drone.colls := List.mem_of_find?_eq_some h

theorem sameColl_comm (a b : Coll) : sameColl a b = sameColl b a := by
  simp only [sameColl, eq_comm]

/-- A collective that is open is found as its lane was replaced. -/
theorem findColl_putLane (hc : c ∈ m.drone.colls) (l : LaneSt) :
    findColl c (putColl (putLane c l) m) = some (putLane c l) := by
  have hself : sameColl c (putLane c l) = true := by simp [sameColl, putLane]
  change (m.drone.colls.map _).find? _ = _
  rw [List.find?_map, Option.map_eq_some_iff]
  cases hx : m.drone.colls.find? (sameColl c ∘ fun x => if sameColl x (putLane c l) then putLane c l else x) with
  | none =>
    have hno := List.find?_eq_none.1 hx c hc
    simp [hself] at hno
  | some x =>
    refine ⟨x, rfl, if_pos ?_⟩
    have hfound := List.find?_some hx
    simp only [Function.comp_apply] at hfound
    split at hfound
    · assumption
    · rwa [sameColl_comm] at hfound

/-- A lane that a collective has is found as it was replaced. -/
theorem laneOf_putLane {k : Nat} {l l1 : LaneSt} (h : laneOf c k = some l) (h1 : l1.lane = l.lane) :
    laneOf (putLane c l1) l.lane = some l1 := by
  change (c.lanes.map _).find? _ = _
  rw [List.find?_map, Option.map_eq_some_iff]
  cases hx : c.lanes.find? ((fun y : LaneSt => decide (y.lane = l.lane)) ∘ fun x => if x.lane = l1.lane then l1 else x) with
  | none =>
    have hno := List.find?_eq_none.1 hx l (List.mem_of_find?_eq_some h)
    simp [h1] at hno
  | some x =>
    refine ⟨x, rfl, if_pos ?_⟩
    have hfound := List.find?_some hx
    simp only [Function.comp_apply, decide_eq_true_eq] at hfound
    split at hfound
    · assumption
    · rw [hfound, h1]

/-! ### A performed write -/

/-- What an answer and a count look at: the registers, the keys and the Drones. -/
def answerPart (m : Dev) := (m.regs, m.keys, m.drone)

theorem AStat.join_eq_ok {a b : AStat} (h : a.join b = .ok) : a = .ok ∧ b = .ok := by
  unfold AStat.join at h
  split at h
  · exact ⟨‹_›, h⟩
  · contradiction

theorem pageWritten_answerPart (a : Nat) (m : Dev) : answerPart (pageWritten a m) = answerPart m := by
  unfold pageWritten
  split
  · unfold when
    split <;> rfl
  · rfl

theorem coverPages_answerPart (a k : Nat) (m : Dev) : answerPart (coverPages a k m) = answerPart m := by
  refine forEach_keeps (fun n => answerPart n = answerPart m) _ _ m (fun u _ n hn => ?_) rfl
  split <;> exact hn

theorem writeServed_answerPart {ag : Agent} {a : Nat} {bs : List Byte} {sv : Served} (h : (writeServed ag a bs sv m).st = .ok) :
    answerPart (writeServed ag a bs sv m).m = answerPart m := by
  revert h
  unfold writeServed
  split
  · exact fun _ => pageWritten_answerPart ..
  · exact fun _ => pageWritten_answerPart ..
  · split
    · split <;> exact fun _ => pageWritten_answerPart ..
    · exact fun _ => rfl
  all_goals exact fun h => nomatch h

theorem writeVia_answerPart {ag : Agent} {a : Nat} {bs : List Byte} (h : (writeVia ag a bs m).st = .ok) :
    answerPart (writeVia ag a bs m).m = answerPart m := by
  have hpieces := List.foldlRecOn (motive := fun r : WriteRes => r.st = .ok → answerPart r.m = answerPart m)
    (piecesOf a bs.length) (fun (r : WriteRes) (x : Nat × Nat) =>
      let q := writePiece ag x.1 ((bs.drop (x.1 - a)).take x.2) r.m
      ⟨q.m, r.st.join q.st⟩) (b := ⟨m, .ok⟩) (fun _ => rfl) (fun r hr x _ hst => by
        obtain ⟨hbefore, hpiece⟩ := AStat.join_eq_ok hst
        exact (writeServed_answerPart hpiece).trans (hr hbefore))
  exact when_keeps (fun n => answerPart n = answerPart m) _ _ _ (fun hn => (coverPages_answerPart ..).trans hn) (hpieces h)

theorem writeVia_ok_same {ag : Agent} {a : Nat} {bs : List Byte} (h : (writeVia ag a bs m).st = .ok) :
    (writeVia ag a bs m).m.regs = m.regs ∧ (writeVia ag a bs m).m.keys = m.keys ∧ (writeVia ag a bs m).m.drone = m.drone := by
  simpa only [answerPart, Prod.mk.injEq] using writeVia_answerPart h

/-! ### The reports of a row that spills (R254, R267) -/

@[simp] theorem raise_drone (c : Cause) (m : Dev) : (raise c m).drone = m.drone := by
  obtain ⟨_, _, _, h⟩ := raise_cases c m
  rw [h]
  rfl

@[simp] theorem raise_out (c : Cause) (m : Dev) : (raise c m).out = m.out := by
  obtain ⟨_, _, _, h⟩ := raise_cases c m
  rw [h]
  rfl

/-- The OVERFLOW cause of a ROUTE's first row in the overflow area, and the count of every such row. -/
def spillNoted (d : Nat) (spill first : Bool) (m : Dev) : Dev :=
  when spill (countSat (aCOULTER_STATS d) fCOULTER_STATS_SPILLED 1)
    (when (spill && first) (raise (cDIE_COULTER_OVERFLOW d)) m)

/-- What the reports leave as it was, beside the registers that they write. -/
def unreported (m : Dev) := (m.mem, m.keys, m.drone, m.out)

theorem unreported_spillNoted (d : Nat) (spill first : Bool) (m : Dev) :
    unreported (spillNoted d spill first m) = unreported m := by
  unfold spillNoted
  refine when_keeps (fun n => unreported n = unreported m) _ _ _ id ?_
  refine when_keeps (fun n => unreported n = unreported m) _ _ _ (fun _ => ?_) rfl
  simp [unreported, raise_mem, raise_keys]

theorem spillNoted_same (d : Nat) (spill first : Bool) (m : Dev) :
    (spillNoted d spill first m).mem = m.mem ∧ (spillNoted d spill first m).keys = m.keys ∧
      (spillNoted d spill first m).drone = m.drone ∧ (spillNoted d spill first m).out = m.out := by
  simpa only [unreported, Prod.mk.injEq] using unreported_spillNoted d spill first m

theorem regsWf_spillNoted (d : Nat) (spill first : Bool) (h : regsWf m = true) : regsWf (spillNoted d spill first m) = true :=
  regsWf_when regsWf_countSat (regsWf_when (fun h => regsWf_raise h _) h)

theorem rd_spillNoted (h : regsWf m = true) (d : Nat) (spill first : Bool) {o : Nat} (hleaf : o ≠ (cDIE_COULTER_OVERFLOW d).reg)
    (hstats : o ≠ aCOULTER_STATS d) : rd o (spillNoted d spill first m) = rd o m := by
  have hraised : regsWf (when (spill && first) (raise (cDIE_COULTER_OVERFLOW d)) m) = true ∧
      rd o (when (spill && first) (raise (cDIE_COULTER_OVERFLOW d)) m) = rd o m :=
    when_keeps (fun n => regsWf n = true ∧ rd o n = rd o m) _ _ _
      (fun ⟨hn, ho⟩ => ⟨regsWf_raise hn _, (rd_raise_ne hn _ hleaf).trans ho⟩) ⟨h, rfl⟩
  exact when_keeps (fun n => rd o n = rd o m) _ _ _ (fun _ => (rd_wr_ne hraised.1 _ hstats).trans hraised.2) hraised.2

theorem hostDie_lt (h : hostDie m = some d) : d < 8 := List.mem_range.1 (List.mem_of_find?_eq_some h)

theorem overflow_reg (d : Nat) : (cDIE_COULTER_OVERFLOW d).reg = 0x1290 + 0x40 * d := by
  simp only [Cause.reg, cDIE_COULTER_OVERFLOW, aINT_LEAF]
  omega

theorem rd_job_spillNoted (h : regsWf m = true) (hd : d < 8) {job : Nat} (hjob : job < 256) (spill first : Bool) :
    rd (aWINDROW_JOB job) (spillNoted d spill first m) = rd (aWINDROW_JOB job) m := by
  refine rd_spillNoted h d spill first ?_ ?_
  · rw [overflow_reg]
    unfold aWINDROW_JOB
    omega
  · unfold aWINDROW_JOB aCOULTER_STATS
    omega

theorem arrival_spillNoted (h : regsWf m = true) (hd : d < 8) (r : Nat) (spill first : Bool) :
    arrival (refDie r) (refCounter r) (spillNoted d spill first m) = arrival (refDie r) (refCounter r) m := by
  have hcounter : refCounter r < 2 ^ 12 := Nat.mod_lt _ (by decide)
  refine congrArg fDIE_ARRIVAL_COUNT.get (rd_spillNoted h d spill first ?_ ?_)
  · rw [overflow_reg]
    unfold aDIE_ARRIVAL
    omega
  · unfold aDIE_ARRIVAL aCOULTER_STATS
    omega

/-! ### The ACK and the count (R145, R382, R384) -/

theorem sendStop_congr {job : Nat} {prot : Bool} (hr : rd (aWINDROW_JOB job) n = rd (aWINDROW_JOB job) m) (hk : n.keys = m.keys) :
    sendStop job prot n = sendStop job prot m := by
  unfold sendStop jobMember jobEncrypt holdsJobKey jobSlot jobGen isSet rdF
  rw [hr, hk]

theorem field_collPrefix_kind (fp off elems k : Nat) : field (collPrefix fp off elems k) 14 1 = k % 256 := by
  have hhead : (toLe 8 fp ++ toLe 4 off ++ toLe 2 elems).length = 14 := by simp [toLe_length]
  have hdrop : (collPrefix fp off elems k).drop 14 = toLe 1 k ++ [0] := by
    rw [collPrefix, List.append_assoc, ← hhead, List.drop_left]
  simp [field, slice, hdrop, toLe, leNat]

theorem sendDraft_out (x : Draft) (m : Dev) : (sendDraft x m).out = m.out ++ [.packet x.die none (formed x m)] := by
  unfold sendDraft
  dsimp only
  split <;> rfl

theorem sendDraft_same (x : Draft) (m : Dev) :
    (sendDraft x m).regs = m.regs ∧ (sendDraft x m).mem = m.mem ∧ (sendDraft x m).drone = m.drone ∧
      (sendDraft x m).coulter = m.coulter := by
  unfold sendDraft
  dsimp only
  split <;> exact ⟨rfl, rfl, rfl, rfl⟩

theorem answerChunk_same (mkind : Nat) (p : Packet) (m : Dev) :
    (answerChunk mkind p m).regs = m.regs ∧ (answerChunk mkind p m).mem = m.mem ∧ (answerChunk mkind p m).drone = m.drone ∧
      (answerChunk mkind p m).coulter = m.coulter := by
  unfold answerChunk
  split
  · exact ⟨rfl, rfl, rfl, rfl⟩
  · exact sendDraft_same ..

/-- A packet's answer goes to its source under its ARG, unless its job forbids it (R366). -/
theorem markerSent_answerChunk {mkind : Nat} (hk : mkind < 256) (h : sendStop p.job.toNat false m = none) :
    markerSent mkind p m (answerChunk mkind p m) := by
  simp only [answerChunk, h, Option.isSome_none, Bool.false_eq_true, if_false]
  refine ⟨_, sendDraft_out .., rfl, rfl, by simp [formed], rfl, ?_⟩
  exact (field_collPrefix_kind ..).trans (Nat.mod_eq_of_lt hk)

theorem arrival_addRef (h : regsWf m = true) (r k : Nat) :
    arrival (refDie r) (refCounter r) (addRef r k m) = (arrival (refDie r) (refCounter r) m + k) % 2 ^ 32 :=
  rdF_wrF_same h _ _ _ (by decide)

/-! ### A whole row (R248, R253) -/

/-- A lane has counted one more chunk of member `j`. -/
def laneCounted (l : LaneSt) (j : Nat) : LaneSt :=
  { l with counted := l.counted + 1, froms := Sparse.upd 0 l.froms j (Sparse.get 0 l.froms j + 1) }

/-- A reception with one more row placed, its chunk's pieces spent. -/
def rxPlaced (rx : RouteRx) (j : Nat) (rr : List Byte) (spill : Bool) : RouteRx :=
  { rx with
    records := rx.records ++ [rr], parts := Sparse.upd [] rx.parts j []
    spilled := rx.spilled + (if spill then 1 else 0) }

/-- The write of the next row in the bay of die `d`. -/
def bayWrite (c : Coll) (d : Nat) (chunk : List Byte) (m : Dev) : WriteRes :=
  writeVia (agentCoulter d) (bayRowAddr d (rxOf c m).records.length c.desc.n m) (chunk.drop 16) m

/-- Does the next row go to the overflow area? -/
def nextSpills (c : Coll) (d : Nat) (m : Dev) : Bool := decide (bayRows d m ≤ (rxOf c m).records.length)

/-- The module once a row stands in the bay, its spill reported and its record listed. -/
def rowListed (c : Coll) (j d : Nat) (chunk : List Byte) (m : Dev) : Dev :=
  putRx (rxPlaced (rxOf c m) j (chunk.take 16) (nextSpills c d m))
    (spillNoted d (nextSpills c d m) (decide ((rxOf c m).spilled = 0)) (bayWrite c d chunk m).m)

/-- The module once the row is answered and counted too. -/
def rowLanded (c : Coll) (l : LaneSt) (j d : Nat) (chunk : List Byte) (p : Packet) (m : Dev) : Dev :=
  addRef c.desc.counter 1 (putColl (putLane c (laneCounted l j)) (answerChunk 3 p (rowListed c j d chunk m)))

/-- The host takes a row: its table holds the record's generation and expert, and a window has room. -/
structure HostTakes (c : Coll) (d : Nat) (rr : List Byte) (m : Dev) : Prop where
  die : hostDie m = some d
  generation : peekN 4 (hostHalf d (rrGen rr) m) m = rrGen rr
  hosted : bitAt (hostEntry d (rrGen rr) (rrLayer rr) (rrExpert rr) m) 15 = true
  room : (rxOf c m).records.length < 1024 * hostWindows d m

theorem placeRow_of_hostTakes {chunk : List Byte} (h : HostTakes c d (chunk.take 16) m) (hw : (bayWrite c d chunk m).st = .ok) :
    placeRow c l j chunk p m = rowLanded c l j d chunk p m := by
  unfold bayWrite at hw
  simp only [placeRow, h.die, h.generation, h.hosted, Nat.not_le.2 h.room, hw, ne_eq, not_true_eq_false, Bool.not_true,
    Bool.false_eq_true, if_false]
  rfl

/-- A whole row lands, and the ROUTE is not complete while a chunk or a marker is missing. -/
theorem dispatchPiece_of_hostTakes {chunk : List Byte} {k : Nat} (hc : c ∈ m.drone.colls) (hl : laneOf c k = some l)
    (hchunk : chunk = (Sparse.get [] (rxOf c m).parts j ++ p.payload.drop 16).take (16 + c.desc.n))
    (hwhole : 16 + c.desc.n ≤ (Sparse.get [] (rxOf c m).parts j ++ p.payload.drop 16).length)
    (h : HostTakes c d (chunk.take 16) m) (hw : (bayWrite c d chunk m).st = .ok)
    (hmissing : allArrived g (laneCounted l j) = false) :
    dispatchPiece c g l j p m = rowLanded c l j d chunk p m := by
  have hwhole' : ¬(Sparse.get [] (rxOf c m).parts j ++ p.payload.drop 16).length < 16 + c.desc.n := Nat.not_lt.2 hwhole
  obtain ⟨-, -, hwritten⟩ := writeVia_ok_same hw
  obtain ⟨-, -, hnoted, -⟩ := spillNoted_same d (nextSpills c d m) (decide ((rxOf c m).spilled = 0)) (bayWrite c d chunk m).m
  obtain ⟨-, -, hanswered, -⟩ := answerChunk_same 3 p (rowListed c j d chunk m)
  have hdrone : (answerChunk 3 p (rowListed c j d chunk m)).drone = m.drone := hanswered.trans (hnoted.trans hwritten)
  have hfound : findColl c (rowLanded c l j d chunk p m) = some (putLane c (laneCounted l j)) :=
    findColl_putLane (hdrone ▸ hc) _
  have hlane : laneOf (putLane c (laneCounted l j)) l.lane = some (laneCounted l j) := laneOf_putLane hl rfl
  subst hchunk
  simp only [dispatchPiece, if_neg hwhole', placeRow_of_hostTakes h hw, hfound, hlane, hostComplete, hmissing, Bool.not_false,
    Bool.true_or, if_true]

/-- What a row that has landed leaves: its record, the memory as its write left it, the ACK and the count. -/
theorem rowLanded_spec {chunk : List Byte} (hwf : regsWf m = true) (hstop : sendStop p.job.toNat false m = none) (hd : d < 8)
    (hw : (bayWrite c d chunk m).st = .ok) :
    (rxOf c (rowLanded c l j d chunk p m)).records = (rxOf c m).records ++ [chunk.take 16] ∧
      memSame (bayWrite c d chunk m).m (rowLanded c l j d chunk p m) ∧
      markerSent 3 p (bayWrite c d chunk m).m (rowLanded c l j d chunk p m) ∧
      arrival (refDie c.desc.counter) (refCounter c.desc.counter) (rowLanded c l j d chunk p m) =
        (arrival (refDie c.desc.counter) (refCounter c.desc.counter) m + 1) % 2 ^ 32 := by
  obtain ⟨hregs, hkeys, -⟩ := writeVia_ok_same hw
  have hwfw : regsWf (bayWrite c d chunk m).m = true := regsWf_of_regs hwf hregs
  obtain ⟨hmem, hnotedKeys, -, hnotedOut⟩ :=
    spillNoted_same d (nextSpills c d m) (decide ((rxOf c m).spilled = 0)) (bayWrite c d chunk m).m
  obtain ⟨hansRegs, hansMem, -, hansCoulter⟩ := answerChunk_same 3 p (rowListed c j d chunk m)
  refine ⟨?records, ?memory, ?ack, ?count⟩
  case records =>
    have hrx : rxOf c (rowListed c j d chunk m) = rxPlaced (rxOf c m) j (chunk.take 16) (nextSpills c d m) :=
      rxOf_putRx (r := rxPlaced ..) (rxOf_named c m) _
    exact congrArg RouteRx.records ((rxOf_congr hansCoulter c).trans hrx)
  case memory => exact memSame_of_mem (hansMem.trans hmem)
  case ack =>
    have hlisted : sendStop p.job.toNat false (rowListed c j d chunk m) = none := by
      refine (sendStop_congr ?_ (hnotedKeys.trans hkeys)).trans hstop
      exact (rd_job_spillNoted hwfw hd p.job.isLt _ _).trans (rd_congr hregs _)
    obtain ⟨a, hout, hrest⟩ := markerSent_answerChunk (mkind := 3) (by decide) hlisted
    exact ⟨a, hout.trans (congrArg (· ++ _) hnotedOut), hrest⟩
  case count =>
    have hlistedWf : regsWf (rowListed c j d chunk m) = true := regsWf_spillNoted _ _ _ hwfw
    have hwf' : regsWf (putColl (putLane c (laneCounted l j)) (answerChunk 3 p (rowListed c j d chunk m))) = true :=
      regsWf_of_regs hlistedWf hansRegs
    have hbefore : arrival (refDie c.desc.counter) (refCounter c.desc.counter)
        (putColl (putLane c (laneCounted l j)) (answerChunk 3 p (rowListed c j d chunk m))) =
        arrival (refDie c.desc.counter) (refCounter c.desc.counter) m :=
      calc
        _ = arrival (refDie c.desc.counter) (refCounter c.desc.counter) (rowListed c j d chunk m) :=
          congrArg fDIE_ARRIVAL_COUNT.get (rd_congr hansRegs _)
        _ = arrival (refDie c.desc.counter) (refCounter c.desc.counter) (bayWrite c d chunk m).m :=
          arrival_spillNoted hwfw hd ..
        _ = _ := congrArg fDIE_ARRIVAL_COUNT.get (rd_congr hregs _)
    exact (arrival_addRef hwf' ..).trans (by rw [hbefore])

/-! ### A piece that leaves its chunk short, and an end marker -/

/-- A reception with the bytes of member `j`'s chunk that have come so far. -/
def rxGathered (rx : RouteRx) (j : Nat) (got : List Byte) : RouteRx := { rx with parts := Sparse.upd [] rx.parts j got }

theorem dispatchPiece_short {got : List Byte} (hgot : got = Sparse.get [] (rxOf c m).parts j ++ p.payload.drop 16)
    (h : got.length < 16 + c.desc.n) : dispatchPiece c g l j p m = putRx (rxGathered (rxOf c m) j got) m := by
  subst hgot
  exact if_pos h

/-- A source's marker is noted. -/
def laneMarked (l : LaneSt) (j k : Nat) : LaneSt := { l with marks := Sparse.upd 0 l.marks j (k + 1) }

theorem endMarker_missing {k : Nat} (hroute : c.desc.op = 6) (h : allArrived g (laneMarked l j k) = false) :
    endMarker c g l j k m = putColl (putLane c (laneMarked l j k)) m := by
  unfold laneMarked at h
  simp only [endMarker, hroute, if_true, hostComplete, h, Bool.not_false, Bool.true_or]
  rfl

end

/-- Settles O54: a packet that meets its lane is `dispatchPiece` or `endMarker` on the module that took it
(`MeetsRoute.dispatch`, `MeetsRoute.routeEnd`); a whole row lands (`dispatchPiece_of_hostTakes`, `rowLanded_spec`), and without
the last arrival nothing more happens. -/
theorem dispatchedRowsLandInTheBay : Obligations.DispatchedRowsLandInTheBay := by
  unfold Obligations.DispatchedRowsLandInTheBay
  intro p c g l j d s hsound hstop t rx got rr w l1 marked meets
  have hmeets : meets → MeetsRoute p c g l j s.dev :=
    fun ⟨hfree, hon, hattempt, hbound, hnamed, hgroup, hlane, hlaneBound, hroute, hsource, hfp, hclean⟩ =>
      ⟨hfree, hon, hattempt, hbound, hnamed, hgroup, hlane, hlaneBound, hroute, hsource, hfp, hclean⟩
  refine ⟨?piece, ?row, ?marker, ?noMarker, ?noDispatch⟩
  case piece =>
    intro ht hm hshort hdata
    have hgot : got ≠ [] := List.append_ne_nil_of_right_ne_nil _ (by simpa using hdata)
    have hpiece : dispatchPiece c g l j p t = putRx (rxGathered rx j got) t := dispatchPiece_short rfl hshort
    have hrx : rxOf c (putRx (rxGathered rx j got) t) = rxGathered rx j got :=
      rxOf_putRx (r := rxGathered rx j got) (rxOf_named c s.dev) t
    refine ⟨putRx (rxGathered rx j got) t, ?_, ?_, ?_, rfl, rfl, rfl⟩
    · rw [exec_dispatch, (hmeets hm).dispatch ht, hpiece]
    · rw [hrx]
      exact Sparse.get_upd_nonempty hgot
    · rw [hrx]
      rfl
  case row =>
    intro ht hm hwhole hdie hgen hhosted hroom hw hmissing
    have hrr : (got.take (16 + c.desc.n)).take 16 = rr := by simp [rr, List.take_take]
    have htakes : HostTakes c d ((got.take (16 + c.desc.n)).take 16) t := hrr ▸ ⟨hdie, hgen, hhosted, hroom⟩
    have hpiece : dispatchPiece c g l j p t = rowLanded c l j d (got.take (16 + c.desc.n)) p t :=
      dispatchPiece_of_hostTakes (mem_colls_of_boundAt (hmeets hm).bound) (hmeets hm).lane rfl hwhole htakes hw hmissing
    have hwf : regsWf t = true := regsWf_of_sound hsound
    obtain ⟨hrecords, hmem, hack, hcount⟩ := rowLanded_spec (c := c) (l := l) (j := j) hwf hstop (hostDie_lt hdie) hw
    refine ⟨rowLanded c l j d (got.take (16 + c.desc.n)) p t, ?_, ?_, hmem, hack, hcount⟩
    · rw [exec_dispatch, (hmeets hm).dispatch ht, hpiece]
    · rw [hrecords, hrr]
      rfl
  case marker =>
    intro ht hk hm hmissing
    refine ⟨putColl (putLane c marked) t, ?_, rfl, rfl, rfl, rfl⟩
    rw [exec_routeEndMarker, (hmeets hm).routeEnd ht hk, endMarker_missing (hmeets hm).route hmissing]
    rfl
  case noMarker =>
    intro h
    rw [exec_routeEndMarker, routeEnd_idle h]
  case noDispatch =>
    intro h
    rw [exec_dispatch, dispatch_idle h]

end Sys2Proof.Machine

/-! SUPPORT. The way of a packet at a router: a packet that may start leaves its link at once, and one that no port can carry is
refused with its NACK (R339, R345, R347, R350, R357 to R362). -/
namespace Sys2Proof.Machine

section
variable {l d : Nat} {p : Packet} {q : QueuedPkt} {m n : Dev}

/-! ### The deficits of a link, of which no canonical form is asked -/

/-- A value beside the default is read back, whatever the map's form. -/
theorem Sparse.get_upd_of_ne {α : Type} [DecidableEq α] {e x : α} (h : x ≠ e) (xs : Sparse α) (k : Nat) :
    Sparse.get e (Sparse.upd e xs k x) k = x := by
  simp [Sparse.get, Sparse.upd, Sparse.setD, h, Sparse.getD_put_same]

/-- To drop a key lowers no other count, whatever the map's form. -/
theorem Sparse.getD_le_getD_drop (xs : Sparse Nat) {k i : Nat} (h : i ≠ k) :
    Sparse.getD (fun _ => 0) xs i ≤ Sparse.getD (fun _ => 0) (xs.drop k) i := by
  induction xs with
  | nil => exact Nat.le_refl _
  | cons e rest ih =>
    obtain ⟨j, w⟩ := e
    by_cases hkj : k = j
    · subst hkj
      simp only [Sparse.drop, Sparse.getD, if_neg h, if_true]
      split <;> simp
    · by_cases hlt : k < j
      · simp [Sparse.drop, hkj, hlt]
      · simp only [Sparse.drop, if_neg hkj, if_neg hlt, Sparse.getD]
        split
        · exact Nat.le_refl _
        · split
          · exact Nat.le_refl _
          · exact ih

theorem Sparse.get_le_get_upd_zero (xs : Sparse Nat) {k i : Nat} (h : i ≠ k) :
    Sparse.get 0 xs i ≤ Sparse.get 0 (Sparse.upd 0 xs k 0) i := by
  simpa [Sparse.get, Sparse.upd, Sparse.setD] using Sparse.getD_le_getD_drop xs h

/-! ### Links in their canonical form -/

theorem linksCanonical_of_sound (h : m.sound = true) : Sparse.wfD (fun _ => LinkDyn.idle) m.links = true := by
  simp only [Dev.sound, linksWf, Bool.and_eq_true] at h
  obtain ⟨-, hlinks, -⟩ := h
  exact hlinks

theorem linkOf_setLink (h : Sparse.wfD (fun _ => LinkDyn.idle) m.links = true) (x : LinkDyn) :
    linkOf l (setLink l x m) = x :=
  Sparse.get_upd_same LinkDyn.idle h

/-- What may start on a link rests on its credit, its retry buffer and its use of VC0 alone. -/
theorem canStart_setLink (h : Sparse.wfD (fun _ => LinkDyn.idle) m.links = true) {x : LinkDyn}
    (hsent : x.sent = (linkOf l m).sent) (hfreed : x.freed = (linkOf l m).freed)
    (hretry : x.retryBuf = (linkOf l m).retryBuf) (hvc0 : x.vc0 = (linkOf l m).vc0) :
    canStart l p (setLink l x m) = canStart l p m := by
  have hlink := linkOf_setLink h x (l := l)
  have hride : rideVc p (setLink l x m) = rideVc p m := rfl
  have hparked : linkParked l (setLink l x m) = linkParked l m := rfl
  have hcredit : creditOf x = creditOf (linkOf l m) := by
    funext a b
    simp only [creditOf, hsent, hfreed]
  have hroom (k : Nat) : vc0Room l k (setLink l x m) = vc0Room l k m := by
    simp only [vc0Room, hlink, hvc0]
    rfl
  simp only [canStart, hlink, hride, hparked, hcredit, hretry, hroom]

/-! ### The VC and the flits of a packet that may start (R345, R349, R364) -/

theorem vc_le_of_packetFormed (h : packetFormed p = true) : bitsAt p.vc.toNat 0 3 ≤ 5 := by
  unfold packetFormed typeVcs at h
  split at h <;> simp only [List.any_cons, List.any_nil, Bool.or_false, Bool.or_eq_true, decide_eq_true_eq,
    Bool.false_eq_true] at h <;> omega

theorem rideVc_le_of_packetFormed (h : packetFormed p = true) (m : Dev) : rideVc p m ≤ 6 := by
  have hvc := vc_le_of_packetFormed h
  simp only [rideVc]
  split
  · omega
  · split <;> omega

theorem partSize_le (v : Nat) : partSize v ≤ 192 := by
  unfold partSize
  split <;> decide

theorem packetFlits_le_of_canStart (h : canStart l p m = true) : packetFlits p ≤ 192 := by
  simp only [canStart, Bool.and_eq_true, decide_eq_true_eq] at h
  obtain ⟨⟨⟨-, hcredit⟩, -⟩, -⟩ := h
  calc packetFlits p ≤ creditOf (linkOf l m) (rideVc p m) (subOf p) := hcredit
    _ ≤ partSize (rideVc p m) := Nat.sub_le _ _
    _ ≤ 192 := partSize_le _

theorem subOf_cases (p : Packet) : subOf p = 0 ∨ subOf p = 1 := by
  unfold subOf bitsAt
  omega

/-! ### The only packet that waits at a link starts at once (R347) -/

/-- A packet waits alone at a link, and may start. -/
structure WaitsAlone (l : Nat) (q : QueuedPkt) (m : Dev) : Prop where
  links : Sparse.wfD (fun _ => LinkDyn.idle) m.links = true
  queue : (linkOf l m).queue = [q]
  starts : canStart l q.p m = true

/-- A link with its round of the VCs at turn `t`, with deficits `ds`. -/
def turnedTo (l t : Nat) (ds : Sparse Nat) (m : Dev) : Dev := setLink l { linkOf l m with turn := t, deficit := ds } m

/-- The round passes the VC whose turn it is, which is left the deficit `k`. -/
def turnPassed (l k : Nat) (m : Dev) : Dev :=
  turnedTo l (((linkOf l m).turn + 1) % 6) (Sparse.upd 0 (linkOf l m).deficit (linkOf l m).turn k) m

section
variable {fuel : Nat}

theorem nextByWeight_idle (h : readyOn l ((linkOf l m).turn + 1) m = none) :
    nextByWeight (fuel + 1) l m = nextByWeight fuel l (turnPassed l 0 m) := by
  simp only [nextByWeight, h]
  rfl

theorem nextByWeight_unpaid (h : readyOn l ((linkOf l m).turn + 1) m = some q)
    (hd : Sparse.get 0 (linkOf l m).deficit (linkOf l m).turn < packetFlits q.p) :
    nextByWeight (fuel + 1) l m = nextByWeight fuel l
      (turnPassed l (Sparse.get 0 (linkOf l m).deficit (linkOf l m).turn + vcWeight l (linkOf l m).turn m) m) := by
  simp only [nextByWeight, h, if_neg (Nat.not_le.2 hd)]
  rfl

theorem nextByWeight_paid (h : readyOn l ((linkOf l m).turn + 1) m = some q)
    (hd : packetFlits q.p ≤ Sparse.get 0 (linkOf l m).deficit (linkOf l m).turn) :
    nextByWeight (fuel + 1) l m = some (q, turnedTo l (linkOf l m).turn (Sparse.upd 0 (linkOf l m).deficit
      (linkOf l m).turn (Sparse.get 0 (linkOf l m).deficit (linkOf l m).turn - packetFlits q.p)) m) := by
  simp only [nextByWeight, h, if_pos hd]
  rfl

end

theorem WaitsAlone.linkOf_turnedTo (h : WaitsAlone l q m) (t : Nat) (ds : Sparse Nat) :
    linkOf l (turnedTo l t ds m) = { linkOf l m with turn := t, deficit := ds } :=
  linkOf_setLink h.links _

theorem WaitsAlone.turnedTo (h : WaitsAlone l q m) (t : Nat) (ds : Sparse Nat) : WaitsAlone l q (turnedTo l t ds m) where
  links := Sparse.wfD_upd LinkDyn.idle h.links
  queue := (congrArg LinkDyn.queue (h.linkOf_turnedTo t ds)).trans h.queue
  starts := (canStart_setLink (x := { linkOf l m with turn := t, deficit := ds }) h.links rfl rfl rfl rfl).trans h.starts

theorem WaitsAlone.readyOn (h : WaitsAlone l q m) (v : Nat) :
    readyOn l v m = if rideVc q.p m = v then some q else none := by
  by_cases hv : rideVc q.p m = v
  · rcases subOf_cases q.p with hs | hs <;> simp [Machine.readyOn, headOf, h.queue, h.starts, hv, hs]
  · simp [Machine.readyOn, headOf, h.queue, hv]

/-- How many turns it is from turn `t` of the six to turn `i`. -/
def turnsTo (i t : Nat) : Nat := if t < 6 then (i + 6 - t) % 6 else 6

theorem turnsTo_next {i t : Nat} (hi : i < 6) (h : t ≠ i) : turnsTo i ((t + 1) % 6) < turnsTo i t := by
  unfold turnsTo
  split <;> split <;> omega

theorem turnsTo_after {i : Nat} (_ : i < 6) : turnsTo i ((i + 1) % 6) ≤ 5 := by
  unfold turnsTo
  split <;> omega

theorem turnsTo_le (i t : Nat) : turnsTo i t ≤ 6 := by
  unfold turnsTo
  split <;> omega

/-- Each round of the six VCs adds a flit at least to the deficit of the VC on which the packet waits, so that its turn comes. -/
theorem WaitsAlone.nextByWeight {i : Nat} (hi : i < 6) {fuel : Nat} (h : WaitsAlone l q m) (hride : rideVc q.p m = i + 1)
    (hfuel : 6 * (packetFlits q.p - Sparse.get 0 (linkOf l m).deficit i) + turnsTo i (linkOf l m).turn < fuel) :
    ∃ n, nextByWeight fuel l m = some (q, n) ∧ n.out = m.out := by
  induction fuel generalizing m with
  | zero => exact absurd hfuel (Nat.not_lt_zero _)
  | succ fuel ih =>
    have hready := h.readyOn ((linkOf l m).turn + 1)
    by_cases hturn : (linkOf l m).turn = i
    · rw [if_pos (by rw [hride, hturn])] at hready
      rcases Nat.lt_or_ge (Sparse.get 0 (linkOf l m).deficit (linkOf l m).turn) (packetFlits q.p) with hunpaid | hpaid
      · rw [nextByWeight_unpaid hready hunpaid]
        refine ih (h.turnedTo _ _) hride ?_
        have hweight : 1 ≤ vcWeight l (linkOf l m).turn m := Nat.le_max_left ..
        have hturns := turnsTo_after hi
        rw [turnPassed, h.linkOf_turnedTo]
        simp only [hturn] at hunpaid hfuel hweight ⊢
        rw [Sparse.get_upd_of_ne (by omega)]
        omega
      · exact ⟨_, nextByWeight_paid hready hpaid, rfl⟩
    · rw [if_neg (by omega)] at hready
      rw [nextByWeight_idle hready]
      refine ih (h.turnedTo _ _) hride ?_
      have hturns := turnsTo_next hi hturn
      have hdeficit := Sparse.get_le_get_upd_zero (linkOf l m).deficit (Ne.symm hturn)
      rw [turnPassed, h.linkOf_turnedTo]
      dsimp only
      omega

theorem WaitsAlone.nextPacket (h : WaitsAlone l q m) (hformed : packetFormed q.p = true) :
    ∃ n, nextPacket l m = some (q, n) ∧ n.out = m.out := by
  have hride := rideVc_le_of_packetFormed hformed m
  cases hv : rideVc q.p m with
  | zero => exact ⟨m, by simp only [Machine.nextPacket, h.readyOn, hv, if_true], rfl⟩
  | succ i =>
    have hi : i < 6 := by omega
    have hflits := packetFlits_le_of_canStart h.starts
    have hturns := turnsTo_le i (linkOf l m).turn
    obtain ⟨n, hnext, hout⟩ := h.nextByWeight hi hv (fuel := 1200) (by omega)
    have hany : (List.range 6).any (fun k => (Machine.readyOn l (k + 1) m).isSome) = true :=
      List.any_eq_true.2 ⟨i, List.mem_range.2 hi, by simp [h.readyOn, hv]⟩
    exact ⟨n, by simp only [Machine.nextPacket, h.readyOn 0, hv, Nat.succ_ne_zero, if_false, hany, if_true, hnext], hout⟩

theorem SameButLinks.mem (h : SameButLinks m n) : n.mem = m.mem := by
  obtain ⟨ls, os, k, rfl⟩ := h
  rfl

/-- A packet that may start leaves by a link at which none waits. -/
theorem offerPacket_of_canStart (hsound : m.sound = true) (hqueue : (linkOf l m).queue = [])
    (hformed : packetFormed q.p = true) (hstarts : canStart l q.p m = true) :
    (offerPacket l q m).out = m.out ++ [.packet (linkDie l) (some l) q.p] ∧ SameButLinks m (offerPacket l q m) := by
  have hlinks := linksCanonical_of_sound hsound
  have halone : WaitsAlone l q (setLink l { linkOf l m with queue := (linkOf l m).queue ++ [q] } m) :=
    { links := Sparse.wfD_upd LinkDyn.idle hlinks
      queue := by rw [linkOf_setLink hlinks, hqueue]; rfl
      starts := (canStart_setLink (x := { linkOf l m with queue := (linkOf l m).queue ++ [q] }) hlinks rfl rfl rfl rfl).trans
        hstarts }
  obtain ⟨n, hnext, hout⟩ := halone.nextPacket hformed
  refine ⟨?_, ((SameButLinks.refl m).setLink _ _).drainQueue l⟩
  have hout' : n.out = m.out := hout
  simp only [offerPacket, drainQueue, halone.queue, List.length_singleton, drainSteps, hnext]
  exact congrArg (· ++ _) hout'

/-! ### A packet that no port can carry, and one that is malformed (R350, R360, R372) -/

theorem OnlyRegs.windrowFault {kind link coord job : Nat} {offs : List Nat} (ho : aWINDROW_FAULT ∈ offs)
    (h : OnlyRegs offs m n) : OnlyRegs offs m (windrowFault kind link coord job n) :=
  h.recordFirst ho

theorem recordFirst_out (o : Nat) (w : Word) (m : Dev) : (recordFirst o w m).out = m.out := by
  unfold recordFirst
  split <;> rfl

theorem windrowFault_out (kind link coord job : Nat) (m : Dev) : (windrowFault kind link coord job m).out = m.out :=
  recordFirst_out ..

/-- The NACK of a packet other than a NACK is sent, beside which nothing changes in the registers and in memory. -/
theorem sendNack_spec {reason : Nat} (hr : reason < 2 ^ 64) (hp : p.typ.toNat ≠ ptNACK) (d : Nat) (m : Dev) :
    nackSent reason d p m (sendNack reason d p m) ∧ (sendNack reason d p m).regs = m.regs ∧
      (sendNack reason d p m).mem = m.mem := by
  simp only [sendNack, if_neg hp]
  obtain ⟨hregs, hmem, -, -⟩ :=
    sendDraft_same ⟨ptNACK, 5, d, p.src, 0, BitVec.ofNat 64 reason, headerOf p 0, false, false⟩ m
  exact ⟨⟨_, sendDraft_out .., rfl, rfl, rfl, Nat.mod_eq_of_lt hr, rfl⟩, hregs, hmem⟩

/-- A packet that cannot be carried leaves UNREACHABLE and its NACK, a NACK only the cause. -/
theorem unreachable_spec (h : regsWf m = true) (d : Nat) (p : Packet) :
    leafSet cWINDROW_ROUTE_UNREACHABLE (unreachable d p m) = true ∧ memSame m (unreachable d p m) ∧
      (p.typ.toNat ≠ ptNACK → nackSent 4 d p m (unreachable d p m)) ∧
      (p.typ.toNat = ptNACK → (unreachable d p m).out = m.out) := by
  have hfault (kind : Nat) : OnlyRegs [aWINDROW_FAULT] m (windrowFault kind 0 (destCoordOf p) p.job.toNat m) :=
    (OnlyRegs.refl h).windrowFault (by simp)
  unfold unreachable
  by_cases hp : p.typ.toNat = ptNACK
  · rw [if_pos hp]
    refine ⟨leafSet_raise (hfault 12).wf _, memSame_trans (hfault 12).memSame (memSame_raise _ _), absurd hp, fun _ => ?_⟩
    rw [raise_out, windrowFault_out]
  · rw [if_neg hp]
    obtain ⟨hnack, hregs, hmem⟩ :=
      sendNack_spec (reason := 4) (by decide) hp d (windrowFault 9 0 (destCoordOf p) p.job.toNat m)
    refine ⟨leafSet_raise (regsWf_of_regs (hfault 9).wf hregs) _,
      memSame_trans (hfault 9).memSame (memSame_trans (memSame_of_mem hmem) (memSame_raise _ _)), fun _ => ?_, (absurd · hp)⟩
    unfold nackSent at hnack ⊢
    rwa [raise_out, ← windrowFault_out 9 0 (destCoordOf p) p.job.toNat m]

/-! ### The ways of a packet at a router (R339, R357 to R362) -/

theorem exec_packetRoute {d : Die} {via : Option (Fin 36)} {s : State} (h : packetRoute d.val (via.map Fin.val) p s.dev = m) :
    exec (.packetRoute d via p) s = .next { s with dev := m } :=
  h ▸ rfl

/-- The entry of a packet's destination at die `d`, and its ports (R358). -/
def entryFor (d : Nat) (p : Packet) (m : Dev) : Nat := routeEntry d (destCoordOf p) m
def firstPort (d : Nat) (p : Packet) (m : Dev) : Nat := bitsAt (entryFor d p m) 24 4
def detourPort (d : Nat) (p : Packet) (m : Dev) : Nat := bitsAt (entryFor d p m) 16 4

/-- May a packet still take its DETOUR (R362)? -/
def mayDetour (d : Nat) (p : Packet) (m : Dev) : Bool := !bitAt p.route.toNat 3 && portValid (detourPort d p m) m

theorem packetRoute_malformed (link : Option Nat) (h : packetFormed p = false) :
    packetRoute d link p m = raise cWINDROW_PKT_MALFORMED (windrowFault 11 0 (srcCoordOf p) p.job.toNat m) := by
  simp [packetRoute, h]

/-- The ways of a packet that is formed, by its entry and by the links of its ports. -/
theorem packetRoute_formed (link : Option Nat) (h : packetFormed p = true) :
    packetRoute d link p m =
      if bitAt (entryFor d p m) 31 && bitAt (entryFor d p m) 30 then leaveNetwork link p m
      else if !bitAt (entryFor d p m) 31 || !portValid (firstPort d p m) m then unreachable d p m
      else if portOpen (firstPort d p m) m ≠ [] then leaveBy d (firstPort d p m) false p m
      else if !mayDetour d p m || (portOpen (detourPort d p m) m).isEmpty then unreachable d p m
      else leaveBy d (detourPort d p m) true p m := by
  simp [packetRoute, h, mayDetour, entryFor, firstPort, detourPort]

section
variable (link : Option Nat) (hformed : packetFormed p = true)
include hformed

theorem packetRoute_local (hvalid : bitAt (entryFor d p m) 31 = true) (hlocal : bitAt (entryFor d p m) 30 = true) :
    packetRoute d link p m = leaveNetwork link p m := by
  simp [packetRoute_formed link hformed, hvalid, hlocal]

theorem packetRoute_noPort (h : bitAt (entryFor d p m) 31 = false ∨
    (bitAt (entryFor d p m) 30 = false ∧ portValid (firstPort d p m) m = false)) :
    packetRoute d link p m = unreachable d p m := by
  rcases h with hvalid | ⟨hlocal, hport⟩
  · simp [packetRoute_formed link hformed, hvalid]
  · simp [packetRoute_formed link hformed, hlocal, hport]

variable (hvalid : bitAt (entryFor d p m) 31 = true) (hlocal : bitAt (entryFor d p m) 30 = false)
  (hport : portValid (firstPort d p m) m = true)
include hvalid hlocal hport

theorem packetRoute_primary (hopen : portOpen (firstPort d p m) m ≠ []) :
    packetRoute d link p m = leaveBy d (firstPort d p m) false p m := by
  simp [packetRoute_formed link hformed, hvalid, hlocal, hport, hopen]

variable (hclosed : portOpen (firstPort d p m) m = [])
include hclosed

theorem packetRoute_detour (hmay : mayDetour d p m = true) (hopen : portOpen (detourPort d p m) m ≠ []) :
    packetRoute d link p m = leaveBy d (detourPort d p m) true p m := by
  simp [packetRoute_formed link hformed, hvalid, hlocal, hport, hclosed, hmay, hopen]

theorem packetRoute_noDetour (h : mayDetour d p m = false ∨ portOpen (detourPort d p m) m = []) :
    packetRoute d link p m = unreachable d p m := by
  rcases h with hmay | hdetour
  · simp [packetRoute_formed link hformed, hvalid, hlocal, hport, hclosed, hmay]
  · simp [packetRoute_formed link hformed, hvalid, hlocal, hport, hclosed, hdetour]

end

theorem portOpen_ne_nil_of_chooseLink {port : Nat} (h : chooseLink d port p m = some l) : portOpen port m ≠ [] := by
  intro hnone
  simp [chooseLink, hnone] at h

/-- A packet that may start on the link chosen leaves by it, with its ROUTE as the port moves it. -/
theorem leaveBy_carries {port : Nat} {detour : Bool} (hsound : m.sound = true) (hformed : packetFormed p = true)
    (hlink : chooseLink d port p m = some l) (hqueue : (linkOf l m).queue = [])
    (hstarts : canStart l { p with route := routeAfter p port detour m } m = true) :
    (leaveBy d port detour p m).out =
        m.out ++ [.packet (linkDie l) (some l) { p with route := routeAfter p port detour m }] ∧
      (leaveBy d port detour p m).regs = m.regs ∧ (leaveBy d port detour p m).mem = m.mem := by
  simp only [leaveBy, hlink]
  obtain ⟨hout, hsame⟩ := offerPacket_of_canStart
    (q := ⟨{ p with route := routeAfter p port detour m }, p.route⟩) hsound hqueue hformed hstarts
  exact ⟨hout, hsame.regs, hsame.mem⟩

end

/-- Settles O46: each way of a packet at its router (`packetRoute_…`) ends in one of its acts; a packet that waits alone at its
link starts, since every round of the VCs adds to the deficit of its own (`WaitsAlone.nextByWeight`). -/
theorem routersCarryOrRefusePackets : Obligations.RoutersCarryOrRefusePackets := by
  unfold Obligations.RoutersCarryOrRefusePackets
  intro d via p l s hsound e port det mayDetour carried starts refused
  have hwf : regsWf s.dev = true := regsWf_of_sound hsound
  refine ⟨fun hbad => ?malformed, fun hformed => ⟨fun hvalid hlocal => ?here, fun hno => ?noPort,
    fun hvalid hlocal hport => ⟨fun hstarts => ?primary, fun hclosed hmay hstarts => ?detour,
      fun hclosed hno => ?noDetour⟩⟩⟩
  case malformed =>
    have hfault : OnlyRegs [cWINDROW_PKT_MALFORMED.reg, aWINDROW_FAULT] s.dev
        (windrowFault 11 0 (srcCoordOf p) p.job.toNat s.dev) := (OnlyRegs.refl hwf).windrowFault (by simp)
    have hraised := hfault.raise (c := cWINDROW_PKT_MALFORMED) (by simp)
    refine ⟨_, exec_packetRoute (packetRoute_malformed _ hbad), leafSet_raise hfault.wf _, ?_, hraised.regs,
      hraised.memSame⟩
    rw [raise_out, windrowFault_out]
  case here =>
    refine ⟨_, exec_packetRoute (packetRoute_local _ hformed hvalid hlocal), ?_⟩
    cases via with
    | none => exact ⟨rfl, fun _ => rfl, by simp⟩
    | some v =>
      refine ⟨rfl, by simp, fun w hw => ?_⟩
      obtain rfl := Option.some.inj hw
      rfl
  case noPort =>
    exact ⟨_, exec_packetRoute (packetRoute_noPort _ hformed hno), unreachable_spec hwf d.val p⟩
  case primary =>
    obtain ⟨hlink, hqueue, hstart⟩ := hstarts
    have hopen := portOpen_ne_nil_of_chooseLink hlink
    exact ⟨_, exec_packetRoute (packetRoute_primary _ hformed hvalid hlocal hport hopen),
      leaveBy_carries hsound hformed hlink hqueue hstart⟩
  case detour =>
    obtain ⟨hlink, hqueue, hstart⟩ := hstarts
    have hopen := portOpen_ne_nil_of_chooseLink hlink
    exact ⟨_, exec_packetRoute (packetRoute_detour _ hformed hvalid hlocal hport hclosed hmay hopen),
      leaveBy_carries hsound hformed hlink hqueue hstart⟩
  case noDetour =>
    exact ⟨_, exec_packetRoute (packetRoute_noDetour _ hformed hvalid hlocal hport hclosed hno),
      unreachable_spec hwf d.val p⟩

end Sys2Proof.Machine

/-! SUPPORT. Links that go down, and what packets that go another way leave in the registers (R352, R355, R357, R360). -/
namespace Sys2Proof.Machine

/-! ### Work that touches few registers -/

/-- `n` has well-formed registers, and differs from `m` in no register beside those at `offs` and in no byte of memory. -/
structure Touches (offs : List Nat) (m n : Dev) : Prop where
  wf : regsWf n = true
  regs : regsSameBut offs m n
  mem : n.mem = m.mem

section
variable {offs offs' : List Nat} {l m n n' : Dev}

theorem Touches.refl (h : regsWf m = true) : Touches offs m m := ⟨h, fun _ _ => rfl, rfl⟩

theorem Touches.trans (h : Touches offs l m) (h' : Touches offs m n) : Touches offs l n :=
  ⟨h'.wf, regsSameBut_trans h.regs h'.regs, h'.mem.trans h.mem⟩

theorem Touches.mono (h : Touches offs m n) (hsub : offs ⊆ offs') : Touches offs' m n :=
  ⟨h.wf, fun o ho => h.regs o (fun hm => ho (hsub hm)), h.mem⟩

theorem Touches.congr (h : Touches offs m n) (hregs : n'.regs = n.regs) (hmem : n'.mem = n.mem) : Touches offs m n' :=
  ⟨regsWf_of_regs h.wf hregs, fun o ho => (rd_congr hregs o).trans (h.regs o ho), hmem.trans h.mem⟩

theorem Touches.wr {o : Nat} {v : Word} (ho : o ∈ offs) (h : Touches offs m n) : Touches offs m (wr o v n) where
  wf := regsWf_wr h.wf o v
  regs := fun p hp => (rd_wr_ne h.wf v (fun e => hp (by rwa [e]))).trans (h.regs p hp)
  mem := h.mem

theorem Touches.wrF {o k : Nat} {f : Fld} (ho : o ∈ offs) (h : Touches offs m n) : Touches offs m (wrF o f k n) := h.wr ho

theorem Touches.recordFirst {o : Nat} {v : Word} (ho : o ∈ offs) (h : Touches offs m n) : Touches offs m (recordFirst o v n) := by
  unfold Machine.recordFirst
  split
  · exact h
  · exact h.wr ho

theorem Touches.raise {c : Cause} (hc : c.reg ∈ offs) (h : Touches offs m n) : Touches offs m (raise c n) where
  wf := regsWf_raise h.wf c
  regs := fun p hp => (rd_raise_ne h.wf c (fun e => hp (by rwa [e]))).trans (h.regs p hp)
  mem := (raise_mem c n).trans h.mem

theorem Touches.forEach {α : Type} {xs : List α} {f : α → Dev → Dev}
    (hf : ∀ x ∈ xs, ∀ n, Touches offs m n → Touches offs m (f x n)) (h : Touches offs m n) :
    Touches offs m (forEach xs f n) :=
  forEach_keeps (Touches offs m) xs f n hf h

theorem Touches.when {c : Bool} {f : Dev → Dev} (hf : Touches offs m n → Touches offs m (f n)) (h : Touches offs m n) :
    Touches offs m (when c f n) :=
  when_keeps (Touches offs m) c f n hf h

theorem Touches.sameButLinks (h : Touches offs m n) (hn : SameButLinks n n') : Touches offs m n' := h.congr hn.regs hn.mem

theorem Touches.memSame (h : Touches offs m n) : memSame m n := memSame_of_mem h.mem

end

theorem SameButLinks.sendRecord {m n : Dev} (h : SameButLinks m n) (l ctype : Nat) (body : List Byte) :
    SameButLinks m (sendRecord l ctype body n) := by
  obtain ⟨ls, os, k, rfl⟩ := h
  exact ⟨_, _, _, rfl⟩

theorem rdF_congr {o : Nat} {m n : Dev} (h : rd o n = rd o m) (f : Fld) : rdF o f n = rdF o f m := congrArg f.get h

theorem isSet_congr {o : Nat} {f : Fld} {m n : Dev} (h : rd o n = rd o m) : isSet o f n = isSet o f m := by
  rw [isSet, rdF_congr h, isSet]

/-! ### The state and the lanes of a link (R352) -/

section
variable {l k st : Nat} {m : Dev}

theorem linkState_congr {n : Dev} (h : rd (aWINDROW_LINK_STATUS l) n = rd (aWINDROW_LINK_STATUS l) m) :
    linkState l n = linkState l m :=
  congrArg fWINDROW_LINK_STATUS_STATE.get h

theorem lanesUp_congr {n : Dev} (h : rd (aWINDROW_LINK_STATUS l) n = rd (aWINDROW_LINK_STATUS l) m) :
    lanesUp l n = lanesUp l m :=
  congrArg fWINDROW_LINK_STATUS_LANES_UP.get h

theorem linkUp_congr {n : Dev} (h : rd (aWINDROW_LINK_STATUS l) n = rd (aWINDROW_LINK_STATUS l) m) :
    linkUp l n = linkUp l m := by
  simp only [linkUp, linkState_congr h]

theorem linkState_setState (h : regsWf m = true) (hst : st < 8) : linkState l (setState l st m) = st :=
  (rdF_wrF_same h _ _ st (by decide)).trans (Nat.mod_eq_of_lt hst)

theorem lanesUp_setState (h : regsWf m = true) : lanesUp l (setState l st m) = lanesUp l m :=
  rdF_wrF_other h _ fWINDROW_LINK_STATUS_STATE fWINDROW_LINK_STATUS_LANES_UP st (by decide) (by decide)

theorem linkState_setLanes (h : regsWf m = true) : linkState l (setLanes l k m) = linkState l m :=
  rdF_wrF_other h _ fWINDROW_LINK_STATUS_LANES_UP fWINDROW_LINK_STATUS_STATE k (by decide) (by decide)

theorem lanesUp_setLanes (h : regsWf m = true) (hk : k < 16) : lanesUp l (setLanes l k m) = k :=
  (rdF_wrF_same h _ _ k (by decide)).trans (Nat.mod_eq_of_lt hk)

theorem Touches.setState {offs : List Nat} {n : Dev} (ho : aWINDROW_LINK_STATUS l ∈ offs) (h : Touches offs m n) :
    Touches offs m (setState l st n) := h.wr ho

theorem Touches.setLanes {offs : List Nat} {n : Dev} (ho : aWINDROW_LINK_STATUS l ∈ offs) (h : Touches offs m n) :
    Touches offs m (setLanes l k n) := h.wr ho

/-- The lanes that a mask leaves are four at most. -/
theorem land_lt_sixteen {a b : Nat} (hb : b < 16) : Nat.land a b < 16 :=
  lt_of_le_of_lt Nat.and_le_right hb

theorem lanesUp_lt (l : Nat) (m : Dev) : lanesUp l m < 16 := Fld_get_lt fWINDROW_LINK_STATUS_LANES_UP _

theorem laneEnabled_lt (l : Nat) (m : Dev) : rdF (aWINDROW_LINK_CTRL l) fWINDROW_LINK_CTRL_LANE_EN m < 16 :=
  Fld_get_lt fWINDROW_LINK_CTRL_LANE_EN _

/-- The record that a link sends behind `m`. -/
theorem sentRecord_sendRecord {n : Dev} (h : n.out = m.out) (ctype : Nat) (body : List Byte) :
    sentRecord l ctype m (sendRecord l ctype body n) :=
  ⟨(linkOf l n).sendSeq, (linkOf l n).recvSeq, body, congrArg (· ++ _) h⟩

theorem linkFault_out (kind : Nat) : (linkFault kind l m).out = m.out := windrowFault_out ..

end

/-! ### Packets that go another way (R355, R357, R360) -/

/-- The registers in which a router leaves its traces: the first fault, and the word of the causes of the block. -/
def routeTraces : List Nat := [aWINDROW_FAULT, cWINDROW_ROUTE_UNREACHABLE.reg]

section
variable {offs : List Nat} {m n : Dev}

theorem Touches.windrowFault {kind link coord job : Nat} (ho : aWINDROW_FAULT ∈ offs) (h : Touches offs m n) :
    Touches offs m (windrowFault kind link coord job n) :=
  h.recordFirst ho

theorem Touches.sendDraft {d : Draft} (h : Touches offs m n) : Touches offs m (sendDraft d n) := by
  obtain ⟨hregs, hmem, -, -⟩ := sendDraft_same d n
  exact h.congr hregs hmem

theorem Touches.sendNack {reason die : Nat} {p : Packet} (ho : aWINDROW_FAULT ∈ offs) (h : Touches offs m n) :
    Touches offs m (sendNack reason die p n) := by
  unfold Machine.sendNack
  split
  · exact h.windrowFault ho
  · exact h.sendDraft

theorem Touches.unreachable {d : Nat} {p : Packet} (h : Touches routeTraces m n) : Touches routeTraces m (unreachable d p n) := by
  refine Touches.raise (List.mem_cons_of_mem _ List.mem_cons_self) ?_
  split
  · exact h.windrowFault List.mem_cons_self
  · exact (h.windrowFault List.mem_cons_self).sendNack List.mem_cons_self

theorem Touches.leaveBy {d port : Nat} {detour : Bool} {p : Packet} (h : Touches routeTraces m n) :
    Touches routeTraces m (leaveBy d port detour p n) := by
  unfold Machine.leaveBy
  split
  · exact h.sameButLinks (((SameButLinks.refl n).setLink _ _).drainQueue _)
  · exact h.unreachable

theorem Touches.packetRoute {d : Nat} {p : Packet} (h : Touches routeTraces m n) :
    Touches routeTraces m (packetRoute d none p n) := by
  fun_cases Machine.packetRoute
  · exact (h.windrowFault List.mem_cons_self).raise (by decide)
  · exact h.congr rfl rfl
  · exact h.unreachable
  · exact h.leaveBy
  · exact h.unreachable
  · exact h.leaveBy

theorem Touches.requeue {l : Nat} {qs : List QueuedPkt} (h : Touches routeTraces m n) :
    Touches routeTraces m (requeue l qs n) :=
  Touches.forEach (fun _ _ _ h => h.packetRoute) h

theorem linkStatus_notMem_routeTraces (l : Nat) : aWINDROW_LINK_STATUS l ∉ routeTraces := by
  simp only [routeTraces, Cause.reg, aINT_LEAF, aWINDROW_FAULT, aWINDROW_LINK_STATUS, List.mem_cons, List.not_mem_nil, or_false,
    cWINDROW_ROUTE_UNREACHABLE]
  omega

end

/-! ### A link that falls (R355) -/

/-- The registers that change when link `l` falls. -/
def fallRegs (l : Nat) : List Nat := aWINDROW_LINK_STATUS l :: routeTraces

section
variable {l st : Nat} {m : Dev} (h : regsWf m = true)
include h

/-- A link that falls rests in the state named, without lanes. -/
theorem linkFalls_spec (hst : st < 8) : linkState l (linkFalls l st m) = st ∧ lanesUp l (linkFalls l st m) = 0 ∧
    Touches (fallRegs l) m (linkFalls l st m) := by
  set n := setLanes l 0 (setState l st m) with hn
  have hdown : Touches (fallRegs l) m n := ((Touches.refl h).setState List.mem_cons_self).setLanes List.mem_cons_self
  have hidle : SameButLinks n (setLink l LinkDyn.idle n) := (SameButLinks.refl n).setLink l _
  have hroute : Touches routeTraces n (linkFalls l st m) := ((Touches.refl hdown.wf).sameButLinks hidle).requeue
  have hstatus := hroute.regs _ (linkStatus_notMem_routeTraces l)
  have hwf : regsWf (setState l st m) = true := regsWf_wrF h _ _ _
  refine ⟨(linkState_congr hstatus).trans ?_, (lanesUp_congr hstatus).trans ?_,
    hdown.trans (hroute.mono (List.subset_cons_self ..))⟩
  · exact (linkState_setLanes hwf).trans (linkState_setState h hst)
  · exact lanesUp_setLanes hwf (by decide)

theorem downCauses_spec : leafSet cWINDROW_LINK_DOWN (downCauses l m) = true ∧
    Touches [cWINDROW_LINK_DOWN.reg] m (downCauses l m) := by
  have hdown : Touches [cWINDROW_LINK_DOWN.reg] m (raise cWINDROW_LINK_DOWN m) := (Touches.refl h).raise List.mem_cons_self
  exact when_keeps (fun n => leafSet cWINDROW_LINK_DOWN n = true ∧ Touches [cWINDROW_LINK_DOWN.reg] m n) _ _ _
    (fun hn => ⟨leafSet_raise_mono hn.2.wf hn.1, hn.2.raise (by decide)⟩) ⟨leafSet_raise h _, hdown⟩

/-- A link that is lost while it carries traffic is DOWN, without lanes, under its cause. -/
theorem linkGoesDown_spec (hup : linkUp l m = true) : linkState l (linkGoesDown l m) = 0 ∧ lanesUp l (linkGoesDown l m) = 0 ∧
    leafSet cWINDROW_LINK_DOWN (linkGoesDown l m) = true ∧ Touches (fallRegs l) m (linkGoesDown l m) := by
  obtain ⟨hstate, hlanes, hfalls⟩ := linkFalls_spec (l := l) (st := 0) h (by decide)
  obtain ⟨hleaf, hcauses⟩ := downCauses_spec (l := l) hfalls.wf
  rw [linkGoesDown, if_pos hup]
  have hstatus : rd (aWINDROW_LINK_STATUS l) (downCauses l (linkFalls l 0 m)) = rd (aWINDROW_LINK_STATUS l) (linkFalls l 0 m) :=
    hcauses.regs _ (fun hm => linkStatus_notMem_routeTraces l (List.mem_cons_of_mem _ hm))
  exact ⟨(linkState_congr hstatus).trans hstate, (lanesUp_congr hstatus).trans hlanes, hleaf,
    hfalls.trans (hcauses.mono (by simp [fallRegs, routeTraces, Cause.reg, cWINDROW_LINK_DOWN, cWINDROW_ROUTE_UNREACHABLE]))⟩

end
end Sys2Proof.Machine

/-! SUPPORT. Training and identity of links (R340, R351 to R354). -/
namespace Sys2Proof.Machine

/-! ### Training (R340, R352) -/

section
variable {m n : Dev}

/-- What storing lanes' settings does: nothing, or a new half of the Calibration partition, whose generation is shown. -/
theorem storeLanes_cases (xs : List (Nat × List Byte)) (m : Dev) :
    storeLanes xs m = m ∨ ∃ v nv, storeLanes xs m = wr (genReg 4) v { m with nvm := nv } := by
  unfold storeLanes
  split
  · exact .inl rfl
  · split
    · exact .inl rfl
    · exact .inr ⟨_, _, rfl⟩

/-- `n` is `m` but for a write of the Calibration partition's generation, the NVM, and the free values drawn. -/
def SameButCalibration (m n : Dev) : Prop :=
  ∃ nv k, n = { m with nvm := nv, free := k } ∨ ∃ v, n = wr (genReg 4) v { m with nvm := nv, free := k }

theorem sameButCalibration_storeLanes (xs : List (Nat × List Byte)) (m : Dev) : SameButCalibration m (storeLanes xs m) := by
  rcases storeLanes_cases xs m with e | ⟨v, nv, e⟩
  · exact ⟨m.nvm, m.free, .inl e⟩
  · exact ⟨nv, m.free, .inr ⟨v, e⟩⟩

theorem sameButCalibration_bootTrained (lanes : List Nat) (m : Dev) : SameButCalibration m (bootTrained lanes m) := by
  obtain ⟨nv, k, e | ⟨v, e⟩⟩ := sameButCalibration_storeLanes (((lanes.filter fun i => !laneStored i m).zipIdx.map fun x =>
    (x.1, freeBytes 11 { m with free := m.free + 11 * x.2 }))) m
  · simp only [bootTrained, e]
    exact ⟨nv, _, .inl rfl⟩
  · simp only [bootTrained, e]
    exact ⟨nv, k + 11 * (lanes.filter fun i => !laneStored i m).length, .inr ⟨v, rfl⟩⟩

theorem SameButCalibration.out (h : SameButCalibration m n) : n.out = m.out := by
  obtain ⟨nv, k, rfl | ⟨v, rfl⟩⟩ := h <;> rfl

theorem SameButCalibration.linkOf (h : SameButCalibration m n) (l : Nat) : linkOf l n = linkOf l m := by
  obtain ⟨nv, k, rfl | ⟨v, rfl⟩⟩ := h <;> rfl

theorem Touches.calibration {offs : List Nat} {l : Dev} (hg : genReg 4 ∈ offs) (h : Touches offs l m)
    (hn : SameButCalibration m n) : Touches offs l n := by
  obtain ⟨nv, k, rfl | ⟨v, rfl⟩⟩ := hn
  · exact h.congr rfl rfl
  · exact (h.congr (n' := { m with nvm := nv, free := k }) rfl rfl).wr hg

theorem rd_calibration (hwf : regsWf m = true) (hn : SameButCalibration m n) {o : Nat} (ho : o ≠ genReg 4) : rd o n = rd o m := by
  exact ((Touches.refl hwf).calibration (offs := [genReg 4]) List.mem_cons_self hn).regs o (by simpa using ho)

theorem linkOf_sendRecord (l k ctype : Nat) (body : List Byte) : linkOf k (sendRecord l ctype body m) = linkOf k m := rfl

theorem setLink_out (l : Nat) (x : LinkDyn) : (setLink l x m).out = m.out := rfl

end

theorem linkStatus_ne_genReg (l : Nat) : aWINDROW_LINK_STATUS l ≠ genReg 4 := by
  simp only [aWINDROW_LINK_STATUS, genReg, aHEADLAND_NVM_GEN]
  omega

section
variable {l lanes : Nat} {fec : Bool} {m : Dev}

/-- The lanes on which both ends have locked and that LINK_CTRL enables. -/
def lanesLocked (l lanes : Nat) (m : Dev) : Nat :=
  Nat.land lanes (rdF (aWINDROW_LINK_CTRL l) fWINDROW_LINK_CTRL_LANE_EN m)

/-- Did a training lock: one FEC mode at both ends, three lanes or more? -/
def trainingLocks (l lanes : Nat) (fec : Bool) (m : Dev) : Prop :=
  fec = isSet (aWINDROW_LINK_CTRL l) fWINDROW_LINK_CTRL_FEC_MODE m ∧ 3 ≤ laneCount (lanesLocked l lanes m)

theorem trainingDone_idle (hst : linkState l m ≠ 1) : trainingDone l lanes fec m = m := if_pos hst

theorem trainingDone_barred (hst : linkState l m = 1) (hcan : canTrain l m = false) :
    trainingDone l lanes fec m = setState l 0 m := by
  simp [trainingDone, hst, hcan]

theorem trainingDone_locked (hst : linkState l m = 1) (hcan : canTrain l m = true) (hlock : trainingLocks l lanes fec m) :
    trainingDone l lanes fec m = sendIdent l 0 (freshLink l (setLanes l (lanesLocked l lanes m) (setState l 2 m))) := by
  unfold trainingLocks lanesLocked at hlock
  rw [trainingDone, if_neg (by simp [hst]), if_neg (by simp [hcan])]
  exact if_pos (by simpa using hlock)

theorem trainingDone_failed (hst : linkState l m = 1) (hcan : canTrain l m = true) (hlock : ¬ trainingLocks l lanes fec m) :
    trainingDone l lanes fec m = raise cWINDROW_LINK_TRAIN_FAIL (linkFault 4 l (setState l 0 m)) := by
  unfold trainingLocks lanesLocked at hlock
  rw [trainingDone, if_neg (by simp [hst]), if_neg (by simp [hcan])]
  exact if_neg (by simpa using hlock)

theorem exec_trainingDone (l : Fin 36) (lanes : BitVec 4) (fec : Bool) (s : State) :
    exec (.trainingDone l lanes fec) s = .next { s with dev := linkTrained l.val lanes.toNat fec s.dev } := rfl

theorem exec_trainingStart (l : Fin 36) (s : State) :
    exec (.trainingStart l) s = .next { s with dev := trainingStart l.val s.dev } := rfl

/-- Only a link that enters IDENT has settings to keep. -/
theorem linkTrained_unlocked (h : ¬ (linkState l m = 1 ∧ linkState l (trainingDone l lanes fec m) = 2)) :
    linkTrained l lanes fec m = trainingDone l lanes fec m := by
  unfold linkTrained when
  simp only
  rw [if_neg (by simpa using h)]

theorem sameButCalibration_linkTrained : SameButCalibration (trainingDone l lanes fec m) (linkTrained l lanes fec m) := by
  unfold linkTrained when
  simp only
  split
  · exact sameButCalibration_bootTrained ..
  · exact ⟨_, _, .inl rfl⟩

variable (h : regsWf m = true)
include h

/-- A link that locked stands in IDENT on the lanes that locked, with nothing outstanding, its first record sent. -/
theorem trainingDone_locked_spec (hlinks : Sparse.wfD (fun _ => LinkDyn.idle) m.links = true) (hst : linkState l m = 1)
    (hcan : canTrain l m = true) (hlock : trainingLocks l lanes fec m) :
    linkState l (trainingDone l lanes fec m) = 2 ∧ lanesUp l (trainingDone l lanes fec m) = lanesLocked l lanes m ∧
      linkOf l (trainingDone l lanes fec m) = { LinkDyn.idle with queue := (linkOf l m).queue } ∧
      sentRecord l 3 m (trainingDone l lanes fec m) ∧ Touches [aWINDROW_LINK_STATUS l] m (trainingDone l lanes fec m) := by
  rw [trainingDone_locked hst hcan hlock]
  have hwf : regsWf (setState l 2 m) = true := regsWf_wrF h _ _ _
  set n := setLanes l (lanesLocked l lanes m) (setState l 2 m) with hn
  have hset : Touches [aWINDROW_LINK_STATUS l] m n :=
    ((Touches.refl h).setState (st := 2) List.mem_cons_self).setLanes List.mem_cons_self
  have hsame : SameButLinks n (sendIdent l 0 (freshLink l n)) := ((SameButLinks.refl n).setLink l _).sendRecord l 3 _
  have hstatus := rd_congr hsame.regs (aWINDROW_LINK_STATUS l)
  have hnlinks : n.links = m.links := by rw [hn, setLanes, setState, wrF, wrF, wr_links, wr_links]
  have hnlink : linkOf l n = linkOf l m := congrArg (Sparse.get LinkDyn.idle · l) hnlinks
  refine ⟨(linkState_congr hstatus).trans ?_, (lanesUp_congr hstatus).trans ?_, ?_, sentRecord_sendRecord ?_ _ _,
    hset.sameButLinks hsame⟩
  · exact (linkState_setLanes hwf).trans (linkState_setState h (by decide))
  · exact lanesUp_setLanes hwf (land_lt_sixteen (laneEnabled_lt l m))
  · rw [sendIdent, linkOf_sendRecord, freshLink, linkOf_setLink (by rw [hnlinks]; exact hlinks), hnlink]
  · rw [freshLink, setLink_out, hn, setLanes, setState, wrF, wrF, wr_out, wr_out]

theorem linkTrained_locked_spec (hlinks : Sparse.wfD (fun _ => LinkDyn.idle) m.links = true) (hst : linkState l m = 1)
    (hcan : canTrain l m = true) (hlock : trainingLocks l lanes fec m) :
    linkState l (linkTrained l lanes fec m) = 2 ∧ lanesUp l (linkTrained l lanes fec m) = lanesLocked l lanes m ∧
      linkOf l (linkTrained l lanes fec m) = { LinkDyn.idle with queue := (linkOf l m).queue } ∧
      sentRecord l 3 m (linkTrained l lanes fec m) ∧
      Touches [aWINDROW_LINK_STATUS l, genReg 4] m (linkTrained l lanes fec m) := by
  obtain ⟨hstate, hlanes, hlink, hsent, htouches⟩ := trainingDone_locked_spec h hlinks hst hcan hlock
  have hcal := sameButCalibration_linkTrained (l := l) (lanes := lanes) (fec := fec) (m := m)
  have hstatus := rd_calibration htouches.wf hcal (linkStatus_ne_genReg l)
  refine ⟨(linkState_congr hstatus).trans hstate, (lanesUp_congr hstatus).trans hlanes, (hcal.linkOf l).trans hlink, ?_,
    (htouches.mono (by simp)).calibration (by simp) hcal⟩
  unfold sentRecord at hsent ⊢
  rwa [hcal.out]

/-- A link that may train no longer is DOWN. -/
theorem linkTrained_barred_spec (hst : linkState l m = 1) (hcan : canTrain l m = false) :
    linkState l (linkTrained l lanes fec m) = 0 ∧ (linkTrained l lanes fec m).out = m.out ∧
      memSame m (linkTrained l lanes fec m) := by
  have hstate : linkState l (trainingDone l lanes fec m) = 0 := by
    rw [trainingDone_barred hst hcan, linkState_setState h (by decide)]
  rw [linkTrained_unlocked (by simp [hstate])]
  refine ⟨hstate, ?_⟩
  rw [trainingDone_barred hst hcan]
  exact ⟨rfl, memSame_of_mem rfl⟩

/-- A training that did not lock leaves the link DOWN under TRAIN_FAIL. -/
theorem linkTrained_failed_spec (hst : linkState l m = 1) (hcan : canTrain l m = true)
    (hlock : ¬ trainingLocks l lanes fec m) :
    linkState l (linkTrained l lanes fec m) = 0 ∧ leafSet cWINDROW_LINK_TRAIN_FAIL (linkTrained l lanes fec m) = true ∧
      (linkTrained l lanes fec m).out = m.out ∧ memSame m (linkTrained l lanes fec m) := by
  have hset : Touches [aWINDROW_LINK_STATUS l] m (setState l 0 m) := (Touches.refl h).setState List.mem_cons_self
  have hfault : Touches routeTraces (setState l 0 m) (linkFault 4 l (setState l 0 m)) :=
    (Touches.refl hset.wf).windrowFault List.mem_cons_self
  have hraise : Touches routeTraces (setState l 0 m) (raise cWINDROW_LINK_TRAIN_FAIL (linkFault 4 l (setState l 0 m))) :=
    hfault.raise (by decide)
  have hstate : linkState l (trainingDone l lanes fec m) = 0 := by
    rw [trainingDone_failed hst hcan hlock, linkState_congr (hraise.regs _ (linkStatus_notMem_routeTraces l)),
      linkState_setState h (by decide)]
  rw [linkTrained_unlocked (by simp [hstate])]
  refine ⟨hstate, ?_⟩
  rw [trainingDone_failed hst hcan hlock]
  exact ⟨leafSet_raise hfault.wf _, by rw [raise_out, linkFault_out]; rfl, memSame_of_mem (hraise.mem.trans hset.mem)⟩

end

/-! ### Identity (R353, R354) -/

section
variable {l : Nat} {r : IdentRecord} {m n : Dev}

/-- The verdict that a record gets. -/
def verdictOf (l : Nat) (r : IdentRecord) (m : Dev) : Nat := if identFault l r m = 0 then 1 else 2

/-- The record is kept, and this end's verdict with it. -/
def identKept (l : Nat) (r : IdentRecord) (m : Dev) : Dev :=
  let m1 := wr (aWINDROW_LINK_PEER l) (peerWord r) m
  setLink l { linkOf l m1 with mine := verdictOf l r m } m1

/-- The record is answered unless this end's verdict is out already. -/
def identAnswered (l : Nat) (r : IdentRecord) (m : Dev) : Dev :=
  when ((linkOf l m).mine = 0) (sendIdent l (verdictOf l r m)) (identKept l r m)

theorem linkOf_wr (k o : Nat) (v : Word) : linkOf k (wr o v m) = linkOf k m := rfl

theorem identReceived_eq (hst : linkState l m = 2) : identReceived l r m =
    if r.verdict.toNat = 0 then identAnswered l r m else identEnd l (identFault l r m) r (identAnswered l r m) := by
  unfold identReceived
  rw [if_neg (by simpa using hst)]
  rfl

theorem identReceived_idle (hst : linkState l m ≠ 2) : identReceived l r m = m := if_pos hst

theorem sameButLinks_identAnswered :
    SameButLinks (wr (aWINDROW_LINK_PEER l) (peerWord r) m) (identAnswered l r m) :=
  when_keeps (SameButLinks (wr (aWINDROW_LINK_PEER l) (peerWord r) m)) _ _ _ (fun hn => hn.sendRecord l 3 _)
    ((SameButLinks.refl _).setLink l _)

theorem linkOf_identAnswered (hlinks : Sparse.wfD (fun _ => LinkDyn.idle) m.links = true) :
    linkOf l (identAnswered l r m) = { linkOf l m with mine := verdictOf l r m } := by
  have hkept : linkOf l (identKept l r m) = { linkOf l m with mine := verdictOf l r m } := by
    rw [identKept, linkOf_setLink (by rw [wr_links]; exact hlinks), linkOf_wr]
  rw [identAnswered, when]
  split
  · rw [sendIdent, linkOf_sendRecord, hkept]
  · exact hkept

theorem identKept_out : (identKept l r m).out = m.out := by
  rw [identKept, setLink_out, wr_out]

theorem sentRecord_identAnswered (hmine : (linkOf l m).mine = 0) : sentRecord l 3 m (identAnswered l r m) := by
  rw [identAnswered, when, if_pos (by simpa using hmine)]
  exact sentRecord_sendRecord identKept_out _ _

/-- LINK_PEER lies apart from what decides whether a link may train. -/
theorem canTrain_congr (h : ∀ o, o ≠ aWINDROW_LINK_PEER l → rd o n = rd o m) : canTrain l n = canTrain l m := by
  have hstop : stopNow n = stopNow m := by
    have hword := h aBELLOWS_STOP (by unfold aBELLOWS_STOP aWINDROW_LINK_PEER; omega)
    rw [stopNow, isSet_congr hword, isSet_congr hword, stopNow]
  have hctrl := h (aWINDROW_LINK_CTRL l) (by unfold aWINDROW_LINK_CTRL aWINDROW_LINK_PEER; omega)
  have hcoord := h aWINDROW_COORD (by unfold aWINDROW_COORD aWINDROW_LINK_PEER; omega)
  have hport : linkPort l n = linkPort l m := congrArg fWINDROW_LINK_CTRL_PORT.get hctrl
  have hlt : linkPort l m < 16 := Fld_get_lt fWINDROW_LINK_CTRL_PORT _
  have hword := h (aWINDROW_PORT (linkPort l m)) (by unfold aWINDROW_PORT aWINDROW_LINK_PEER; omega)
  have hdim (a : Nat) : dimOf a n = dimOf a m := by
    unfold dimOf
    split <;> exact rdF_congr hcoord _
  have hcoordValid : coordValid n = coordValid m := by rw [coordValid, isSet_congr hcoord, hcoord, coordValid]
  have hportValid : portValid (linkPort l m) n = portValid (linkPort l m) m := by
    rw [portValid, isSet_congr hword, rdF_congr hword, portValid]
  have hportDir : portDir (linkPort l m) n = portDir (linkPort l m) m := rdF_congr hword _
  rw [canTrain, hstop, isSet_congr hctrl, hcoordValid, hport, hportValid, hportDir, hdim, rdF_congr hctrl, canTrain]

section
variable (h : regsWf m = true)
include h

theorem touches_identAnswered : Touches [aWINDROW_LINK_PEER l] m (identAnswered l r m) :=
  ((Touches.refl h).wr (v := peerWord r) List.mem_cons_self).sameButLinks sameButLinks_identAnswered

theorem rd_peer_identAnswered : rd (aWINDROW_LINK_PEER l) (identAnswered l r m) = peerWord r :=
  (rd_congr sameButLinks_identAnswered.regs _).trans (rd_wr_same h _ _)

theorem rd_identAnswered {o : Nat} (ho : o ≠ aWINDROW_LINK_PEER l) : rd o (identAnswered l r m) = rd o m :=
  (touches_identAnswered h).regs o (by simpa using ho)

end

theorem linkStatus_ne_linkPeer (l k : Nat) : aWINDROW_LINK_STATUS l ≠ aWINDROW_LINK_PEER k := by
  unfold aWINDROW_LINK_STATUS aWINDROW_LINK_PEER
  omega

theorem gen_ne_linkPeer (l : Nat) : aWINDROW_GEN ≠ aWINDROW_LINK_PEER l := by
  unfold aWINDROW_GEN aWINDROW_LINK_PEER
  omega

/-! ### The end of IDENT -/

/-- A record that fails, at either end, quarantines the link. -/
theorem identEnd_bad {fault : Nat} (hbad : fault ≠ 0 ∨ r.verdict.toNat ≠ 1) : identEnd l fault r m =
    raise cWINDROW_LINK_NEIGHBOUR_MISMATCH (linkFault 1 l (wrF (aWINDROW_LINK_STATUS l) fWINDROW_LINK_STATUS_QUAR_REASON
      (if fault ≠ 0 then fault else 4) (setState l 5 m))) :=
  if_pos (by simpa using hbad)

theorem identEnd_barred (hv : r.verdict.toNat = 1) (hcan : canTrain l m = false) : identEnd l 0 r m = linkFalls l 0 m := by
  simp [identEnd, hv, hcan]

theorem identEnd_apart (hv : r.verdict.toNat = 1) (hcan : canTrain l m = true)
    (hgen : min (genMax m) r.genMax.toNat < max (genMin m) r.genMin.toNat) :
    identEnd l 0 r m = raise cWINDROW_LINK_GEN_INCOMPATIBLE (linkFault 2 l (setState l 6 m)) := by
  rw [identEnd, if_neg (by simp [hv]), if_neg (by simp [hcan]), if_pos hgen]

theorem identEnd_up (hv : r.verdict.toNat = 1) (hcan : canTrain l m = true)
    (hgen : max (genMin m) r.genMin.toNat ≤ min (genMax m) r.genMax.toNat) :
    identEnd l 0 r m = drainQueue l (setState l (if laneCount (lanesUp l m) = 4 then 3 else 4)
      (wrF (aWINDROW_LINK_STATUS l) fWINDROW_LINK_STATUS_GEN (min (genMax m) r.genMax.toNat) m)) := by
  rw [identEnd, if_neg (by simp [hv]), if_neg (by simp [hcan]), if_neg (Nat.not_lt.2 hgen)]

theorem identFault_lt (l : Nat) (r : IdentRecord) (m : Dev) : identFault l r m < 16 := by
  simp only [identFault]
  split
  · decide
  · split
    · decide
    · split
      · decide
      · split <;> decide

section
variable (h : regsWf m = true)
include h

theorem identEnd_bad_spec {fault : Nat} (hbad : fault ≠ 0) (hlt : fault < 16) :
    linkState l (identEnd l fault r m) = 5 ∧
      rdF (aWINDROW_LINK_STATUS l) fWINDROW_LINK_STATUS_QUAR_REASON (identEnd l fault r m) = fault ∧
      leafSet cWINDROW_LINK_NEIGHBOUR_MISMATCH (identEnd l fault r m) = true ∧
      Touches (fallRegs l) m (identEnd l fault r m) := by
  rw [identEnd_bad (.inl hbad), if_pos hbad]
  have hstate : regsWf (setState l 5 m) = true := regsWf_wrF h _ _ _
  set q := wrF (aWINDROW_LINK_STATUS l) fWINDROW_LINK_STATUS_QUAR_REASON fault (setState l 5 m) with hq
  have hset : Touches (fallRegs l) m q :=
    ((Touches.refl h).setState (st := 5) List.mem_cons_self).wrF List.mem_cons_self
  have hfault : Touches routeTraces q (linkFault 1 l q) := (Touches.refl hset.wf).windrowFault List.mem_cons_self
  have hraise : Touches routeTraces q (raise cWINDROW_LINK_NEIGHBOUR_MISMATCH (linkFault 1 l q)) := hfault.raise (by decide)
  have hstatus := hraise.regs _ (linkStatus_notMem_routeTraces l)
  refine ⟨(linkState_congr hstatus).trans ?_, (congrArg fWINDROW_LINK_STATUS_QUAR_REASON.get hstatus).trans ?_,
    leafSet_raise hfault.wf _, hset.trans (hraise.mono (List.subset_cons_self ..))⟩
  · exact (rdF_wrF_other hstate _ fWINDROW_LINK_STATUS_QUAR_REASON fWINDROW_LINK_STATUS_STATE fault (by decide)
      (by decide)).trans (linkState_setState h (by decide))
  · exact (rdF_wrF_same hstate _ _ fault (by decide)).trans (Nat.mod_eq_of_lt hlt)

theorem identEnd_apart_spec (hv : r.verdict.toNat = 1) (hcan : canTrain l m = true)
    (hgen : min (genMax m) r.genMax.toNat < max (genMin m) r.genMin.toNat) :
    linkState l (identEnd l 0 r m) = 6 ∧ leafSet cWINDROW_LINK_GEN_INCOMPATIBLE (identEnd l 0 r m) = true ∧
      Touches (fallRegs l) m (identEnd l 0 r m) := by
  rw [identEnd_apart hv hcan hgen]
  have hset : Touches (fallRegs l) m (setState l 6 m) := (Touches.refl h).setState List.mem_cons_self
  have hfault : Touches routeTraces (setState l 6 m) (linkFault 2 l (setState l 6 m)) :=
    (Touches.refl hset.wf).windrowFault List.mem_cons_self
  have hraise : Touches routeTraces (setState l 6 m) (raise cWINDROW_LINK_GEN_INCOMPATIBLE (linkFault 2 l (setState l 6 m))) :=
    hfault.raise (by decide)
  exact ⟨(linkState_congr (hraise.regs _ (linkStatus_notMem_routeTraces l))).trans (linkState_setState h (by decide)),
    leafSet_raise hfault.wf _, hset.trans (hraise.mono (List.subset_cons_self ..))⟩

theorem identEnd_up_spec (hv : r.verdict.toNat = 1) (hcan : canTrain l m = true)
    (hgen : max (genMin m) r.genMin.toNat ≤ min (genMax m) r.genMax.toNat) :
    linkState l (identEnd l 0 r m) = (if laneCount (lanesUp l m) = 4 then 3 else 4) ∧
      rdF (aWINDROW_LINK_STATUS l) fWINDROW_LINK_STATUS_GEN (identEnd l 0 r m) = min (genMax m) r.genMax.toNat ∧
      Touches [aWINDROW_LINK_STATUS l] m (identEnd l 0 r m) := by
  rw [identEnd_up hv hcan hgen]
  set g := min (genMax m) r.genMax.toNat with hg
  set st := if laneCount (lanesUp l m) = 4 then 3 else 4 with hst
  have hlt : st < 8 := by rw [hst]; split <;> decide
  have hglt : g < 2 ^ 8 := lt_of_le_of_lt (Nat.min_le_left ..) (Fld_get_lt fWINDROW_GEN_GEN_MAX _)
  have hgen' : regsWf (wrF (aWINDROW_LINK_STATUS l) fWINDROW_LINK_STATUS_GEN g m) = true := regsWf_wrF h _ _ _
  have hset : Touches [aWINDROW_LINK_STATUS l] m
      (setState l st (wrF (aWINDROW_LINK_STATUS l) fWINDROW_LINK_STATUS_GEN g m)) :=
    ((Touches.refl h).wrF List.mem_cons_self).setState List.mem_cons_self
  have hdrain := (SameButLinks.refl (setState l st (wrF (aWINDROW_LINK_STATUS l) fWINDROW_LINK_STATUS_GEN g m))).drainQueue l
  have hstatus := rd_congr hdrain.regs (aWINDROW_LINK_STATUS l)
  refine ⟨(linkState_congr hstatus).trans (linkState_setState hgen' hlt),
    (congrArg fWINDROW_LINK_STATUS_GEN.get hstatus).trans ?_, hset.sameButLinks hdrain⟩
  exact (rdF_wrF_other hgen' _ fWINDROW_LINK_STATUS_STATE fWINDROW_LINK_STATUS_GEN st (by decide) (by decide)).trans
    ((rdF_wrF_same h _ _ g (by decide)).trans (Nat.mod_eq_of_lt hglt))

end

/-! ### A link in IDENT is part of no commit (R164, R167) -/

theorem linkStatus_inj {k l : Nat} (h : aWINDROW_LINK_STATUS k = aWINDROW_LINK_STATUS l) : k = l := by
  unfold aWINDROW_LINK_STATUS at h
  omega

/-- Where every link that carried traffic still does, and the Ethernet ports stand, no commit has lost a unit. -/
theorem blockLost_of_upStays (hup : ∀ k, linkUp k m = true → linkUp k n = true)
    (heth : ∀ e < 2, rd (aETH_PORT e) n = rd (aETH_PORT e) m) : blockLost m n = false := by
  unfold blockLost
  rw [Bool.and_eq_false_iff]
  refine .inr (List.any_eq_false.2 fun u _ => ?_)
  cases u with
  | port p =>
    simp only [unitLost, Bool.and_eq_true, not_and, List.any_eq_true, List.all_eq_true, forall_exists_index, and_imp]
    intro k hk hkup hall
    simpa [hup k hkup] using hall k hk
  | link k =>
    simp only [unitLost, Bool.and_eq_true, not_and]
    intro hk
    simp [hup k.val hk]
  | ethPort e =>
    simp [unitLost, isSet_congr (heth e.val e.isLt)]
  | _ => simp [unitLost]

/-- The registers that change when a record ends IDENT. -/
def identRegs (l : Nat) : List Nat := aWINDROW_LINK_PEER l :: fallRegs l

theorem notMem_identRegs {o : Nat} (hpeer : o ≠ aWINDROW_LINK_PEER l) (hst : o ≠ aWINDROW_LINK_STATUS l)
    (hroute : o ∉ routeTraces) : o ∉ identRegs l := by
  simp only [identRegs, fallRegs, List.mem_cons]
  tauto

theorem ethPort_notMem_identRegs {e : Nat} (he : e < 2) (hl : l < 36) : aETH_PORT e ∉ identRegs l := by
  refine notMem_identRegs ?_ ?_ ?_ <;> simp only [aETH_PORT, aWINDROW_LINK_PEER, aWINDROW_LINK_STATUS, routeTraces,
    aWINDROW_FAULT, Cause.reg, aINT_LEAF, cWINDROW_ROUTE_UNREACHABLE, List.mem_cons, List.not_mem_nil, or_false] <;>
    omega

/-- What a record does is lost to no commit: its link carried no traffic. -/
theorem blockLost_ident (hl : l < 36) (hst : linkState l m = 2) (ht : Touches (identRegs l) m n) : blockLost m n = false := by
  refine blockLost_of_upStays (fun k hk => ?_) (fun e he => ht.regs _ (ethPort_notMem_identRegs he hl))
  have hne : k ≠ l := by
    rintro rfl
    simp [linkUp, hst] at hk
  rw [linkUp_congr (ht.regs _ (notMem_identRegs (linkStatus_ne_linkPeer k l) (fun e => hne (linkStatus_inj e))
    (linkStatus_notMem_routeTraces k))), hk]

theorem blockLost_self (m : Dev) : blockLost m m = false := blockLost_of_upStays (fun _ => id) (fun _ _ => rfl)

theorem linkRow_eq {f : Dev → Dev} (h : blockLost m (f m) = false) : linkRow f m = f m := by
  simp [linkRow, h]

theorem linkRow_idle {f : Dev → Dev} (h : f m = m) : linkRow f m = m := by
  rw [linkRow_eq (by rw [h, blockLost_self]), h]

theorem exec_ident {l : Fin 36} {s : State} (hn : identReceived l.val r s.dev = n) (hst : linkState l.val s.dev = 2)
    (ht : Touches (identRegs l.val) s.dev n) : exec (.ident l r) s = .next { s with dev := n } := by
  subst hn
  exact congrArg (fun d => Host.Outcome.next { s with dev := d })
    (linkRow_eq (f := identReceived l.val r) (blockLost_ident l.isLt hst ht))

end

/-- Settles O43: training and the records of IDENT case by case; a link in IDENT carries no traffic, so that no commit loses it. -/
theorem linksTrainAndIdentify : Obligations.LinksTrainAndIdentify := by
  intro l lanes fec r s hsound up fecSet st peer fault low high
  have hwf : regsWf s.dev = true := regsWf_of_sound hsound
  have hlinks := linksCanonical_of_sound hsound
  set a := identAnswered l.val r s.dev with ha
  have hanswered : Touches [aWINDROW_LINK_PEER l.val] s.dev a := touches_identAnswered hwf
  have hidentRegs : Touches (identRegs l.val) s.dev a := hanswered.mono (by simp [identRegs])
  have hrd {o : Nat} (ho : o ≠ aWINDROW_LINK_PEER l.val) : rd o a = rd o s.dev := rd_identAnswered hwf ho
  have hlanes : lanesUp l.val a = lanesUp l.val s.dev := lanesUp_congr (hrd (linkStatus_ne_linkPeer l.val l.val))
  have hcanSame : canTrain l.val a = canTrain l.val s.dev := canTrain_congr fun o ho => hrd ho
  have hgen := hrd (gen_ne_linkPeer l.val)
  have hlow : max (genMin a) r.genMin.toNat = low := by simp only [low, genMin, rdF, hgen]
  have hhigh : min (genMax a) r.genMax.toNat = high := by simp only [high, genMax, rdF, hgen]
  have hend (hst : linkState l.val s.dev = 2) (hv : r.verdict ≠ 0) :
      identReceived l.val r s.dev = identEnd l.val fault r a := by
    rw [identReceived_eq hst, if_neg (fun e => hv (BitVec.eq_of_toNat_eq (e.trans rfl)))]
  have hgood {v : r.verdict = 1} : r.verdict.toNat = 1 := by rw [v]; rfl
  refine ⟨fun hst hcan => ?starts, fun hno => ?noStart, fun hst => ?notTraining, fun hst hcan => ?barred,
    fun hst hcan hfec hcount => ?locks, fun hst hcan hfail => ?fails, fun hst => ?notIdent, fun hst hv hmine => ?first,
    fun hst hv hfault => ?quarantined, fun hst hv hfault hcan => ?barredIdent, fun hst hv hfault hcan hgap => ?isolated,
    fun hst hv hfault hcan hmeet => ?up⟩
  case starts =>
    have heq : trainingStart l.val s.dev = setState l.val 1 s.dev := if_pos (by simp [hst, hcan])
    have ht : Touches [st] s.dev (setState l.val 1 s.dev) := (Touches.refl hwf).setState List.mem_cons_self
    exact ⟨_, by rw [exec_trainingStart, heq], linkState_setState hwf (by decide), ht.regs, ht.memSame⟩
  case noStart =>
    rw [exec_trainingStart, trainingStart, if_neg]
    rintro hboth
    obtain ⟨hst, hcan⟩ := Bool.and_eq_true_iff.1 hboth
    exact hno.elim (· (of_decide_eq_true hst)) (by simp [hcan])
  case notTraining =>
    rw [exec_trainingDone, linkTrained_unlocked (fun hh => hst hh.1), trainingDone_idle hst]
  case barred => exact ⟨_, exec_trainingDone .., linkTrained_barred_spec hwf hst hcan⟩
  case locks =>
    obtain ⟨hstate, hlanesUp, hlink, hsent, ht⟩ := linkTrained_locked_spec hwf hlinks hst hcan ⟨hfec, hcount⟩
    exact ⟨_, exec_trainingDone .., hstate, hlanesUp, hlink, hsent, ht.regs, ht.memSame⟩
  case fails =>
    refine ⟨_, exec_trainingDone .., linkTrained_failed_spec hwf hst hcan ?_⟩
    rintro ⟨hfec, hcount⟩
    exact hfail.elim (· hfec) (Nat.not_lt.2 hcount)
  case notIdent =>
    exact congrArg (fun d => Host.Outcome.next { s with dev := d }) (linkRow_idle (identReceived_idle hst))
  case first =>
    have heq : identReceived l.val r s.dev = a := by rw [identReceived_eq hst, if_pos (by rw [hv]; rfl)]
    refine ⟨a, exec_ident heq hst hidentRegs, (linkState_congr (hrd (linkStatus_ne_linkPeer l.val l.val))).trans hst,
      rd_peer_identAnswered hwf, ?_, sentRecord_identAnswered hmine, hanswered.regs, hanswered.memSame⟩
    rw [ha, linkOf_identAnswered hlinks]
    rfl
  case quarantined =>
    obtain ⟨hstate, hreason, hleaf, ht⟩ := identEnd_bad_spec (l := l.val) (r := r) hanswered.wf hfault (identFault_lt ..)
    have ht' := hidentRegs.trans (ht.mono (List.subset_cons_self ..))
    exact ⟨_, exec_ident (hend hst hv) hst ht', hstate, hreason, hleaf, ht'.memSame⟩
  case barredIdent =>
    have heq := hend hst (by rw [hv]; decide)
    rw [hfault, identEnd_barred (hgood (v := hv)) (hcanSame.trans hcan)] at heq
    obtain ⟨hstate, hlanes, ht⟩ := linkFalls_spec (l := l.val) (st := 0) hanswered.wf (by decide)
    have ht' := hidentRegs.trans (ht.mono (List.subset_cons_self ..))
    exact ⟨_, exec_ident heq hst ht', hstate, hlanes, ht'.memSame⟩
  case isolated =>
    have heq := hend hst (by rw [hv]; decide)
    rw [hfault] at heq
    obtain ⟨hstate, hleaf, ht⟩ := identEnd_apart_spec (l := l.val) hanswered.wf (hgood (v := hv)) (hcanSame.trans hcan)
      (by rwa [hlow, hhigh])
    have ht' := hidentRegs.trans (ht.mono (List.subset_cons_self ..))
    exact ⟨_, exec_ident heq hst ht', hstate, hleaf, ht'.memSame⟩
  case up =>
    have heq := hend hst (by rw [hv]; decide)
    rw [hfault] at heq
    obtain ⟨hstate, hgenUp, ht⟩ := identEnd_up_spec (l := l.val) hanswered.wf (hgood (v := hv)) (hcanSame.trans hcan)
      (by rwa [hlow, hhigh])
    have ht' : Touches [st, peer] s.dev (identEnd l.val 0 r a) := (hanswered.mono (by simp [peer])).trans (ht.mono (by simp [st]))
    refine ⟨_, exec_ident heq hst (ht'.mono (by simp [st, peer, identRegs, fallRegs])), ?_, hgenUp.trans hhigh, ?_, ht'.regs,
      ht'.memSame⟩
    · rw [hstate, hlanes]
    · rw [ht.regs _ (by simpa using (linkStatus_ne_linkPeer l.val l.val).symm), rd_peer_identAnswered hwf]

end Sys2Proof.Machine

/-! SUPPORT. Lanes, actions on links, and links lost (R342, R355, R373, R513). -/
namespace Sys2Proof.Machine

section
variable {l k lane : Nat} {m n n' : Dev}

/-! ### The commands that can take a link out of service (R167) -/

theorem exec_linkAct {c : Instr} {f : Dev → Dev} (hf : linkActOf c = some f) (s : State) :
    exec c s = .next { s with dev := linkRow f s.dev } := by
  unfold linkActOf at hf
  split at hf <;> cases hf <;> rfl

/-- A command that leaves the units of a commit in service does no more than its act. -/
theorem exec_of_keepsCommit {c : Instr} {f : Dev → Dev} {s : State} (hf : linkActOf c = some f) (hk : keepsCommit c s.dev)
    (hn : f s.dev = n) : exec c s = .next { s with dev := n } := by
  rw [exec_linkAct hf, linkRow_eq (hk f hf), hn]

theorem exec_of_actIdle {c : Instr} {f : Dev → Dev} {s : State} (hf : linkActOf c = some f) (hn : f s.dev = s.dev) :
    exec c s = .next s := by
  rw [exec_linkAct hf, linkRow_idle hn]

/-! ### Lanes (R342, R513) -/

theorem sendRecord_links (l ctype : Nat) (body : List Byte) (m : Dev) : (sendRecord l ctype body m).links = m.links := rfl

/-- The link with its lanes set, in the state named, and the LANE record sent. -/
theorem sendLane_spec {lanes st step : Nat} (h : regsWf m = true) (hlanes : lanes < 16) (hst : st < 8) :
    let n := sendLane l lanes step (setState l st (setLanes l lanes m))
    linkState l n = st ∧ lanesUp l n = lanes ∧ sentRecord l 4 m n ∧ linkOf l n = linkOf l m ∧
      Touches [aWINDROW_LINK_STATUS l] m n := by
  intro n
  have hset : Touches [aWINDROW_LINK_STATUS l] m (setState l st (setLanes l lanes m)) :=
    ((Touches.refl h).setLanes List.mem_cons_self).setState List.mem_cons_self
  have hlane : regsWf (setLanes l lanes m) = true := regsWf_wrF h _ _ _
  have hsame : SameButLinks (setState l st (setLanes l lanes m)) n := (SameButLinks.refl _).sendRecord l 4 _
  have hstatus := rd_congr hsame.regs (aWINDROW_LINK_STATUS l)
  refine ⟨(linkState_congr hstatus).trans (linkState_setState hlane hst), (lanesUp_congr hstatus).trans ?_,
    sentRecord_sendRecord ?_ _ _, (linkOf_sendRecord ..).trans ?_, hset.sameButLinks hsame⟩
  · exact (lanesUp_setState hlane).trans (lanesUp_setLanes h hlanes)
  · rw [setState, setLanes, wrF, wrF, wr_out, wr_out]
  · rw [setState, setLanes, wrF, wrF, linkOf_wr, linkOf_wr]

/-- The lanes left to a link without one of them. -/
def lanesWithout (l lane : Nat) (m : Dev) : Nat := Nat.land (lanesUp l m) (15 - 2 ^ lane)

theorem lanesWithout_lt : lanesWithout l lane m < 16 := lt_of_le_of_lt Nat.and_le_left (lanesUp_lt l m)

theorem dropLane_keeps (hleft : 3 ≤ laneCount (lanesWithout l lane m)) :
    dropLane l lane m = sendLane l (lanesWithout l lane m) 0 (setState l 4 (setLanes l (lanesWithout l lane m) m)) :=
  if_neg (Nat.not_lt.2 hleft)

theorem dropLane_ends (hleft : laneCount (lanesWithout l lane m) < 3) : dropLane l lane m = linkGoesDown l m := if_pos hleft

theorem linkUp_of_state (h : linkState l m = 3 ∨ linkState l m = 4) : linkUp l m = true := by
  simpa [linkUp] using h

theorem linkUp_false_of_state {st : Nat} (h : linkState l m = st) (hst : st ≠ 3 ∧ st ≠ 4) : linkUp l m = false := by
  simpa [linkUp, h] using hst

theorem laneLoss_idle (h : linkUp l m = false ∨ bitAt (lanesUp l m) lane = false) : laneLoss l lane m = m :=
  if_pos (by simpa using h)

theorem laneLoss_eq (hup : linkUp l m = true) (hhas : bitAt (lanesUp l m) lane = true) :
    laneLoss l lane m = when (linkUp l (dropLane l lane m)) (raise cWINDROW_LINK_LANE_DEGRADED) (dropLane l lane m) :=
  if_neg (by simp [hup, hhas])

theorem laneHandshake_idle {mask step : Nat} (h : linkUp l m = false ∨ lanesLocked l mask m = lanesUp l m) :
    laneHandshake l mask step m = m :=
  if_pos (by simpa [lanesLocked] using h)

theorem laneHandshake_ends {mask step : Nat} (hup : linkUp l m = true) (hnew : lanesLocked l mask m ≠ lanesUp l m)
    (hcount : laneCount (lanesLocked l mask m) < 3) : laneHandshake l mask step m = linkGoesDown l m := by
  unfold lanesLocked at hnew hcount
  rw [laneHandshake, if_neg (by simpa [hup] using hnew), if_pos hcount]

theorem linkGoesDown_idle (hup : linkUp l m = false) : linkGoesDown l m = m := if_neg (by simp [hup])

theorem linkDownEvent_idle (hup : linkUp l m = false) (why : LinkLoss) : linkDownEvent l why m = m := by
  cases why <;> simp [linkDownEvent, hup, linkGoesDown_idle hup]

theorem linkDownEvent_eq {why : LinkLoss} (h : why ≠ .retryLimit) : linkDownEvent l why m = linkGoesDown l m := by
  cases why with
  | retryLimit => exact absurd rfl h
  | _ => rfl

theorem linkDownEvent_retryLimit (hup : linkUp l m = true) :
    linkDownEvent l .retryLimit m = linkGoesDown l (raise cWINDROW_LINK_RETRY_LIMIT (linkFault 3 l m)) :=
  if_pos hup

theorem linkStatus_ne_degraded : aWINDROW_LINK_STATUS l ≠ cWINDROW_LINK_LANE_DEGRADED.reg :=
  fun e => linkStatus_notMem_routeTraces l (e ▸ by decide)

section
variable (h : regsWf m = true)
include h

/-- A link that drops a lane and keeps three is DEGRADED on them. -/
theorem dropLane_spec (hleft : 3 ≤ laneCount (lanesWithout l lane m)) :
    linkState l (dropLane l lane m) = 4 ∧ lanesUp l (dropLane l lane m) = lanesWithout l lane m ∧
      sentRecord l 4 m (dropLane l lane m) ∧ linkOf l (dropLane l lane m) = linkOf l m ∧
      Touches [aWINDROW_LINK_STATUS l] m (dropLane l lane m) := by
  rw [dropLane_keeps hleft]
  exact sendLane_spec h lanesWithout_lt (by decide)

theorem laneLoss_spec (hup : linkUp l m = true) (hhas : bitAt (lanesUp l m) lane = true)
    (hleft : 3 ≤ laneCount (lanesWithout l lane m)) :
    linkState l (laneLoss l lane m) = 4 ∧ lanesUp l (laneLoss l lane m) = lanesWithout l lane m ∧
      sentRecord l 4 m (laneLoss l lane m) ∧ leafSet cWINDROW_LINK_LANE_DEGRADED (laneLoss l lane m) = true ∧
      Touches [aWINDROW_LINK_STATUS l, cWINDROW_LINK_LANE_DEGRADED.reg] m (laneLoss l lane m) := by
  obtain ⟨hstate, hlanes, hsent, -, ht⟩ := dropLane_spec h hleft
  rw [laneLoss_eq hup hhas, when, if_pos (linkUp_of_state (.inr hstate))]
  have hstatus := rd_raise_ne ht.wf cWINDROW_LINK_LANE_DEGRADED (o := aWINDROW_LINK_STATUS l) linkStatus_ne_degraded
  refine ⟨(linkState_congr hstatus).trans hstate, (lanesUp_congr hstatus).trans hlanes, ?_, leafSet_raise ht.wf _,
    (ht.mono (by simp)).raise (by simp)⟩
  unfold sentRecord at hsent ⊢
  rwa [raise_out]

theorem laneLoss_down (hup : linkUp l m = true) (hhas : bitAt (lanesUp l m) lane = true)
    (hleft : laneCount (lanesWithout l lane m) < 3) : laneLoss l lane m = linkGoesDown l m := by
  obtain ⟨hstate, -⟩ := linkGoesDown_spec h hup
  rw [laneLoss_eq hup hhas, dropLane_ends hleft, when, if_neg (by simp [linkUp_false_of_state hstate])]

/-- The lanes that the peer names are set and answered; a drop raises LANE_DEGRADED. -/
theorem laneHandshake_spec {mask step : Nat} (hup : linkUp l m = true) (hnew : lanesLocked l mask m ≠ lanesUp l m)
    (hcount : 3 ≤ laneCount (lanesLocked l mask m)) :
    let n := laneHandshake l mask step m
    lanesUp l n = lanesLocked l mask m ∧ linkState l n = (if laneCount (lanesLocked l mask m) = 4 then 3 else 4) ∧
      sentRecord l 4 m n ∧
      (laneCount (lanesLocked l mask m) < laneCount (lanesUp l m) → leafSet cWINDROW_LINK_LANE_DEGRADED n = true) ∧
      Touches [aWINDROW_LINK_STATUS l, cWINDROW_LINK_LANE_DEGRADED.reg] m n := by
  intro n
  set lanes := lanesLocked l mask m with hlanes
  set st := if laneCount lanes = 4 then 3 else 4 with hst
  set fewer := decide (laneCount lanes < laneCount (lanesUp l m)) with hfewer
  set a := setState l st (setLanes l lanes m) with ha
  set b := when fewer (raise cWINDROW_LINK_LANE_DEGRADED) a with hb
  have hn : n = sendLane l lanes step b := by
    unfold lanesLocked at hlanes
    simp only [n, laneHandshake]
    rw [← hlanes, if_neg (by simpa [hup] using hnew), if_neg (Nat.not_lt.2 hcount)]
  have hlt : lanes < 16 := land_lt_sixteen (laneEnabled_lt l m)
  have hstlt : st < 8 := by rw [hst]; split <;> decide
  have hlane : regsWf (setLanes l lanes m) = true := regsWf_wrF h _ _ _
  have hset : Touches [aWINDROW_LINK_STATUS l] m a :=
    ((Touches.refl h).setLanes List.mem_cons_self).setState List.mem_cons_self
  have hraise : Touches [cWINDROW_LINK_LANE_DEGRADED.reg] a b :=
    Touches.when (fun hm => hm.raise List.mem_cons_self) (.refl hset.wf)
  have hsame : SameButLinks b n := hn ▸ (SameButLinks.refl b).sendRecord l 4 _
  have hstatus : rd (aWINDROW_LINK_STATUS l) n = rd (aWINDROW_LINK_STATUS l) a :=
    (rd_congr hsame.regs _).trans (hraise.regs _ (by simpa using linkStatus_ne_degraded))
  refine ⟨(lanesUp_congr hstatus).trans ((lanesUp_setState hlane).trans (lanesUp_setLanes h hlt)),
    (linkState_congr hstatus).trans (linkState_setState hlane hstlt), ?_, fun hdrop => ?_,
    ((hset.mono (by simp)).trans (hraise.mono (by simp))).sameButLinks hsame⟩
  · have hout : b.out = m.out :=
      when_keeps (fun d => d.out = m.out) _ _ _ (fun hd => (raise_out ..).trans hd)
        (by rw [ha, setState, setLanes, wrF, wrF, wr_out, wr_out])
    rw [hn]
    exact sentRecord_sendRecord hout _ _
  · rw [leafSet_of_rd (rd_congr hsame.regs _), hb, when, if_pos (by simpa [hfewer] using hdrop)]
    exact leafSet_raise hset.wf _

/-- A link lost is DOWN under LINK/DOWN, for a spent RETRY_LIMIT under its own cause too. -/
theorem linkDownEvent_spec (hl : l < 36) (hup : linkUp l m = true) (why : LinkLoss) :
    (linkState l (linkDownEvent l why m) = 0 ∧ lanesUp l (linkDownEvent l why m) = 0 ∧
      leafSet cWINDROW_LINK_DOWN (linkDownEvent l why m) = true ∧ memSame m (linkDownEvent l why m)) ∧
    (why = .retryLimit → leafSet cWINDROW_LINK_RETRY_LIMIT (linkDownEvent l why m) = true) := by
  by_cases hwhy : why = .retryLimit
  · subst hwhy
    rw [linkDownEvent_retryLimit hup]
    have hfault : Touches routeTraces m (linkFault 3 l m) := (Touches.refl h).windrowFault List.mem_cons_self
    set a := raise cWINDROW_LINK_RETRY_LIMIT (linkFault 3 l m) with ha
    have hraise : Touches routeTraces m a := hfault.raise (by decide)
    have hupa : linkUp l a = true := (linkUp_congr (hraise.regs _ (linkStatus_notMem_routeTraces l))).trans hup
    obtain ⟨hstate, hlanes, hleaf, ht⟩ := linkGoesDown_spec hraise.wf hupa
    have hkept : Kept [] a (linkGoesDown l a) := spared_nil.linkGoesDown hl (.refl hraise.wf)
    exact ⟨⟨hstate, hlanes, hleaf, memSame_of_mem (ht.mem.trans hraise.mem)⟩,
      fun _ => hkept.leafSet (by decide) (by decide) (leafSet_raise hfault.wf _)⟩
  · rw [linkDownEvent_eq hwhy]
    obtain ⟨hstate, hlanes, hleaf, ht⟩ := linkGoesDown_spec h hup
    exact ⟨⟨hstate, hlanes, hleaf, ht.memSame⟩, fun e => absurd e hwhy⟩

end

/-! ### What a link keeps while packets pass it by -/

/-- `n` has the links of `m` but for link `k`. -/
structure OnlyLink (k : Nat) (m n : Dev) : Prop where
  links : Sparse.wfD (fun _ => LinkDyn.idle) n.links = true
  others : ∀ l ≠ k, linkOf l n = linkOf l m

theorem OnlyLink.refl (h : Sparse.wfD (fun _ => LinkDyn.idle) m.links = true) : OnlyLink k m m := ⟨h, fun _ _ => rfl⟩

theorem OnlyLink.congr (h : OnlyLink k m n) (hn : n'.links = n.links) : OnlyLink k m n' :=
  ⟨by rw [hn]; exact h.links, fun l hl => (congrArg (Sparse.get LinkDyn.idle · l) hn).trans (h.others l hl)⟩

theorem OnlyLink.setLink (h : OnlyLink k m n) (x : LinkDyn) : OnlyLink k m (setLink k x n) :=
  ⟨Sparse.wfD_upd LinkDyn.idle h.links, fun l hl => (Sparse.get_upd_ne LinkDyn.idle h.links hl).trans (h.others l hl)⟩

theorem OnlyLink.startPacket (h : OnlyLink k m n) (p : Packet) : OnlyLink k m (startPacket k p n) :=
  (h.setLink _).congr rfl

theorem onlyLink_nextByWeight {fuel : Nat} {q : QueuedPkt} (e : nextByWeight fuel k n = some (q, n')) (h : OnlyLink k m n) :
    OnlyLink k m n' := by
  induction fuel generalizing n with
  | zero => cases e
  | succ fuel ih =>
    simp only [nextByWeight] at e
    split at e
    · exact ih e (h.setLink _)
    · split at e
      · cases e
        exact h.setLink _
      · exact ih e (h.setLink _)

theorem onlyLink_nextPacket {q : QueuedPkt} (e : nextPacket k n = some (q, n')) (h : OnlyLink k m n) : OnlyLink k m n' := by
  unfold nextPacket at e
  split at e
  · cases e
    exact h
  · split at e
    · exact onlyLink_nextByWeight e h
    · cases e

theorem onlyLink_drainSteps {fuel : Nat} (h : OnlyLink k m n) : OnlyLink k m (drainSteps fuel k n) := by
  induction fuel generalizing n with
  | zero => exact h
  | succ fuel ih =>
    unfold drainSteps
    split
    · exact h
    next e => exact ih (((onlyLink_nextPacket e h).setLink _).startPacket _)

theorem OnlyLink.offerPacket (h : OnlyLink k m n) (q : QueuedPkt) : OnlyLink k m (offerPacket k q n) :=
  onlyLink_drainSteps (h.setLink _)

theorem mem_portOpen_of_chooseLink {d port : Nat} {p : Packet} (h : chooseLink d port p m = some k) : k ∈ portOpen port m := by
  unfold chooseLink at h
  simp only at h
  split at h
  · exact List.mem_of_find?_eq_some h
  · exact List.mem_of_getElem? h

/-- A link that is being taken out is no way for a packet (R373). -/
theorem notMem_portOpen_of_taking {port : Nat} (h : (linkOf l m).taking = true) : l ∉ portOpen port m := by
  simp [portOpen, h]

theorem raise_links (c : Cause) (m : Dev) : (raise c m).links = m.links := by
  obtain ⟨g, n, k, h⟩ := raise_cases c m
  rw [h]
  rfl

theorem windrowFault_links (kind link coord job : Nat) (m : Dev) : (windrowFault kind link coord job m).links = m.links := by
  unfold windrowFault recordFirst
  split
  · rfl
  · exact wr_links ..

theorem sendDraft_links (x : Draft) (m : Dev) : (sendDraft x m).links = m.links := by
  unfold sendDraft
  simp only
  split <;> rfl

theorem sendNack_links (reason die : Nat) (p : Packet) (m : Dev) : (sendNack reason die p m).links = m.links := by
  unfold sendNack
  split
  · exact windrowFault_links ..
  · exact sendDraft_links ..

theorem unreachable_links (d : Nat) (p : Packet) (m : Dev) : (unreachable d p m).links = m.links := by
  unfold unreachable
  rw [raise_links]
  split
  · exact windrowFault_links ..
  · rw [sendNack_links, windrowFault_links]

/-- The link is being taken out, and its record is `x`. -/
structure StaysTaken (l : Nat) (x : LinkDyn) (m : Dev) : Prop where
  links : Sparse.wfD (fun _ => LinkDyn.idle) m.links = true
  link : linkOf l m = x
  taking : x.taking = true

section
variable {x : LinkDyn}

theorem StaysTaken.congr (h : StaysTaken l x m) (hn : n.links = m.links) : StaysTaken l x n :=
  ⟨by rw [hn]; exact h.links, (congrArg (Sparse.get LinkDyn.idle · l) hn).trans h.link, h.taking⟩

theorem StaysTaken.leaveBy {d port : Nat} {detour : Bool} {p : Packet} (h : StaysTaken l x m) :
    StaysTaken l x (leaveBy d port detour p m) := by
  unfold Machine.leaveBy
  split
  next k hk =>
    have hne : l ≠ k := fun e =>
      notMem_portOpen_of_taking (h.link ▸ h.taking) (e ▸ mem_portOpen_of_chooseLink hk)
    have honly := (OnlyLink.refl (k := k) h.links).offerPacket ⟨{ p with route := routeAfter p port detour m }, p.route⟩
    exact ⟨honly.links, (honly.others l hne).trans h.link, h.taking⟩
  next => exact h.congr (unreachable_links ..)

theorem StaysTaken.packetRoute {d : Nat} {p : Packet} (h : StaysTaken l x m) : StaysTaken l x (packetRoute d none p m) := by
  fun_cases Machine.packetRoute
  · exact h.congr ((raise_links ..).trans (windrowFault_links ..))
  · exact h.congr rfl
  · exact h.congr (unreachable_links ..)
  · exact h.leaveBy
  · exact h.congr (unreachable_links ..)
  · exact h.leaveBy

theorem StaysTaken.requeue {k : Nat} {qs : List QueuedPkt} (h : StaysTaken l x m) : StaysTaken l x (requeue k qs m) :=
  forEach_keeps (StaysTaken l x) _ _ _ (fun _ _ _ h => h.packetRoute) h

end

/-! ### Actions on a link (R373, R513) -/

/-- The link takes no new packets, and holds none that has not started. -/
def takingOut (l : Nat) (m : Dev) : Dev := setLink l { linkOf l m with taking := true, queue := [] } m

theorem linkTakeOut_up (hup : linkUp l m = true) :
    linkTakeOut l m = takeOutEnd l (requeue l (linkOf l m).queue (takingOut l m)) := if_pos hup

theorem linkTakeOut_rest (hup : linkUp l m = false) : linkTakeOut l m = linkFalls l 7 m := if_neg (by simp [hup])

theorem staysTaken_takingOut (h : Sparse.wfD (fun _ => LinkDyn.idle) m.links = true) :
    StaysTaken l { linkOf l m with taking := true, queue := [] } (takingOut l m) :=
  ⟨Sparse.wfD_upd LinkDyn.idle h, linkOf_setLink h _, rfl⟩

theorem takeOutEnd_done (ht : (linkOf l m).taking = true) (hr : (linkOf l m).retryBuf = []) :
    takeOutEnd l m = linkFalls l 7 m := if_pos (by simp [ht, hr])

theorem takeOutEnd_waits (hr : (linkOf l m).retryBuf ≠ []) : takeOutEnd l m = m := if_neg (by simp [hr])

/-- A link that is out at once: it carried no traffic, or had nothing to be acknowledged. -/
theorem linkTakeOut_done_spec (h : regsWf m = true) (hlinks : Sparse.wfD (fun _ => LinkDyn.idle) m.links = true)
    (hdone : linkUp l m = false ∨ (linkOf l m).retryBuf = []) :
    linkState l (linkTakeOut l m) = 7 ∧ lanesUp l (linkTakeOut l m) = 0 ∧ memSame m (linkTakeOut l m) := by
  by_cases hup : linkUp l m = true
  · have hretry := hdone.resolve_left (by simp [hup])
    have hstays : StaysTaken l _ (requeue l (linkOf l m).queue (takingOut l m)) := (staysTaken_takingOut hlinks).requeue
    have ht : Touches routeTraces m (requeue l (linkOf l m).queue (takingOut l m)) :=
      ((Touches.refl h).sameButLinks ((SameButLinks.refl m).setLink l _)).requeue
    rw [linkTakeOut_up hup, takeOutEnd_done (by rw [hstays.link]) (by rw [hstays.link]; exact hretry)]
    obtain ⟨hstate, hlanes, hfalls⟩ := linkFalls_spec (l := l) (st := 7) ht.wf (by decide)
    exact ⟨hstate, hlanes, memSame_of_mem (hfalls.mem.trans ht.mem)⟩
  · rw [linkTakeOut_rest (Bool.eq_false_iff.2 hup)]
    obtain ⟨hstate, hlanes, hfalls⟩ := linkFalls_spec (l := l) (st := 7) h (by decide)
    exact ⟨hstate, hlanes, hfalls.memSame⟩

theorem linkTakeOut_waits (hup : linkUp l m = true) (hlinks : Sparse.wfD (fun _ => LinkDyn.idle) m.links = true)
    (hretry : (linkOf l m).retryBuf ≠ []) (hqueue : (linkOf l m).queue = []) : linkTakeOut l m = takingOut l m := by
  rw [linkTakeOut_up hup, hqueue]
  exact takeOutEnd_waits (m := takingOut l m) (by rw [(staysTaken_takingOut hlinks).link]; exact hretry)

theorem linkRetrain_idle (h : linkState l m = 7 ∨ canTrain l m = false) : linkRetrain l m = m := if_pos (by simpa using h)

theorem linkRetrain_spec (h : regsWf m = true) (hst : linkState l m ≠ 7) (hcan : canTrain l m = true) :
    linkState l (linkRetrain l m) = 1 ∧ memSame m (linkRetrain l m) := by
  have hfalls : Touches (fallRegs l) m (when (linkUp l m) (linkFalls l 0) m) := by
    unfold when
    split
    · exact (linkFalls_spec h (by decide)).2.2
    · exact .refl h
  rw [linkRetrain, if_neg (by simp [hst, hcan])]
  exact ⟨linkState_setState hfalls.wf (by decide), memSame_of_mem hfalls.mem⟩

/-- The lane of an ACTION 3 is dropped without a cause, and the link waits for it. -/
theorem laneRecalibrate_spec (h : regsWf m = true) (hlinks : Sparse.wfD (fun _ => LinkDyn.idle) m.links = true)
    (hst : linkState l m = 3) (hleft : 3 ≤ laneCount (lanesWithout l lane m)) :
    let n := laneRecalibrate l lane m
    linkState l n = 4 ∧ lanesUp l n = lanesWithout l lane m ∧ linkOf l n = { linkOf l m with recal := some lane } ∧
      sentRecord l 4 m n ∧ Touches [aWINDROW_LINK_STATUS l] m n := by
  intro n
  obtain ⟨hstate, hlanes, hsent, hlink, ht⟩ := dropLane_spec h hleft
  have hlinks' : (dropLane l lane m).links = m.links := by
    rw [dropLane_keeps hleft, sendLane, sendRecord_links, setState, setLanes, wrF, wrF, wr_links, wr_links]
  have hn : n = setLink l { linkOf l m with recal := some lane } (dropLane l lane m) := by
    simp only [n]
    rw [laneRecalibrate, if_neg (by simp [hst])]
    simp only [hlink]
  have hsame : SameButLinks (dropLane l lane m) n := hn ▸ (SameButLinks.refl _).setLink l _
  have hstatus := rd_congr hsame.regs (aWINDROW_LINK_STATUS l)
  refine ⟨(linkState_congr hstatus).trans hstate, (lanesUp_congr hstatus).trans hlanes, ?_, ?_, ht.sameButLinks hsame⟩
  · rw [hn, linkOf_setLink (by rw [hlinks']; exact hlinks)]
  · rw [hn]
    exact hsent

/-! ### The end of a recalibration (R513) -/

/-- The link waits for no lane. -/
def recalOver (l : Nat) (m : Dev) : Dev := setLink l { linkOf l m with recal := none } m

theorem laneRecalDone_idle {ok : Bool} {settings : List Byte} (h : (linkOf l m).recal = none) :
    laneRecalDone l ok settings m = m := by
  simp [laneRecalDone, h]

theorem laneRecalDone_out {settings : List Byte} (h : (linkOf l m).recal = some lane) (hup : linkUp l m = true) :
    laneRecalDone l false settings m = raise cWINDROW_LINK_LANE_DEGRADED (recalOver l m) := by
  simp [laneRecalDone, laneRecalEnd, h, hup, recalOver]

/-- The lanes of a link with one that rejoins. -/
def lanesWith (l lane : Nat) (m : Dev) : Nat := Nat.lor (lanesUp l m) (2 ^ lane)

theorem lanesWith_lt (hlane : lane < 4) : lanesWith l lane m < 16 :=
  Nat.or_lt_two_pow (n := 4) (lanesUp_lt l m) (Nat.pow_lt_pow_right (by decide) hlane)

/-- The lane has rejoined. -/
def laneBack (l lane : Nat) (m : Dev) : Dev :=
  sendLane l (lanesWith l lane m) 0
    (setState l (if laneCount (lanesWith l lane m) = 4 then 3 else 4) (setLanes l (lanesWith l lane m) m))

theorem laneRecalDone_back {settings : List Byte} (h : (linkOf l m).recal = some lane) (hup : linkUp l m = true) :
    laneRecalDone l true settings m = storeLanes [(4 * l + lane, settings)] (laneBack l lane (recalOver l m)) := by
  have hend : laneRecalEnd l true m = laneBack l lane (recalOver l m) := by
    unfold laneRecalEnd
    rw [h]
    simp only [hup, Bool.not_true, Bool.false_eq_true, if_false, if_true]
    rfl
  unfold laneRecalDone
  rw [h]
  simp only [if_true, hend]

theorem laneRecalDone_back_spec {settings : List Byte} (hwf : regsWf m = true)
    (hlinks : Sparse.wfD (fun _ => LinkDyn.idle) m.links = true) (hlane : lane < 4)
    (h : (linkOf l m).recal = some lane) (hup : linkUp l m = true) :
    let n := laneRecalDone l true settings m
    lanesUp l n = lanesWith l lane m ∧ linkState l n = (if laneCount (lanesWith l lane m) = 4 then 3 else 4) ∧
      linkOf l n = { linkOf l m with recal := none } ∧ memSame m n := by
  intro n
  have hover : SameButLinks m (recalOver l m) := (SameButLinks.refl m).setLink l _
  have hwith : lanesWith l lane (recalOver l m) = lanesWith l lane m := by
    rw [lanesWith, lanesUp_congr (rd_congr hover.regs _), lanesWith]
  obtain ⟨hstate, hlanes, -, hlink, ht⟩ := sendLane_spec (l := l) (step := 0) (regsWf_of_regs hwf hover.regs)
    (lanesWith_lt (l := l) (m := recalOver l m) hlane)
    (show (if laneCount (lanesWith l lane (recalOver l m)) = 4 then 3 else 4) < 8 by split <;> decide)
  rw [hwith] at hstate hlanes
  have hcal : SameButCalibration (laneBack l lane (recalOver l m)) n := by
    simp only [n]
    rw [laneRecalDone_back h hup]
    exact sameButCalibration_storeLanes ..
  have hstatus := rd_calibration ht.wf hcal (linkStatus_ne_genReg l)
  refine ⟨(lanesUp_congr hstatus).trans hlanes, (linkState_congr hstatus).trans hstate,
    (hcal.linkOf l).trans (hlink.trans (linkOf_setLink hlinks _)), ?_⟩
  have hall : Touches [aWINDROW_LINK_STATUS l, genReg 4] (recalOver l m) n := Touches.calibration (by simp) (ht.mono (by simp)) hcal
  exact memSame_of_mem (hall.mem.trans hover.mem)

theorem exec_laneRecalDone (l : Fin 36) (ok : Bool) (settings : List Byte) (s : State) :
    exec (.laneRecalDone l ok settings) s = .next { s with dev := laneRecalDone l.val ok settings s.dev } := rfl

theorem laneRecalDone_out_spec {settings : List Byte} (hwf : regsWf m = true)
    (hlinks : Sparse.wfD (fun _ => LinkDyn.idle) m.links = true) (h : (linkOf l m).recal = some lane) (hup : linkUp l m = true) :
    let n := laneRecalDone l false settings m
    leafSet cWINDROW_LINK_LANE_DEGRADED n = true ∧ linkOf l n = { linkOf l m with recal := none } ∧
      Touches [cWINDROW_LINK_LANE_DEGRADED.reg] m n := by
  intro n
  have hover : SameButLinks m (recalOver l m) := (SameButLinks.refl m).setLink l _
  have hn : n = raise cWINDROW_LINK_LANE_DEGRADED (recalOver l m) := laneRecalDone_out h hup
  have hwf' : regsWf (recalOver l m) = true := regsWf_of_regs hwf hover.regs
  rw [hn]
  refine ⟨leafSet_raise hwf' _, ?_, ((Touches.refl hwf).sameButLinks hover).raise List.mem_cons_self⟩
  exact (congrArg (Sparse.get LinkDyn.idle · l) (raise_links ..)).trans (linkOf_setLink hlinks _)

end
end Sys2Proof.Machine

/-! SUPPORT. What goes on when a commit that lost a unit ends (R167): the waiting packets and requests, whatever they are. -/
namespace Sys2Proof.Machine

/-! ### Work on pages and rings, and all that it may touch -/

/-- A property of a module that stands through the writes and causes of a ring's halt: through everything that leaves the registers,
the plan, the shadows, the packets and the lent writes alone, writes of registers beyond the Headland block but FPLAN_STATUS, and
causes (a cause whose leaf register were FPLAN_STATUS sets a bit of its upper half). -/
structure Steady (P : Dev → Prop) : Prop where
  congr : ∀ {m n : Dev}, P m → n.regs = m.regs → n.plan = m.plan → n.shadow = m.shadow → n.net = m.net →
    n.tiers.peerOut = m.tiers.peerOut → P n
  wr : ∀ {o : Nat} {v : Word} {m : Dev}, 0x10000 ≤ o → o ≠ aFPLAN_STATUS → P m → P (wr o v m)
  raise : ∀ {c : Cause} {m : Dev}, (c.reg = aFPLAN_STATUS → 32 ≤ c.leaf % 64) → P m → P (raise c m)

section
variable {P : Dev → Prop} (hP : Steady P) {m n : Dev}
include hP

theorem Steady.countSat {o k : Nat} {f : Fld} (hlow : 0x10000 ≤ o) (ho : o ≠ aFPLAN_STATUS) (h : P m) : P (countSat o f k m) :=
  hP.wr hlow ho h

theorem Steady.recordFirst {o : Nat} {v : Word} (hlow : 0x10000 ≤ o) (ho : o ≠ aFPLAN_STATUS) (h : P m) :
    P (recordFirst o v m) := by
  unfold Machine.recordFirst
  split
  · exact h
  · exact hP.wr hlow ho h

omit hP in
theorem forEach_all {α : Type} {xs : List α} {f : α → Dev → Dev} (hf : ∀ x m, P m → P (f x m)) (h : P m) :
    P (forEach xs f m) :=
  forEach_keeps P xs f m (fun x _ => hf x) h

/-! ### Pages of the tiers -/

theorem Steady.stN {k a v : Nat} (h : P m) : P (stN k a v m) := hP.congr h rfl rfl rfl rfl rfl

theorem Steady.setMap {range page : Nat} {v : Word} (h : P m) : P (setMap range page v m) := hP.congr h rfl rfl rfl rfl rfl

theorem Steady.setMapF {range page v : Nat} {f : Fld} (h : P m) : P (setMapF range page f v m) := hP.setMap h

theorem Steady.setOwner {k i : Nat} {v : Word} (h : P m) : P (setOwner k i v m) := hP.congr h rfl rfl rfl rfl rfl

theorem Steady.popFrame {k range page i : Nat} (e : popFrame k range page m = some (i, n)) (h : P m) : P n := by
  unfold Machine.popFrame at e
  split at e
  · cases e
  · split at e
    · cases e
    · cases e
      exact hP.setOwner (hP.stN (hP.stN h))

theorem Steady.pushFrame {k i : Nat} (h : P m) : P (pushFrame k i m) := by
  unfold Machine.pushFrame
  split
  · exact hP.setOwner h
  · exact hP.stN (hP.stN (hP.setOwner h))

theorem Steady.copyRaw {src dst k : Nat} (h : P m) : P (copyRaw src dst k m) :=
  forEach_all (fun _ _ h => hP.congr h rfl rfl rfl rfl rfl) (hP.congr h rfl rfl rfl rfl rfl)

theorem Steady.evictEnd {k i : Nat} (h : P m) : P (evictEnd k i m) :=
  hP.countSat (by decide) (by decide) (hP.pushFrame (hP.setMap h))

theorem Steady.writeHome {range page : Nat} {e : Word} (h : P m) : P (writeHome range page e m) := by
  unfold Machine.writeHome
  split
  · exact hP.copyRaw h
  · exact h

theorem Steady.evictStart {k i : Nat} {dirty : Bool} (e : evictStart k m = some (i, dirty, n)) (h : P m) : P n := by
  unfold Machine.evictStart at e
  split at e
  · cases e
  · cases e
    exact hP.setMapF (hP.stN h)

theorem Steady.peerAsk {die a k : Nat} (h : P m) : P (peerAsk die a k m) := by
  unfold Machine.peerAsk
  split
  · exact h
  · exact hP.congr h rfl rfl rfl rfl rfl

theorem Steady.nvmeSend {write flush : Bool} {page die : Nat} {u : NvmeUse} (h : P m) : P (nvmeSend write flush page u die m) :=
  when_keeps P _ _ _ (fun h => hP.congr h rfl rfl rfl rfl rfl) (hP.congr h rfl rfl rfl rfl rfl)

theorem Steady.askPage {die page : Nat} (h : P m) : P (askPage die page m) := by
  refine forEach_all (fun i m h => forEach_all (fun c m h => ?_) h) h
  split
  · exact hP.peerAsk h
  · exact h

theorem Steady.evictWrite {die page : Nat} (h : P m) : P (evictWrite die page m) := by
  unfold Machine.evictWrite
  split
  · exact hP.nvmeSend (hP.congr h rfl rfl rfl rfl rfl)
  · exact hP.askPage (hP.congr h rfl rfl rfl rfl rfl)

theorem Steady.evictOne {die k : Nat} (h : P m) : P (evictOne die k m) := by
  unfold Machine.evictOne
  split
  · exact h
  next e =>
    have hn := hP.evictStart e h
    simp only
    split
    · exact hP.evictEnd hn
    · split
      · exact hP.evictEnd (hP.writeHome hn)
      · exact hP.evictWrite hn

theorem Steady.makeRoom {die k : Nat} (h : P m) : P (makeRoom die k m) := by
  unfold Machine.makeRoom
  split
  · exact h
  · exact hP.evictOne h

theorem Steady.beginFill {die page k i : Nat} (h : P m) : P (beginFill die page k i m) :=
  hP.nvmeSend (hP.congr h rfl rfl rfl rfl rfl)

theorem Steady.seekFrame {die page k : Nat} (h : P m) : P (seekFrame die page k m) := by
  unfold Machine.seekFrame
  split
  next e => exact hP.beginFill (hP.popFrame e h)
  · simp only
    split
    next e => exact hP.beginFill (hP.popFrame e (hP.makeRoom h))
    · exact hP.makeRoom h

theorem Steady.retryWaiting (h : P m) : P (retryWaiting m) := by
  refine forEach_all (fun _ _ => hP.makeRoom) (forEach_all (fun x m h => ?_) h)
  unfold serveFault
  split
  · exact hP.seekFrame h
  · exact h

theorem Steady.fillEnd {page k i : Nat} {ok : Bool} (h : P m) : P (fillEnd page k i ok m) := by
  simp only [Machine.fillEnd]
  apply hP.setMap
  split
  · split
    · exact hP.copyRaw h
    · exact h
  · exact h

theorem Steady.fillDone {page : Nat} {ok : Bool} (h : P m) : P (fillDone page ok m) := by
  unfold Machine.fillDone
  split
  · exact h
  · exact hP.retryWaiting (hP.fillEnd (hP.congr h rfl rfl rfl rfl rfl))

theorem Steady.evictRead {die page status : Nat} (h : P m) : P (evictRead die page status m) := by
  unfold Machine.evictRead
  split
  · exact h
  · split
    · split
      · exact hP.evictWrite h
      · exact h
    · have hevicted : P { m with tiers := { m.tiers with evicting := m.tiers.evicting.filter (fun x => x.1 ≠ page) } } :=
        hP.congr h rfl rfl rfl rfl rfl
      exact hP.congr (hP.setMapF (range := 1) (page := page) (f := mMOVING) (v := 0) hevicted) rfl rfl rfl rfl rfl

theorem Steady.pageAnswered {die a k status : Nat} {data : List Byte} (h : P m) : P (pageAnswered die a k status data m) := by
  simp only [Machine.pageAnswered]
  split
  · exact hP.evictRead (hP.congr h rfl rfl rfl rfl rfl)
  · exact hP.congr h rfl rfl rfl rfl rfl

/-! ### A ring that halts -/

theorem Steady.ringWr {q k : Nat} {v : Word} (h : P m) : P (ringWr q k v m) := by
  unfold Machine.ringWr
  split
  · exact forEach_all (fun t _ => hP.wr (low_le_tileRingReg _ _ _) (by unfold tileRingReg aRING_BASE aFPLAN_STATUS; omega)) h
  · exact hP.wr (by unfold aFIX_RING_BASE; omega) (by unfold aFIX_RING_BASE aFPLAN_STATUS; omega) h

theorem Steady.setDyn {q : Nat} {x : RingDyn} (h : P m) : P (setDyn q x m) := hP.congr h rfl rfl rfl rfl rfl

theorem Steady.undoPages {moving popped : List (Nat × Nat)} (h : P m) : P (undoPages moving popped m) := by
  have hpages := forEach_all (xs := popped) (fun kf _ => hP.pushFrame (k := kf.1) (i := kf.2))
    (forEach_all (xs := moving) (fun rp _ => hP.setMapF (range := rp.1) (page := rp.2) (f := mMOVING) (v := 0)) h)
  unfold Machine.undoPages
  split
  · exact hpages
  · exact hP.retryWaiting hpages

theorem Steady.chanterStats {t k : Nat} {f : Fld} (h : P m) : P (Machine.countSat (onTile aCHANTER_STATS t) f k m) :=
  hP.countSat (by unfold onTile aCHANTER_STATS; omega) (by unfold onTile aCHANTER_STATS aFPLAN_STATUS; omega) h

theorem Steady.chanterFault {t : Nat} {v : Word} (h : P m) : P (Machine.recordFirst (onTile aCHANTER_FAULT t) v m) :=
  hP.recordFirst (by unfold onTile aCHANTER_FAULT; omega) (by unfold onTile aCHANTER_FAULT aFPLAN_STATUS; omega) h

/-- Beyond the work that it cancels, a halt touches nothing but pages, ring registers, records and causes. -/
theorem Steady.haltRaw {q reason : Nat} (h : P (cancelWork q m)) : P (haltRaw q reason m) := by
  refine forEach_all (fun _ _ => hP.raise fun _ => show 32 ≤ 40 % 64 by decide)
    (forEach_all (fun t _ h => hP.chanterStats (hP.chanterFault h)) (hP.ringWr ?_))
  split
  · exact forEach_all (fun t _ => hP.chanterStats)
      (hP.setDyn (hP.ringWr (forEach_all (fun _ _ h => hP.congr h rfl rfl rfl rfl rfl) (hP.undoPages h))))
  · exact hP.setDyn (hP.ringWr h)

end

/-! ### What goes on when a commit has ended (R164, R167) -/

/-- The plan and the shadows of `n` are those of `m`, as is the lower half of FPLAN_STATUS; in the Headland block, where the causes
have their leaves, bits have only been set. -/
structure Resumed (m n : Dev) : Prop where
  wf : regsWf n = true
  plan : n.plan = m.plan
  shadow : n.shadow = m.shadow
  status : ∀ i < 32, (rd aFPLAN_STATUS n).getLsbD i = (rd aFPLAN_STATUS m).getLsbD i
  leaves : ∀ o < 0x10000, ∀ i, (rd o m).getLsbD i = true → (rd o n).getLsbD i = true

section
variable {m n n' : Dev}

theorem Resumed.refl (h : regsWf m = true) : Resumed m m := ⟨h, rfl, rfl, fun _ _ => rfl, fun _ _ _ => id⟩

theorem Resumed.congr (h : Resumed m n) (hregs : n'.regs = n.regs) (hplan : n'.plan = n.plan) (hshadow : n'.shadow = n.shadow) :
    Resumed m n' where
  wf := regsWf_of_regs h.wf hregs
  plan := hplan.trans h.plan
  shadow := hshadow.trans h.shadow
  status := fun i hi => by rw [rd_congr hregs, h.status i hi]
  leaves := fun o ho i hi => by
    rw [rd_congr hregs]
    exact h.leaves o ho i hi

theorem Resumed.wr {o : Nat} {v : Word} (hlow : 0x10000 ≤ o) (ho : o ≠ aFPLAN_STATUS) (h : Resumed m n) :
    Resumed m (wr o v n) where
  wf := regsWf_wr h.wf o v
  plan := h.plan
  shadow := h.shadow
  status := fun i hi => by rw [rd_wr_ne h.wf v ho.symm, h.status i hi]
  leaves := fun p hp i hi => by
    rw [rd_wr_ne h.wf v (by omega)]
    exact h.leaves p hp i hi

theorem Resumed.raise {c : Cause} (hc : c.reg = aFPLAN_STATUS → 32 ≤ c.leaf % 64) (h : Resumed m n) :
    Resumed m (raise c n) where
  wf := regsWf_raise h.wf c
  plan := (raise_plan c n).trans h.plan
  shadow := (raise_shadow c n).trans h.shadow
  status := fun i hi => by
    by_cases hreg : aFPLAN_STATUS = c.reg
    · have hleaf := hc hreg.symm
      rw [hreg, getLsbD_rd_raise h.wf c (by omega), decide_eq_false (by omega), Bool.false_or, ← hreg, h.status i hi]
    · rw [rd_raise_ne h.wf c hreg, h.status i hi]
  leaves := fun p hp i hi => getLsbD_rd_raise_of_set h.wf c (h.leaves p hp i hi)

theorem resumed_steady (m : Dev) : Steady (Resumed m) where
  congr := fun h hregs hplan hshadow _ _ => h.congr hregs hplan hshadow
  wr := fun hlow ho h => h.wr hlow ho
  raise := fun hc h => h.raise hc

theorem Resumed.leafSet (h : Resumed m n) {c : Cause} (hc : c.reg < 0x10000) (hm : leafSet c m = true) : leafSet c n = true :=
  h.leaves _ hc _ hm

/-- A field of the lower half of FPLAN_STATUS stands. -/
theorem Resumed.statusField (h : Resumed m n) {f : Fld} (hf : f.lo + f.w ≤ 32) :
    rdF aFPLAN_STATUS f n = rdF aFPLAN_STATUS f m := by
  have hbits (v : Word) : f.get v = (v.toNat % 2 ^ 32) / 2 ^ f.lo % 2 ^ f.w := by
    unfold Fld.get bitsAt
    refine Nat.eq_of_testBit_eq fun i => ?_
    simp only [Nat.testBit_mod_two_pow, Nat.testBit_div_two_pow]
    by_cases hi : i < f.w
    · simp [hi, show i + f.lo < 32 by omega]
    · simp [hi]
  have hlow : (rd aFPLAN_STATUS n).toNat % 2 ^ 32 = (rd aFPLAN_STATUS m).toNat % 2 ^ 32 := by
    refine Nat.eq_of_testBit_eq fun i => ?_
    simp only [Nat.testBit_mod_two_pow]
    by_cases hi : i < 32
    · simpa [hi, BitVec.getLsbD] using h.status i hi
    · simp [hi]
  unfold rdF
  rw [hbits, hbits, hlow]

/-! ### Packets and collectives -/

theorem Resumed.sendStopped {s : SendStop} {coord job : Nat} (h : Resumed m n) : Resumed m (sendStopped s coord job n) := by
  have hfault (kind : Nat) : Resumed m (windrowFault kind 0 coord job n) :=
    (resumed_steady m).recordFirst (by decide) (by decide) h
  cases s with
  | noKey => exact Resumed.raise (c := cWINDROW_JOB_NO_KEY) (by decide) (hfault 8)
  | plainProtected => exact Resumed.raise (c := cWINDROW_JOB_PLAIN_PROTECTED) (by decide) (hfault 10)
  | notMember => exact Resumed.raise (c := cWINDROW_JOB_NOT_MEMBER) (by decide) (hfault 7)

theorem Resumed.sendDraft {d : Draft} (h : Resumed m n) : Resumed m (sendDraft d n) := by
  simp only [Machine.sendDraft]
  split <;> exact h.congr rfl rfl rfl

theorem Resumed.sameButLinks (h : Resumed m n) (hn : SameButLinks n n') : Resumed m n' := by
  obtain ⟨ls, os, k, rfl⟩ := hn
  exact h.congr rfl rfl rfl

theorem Resumed.answerChunk {mkind : Nat} {x : Packet} (h : Resumed m n) : Resumed m (answerChunk mkind x n) := by
  unfold Machine.answerChunk
  split
  · exact h
  · exact h.sendDraft

theorem Resumed.sendAborts {c : Coll} {reason : Nat} (h : Resumed m n) : Resumed m (sendAborts c reason n) := by
  unfold Machine.sendAborts
  split
  · exact h
  · split
    · exact h
    · exact forEach_all (fun _ _ => Resumed.sendDraft) h

theorem Resumed.abortOne {c : Coll} (h : Resumed m n) : Resumed m (abortOne c n) := by
  refine (resumed_steady m).countSat (by decide) (by decide) (Resumed.congr (when_keeps (Resumed m) _ _ _ (fun h => ?_) ?_)
    rfl rfl rfl)
  · exact Resumed.wr (by unfold aDIE_ARRIVAL; omega) (by unfold aDIE_ARRIVAL aFPLAN_STATUS; omega) h
  · exact forEach_all (fun _ _ => Resumed.answerChunk) (h.congr rfl rfl rfl)

theorem Resumed.haltRaw {q reason : Nat} (h : Resumed m n) : Resumed m (haltRaw q reason n) :=
  (resumed_steady m).haltRaw (h.congr rfl rfl rfl)

theorem Resumed.setAttempt {g a : Nat} (h : Resumed m n) : Resumed m (setAttempt g a n) :=
  h.wr (by unfold attemptReg aDRONE_ATTEMPT; omega) (by unfold attemptReg aDRONE_ATTEMPT aFPLAN_STATUS; omega)

theorem Resumed.abortKeys {fuel : Nat} {ks : List AbortKey} (h : Resumed m n) : Resumed m (abortKeys fuel ks n) := by
  induction fuel generalizing ks n with
  | zero => exact h
  | succ fuel ih =>
    cases ks with
    | nil => exact h
    | cons k rest =>
      refine ih (forEach_all (fun _ _ => Resumed.sendAborts) (forEach_all (fun q n h => ?_)
        (Resumed.setAttempt (forEach_all (fun _ _ => Resumed.abortOne) h))))
      split
      · exact h
      · exact h.haltRaw

theorem Resumed.haltRing {q reason : Nat} (h : Resumed m n) : Resumed m (haltRing q reason n) := by
  simp only [Machine.haltRing]
  split
  · exact h.haltRaw
  · exact Resumed.abortKeys (forEach_all (fun _ _ => Resumed.sendAborts) h.haltRaw)

/-! ### Requests of the memory fabric -/

theorem Resumed.linkPayload {d : Draft} {slot : Nat} {prot : Bool} (h : Resumed m n) :
    Resumed m (linkPayload d slot prot n).2 := by
  have hcount (s : Nat) (f : Fld) : Resumed m (countSat (aWINNOW_STATS s) f 1 n) :=
    h.wr (by unfold aWINNOW_STATS; omega) (by unfold aWINNOW_STATS aFPLAN_STATUS; omega)
  unfold Machine.linkPayload
  split
  · exact h
  · simp only
    split
    · exact h
    · split
      · exact hcount ..
      · split
        · exact h
        · split <;> exact hcount ..

theorem Resumed.dropLines {die coord a k : Nat} (h : Resumed m n) : Resumed m (dropLines die coord a k n) := by
  unfold Machine.dropLines
  split
  · exact h
  · exact h.congr rfl rfl rfl

theorem Resumed.issue {d : Draft} {x : Waiter} {pre : List Byte} {src : Option Nat} (h : Resumed m n) :
    Resumed m (issue d x pre src n) :=
  Resumed.congr (Resumed.dropLines h.sendDraft) rfl rfl rfl

theorem Resumed.failWaiter {x : Waiter} (h : Resumed m n) : Resumed m (failWaiter x n) := by
  unfold Machine.failWaiter
  split
  · exact Resumed.haltRing (h.congr rfl rfl rfl)
  · split
    · exact h.congr rfl rfl rfl
    · exact (resumed_steady m).fillDone (Resumed.congr h rfl rfl rfl)
    · exact (resumed_steady m).pageAnswered h
    · exact h

theorem Resumed.sendPeers {x : Waiter} {q job : Nat} (h : Resumed m n) : Resumed m (sendPeers x q job n) := by
  unfold Machine.sendPeers
  split
  · exact h
  · extract_lets m1 kept
    have hsent : Resumed m m1 := forEach_all (fun _ _ h => h.congr rfl rfl rfl) h
    exact hsent.congr rfl rfl rfl

theorem Resumed.laterReq {l : Later} (h : Resumed m n) : Resumed m (laterReq l n).2 := by
  simp only [Machine.laterReq]
  split
  · exact h
  · refine Resumed.congr (n := if chunkReq l n ≠ 0 then n else (nextSeq l.die (bitsAt l.dest.toNat 0 9) n).2) ?_ ?_ ?_ ?_
    · split
      · exact h
      · exact h.congr rfl rfl rfl
    all_goals split <;> rfl

theorem Resumed.newTag (h : Resumed m n) : Resumed m (newTag n).2 := h.congr rfl rfl rfl

theorem Resumed.sendLater {l : Later} (h : Resumed m n) : Resumed m (sendLater l n) := by
  unfold Machine.sendLater
  split
  · exact h.sendStopped.failWaiter
  · exact h.laterReq.newTag.linkPayload.issue

theorem Resumed.pump {fuel : Nat} (h : Resumed m n) : Resumed m (pump fuel n) := by
  induction fuel generalizing n with
  | zero => exact h
  | succ fuel ih =>
    unfold Machine.pump
    split
    · exact h
    · exact ih (Resumed.sendLater (h.congr rfl rfl rfl))

theorem Resumed.askPiece {job : Nat} {x : PeerPiece} (h : Resumed m n) : Resumed m (askPiece job x n) := by
  simp only [Machine.askPiece]
  split
  · exact h
  · split
    · exact (resumed_steady m).pageAnswered h
    · unfold askRead
      split
      · exact h.sendStopped.failWaiter
      · exact h.newTag.issue

theorem Resumed.pumpAll (h : Resumed m n) : Resumed m (pumpAll n) := by
  refine Resumed.pump (forEach_all (fun _ _ => Resumed.askPiece) ?_)
  split
  · exact h
  · exact h.sendPeers

theorem Resumed.unitsResume (h : Resumed m n) : Resumed m (unitsResume n) :=
  Resumed.pumpAll (forEach_all (fun l n h => h.sameButLinks ((SameButLinks.refl n).drainQueue l)) h)

end
end Sys2Proof.Machine

/-! SUPPORT. Acts on links keep the registers well formed; the end of a commit that lost a unit (R167). -/
namespace Sys2Proof.Machine

/-! ### What the acts on a link leave well formed -/

section
variable {l : Nat} {m : Dev} (h : regsWf m = true)
include h

theorem regsWf_windrowFault (kind link coord job : Nat) : regsWf (windrowFault kind link coord job m) = true :=
  regsWf_recordFirst h _ _

theorem regsWf_drainQueue : regsWf (drainQueue l m) = true := regsWf_of_regs h ((SameButLinks.refl m).drainQueue l).regs

theorem regsWf_linkFalls {st : Nat} (hst : st < 8) : regsWf (linkFalls l st m) = true := (linkFalls_spec h hst).2.2.wf

theorem regsWf_linkGoesDown : regsWf (linkGoesDown l m) = true := by
  by_cases hup : linkUp l m = true
  · exact (linkGoesDown_spec h hup).2.2.2.wf
  · rwa [linkGoesDown_idle (Bool.eq_false_iff.2 hup)]

theorem regsWf_linkDownEvent (why : LinkLoss) : regsWf (linkDownEvent l why m) = true := by
  unfold linkDownEvent
  split
  · split
    · exact regsWf_linkGoesDown (regsWf_raise (regsWf_windrowFault h ..) _)
    · exact h
  · exact regsWf_linkGoesDown h

theorem regsWf_identEnd (fault : Nat) (r : IdentRecord) : regsWf (identEnd l fault r m) = true := by
  have hset (k : Nat) : regsWf (setState l k m) = true := regsWf_wrF h _ _ _
  unfold identEnd
  split
  · exact regsWf_raise (regsWf_windrowFault (regsWf_wrF (hset 5) _ _ _) ..) _
  · split
    · exact regsWf_linkFalls h (by decide)
    · split
      · exact regsWf_raise (regsWf_windrowFault (hset 6) ..) _
      · exact regsWf_drainQueue (regsWf_wrF (regsWf_wrF h _ _ _) _ _ _)

theorem regsWf_identReceived (r : IdentRecord) : regsWf (identReceived l r m) = true := by
  by_cases hst : linkState l m = 2
  · have ha := (touches_identAnswered (l := l) (r := r) h).wf
    rw [identReceived_eq hst]
    split
    · exact ha
    · exact regsWf_identEnd ha _ _
  · rwa [identReceived_idle hst]

theorem regsWf_sendLane (lanes step k st : Nat) : regsWf (sendLane l lanes step (setState l st (setLanes l k m))) = true :=
  regsWf_of_regs (regsWf_wrF (regsWf_wrF h _ _ _) _ _ _) ((SameButLinks.refl _).sendRecord l 4 _).regs

theorem regsWf_dropLane (lane : Nat) : regsWf (dropLane l lane m) = true := by
  unfold dropLane
  simp only
  split
  · exact regsWf_linkGoesDown h
  · exact regsWf_sendLane h ..

theorem regsWf_laneLoss (lane : Nat) : regsWf (laneLoss l lane m) = true := by
  unfold laneLoss
  split
  · exact h
  · exact regsWf_when (fun h => regsWf_raise h _) (regsWf_dropLane h lane)

theorem regsWf_laneHandshake (mask step : Nat) : regsWf (laneHandshake l mask step m) = true := by
  unfold laneHandshake
  simp only
  split
  · exact h
  · split
    · exact regsWf_linkGoesDown h
    · exact regsWf_of_regs (regsWf_when (fun h => regsWf_raise h _) (regsWf_wrF (regsWf_wrF h _ _ _) _ _ _))
        ((SameButLinks.refl _).sendRecord l 4 _).regs

theorem regsWf_laneRecalibrate (lane : Nat) : regsWf (laneRecalibrate l lane m) = true := by
  unfold laneRecalibrate
  split
  · exact h
  · exact regsWf_of_regs (regsWf_dropLane h lane) ((SameButLinks.refl _).setLink l _).regs

theorem regsWf_linkRetrain : regsWf (linkRetrain l m) = true := by
  unfold linkRetrain
  split
  · exact h
  · exact regsWf_wrF (regsWf_when (fun h => regsWf_linkFalls h (by decide)) h) _ _ _

theorem regsWf_takeOutEnd : regsWf (takeOutEnd l m) = true := by
  unfold takeOutEnd
  split
  · exact regsWf_linkFalls h (by decide)
  · exact h

theorem regsWf_linkTakeOut : regsWf (linkTakeOut l m) = true := by
  unfold linkTakeOut
  split
  · exact regsWf_takeOutEnd (((Touches.refl h).sameButLinks ((SameButLinks.refl m).setLink l _)).requeue).wf
  · exact regsWf_linkFalls h (by decide)

theorem regsWf_retryCounted (run : Nat) : regsWf (retryCounted l run m) = true := by
  unfold retryCounted
  simp only
  split
  · exact regsWf_linkDownEvent (regsWf_wrF h _ _ _) _
  · exact regsWf_wrF h _ _ _

theorem regsWf_takeAck (ack : BitVec 12) : regsWf (takeAck l ack m) = true :=
  regsWf_takeOutEnd (regsWf_of_regs h ((SameButLinks.refl m).setLink l _).regs)

theorem regsWf_flitDiscard (f : Flit) : regsWf (flitDiscard l f m) = true := by
  unfold flitDiscard
  simp only
  split
  · exact h
  · exact regsWf_retryCounted (regsWf_of_regs h (((SameButLinks.refl m).setLink l _).sendRecord l 2 _).regs) _

theorem regsWf_flitTake (f : Flit) : regsWf (flitTake l f m) = true :=
  when_keeps (fun n => regsWf n = true) _ _ _
    (fun hn => regsWf_of_regs hn ((SameButLinks.refl _).sendRecord l 1 _).regs)
    (regsWf_of_regs h ((SameButLinks.refl m).setLink l _).regs)

theorem regsWf_sequencedFlit (c : FlitCheck) (f : Flit) : regsWf (sequencedFlit l c f m) = true := by
  have hcount : regsWf (codewordCounted l c m) = true := by
    unfold codewordCounted
    split
    · exact regsWf_wrF h _ _ _
    · exact regsWf_wrF h _ _ _
    · exact h
  unfold sequencedFlit
  simp only
  split
  · exact h
  · split
    · exact regsWf_flitDiscard hcount f
    · exact regsWf_takeAck (regsWf_flitTake hcount f) _

theorem regsWf_retryReceived (seq : BitVec 12) : regsWf (retryReceived l seq m) = true := by
  unfold retryReceived
  simp only
  split
  · exact h
  · refine regsWf_retryCounted (regsWf_of_regs ?_ ((SameButLinks.refl _).setLink l _).regs) _
    exact forEach_keeps (fun n => regsWf n = true) _ _ _ (fun _ _ _ hn => regsWf_of_regs hn (emit_regs _ _))
      (regsWf_takeAck h seq)

end

theorem regsWf_linkAct {c : Instr} {f : Dev → Dev} {m : Dev} (hf : linkActOf c = some f) (h : regsWf m = true) :
    regsWf (f m) = true := by
  unfold linkActOf at hf
  split at hf <;> cases hf
  case h_1 l r => exact regsWf_identReceived h r
  case h_2 l lane => exact regsWf_laneLoss h lane
  case h_3 l mask step => exact regsWf_laneHandshake h _ _
  case h_4 l why => exact regsWf_linkDownEvent h why
  case h_5 l check f => exact regsWf_sequencedFlit h check f
  case h_6 l seq => exact regsWf_retryReceived h seq
  case h_7 l => exact regsWf_linkRetrain h
  case h_8 l => exact regsWf_linkTakeOut h
  case h_9 l lane => exact regsWf_laneRecalibrate h lane

/-! ### A commit that loses a unit (R167) -/

/-- The commit is over with its result and cause, and its shadows stand, whatever goes on. -/
theorem commitEnds_spec {m : Dev} (h : regsWf m = true) :
    let n := commitEnds 5 14 0 0 0 m
    n.plan.frozen = false ∧ n.plan.parked = [] ∧ rdF aFPLAN_STATUS fFPLAN_STATUS_RESULT n = 5 ∧
      leafSet cFPLAN_COMMIT_BLOCK_LOST n = true ∧ n.shadow = m.shadow := by
  intro n
  set faults := planFaults 2 14 0 0 0 0 (unfreeze m) with hfaults
  set q := planResult 5 (restState faults) with hq
  have hthawed : OnlyRegs (endRegs 14) (thawed m) faults := onlyRegs_faultThawed h
  have hquiet : OnlyRegs (endRegs 14) (thawed m) q := onlyRegs_endedQuietly h
  have hrest : regsWf (restState faults) = true := regsWf_wrF hthawed.wf _ _ _
  have hresumed : Resumed q n := (Resumed.refl hquiet.wf).unitsResume
  have hplan : n.plan = (thawed m).plan := hresumed.plan.trans hquiet.plan
  refine ⟨congrArg Plan.frozen hplan, congrArg Plan.parked hplan, ?_, ?_, hresumed.shadow.trans hquiet.shadow⟩
  · exact (hresumed.statusField (by decide)).trans (result_planResult hrest (by decide))
  · refine hresumed.leafSet (by decide) ?_
    rw [hq, planResult, leafSet_wrF hrest (by decide), restState, setPlanState, leafSet_wrF hthawed.wf (by decide)]
    exact leafSet_raise (regsWf_recordFirst (regsWf_wrF (regsWf_wrF (m := thawed m) h _ _ _) _ _ _) _ _)
      cFPLAN_COMMIT_BLOCK_LOST

theorem exec_of_blockLost {c : Instr} {f : Dev → Dev} {s : State} (hf : linkActOf c = some f)
    (hlost : blockLost s.dev (f s.dev) = true) :
    exec c s = .next { s with dev := boundary (ratioReact 0 (commitEnds 5 14 0 0 0 (f s.dev))) } := by
  rw [exec_linkAct hf, linkRow, if_pos hlost, planRow]

/-- Settles O44: lanes and losses link by link; a commit that loses a unit ends before its waiting work goes on, which leaves the
plan's state alone (`Resumed`). -/
theorem linksLoseLanesAndObeyActions : Obligations.LinksLoseLanesAndObeyActions := by
  refine ⟨fun l lane mask step why s hsound => ?_, fun c f s hf => ⟨fun hkeeps => ?kept, fun hsound hlost => ?lost⟩,
    fun l lane ok settings s hsound => ?_⟩
  case kept => rw [exec_linkAct hf, linkRow_eq hkeeps]
  case lost => exact ⟨_, exec_of_blockLost hf hlost, commitEnds_spec (regsWf_linkAct hf (regsWf_of_sound hsound))⟩
  · intro left named has st falls
    have hwf : regsWf s.dev = true := regsWf_of_sound hsound
    have hfalls (hup : linkUp l.val s.dev = true) : falls (linkGoesDown l.val s.dev) := by
      obtain ⟨hstate, hlanes, hleaf, ht⟩ := linkGoesDown_spec hwf hup
      exact ⟨hstate, hlanes, hleaf, ht.memSame⟩
    refine ⟨fun hdown => ⟨?idleLoss, ?idleLane, ?idleDown⟩, fun hup => ⟨fun hno => ?noLane, fun hhas hk hleft => ?degraded,
      fun hhas hk hleft => ?lossDown, fun hsame => ?sameLanes, fun hnew hk hcount => ?named, fun hnew hk hcount => ?namedDown,
      fun hk => ?down⟩⟩
    case idleLoss => exact exec_of_actIdle rfl (laneLoss_idle (.inl hdown))
    case idleLane => exact exec_of_actIdle rfl (laneHandshake_idle (.inl hdown))
    case idleDown => exact exec_of_actIdle rfl (linkDownEvent_idle hdown why)
    case noLane => exact exec_of_actIdle rfl (laneLoss_idle (.inr hno))
    case degraded =>
      obtain ⟨hstate, hlanes, hsent, hleaf, ht⟩ := laneLoss_spec hwf hup hhas hleft
      exact ⟨_, exec_of_keepsCommit rfl hk rfl, hstate, hlanes, hsent, hleaf, ht.regs, ht.memSame⟩
    case lossDown => exact ⟨_, exec_of_keepsCommit rfl hk (laneLoss_down hwf hup hhas hleft), hfalls hup⟩
    case sameLanes => exact exec_of_actIdle rfl (laneHandshake_idle (.inr hsame))
    case named =>
      obtain ⟨hlanes, hstate, hsent, hleaf, ht⟩ := laneHandshake_spec (step := step.toNat) hwf hup hnew hcount
      exact ⟨_, exec_of_keepsCommit rfl hk rfl, hlanes, hstate, hsent, hleaf, ht.regs, ht.memSame⟩
    case namedDown => exact ⟨_, exec_of_keepsCommit rfl hk (laneHandshake_ends hup hnew hcount), hfalls hup⟩
    case down => exact ⟨_, exec_of_keepsCommit rfl hk rfl, linkDownEvent_spec hwf l.isLt hup why⟩
  · intro x left back st
    have hwf : regsWf s.dev = true := regsWf_of_sound hsound
    have hlinks := linksCanonical_of_sound hsound
    refine ⟨fun hno => ?noTrain, fun hst hcan hk => ?trains, fun hdone hk => ?takenOut, fun hup hretry hqueue hk => ?taking,
      fun hst => ?noRecal, fun hst hleft hk => ?recal, fun hnone => ?noEnd, fun hrecal hup => ⟨?stays, ?rejoins⟩⟩
    case noTrain => exact exec_of_actIdle rfl (linkRetrain_idle hno)
    case trains => exact ⟨_, exec_of_keepsCommit rfl hk rfl, linkRetrain_spec hwf hst hcan⟩
    case takenOut => exact ⟨_, exec_of_keepsCommit rfl hk rfl, linkTakeOut_done_spec hwf hlinks hdone⟩
    case taking =>
      have hsame : SameButLinks s.dev (takingOut l.val s.dev) := (SameButLinks.refl _).setLink l.val _
      have hstays := staysTaken_takingOut (l := l.val) hlinks
      refine ⟨_, exec_of_keepsCommit rfl hk (linkTakeOut_waits hup hlinks hretry hqueue), ?_, ?_, hsame.regs,
        memSame_of_mem hsame.mem⟩
      · rw [hstays.link, ← hqueue]
      · exact notMem_portOpen_of_taking (by rw [hstays.link])
    case noRecal => exact exec_of_actIdle rfl (if_pos hst)
    case recal =>
      obtain ⟨hstate, hlanes, hlink, hsent, ht⟩ := laneRecalibrate_spec hwf hlinks hst hleft
      exact ⟨_, exec_of_keepsCommit rfl hk rfl, hstate, hlanes, hlink, hsent, ht.regs, ht.memSame⟩
    case noEnd => rw [exec_laneRecalDone, laneRecalDone_idle hnone]
    case stays =>
      obtain ⟨hleaf, hlink, ht⟩ := laneRecalDone_out_spec (settings := settings) hwf hlinks hrecal hup
      exact ⟨_, exec_laneRecalDone .., hleaf, hlink, ht.regs, ht.memSame⟩
    case rejoins => exact ⟨_, exec_laneRecalDone .., laneRecalDone_back_spec hwf hlinks lane.isLt hrecal hup⟩

end Sys2Proof.Machine

/-! SUPPORT. Packets delivered, checked and refused (R325, R332, R350, R367). -/
namespace Sys2Proof.Machine

/-! ### What reports leave alone -/

/-- The registers of `n` are those of `m` but for records, counts and causes, no leaf has been cleared, and the packets that wait
for their unit or for a resend are those of `m`. -/
structure Notified (m n : Dev) : Prop extends Resumed m n where
  retried : n.net.retried = m.net.retried
  inbox : n.net.inbox = m.net.inbox

section
variable {m n n' : Dev}

theorem Notified.refl (h : regsWf m = true) : Notified m m := ⟨.refl h, rfl, rfl⟩

theorem Notified.congr (h : Notified m n) (hregs : n'.regs = n.regs) (hplan : n'.plan = n.plan) (hshadow : n'.shadow = n.shadow)
    (hretried : n'.net.retried = n.net.retried) (hinbox : n'.net.inbox = n.net.inbox) : Notified m n' :=
  ⟨h.toResumed.congr hregs hplan hshadow, hretried.trans h.retried, hinbox.trans h.inbox⟩

theorem Notified.wr {o : Nat} {v : Word} (hlow : 0x10000 ≤ o) (ho : o ≠ aFPLAN_STATUS) (h : Notified m n) :
    Notified m (wr o v n) :=
  ⟨h.toResumed.wr hlow ho, h.retried, h.inbox⟩

theorem Notified.recordFirst {o : Nat} {v : Word} (hlow : 0x10000 ≤ o) (ho : o ≠ aFPLAN_STATUS) (h : Notified m n) :
    Notified m (recordFirst o v n) := by
  unfold Machine.recordFirst
  split
  · exact h
  · exact h.wr hlow ho

theorem Notified.raise {c : Cause} (hc : c.reg = aFPLAN_STATUS → 32 ≤ c.leaf % 64) (h : Notified m n) :
    Notified m (raise c n) :=
  ⟨h.toResumed.raise hc, (congrArg Net.retried (raise_net c n)).trans h.retried,
    (congrArg Net.inbox (raise_net c n)).trans h.inbox⟩

theorem Notified.windrowFault {kind link coord job : Nat} (h : Notified m n) : Notified m (windrowFault kind link coord job n) :=
  h.recordFirst (by decide) (by decide)

theorem Notified.sendDraft {d : Draft} (h : Notified m n) : Notified m (sendDraft d n) := by
  simp only [Machine.sendDraft]
  split <;> exact h.congr rfl rfl rfl rfl rfl

theorem Notified.sendNack {reason die : Nat} {p : Packet} (h : Notified m n) : Notified m (sendNack reason die p n) := by
  unfold Machine.sendNack
  split
  · exact h.windrowFault
  · exact h.sendDraft

theorem Notified.sendStopped {s : SendStop} {coord job : Nat} (h : Notified m n) :
    Notified m (sendStopped s coord job n) := by
  cases s with
  | noKey => exact Notified.raise (c := cWINDROW_JOB_NO_KEY) (by decide) h.windrowFault
  | plainProtected => exact Notified.raise (c := cWINDROW_JOB_PLAIN_PROTECTED) (by decide) h.windrowFault
  | notMember => exact Notified.raise (c := cWINDROW_JOB_NOT_MEMBER) (by decide) h.windrowFault

theorem Notified.respond {p : Packet} {typ status : Nat} {data : List Byte} {bad : Bool} (h : Notified m n) :
    Notified m (respond p typ status data bad n) := by
  unfold Machine.respond
  split
  · exact h.sendStopped
  · exact h.sendDraft

/-! ### Chunks that fail (R405, R412) -/

theorem Notified.setChunk {p : Packet} {c : ChunkRx} (h : Notified m n) : Notified m (setChunk p c n) :=
  h.congr rfl rfl rfl rfl rfl

theorem Notified.coverPages {a k : Nat} (h : Notified m n) : Notified m (coverPages a k n) := by
  refine forEach_all (fun u n h => ?_) h
  split
  · exact h.congr rfl rfl rfl rfl rfl
  · exact h

theorem Notified.addRef {r k : Nat} (h : Notified m n) : Notified m (addRef r k n) :=
  h.wr (by unfold aDIE_ARRIVAL; omega) (by unfold aDIE_ARRIVAL aFPLAN_STATUS; omega)

theorem Notified.replayPut {p : Packet} {status old : Nat} (h : Notified m n) : Notified m (replayPut p status old n) :=
  h.congr rfl rfl rfl rfl rfl

theorem Notified.commitChunk {c : ChunkRx} {p : Packet} (h : Notified m n) : Notified m (commitChunk c p n) := by
  unfold Machine.commitChunk
  extract_lets x ref st old lo m0 m1
  have h0 : Notified m m0 := when_keeps (Notified m) _ _ _ (fun h => h.coverPages) h.setChunk
  have h1 : Notified m m1 := when_keeps (Notified m) _ _ _ (fun h => h.addRef) h0
  exact h1.replayPut.respond

theorem Notified.chunkSettle {p : Packet} (h : Notified m n) : Notified m (chunkSettle p n) := by
  unfold Machine.chunkSettle
  extract_lets c
  split
  · split
    · exact h.commitChunk
    · exact h
  · exact h

theorem Notified.chunkFails {p : Packet} (h : Notified m n) : Notified m (chunkFails p n) := by
  unfold Machine.chunkFails
  split
  · exact h
  · exact h.setChunk.chunkSettle

theorem Notified.askedFor (h : Notified m n) (p : Packet) : askedFor p n = askedFor p m := by
  unfold Machine.askedFor
  rw [h.retried]

end

/-! ### A packet that has failed for good, and one that has come again (R332) -/

section
variable {d link : Nat} {p : Packet} {m n : Dev}

theorem askedFor_unask (p : Packet) (m : Dev) : askedFor p (unask p m) = false := by
  simp [askedFor, unask]

/-- WINNOW/RETRY_FAIL is set, and the packet is asked for no more. -/
def retryEnded (d : Nat) (p : Packet) (m : Dev) : Prop :=
  leafSet (cDIE_WINNOW_RETRY_FAIL d) m = true ∧ askedFor p m = false

theorem winnowLeaf_lt (hd : d < 8) : (cDIE_WINNOW_RETRY_FAIL d).reg < 0x10000 := by
  show aINT_LEAF (10 + d) (91 / 64) < 0x10000
  unfold aINT_LEAF
  omega

theorem Notified.retryEnded (h : Notified m n) (hd : d < 8) (hm : retryEnded d p m) : retryEnded d p n :=
  ⟨h.leafSet (winnowLeaf_lt hd) hm.1, (h.askedFor p).trans hm.2⟩

theorem destDieOf_lt (p : Packet) : destDieOf p < 8 := Nat.mod_lt _ (by decide)

theorem retryFail_spec (h : regsWf m = true) (hd : d < 8) :
    retryEnded d p (retryFail d link p m) ∧ Resumed m (retryFail d link p m) ∧
      (retryFail d link p m).net.inbox = m.net.inbox := by
  have hfault : Notified m (winnowFault d 6 0 link 0 (srcCoordOf p) 0 m) :=
    (Notified.refl h).recordFirst (by unfold aWINNOW_FAULT; omega) (by unfold aWINNOW_FAULT aFPLAN_STATUS; omega)
  have hlow := winnowLeaf_lt hd
  have hraise : Notified m (raise (cDIE_WINNOW_RETRY_FAIL d) (winnowFault d 6 0 link 0 (srcCoordOf p) 0 m)) :=
    hfault.raise fun e => absurd (e ▸ hlow) (by decide)
  refine ⟨⟨?_, askedFor_unask p _⟩, hraise.toResumed.congr rfl rfl rfl, hraise.inbox⟩
  exact leafSet_raise hfault.wf _

theorem chunkFails_ends (hd : d < 8) (h : regsWf m = true) (hm : retryEnded d p m) : retryEnded d p (chunkFails p m) :=
  (Notified.refl h).chunkFails.retryEnded hd hm

end

/-! ### Packets refused on delivery (R325, R350, R367) -/

theorem exec_packetDeliver (check : PacketCheck) (p : Packet) (s : State) :
    exec (.packetDeliver check p) s = .next { s with dev := packetDeliver check p s.dev } := rfl

/-- The module once it knows the link that a packet came in on. -/
def arrivalTaken (p : Packet) (m : Dev) : Dev :=
  { m with net := { m.net with arrivals := m.net.arrivals.erase (p, linkIn p m) } }

/-- The record and the cause of a packet refused on delivery. -/
def refusalNoted (c : Cause) (kind : Nat) (p : Packet) (m : Dev) : Dev :=
  raise c (windrowFault kind 0 (srcCoordOf p) p.job.toNat m)

section
variable {p : Packet} {check : PacketCheck} {m : Dev}

/-- Does the module hold the key that an encrypted packet needs (R365)? -/
def holdsKeyOf (p : Packet) (m : Dev) : Bool := !isEncrypted p || holdsJobKey (jobSlot p.job.toNat (keyGenOf p) m) m

/-- The checks of R367 in their order. -/
theorem packetDeliver_eq : packetDeliver check p m =
    if check = .badCode then
      sendNack 1 (destDieOf p) p (resendLost (destDieOf p) (linkIn p m) p
        (refusalNoted cWINDROW_PKT_CHECK_FAIL 5 p (arrivalTaken p m)))
    else if !jobMember p.job.toNat m then
      sendNack 3 (destDieOf p) p (refusalNoted cWINDROW_JOB_NOT_MEMBER 7 p (arrivalTaken p m))
    else if isEncrypted p && !holdsJobKey (jobSlot p.job.toNat (keyGenOf p) m) m then
      sendNack 5 (destDieOf p) p (refusalNoted cWINDROW_JOB_NO_KEY 8 p (arrivalTaken p m))
    else if isEncrypted p && check = .badTag then
      sendNack 2 (destDieOf p) p (resendLost (destDieOf p) (linkIn p m) p
        (refusalNoted cWINDROW_JOB_TAG_FAIL 6 p (arrivalTaken p m)))
    else deliverGood (linkIn p m) p (arrivalTaken p m) := rfl

theorem packetDeliver_badCode : packetDeliver .badCode p m =
    sendNack 1 (destDieOf p) p (resendLost (destDieOf p) (linkIn p m) p
      (refusalNoted cWINDROW_PKT_CHECK_FAIL 5 p (arrivalTaken p m))) :=
  packetDeliver_eq.trans (if_pos rfl)

theorem packetDeliver_notMember (hcheck : check ≠ .badCode) (hmember : jobMember p.job.toNat m = false) :
    packetDeliver check p m =
      sendNack 3 (destDieOf p) p (refusalNoted cWINDROW_JOB_NOT_MEMBER 7 p (arrivalTaken p m)) := by
  rw [packetDeliver_eq, if_neg hcheck, if_pos (by simp [hmember])]

theorem packetDeliver_noKey (hcheck : check ≠ .badCode) (hmember : jobMember p.job.toNat m = true)
    (hkey : holdsKeyOf p m = false) : packetDeliver check p m =
      sendNack 5 (destDieOf p) p (refusalNoted cWINDROW_JOB_NO_KEY 8 p (arrivalTaken p m)) := by
  rw [packetDeliver_eq, if_neg hcheck, if_neg (by simp [hmember]), if_pos (by simpa [holdsKeyOf] using hkey)]

theorem packetDeliver_badTag (hmember : jobMember p.job.toNat m = true) (hkey : holdsKeyOf p m = true)
    (henc : isEncrypted p = true) : packetDeliver .badTag p m =
      sendNack 2 (destDieOf p) p (resendLost (destDieOf p) (linkIn p m) p
        (refusalNoted cWINDROW_JOB_TAG_FAIL 6 p (arrivalTaken p m))) := by
  rw [packetDeliver_eq, if_neg (by decide), if_neg (by simp [hmember]), if_neg (by simpa [holdsKeyOf, henc] using hkey),
    if_pos (by simp [henc])]

/-- A packet that passes the checks of R367 is good. -/
theorem packetDeliver_good (hpasses : check = .ok ∨ (check = .badTag ∧ isEncrypted p = false))
    (hmember : jobMember p.job.toNat m = true) (hkey : holdsKeyOf p m = true) :
    packetDeliver check p m = deliverGood (linkIn p m) p (arrivalTaken p m) := by
  have hcheck : check ≠ .badCode := by
    rintro rfl
    rcases hpasses with h | ⟨h, -⟩ <;> cases h
  have htag : ¬ ((isEncrypted p && decide (check = .badTag)) = true) := by
    rcases hpasses with rfl | ⟨-, henc⟩
    · simp
    · simp [henc]
  have hheld : ¬ ((isEncrypted p && !holdsJobKey (jobSlot p.job.toNat (keyGenOf p) m) m) = true) := by
    cases henc : isEncrypted p with
    | false => simp
    | true => simpa [holdsKeyOf, henc] using hkey
  rw [packetDeliver_eq, if_neg hcheck, if_neg (by simp [hmember]), if_neg hheld, if_neg htag]

/-! ### The NACK of a refused packet -/

theorem nackSent_of_out {reason d : Nat} {l n n' : Dev} (hn : nackSent reason d p n n') (h : n.out = l.out) :
    nackSent reason d p l n' := by
  unfold nackSent at hn ⊢
  rwa [← h]

theorem refusalNoted_out (c : Cause) (kind : Nat) : (refusalNoted c kind p m).out = m.out := by
  rw [refusalNoted, raise_out, windrowFault_out]

theorem refusalNoted_mem (c : Cause) (kind : Nat) : (refusalNoted c kind p m).mem = m.mem := by
  unfold refusalNoted windrowFault recordFirst
  rw [raise_mem]
  split
  · rfl
  · exact wr_mem ..

section
variable (h : regsWf m = true)
include h

theorem notified_refusalNoted {c : Cause} (hc : c.reg < 0x10000) (kind : Nat) : Notified m (refusalNoted c kind p m) :=
  (Notified.refl h).windrowFault.raise fun e => absurd (e ▸ hc) (by decide)

theorem leafSet_refusalNoted (c : Cause) (kind : Nat) : leafSet c (refusalNoted c kind p m) = true :=
  leafSet_raise (regsWf_recordFirst h _ _) c

/-- The cause is raised and the NACK sent, and no unit sees the packet. -/
theorem refusedPacket_spec {c : Cause} (hc : c.reg < 0x10000) (kind : Nat) {reason : Nat} (hr : reason < 2 ^ 64)
    (hp : p.typ.toNat ≠ ptNACK) :
    let n := sendNack reason (destDieOf p) p (refusalNoted c kind p (arrivalTaken p m))
    leafSet c n = true ∧ nackSent reason (destDieOf p) p m n ∧ n.net.inbox = m.net.inbox ∧ memSame m n := by
  intro n
  have hwf : regsWf (arrivalTaken p m) = true := h
  have hnoted := notified_refusalNoted (p := p) hwf hc kind
  obtain ⟨hnack, -, hmem⟩ := sendNack_spec hr hp (destDieOf p) (refusalNoted c kind p (arrivalTaken p m))
  have hsent : Notified (refusalNoted c kind p (arrivalTaken p m)) n := (Notified.refl hnoted.wf).sendNack
  refine ⟨hsent.leafSet hc (leafSet_refusalNoted hwf c kind), nackSent_of_out hnack (refusalNoted_out c kind),
    hsent.inbox.trans hnoted.inbox, memSame_of_mem (hmem.trans (refusalNoted_mem c kind))⟩

end

/-- A packet that was asked for once more and fails its check code ends its retry (R332). -/
theorem resentBadCode_spec (h : regsWf m = true) (hasked : askedFor p m = true) :
    retryEnded (destDieOf p) p (packetDeliver .badCode p m) ∧
      leafSet cWINDROW_PKT_CHECK_FAIL (packetDeliver .badCode p m) = true := by
  have hd := destDieOf_lt p
  have hwf : regsWf (arrivalTaken p m) = true := h
  have hc : cWINDROW_PKT_CHECK_FAIL.reg < 0x10000 := by decide
  have hnoted := notified_refusalNoted (p := p) hwf hc 5
  set n := refusalNoted cWINDROW_PKT_CHECK_FAIL 5 p (arrivalTaken p m) with hn
  have hlost : resendLost (destDieOf p) (linkIn p m) p n = chunkFails p (retryFail (destDieOf p) (linkIn p m) p n) :=
    if_pos ((hnoted.askedFor p).trans hasked)
  obtain ⟨hends, hfail, -⟩ := retryFail_spec (d := destDieOf p) (link := linkIn p m) (p := p) hnoted.wf hd
  have hrest : Notified (retryFail (destDieOf p) (linkIn p m) p n)
      (sendNack 1 (destDieOf p) p (chunkFails p (retryFail (destDieOf p) (linkIn p m) p n))) :=
    (Notified.refl hfail.wf).chunkFails.sendNack
  rw [packetDeliver_badCode, ← hn, hlost]
  exact ⟨hrest.retryEnded hd hends, hrest.leafSet hc (hfail.leafSet hc (leafSet_refusalNoted hwf _ 5))⟩

end

/-! ### Good packets (R331, R332) -/

section
variable {d link : Nat} {p : Packet} {m : Dev}

theorem deliverGood_plain (hzip : isZipped p = false) (hasked : askedFor p m = false) : deliverGood link p m = handUp p m := by
  simp [deliverGood, hzip, hasked]

/-- A packet that came clean at last goes to its unit. -/
def handRecovered (d : Nat) (p : Packet) (m : Dev) : Dev :=
  handUp p (unask p (countSat (aWINNOW_ERR_STATS d) fWINNOW_ERR_STATS_RECOVERED 1 m))

/-- A resend that came clean counts as recovered, a poisoned one has failed. -/
theorem deliverGood_resent (hzip : isZipped p = false) (hasked : askedFor p m = true) : deliverGood link p m =
    if isPoison p then handUp p (retryFail (destDieOf p) link p m)
    else handRecovered (destDieOf p) p m := by
  simp [deliverGood, hzip, hasked, handRecovered]

theorem deliverGood_expanded (hzip : isZipped p = true)
    (hbad : (expandBlock (destDieOf p) link (srcCoordOf p) p.payload m).bad = false) :
    let x := expandBlock (destDieOf p) link (srcCoordOf p) p.payload m
    deliverGood link p m = handUp { p with payload := x.data, flags := p.flags &&& 0xFE#8 } x.m := by
  simp [deliverGood, hzip, hbad]

theorem deliverGood_badOnce (hzip : isZipped p = true)
    (hbad : (expandBlock (destDieOf p) link (srcCoordOf p) p.payload m).bad = true)
    (hasked : askedFor p (expandBlock (destDieOf p) link (srcCoordOf p) p.payload m).m = false) :
    let x := expandBlock (destDieOf p) link (srcCoordOf p) p.payload m
    deliverGood link p m = askResend p (stageBad p x x.m) := by
  simp [deliverGood, hzip, hbad, hasked]

theorem deliverGood_badTwice (hzip : isZipped p = true)
    (hbad : (expandBlock (destDieOf p) link (srcCoordOf p) p.payload m).bad = true)
    (hasked : askedFor p (expandBlock (destDieOf p) link (srcCoordOf p) p.payload m).m = true) :
    let x := expandBlock (destDieOf p) link (srcCoordOf p) p.payload m
    deliverGood link p m =
      chunkFails p (respond p ptCOMPLETION 2 [] false (retryFail (destDieOf p) link p (stageBad p x x.m))) := by
  simp [deliverGood, hzip, hbad, hasked]

theorem askedFor_handUp (q : Packet) : askedFor q (handUp p m) = askedFor q m := rfl

theorem handUp_regs : (handUp p m).regs = m.regs := rfl

theorem handUp_inbox : (handUp p m).net.inbox = m.net.inbox ++ [p] := rfl

theorem unask_regs : (unask p m).regs = m.regs := rfl

theorem unask_inbox : (unask p m).net.inbox = m.net.inbox := rfl

theorem retryEnded_handUp (hm : retryEnded d p m) : retryEnded d p (handUp p m) :=
  ⟨(leafSet_of_rd (rd_congr handUp_regs _)).trans hm.1, (askedFor_handUp p).trans hm.2⟩

theorem handRecovered_inbox : (handRecovered d p m).net.inbox = m.net.inbox ++ [p] := by
  rw [handRecovered, handUp_inbox, unask_inbox, countSat, wrF, wr_net]

theorem recovered_spec (h : regsWf m = true) : askedFor p (handRecovered d p m) = false ∧
    rdF (aWINNOW_ERR_STATS d) fWINNOW_ERR_STATS_RECOVERED (handRecovered d p m) =
      min (2 ^ fWINNOW_ERR_STATS_RECOVERED.w - 1) (rdF (aWINNOW_ERR_STATS d) fWINNOW_ERR_STATS_RECOVERED m + 1) := by
  refine ⟨(askedFor_handUp p).trans (askedFor_unask p _), ?_⟩
  have hregs : (handRecovered d p m).regs = (countSat (aWINNOW_ERR_STATS d) fWINNOW_ERR_STATS_RECOVERED 1 m).regs :=
    handUp_regs.trans unask_regs
  exact (rdF_congr (rd_congr hregs _) _).trans (rdF_countSat h _ _ 1 (by decide))

theorem regsWf_expandBlock {source : Nat} {block : List Byte} (h : regsWf m = true) :
    regsWf (expandBlock d link source block m).m = true := by
  unfold expandBlock
  extract_lets s declared encoded
  split
  · exact regsWf_expandCauses h
  · split
    · exact regsWf_tableMismatch h
    · exact regsWf_expandCauses h

end

/-! ### The bytes of a block that did not expand (R332) -/

section
variable {ag : Agent} {a : Nat} {bs : List Byte} {m : Dev}

/-- No write answers that it met poison: poison is written over (R308). -/
theorem writeServed_st_ne_poison (sv : Served) : (writeServed ag a bs sv m).st ≠ .poison := by
  unfold writeServed
  split
  case h_3 =>
    split
    · split <;> exact fun h => nomatch h
    · exact fun h => nomatch h
  all_goals exact fun h => nomatch h

theorem writeVia_st_ne_poison : (writeVia ag a bs m).st ≠ .poison := by
  refine List.foldlRecOn (motive := fun r : WriteRes => r.st ≠ .poison) (piecesOf a bs.length)
    (fun (r : WriteRes) (x : Nat × Nat) =>
      let q := writePiece ag x.1 ((bs.drop (x.1 - a)).take x.2) r.m
      ⟨q.m, r.st.join q.st⟩) (b := ⟨m, .ok⟩) (fun h => nomatch h) (fun r hr x _ => ?_)
  simp only [AStat.join]
  split
  · exact writeServed_st_ne_poison _
  · exact hr

theorem refuseWrite_status_ne_two {k : Nat} : statusOf (refuseWrite ag a k m).st ≠ 2 := by
  unfold refuseWrite
  split <;> exact fun h => nomatch h

/-- What the staging of bytes leaves alone: the registers, the keys and the packets. -/
def stagedPart (m : Dev) := (m.regs, m.keys, m.net)

theorem pageWritten_stagedPart : stagedPart (pageWritten a m) = stagedPart m := by
  unfold pageWritten
  split
  · unfold when
    split <;> rfl
  · rfl

theorem coverPages_stagedPart (k : Nat) : stagedPart (coverPages a k m) = stagedPart m := by
  refine forEach_keeps (fun n => stagedPart n = stagedPart m) _ _ m (fun u _ n hn => ?_) rfl
  split <;> exact hn

theorem writeServed_stagedPart {sv : Served} (h : (writeServed ag a bs sv m).st = .ok) :
    stagedPart (writeServed ag a bs sv m).m = stagedPart m := by
  revert h
  unfold writeServed
  split
  · exact fun _ => pageWritten_stagedPart
  · exact fun _ => pageWritten_stagedPart
  · split
    · split <;> exact fun _ => pageWritten_stagedPart
    · exact fun _ => rfl
  all_goals exact fun h => nomatch h

theorem writeVia_stagedPart (h : (writeVia ag a bs m).st = .ok) : stagedPart (writeVia ag a bs m).m = stagedPart m := by
  have hpieces := List.foldlRecOn (motive := fun r : WriteRes => r.st = .ok → stagedPart r.m = stagedPart m)
    (piecesOf a bs.length) (fun (r : WriteRes) (x : Nat × Nat) =>
      let q := writePiece ag x.1 ((bs.drop (x.1 - a)).take x.2) r.m
      ⟨q.m, r.st.join q.st⟩) (b := ⟨m, .ok⟩) (fun _ => rfl) (fun r hr x _ hst => by
        obtain ⟨hbefore, hpiece⟩ := AStat.join_eq_ok hst
        exact (writeServed_stagedPart hpiece).trans (hr hbefore))
  exact when_keeps (fun n => stagedPart n = stagedPart m) _ _ _ (fun hn => (coverPages_stagedPart _).trans hn) (hpieces h)

theorem poisonAt_stagedPart (k : Nat) : stagedPart (poisonAt a k m) = stagedPart m := by
  refine forEach_keeps (fun n => stagedPart n = stagedPart m) _ _ m (fun x _ n hn => ?_) rfl
  split
  · split
    · split <;> exact hn
    · exact hn
  · exact hn

/-- A bad write that answers STATUS 2 was performed and poisoned. -/
theorem remoteWrite_stagedPart {d : Nat} (h : (remoteWrite d a bs true m).1 = 2) :
    stagedPart (remoteWrite d a bs true m).2 = stagedPart m := by
  revert h
  unfold remoteWrite
  simp only
  split
  · split
    · exact fun h => nomatch h
    · split
      next hst =>
        intro h
        exfalso
        have hne := writeVia_st_ne_poison (ag := .remote d) (a := a) (bs := bs) (m := m)
        revert h hne
        cases (writeVia (.remote d) a bs m).st <;> simp [statusOf]
      next hst => exact fun _ => (poisonAt_stagedPart _).trans (writeVia_stagedPart (of_not_not hst))
  · exact fun h => absurd h refuseWrite_status_ne_two

theorem stageBad_stagedPart (p : Packet) (x : Expanded) : stagedPart (stageBad p x m) = stagedPart m := by
  unfold stageBad
  simp only
  split
  · split
    next h => exact remoteWrite_stagedPart h
    · rfl
  · rfl

/-! ### Asking for a packet once more -/

theorem sameHead_self (p : Packet) : sameHead p p = true := by simp [sameHead]

/-- The module with a packet noted as asked for. -/
def resendNoted (p : Packet) (m : Dev) : Dev := { m with net := { m.net with retried := m.net.retried ++ [p] } }

/-- The RESEND of a packet. -/
def resendDraft (p : Packet) : Draft :=
  ⟨ptRESEND, 5, destDieOf p, p.src, p.job.toNat, p.arg, headerOf p 0, false, false⟩

theorem resendNoted_out (p : Packet) (m : Dev) : (resendNoted p m).out = m.out := rfl

theorem askedFor_resendNoted (p : Packet) (m : Dev) : askedFor p (resendNoted p m) = true := by
  unfold askedFor resendNoted
  simp [sameHead_self]

/-- The RESEND goes to the packet's source under its ARG, with its header. -/
theorem askResend_spec {p : Packet} (h : regsWf m = true) (hsend : sendStop p.job.toNat false m = none) :
    (∃ n : Packet, (askResend p m).out = m.out ++ [Out.packet (destDieOf p) none n] ∧ n.typ.toNat = ptRESEND ∧
      n.dest = p.src ∧ n.arg = p.arg ∧ n.payload = headerOf p 0) ∧
    (askResend p m).net.inbox = m.net.inbox ∧ askedFor p (askResend p m) = true ∧ memSame m (askResend p m) := by
  have hsend' : sendStop p.job.toNat false (resendNoted p m) = none := (sendStop_congr (rd_congr rfl _) rfl).trans hsend
  have hask : askResend p m = sendDraft (resendDraft p) (resendNoted p m) := by
    unfold askResend
    simp only
    split
    next hs => exact nomatch hs.symm.trans hsend'
    next => rfl
  have hwf : regsWf (resendNoted p m) = true := regsWf_of_regs h rfl
  have hsent : Notified (resendNoted p m) (sendDraft (resendDraft p) (resendNoted p m)) := (Notified.refl hwf).sendDraft
  obtain ⟨-, hmem, -, -⟩ := sendDraft_same (resendDraft p) (resendNoted p m)
  rw [hask]
  have htyp : (formed (resendDraft p) (resendNoted p m)).typ.toNat = ptRESEND := by
    show (BitVec.ofNat 8 ptRESEND).toNat = ptRESEND
    decide
  refine ⟨⟨formed (resendDraft p) (resendNoted p m), ?_, htyp, rfl, rfl, rfl⟩, hsent.inbox, ?_, memSame_of_mem hmem⟩
  · rw [sendDraft_out, resendNoted_out]
    rfl
  rw [hsent.askedFor, askedFor_resendNoted]

end
end Sys2Proof.Machine

/-! SUPPORT. NACKs of copies and resends (R334, R350, R406). -/
namespace Sys2Proof.Machine

/-! ### What a ring's halt leaves of its requests (R134, R406) -/

/-- Nothing waits to be sent to other modules' memory, and no request is a copy of ring `q`. -/
structure Quelled (q : Nat) (m : Dev) : Prop where
  later : m.net.later = []
  peerOut : m.tiers.peerOut = []
  noCopy : ∀ y ∈ m.net.reqs, y.waiter ≠ .copy q

section
variable {q : Nat} {m n : Dev}

theorem Quelled.congr (h : Quelled q m) (hn : n.net = m.net) (ht : n.tiers.peerOut = m.tiers.peerOut) : Quelled q n where
  later := (congrArg Net.later hn).trans h.later
  peerOut := ht.trans h.peerOut
  noCopy := fun y hy => h.noCopy y (hn ▸ hy)

theorem quelled_steady (q : Nat) : Steady (Quelled q) where
  congr := fun h _ _ _ hnet hpeer => h.congr hnet hpeer
  wr := fun _ _ h => h.congr (wr_net ..) (congrArg Tiers.peerOut (wr_tiers ..))
  raise := fun _ h => h.congr (raise_net ..) (congrArg Tiers.peerOut (raise_tiers ..))

/-- The work that a halt cancels holds the ring's copies. -/
theorem quelled_cancelWork (hlater : m.net.later = []) (hpeer : m.tiers.peerOut = []) : Quelled q (cancelWork q m) where
  later := by simp [cancelWork, hlater]
  peerOut := hpeer
  noCopy := fun y hy hcopy => by
    obtain ⟨-, hw⟩ := List.mem_filter.1 (show y ∈ m.net.reqs.filter (fun r => !waitsFor q r.waiter) from hy)
    simp [hcopy, waitsFor, Waiter.group] at hw

theorem quelled_haltRaw {reason : Nat} (hlater : m.net.later = []) (hpeer : m.tiers.peerOut = []) :
    Quelled q (haltRaw q reason m) :=
  (quelled_steady q).haltRaw (quelled_cancelWork hlater hpeer)

/-! ### What is asked of other modules while nothing waits -/

theorem evictRead_regs (die page status : Nat) (m : Dev) : (evictRead die page status m).regs = m.regs := by
  unfold evictRead
  split
  · rfl
  · split
    · split
      · exact evictWrite_regs ..
      · rfl
    · rfl

theorem pageAnswered_regs (die a k status : Nat) (data : List Byte) (m : Dev) :
    (pageAnswered die a k status data m).regs = m.regs := by
  simp only [pageAnswered]
  split
  · exact evictRead_regs ..
  · rfl

theorem sendDraft_net (d : Draft) (m : Dev) :
    (sendDraft d m).net.reqs = m.net.reqs ∧ (sendDraft d m).net.later = m.net.later := by
  unfold sendDraft
  simp only
  split <;> exact ⟨rfl, rfl⟩

theorem sendDraft_tiers (d : Draft) (m : Dev) : (sendDraft d m).tiers = m.tiers := by
  unfold sendDraft
  simp only
  split <;> rfl

theorem dropLines_regs (die coord a k : Nat) (m : Dev) : (dropLines die coord a k m).regs = m.regs := by
  unfold dropLines
  split <;> rfl

theorem dropLines_net (die coord a k : Nat) (m : Dev) :
    (dropLines die coord a k m).net.reqs = m.net.reqs ∧ (dropLines die coord a k m).net.later = m.net.later := by
  unfold dropLines
  split <;> exact ⟨rfl, rfl⟩

theorem dropLines_tiers (die coord a k : Nat) (m : Dev) : (dropLines die coord a k m).tiers = m.tiers := by
  unfold dropLines
  split <;> rfl

theorem Quelled.issue {d : Draft} {x : Waiter} {pre : List Byte} {src : Option Nat} (hx : x ≠ .copy q) (h : Quelled q m) :
    Quelled q (issue d x pre src m) ∧ (issue d x pre src m).regs = m.regs := by
  unfold Machine.issue
  extract_lets p m1 m2
  have hreqs : m2.net.reqs = m.net.reqs := (dropLines_net ..).1.trans (sendDraft_net d m).1
  have hlater : m2.net.later = m.net.later := (dropLines_net ..).2.trans (sendDraft_net d m).2
  have htiers : m2.tiers = m.tiers := (dropLines_tiers ..).trans (sendDraft_tiers d m)
  refine ⟨⟨hlater.trans h.later, (congrArg Tiers.peerOut htiers).trans h.peerOut, fun y hy => ?_⟩,
    (dropLines_regs ..).trans (sendDraft_same d m).1⟩
  rcases List.mem_append.1 (show y ∈ m2.net.reqs ++ [_] from hy) with hy | hy
  · exact h.noCopy y (hreqs ▸ hy)
  · rw [List.mem_singleton.1 hy]
    exact hx

/-- Job 0 is every module's, and asks for no key (R363, R366). -/
theorem sendStop_zero (m : Dev) : sendStop 0 false m = none := by simp [sendStop, jobMember, jobEncrypt]

/-- A piece of a page that is asked for leaves the registers alone, and makes no copy. -/
theorem Quelled.askPiece {x : PeerPiece} (h : Quelled q m) :
    Quelled q (askPiece 0 x m) ∧ (askPiece 0 x m).regs = m.regs := by
  simp only [Machine.askPiece]
  split
  · exact ⟨h, rfl⟩
  · split
    · exact ⟨(quelled_steady q).pageAnswered h, pageAnswered_regs ..⟩
    · unfold askRead
      rw [sendStop_zero]
      have htag : Quelled q (newTag m).2 := ⟨h.later, h.peerOut, h.noCopy⟩
      exact htag.issue (fun e => nomatch e)

theorem pumpAll_of_quelled (h : Quelled q m) : Quelled q (pumpAll m) ∧ (pumpAll m).regs = m.regs := by
  have hask : Quelled q (askPeers 0 m) ∧ (askPeers 0 m).regs = m.regs :=
    forEach_keeps (fun n => Quelled q n ∧ n.regs = m.regs) _ _ m
      (fun x _ n hn => ⟨hn.1.askPiece.1, hn.1.askPiece.2.trans hn.2⟩) ⟨h, rfl⟩
  have hall : pumpAll m = askPeers 0 m := by
    simp [pumpAll, h.peerOut, hask.1.later, pump, nextToGo]
  rwa [hall]

/-! ### A NACK of a copy (R350, R406) -/

theorem exec_nack (p : Packet) (s : State) : exec (.nack p) s = .next { s with dev := forType ptNACK p nackRx s.dev } := rfl

theorem exec_linkResendRequest (p : Packet) (s : State) :
    exec (.linkResendRequest p) s = .next { s with dev := forType ptRESEND p linkResend s.dev } := rfl

/-- Does a NACK or RESEND name a request? -/
def namedBy (p : Packet) (x : Request) : Bool :=
  x.die = bitsAt (copySrc p) 9 3 && x.p.typ.toNat = copyTyp p && x.p.arg = copyArg p

end

section
variable {p : Packet} {r : Request} {q : Nat} {m n : Dev}

theorem copy_ne_signal (hcopy : copyTyp p = ptCOPY) : copyTyp p ≠ ptSIGNAL := by
  rw [hcopy]
  decide

theorem copy_ne_collective (hcopy : copyTyp p = ptCOPY) :
    ¬ ((copyTyp p = ptCHUNK || copyTyp p = ptMARKER || copyTyp p = ptDISPATCH) = true) := by
  rw [hcopy]
  decide

theorem nackRx_unnamed (hcopy : copyTyp p = ptCOPY) (hfind : m.net.reqs.find? (namedBy p) = none) :
    nackRx p m = takePacket p m := by
  unfold nackRx
  simp only
  rw [if_neg (copy_ne_signal hcopy), if_neg (copy_ne_collective hcopy)]
  split
  next hr => exact nomatch hr.symm.trans hfind
  next => rfl

/-- The request fails: the module notes what was refused. -/
def nackNoted (p : Packet) (r : Request) (m : Dev) : Dev :=
  accessFailed r.die (destCoordOf r.p) 0 (copyTyp p) (copyArg p) (takePacket p m)

theorem nackRx_named (hcopy : copyTyp p = ptCOPY) (hfind : m.net.reqs.find? (namedBy p) = some r) :
    nackRx p m = pumpAll (requestFails r (nackNoted p r m)) := by
  unfold nackRx
  simp only
  rw [if_neg (copy_ne_signal hcopy), if_neg (copy_ne_collective hcopy)]
  split
  next r' hr =>
    obtain rfl : r = r' := Option.some.inj (hfind.symm.trans hr)
    rfl
  next hr => exact nomatch hr.symm.trans hfind

/-- The requests of the ring that failed are gone before it halts. -/
def copyDropped (q : Nat) (r : Request) (m : Dev) : Dev := dropRequests (waitsFor q) (dropReq r m)

theorem copyDropped_regs : (copyDropped q r m).regs = m.regs := rfl

theorem copyDropped_drone : (copyDropped q r m).drone = m.drone := rfl

theorem copyDropped_peerOut : (copyDropped q r m).tiers.peerOut = m.tiers.peerOut := rfl

theorem copyDropped_later (h : m.net.later = []) : (copyDropped q r m).net.later = [] := by
  simp [copyDropped, dropRequests, dropReq, h]

theorem requestFails_copy (hr : r.waiter = .copy q) : requestFails r m = haltRing q 2 (copyDropped q r m) := by
  unfold requestFails
  rw [hr]
  rfl

theorem ringsAs_nackNoted (h : regsWf m = true) (hd : r.die < 8) : RingsAs m (nackNoted p r m) := by
  have hrecord : ¬ RingOff aFABRIC_FAULT := fun h => by
    have := h.place
    unfold aFABRIC_FAULT at this
    omega
  have htake : RingsAs m (takePacket p m) := (RingsAs.refl h).congr rfl
  exact (htake.recordFirst hrecord).raise (c := cDIE_FABRIC_ACCESS r.die) (by show 10 + r.die < 50; omega)
    (show 3 < 128 by decide)

theorem leafSet_nackNoted (h : regsWf m = true) : leafSet (cDIE_FABRIC_ACCESS r.die) (nackNoted p r m) = true := by
  have htake : regsWf (takePacket p m) = true := regsWf_of_regs h rfl
  unfold nackNoted accessFailed fabricFault
  exact leafSet_raise (regsWf_recordFirst htake _ _) _

theorem nackNoted_net : (nackNoted p r m).net = (takePacket p m).net := by
  unfold nackNoted accessFailed fabricFault recordFirst
  rw [raise_net]
  split
  · rfl
  · exact wr_net ..

theorem nackNoted_tiers : (nackNoted p r m).tiers = m.tiers := by
  unfold nackNoted accessFailed fabricFault recordFirst
  rw [raise_tiers]
  split
  · rfl
  · exact wr_tiers ..

theorem nackNoted_drone : (nackNoted p r m).drone = m.drone := by
  unfold nackNoted accessFailed fabricFault recordFirst
  rw [raise_drone]
  split
  · rfl
  · exact wr_drone ..

/-- A halt of a module whose rings read alike is a halt of this one. -/
theorem RingsAs.haltedWith {l : Dev} {reason : Nat} (h : RingsAs m n) (hh : haltedWith q reason n l) :
    haltedWith q reason m l := by
  unfold Machine.haltedWith at hh ⊢
  rwa [h.ringRegs, h.ringRegs, h.ringDies, h.ringRerun] at hh

theorem haltedWith_congr {l l' : Dev} {reason : Nat} (hr : l'.regs = l.regs) (hh : haltedWith q reason m l) :
    haltedWith q reason m l' := by
  obtain ⟨hhead, hfetch, hleaf⟩ := hh
  refine ⟨fun o ho => ?_, fun o ho => ?_, fun d hd => (leafSet_of_rd (rd_congr hr _)).trans (hleaf d hd)⟩
  · rw [rd_congr hr]
    exact hhead o ho
  · rw [rd_congr hr]
    exact hfetch o ho

/-- R406: the copy's ring halts with reason 2, and none of its copies is left. -/
theorem nackRx_copy_spec (h : regsWf m = true) (hsend : nothingToSend m) (hcopy : copyTyp p = ptCOPY)
    (hfind : m.net.reqs.find? (namedBy p) = some r) (hr : r.waiter = .copy q) (hq : q < 256) (hbound : boundOf q m = []) :
    leafSet (cDIE_FABRIC_ACCESS (bitsAt (copySrc p) 9 3)) (nackRx p m) = true ∧ haltedWith q 2 m (nackRx p m) ∧
      ∀ y ∈ (nackRx p m).net.reqs, y.waiter ≠ .copy q := by
  obtain ⟨hlater, hpeer, -⟩ := hsend
  have hdie : r.die = bitsAt (copySrc p) 9 3 := by
    have hnamed := List.find?_some hfind
    simp only [namedBy, Bool.and_eq_true, decide_eq_true_eq] at hnamed
    exact hnamed.1.1
  have hlt : r.die < 8 := hdie ▸ Nat.mod_lt _ (by decide)
  have hrings : RingsAs m (nackNoted p r m) := ringsAs_nackNoted h hlt
  set a := nackNoted p r m with ha
  set b := copyDropped q r a with hb
  have hdropped : RingsAs a b := (RingsAs.refl hrings.wf).congr copyDropped_regs
  have hboundB : boundOf q b = [] := by
    have hdrone : b.drone = m.drone := copyDropped_drone.trans nackNoted_drone
    unfold boundOf at hbound ⊢
    rwa [hdrone]
  have hlaterB : b.net.later = [] := copyDropped_later ((congrArg Net.later nackNoted_net).trans hlater)
  have hpeerB : b.tiers.peerOut = [] := copyDropped_peerOut.trans ((congrArg Tiers.peerOut nackNoted_tiers).trans hpeer)
  have hraw : haltRing q 2 b = haltRaw q 2 b := by
    unfold haltRing
    simp only [hboundB, List.isEmpty_nil, if_true]
  have hquelled : Quelled q (haltRing q 2 b) := hraw ▸ quelled_haltRaw hlaterB hpeerB
  obtain ⟨hend, hregs⟩ := pumpAll_of_quelled hquelled
  have hresumed : Resumed b (haltRing q 2 b) := (Resumed.refl hdropped.wf).haltRing
  have hlow : (cDIE_FABRIC_ACCESS r.die).reg < 0x10000 := by
    show aINT_LEAF (10 + r.die) (3 / 64) < 0x10000
    unfold aINT_LEAF
    omega
  have hleafB : leafSet (cDIE_FABRIC_ACCESS r.die) b = true :=
    (leafSet_of_rd (rd_congr copyDropped_regs _)).trans (leafSet_nackNoted h)
  rw [nackRx_named hcopy hfind, requestFails_copy hr, ← hdie]
  refine ⟨(leafSet_of_rd (rd_congr hregs _)).trans (hresumed.leafSet hlow hleafB), haltedWith_congr hregs ?_, hend.noCopy⟩
  exact (hrings.trans hdropped).haltedWith (haltedWith_haltRing hdropped.wf hq (by decide) hboundB)

/-! ### A RESEND (R334) -/

theorem formed_isZipped (d : Draft) (m : Dev) : isZipped (formed d m) = d.zip := by
  have hbit (e g : Nat) (he : e % 2 = 0) (p : Nat) (hp : p % 2 = 0) :
      ((if d.zip then 1 else 0) + e + p + 8 * g) % 2 = if d.zip then 1 else 0 := by
    split <;> omega
  unfold isZipped formed
  simp only [BitVec.getLsbD_ofNat, Nat.testBit_zero]
  rw [hbit _ _ (by split <;> rfl) _ (by split <;> rfl)]
  cases d.zip <;> rfl

theorem formed_isPoison (d : Draft) (m : Dev) : isPoison (formed d m) = d.poison := by
  have hbit (z e g : Nat) (hz : z < 2) (he : e ≤ 2) :
      (z + e + (if d.poison then 4 else 0) + 8 * g) / 4 % 2 = if d.poison then 1 else 0 := by
    split <;> omega
  unfold isPoison formed
  simp only [BitVec.getLsbD_ofNat, Nat.testBit_eq_decide_div_mod_eq]
  rw [show 2 ^ 2 = 4 from rfl, hbit _ _ _ (by split <;> decide) (by split <;> decide)]
  cases d.poison <;> rfl

theorem linkResend_unnamed (hfind : m.net.reqs.find? (namedBy p) = none) : linkResend p m = takePacket p m := by
  unfold linkResend
  simp only
  split
  next => rfl
  next hr => exact nomatch hr.symm.trans hfind

/-- The packet of a request as it is sent again, from what its source reads now. -/
def resentDraft (r : Request) (x : ReadRes) : Draft :=
  ⟨r.p.typ.toNat, bitsAt r.p.vc.toNat 0 3, r.die, r.p.dest, r.p.job.toNat, r.p.arg, r.pre ++ x.data, false,
    decide (x.st ≠ .ok)⟩

theorem resendFrom_eq {a : Nat} (hsend : sendStop r.p.job.toNat (protectedAt a (field r.pre 8 2) m) m = none) :
    let x := readVia (agentMover r.die) a (field r.pre 8 2) m
    resendFrom r a m = sendDraft (resentDraft r x) x.m := by
  intro x
  unfold resendFrom
  simp only
  split
  next hs => exact nomatch hs.symm.trans hsend
  next => rfl

theorem linkResend_named {a : Nat} (hfind : m.net.reqs.find? (namedBy p) = some r) (hsrc : r.src = some a)
    (hst : (readVia (agentMover r.die) a (field r.pre 8 2) (takePacket p m)).st ≠ .held) :
    linkResend p m = resendFrom r a (takePacket p m) := by
  unfold linkResend
  simp only
  split
  next hr => exact nomatch hr.symm.trans hfind
  next r' hr =>
    obtain rfl : r = r' := Option.some.inj (hfind.symm.trans hr)
    rw [hsrc]
    exact if_neg hst

/-- The source is read again and sent uncompressed under the same ARG. -/
theorem linkResend_spec {a : Nat} (hfind : m.net.reqs.find? (namedBy p) = some r) (hsrc : r.src = some a)
    (hsend : sendStop r.p.job.toNat (protectedAt a (field r.pre 8 2) m) m = none)
    (hst : (readVia (agentMover r.die) a (field r.pre 8 2) (takePacket p m)).st ≠ .held) :
    let x := readVia (agentMover r.die) a (field r.pre 8 2) (takePacket p m)
    ∃ n : Packet, (linkResend p m).out = x.m.out ++ [Out.packet r.die none n] ∧ n.typ = r.p.typ ∧ n.dest = r.p.dest ∧
      n.arg = r.p.arg ∧ isZipped n = false ∧ n.payload = r.pre ++ x.data ∧ (isPoison n = true ↔ x.st ≠ .ok) ∧
      memSame x.m (linkResend p m) := by
  intro x
  have hprot : protectedAt a (field r.pre 8 2) (takePacket p m) = protectedAt a (field r.pre 8 2) m := rfl
  have hsend' : sendStop r.p.job.toNat (protectedAt a (field r.pre 8 2) (takePacket p m)) (takePacket p m) = none := by
    rw [hprot]
    exact (sendStop_congr (rd_congr rfl _) rfl).trans hsend
  rw [linkResend_named hfind hsrc hst, resendFrom_eq hsend']
  obtain ⟨-, hmem, -, -⟩ := sendDraft_same (resentDraft r x) x.m
  refine ⟨formed (resentDraft r x) x.m, sendDraft_out .., ?_, rfl, rfl, formed_isZipped .., rfl, ?_, memSame_of_mem hmem⟩
  · show BitVec.ofNat 8 r.p.typ.toNat = r.p.typ
    simp
  · rw [formed_isPoison]
    exact decide_eq_true_iff

end

/-- Settles O47: the checks of a delivery in their order (`packetDeliver_eq`), the ways of a good packet, a failed copy's halt,
after which nothing of its ring waits (`Quelled`), and a resend. -/
theorem deliveryChecksNacksAndResends : Obligations.DeliveryChecksNacksAndResends := by
  refine ⟨fun check p s hsound hp => ?_, fun p q r s hsound => ?_⟩
  · intro d member held passes link t x y ends refused
    have hwf : regsWf s.dev = true := regsWf_of_sound hsound
    have hwft : regsWf t = true := regsWf_of_regs hwf rfl
    have hd : d < 8 := destDieOf_lt p
    have hrefused {reason kind : Nat} {c : Cause} (hr : reason < 2 ^ 64) (hc : c.reg < 0x10000)
        (he : packetDeliver check p s.dev = sendNack reason d p (refusalNoted c kind p (arrivalTaken p s.dev))) :
        refused reason c :=
      ⟨_, by rw [exec_packetDeliver, he], refusedPacket_spec hwf hc kind hr hp⟩
    have hlost {c : Cause} {kind : Nat} (hc : c.reg < 0x10000) (hasked : askedFor p s.dev = false) :
        resendLost d link p (refusalNoted c kind p t) = refusalNoted c kind p t :=
      if_neg (by simp [(notified_refusalNoted hwft hc kind).askedFor p, show askedFor p t = false from hasked])
    refine ⟨fun hcheck hasked => ?badCode, fun hcheck hasked => ?resentBad, fun hcheck hmember => ?notMember,
      fun hcheck hmember hheld => ?noKey, fun hcheck hmember hheld henc hasked => ?badTag, fun hpasses hmember hheld => ?_⟩
    case badCode =>
      subst hcheck
      exact hrefused (by decide) (by decide) (packetDeliver_badCode.trans (congrArg _ (hlost (by decide) hasked)))
    case resentBad =>
      subst hcheck
      exact ⟨_, exec_packetDeliver .., resentBadCode_spec hwf hasked⟩
    case notMember => exact hrefused (by decide) (by decide) (packetDeliver_notMember hcheck hmember)
    case noKey => exact hrefused (by decide) (by decide) (packetDeliver_noKey hcheck hmember hheld)
    case badTag =>
      subst hcheck
      exact hrefused (by decide) (by decide)
        ((packetDeliver_badTag hmember hheld henc).trans (congrArg _ (hlost (by decide) hasked)))
    have hgood : packetDeliver check p s.dev = deliverGood link p t := packetDeliver_good hpasses hmember hheld
    have hexec {m : Dev} (hm : deliverGood link p t = m) : exec (.packetDeliver check p) s = .next { s with dev := m } := by
      rw [exec_packetDeliver, hgood, hm]
    have hx : regsWf x.m = true := regsWf_expandBlock hwft
    have hstaged : y.regs = x.m.regs ∧ y.keys = x.m.keys ∧ y.net = x.m.net := by
      simpa only [stagedPart, Prod.mk.injEq] using stageBad_stagedPart (m := x.m) p x
    obtain ⟨hyregs, hykeys, hynet⟩ := hstaged
    have hy : regsWf y = true := regsWf_of_regs hx hyregs
    refine ⟨fun hzip hasked => hexec (deliverGood_plain hzip hasked), fun hzip hasked => ?resent,
      fun hzip hbad => hexec (deliverGood_expanded hzip hbad), fun hzip hbad hasked hsend => ?askAgain,
      fun hzip hbad hasked => ?failed⟩
    case resent =>
      have heq := deliverGood_resent (link := link) (m := t) hzip hasked
      cases hpoison : isPoison p with
      | true =>
        rw [hpoison, if_pos rfl] at heq
        obtain ⟨hends, -, hinbox⟩ := retryFail_spec (link := link) (p := p) hwft hd
        exact ⟨_, hexec heq, handUp_inbox.trans (by rw [hinbox]), fun _ => retryEnded_handUp hends,
          fun h => absurd h (by decide)⟩
      | false =>
        rw [hpoison, if_neg (by decide)] at heq
        exact ⟨_, hexec heq, handRecovered_inbox, fun h => absurd h (by decide), fun _ => recovered_spec hwft⟩
    case askAgain =>
      have hsendY : sendStop p.job.toNat false y = none := (sendStop_congr (rd_congr hyregs _) hykeys).trans hsend
      obtain ⟨⟨n, hout, htyp, hdest, harg, hpayload⟩, hinbox, hasked', hmem⟩ := askResend_spec hy hsendY
      exact ⟨_, n, hexec (deliverGood_badOnce hzip hbad hasked), hout, htyp, hdest, harg, hpayload,
        hinbox.trans (congrArg Net.inbox hynet), hasked', hmem⟩
    case failed =>
      obtain ⟨hends, hresumed, -⟩ := retryFail_spec (d := d) (link := link) (p := p) hy hd
      have hanswered : Notified (retryFail d link p y) (respond p ptCOMPLETION 2 [] false (retryFail d link p y)) :=
        (Notified.refl hresumed.wf).respond
      exact ⟨_, hexec (deliverGood_badTwice hzip hbad hasked),
        chunkFails_ends hd hanswered.wf (hanswered.retryEnded hd hends)⟩
  · intro die named
    have hwf : regsWf s.dev = true := regsWf_of_sound hsound
    refine ⟨fun htyp hcopy => ⟨fun hfind => ?unnamed, fun hfind hr hsend hbound => ?copyFails⟩,
      fun htyp => ⟨fun hfind => ?noResend, ?resend⟩, fun htyp => ?noNack,
      fun htyp => ?notResend⟩
    case unnamed => rw [exec_nack, forType, if_pos htyp, nackRx_unnamed hcopy hfind]
    case copyFails =>
      exact ⟨_, by rw [exec_nack, forType, if_pos htyp],
        nackRx_copy_spec hwf hsend hcopy hfind hr (ringNum_lt q) hbound⟩
    case noResend => rw [exec_linkResendRequest, forType, if_pos htyp, linkResend_unnamed hfind]
    case resend =>
      intro a hfind hsrc rr hsend hst
      obtain ⟨n, hspec⟩ := linkResend_spec hfind hsrc hsend hst
      exact ⟨_, n, by rw [exec_linkResendRequest, forType, if_pos htyp], hspec⟩
    case noNack => rw [exec_nack, forType, if_neg htyp]
    case notResend => rw [exec_linkResendRequest, forType, if_neg htyp]

end Sys2Proof.Machine
